-- ==== Sys2Proof/Word.lean ====
section
/-!
DEFINITION. The word types of the machine: register words, lanes, bytes, the specifier and source codes of the
instruction formats, the coordinates that name units of the module, and what an error,
an SPDM request or an access from outside names.
-/
namespace Sys2Proof

/-- A 64-bit sequencer register or address (R82). -/
abbrev Word := BitVec 64

/-- A 32-bit lane, constant or counter (R24, R29). -/
abbrev W32 := BitVec 32

/-- One byte of memory. -/
abbrev Byte := BitVec 8

/-- A register specifier, decoded by Table 3.1 (R84). -/
abbrev Reg := BitVec 7

/-- An E-word source code, decoded by Table 12.9 (R373). -/
abbrev Src := BitVec 5

/-- A site in the form of R277: die in bits [13:12], row in [11:7], column in [6:0] of the die's fabric. -/
abbrev SiteId := BitVec 14

/-- A module-wide core number, 16 * die + core (R11). -/
abbrev CoreId := BitVec 6

/-- A die number (R10). -/
abbrev DieId := BitVec 2

/-- An engine of the module: die in bits [6:5]; in bits [4:0], 0-15 a stream engine, 16 the gallery engine,
17 the copy engine, 18 the KV engine, 19 the collective engine, 20 the annex log, 21 the prefetcher (R12). -/
abbrev EngineId := BitVec 7

/-- Where a soft error strikes: the line at a physical address, or the lanes of the token in a place of a channel (R278, R280). -/
inductive ErrorPlace where
  | line (pa : BitVec 52)
  | token (chan : BitVec 24) (slot : BitVec 6)
deriving DecidableEq, Repr

/-- What an SPDM request asks for: a measurement by its index, 0 for the certificate chain, or an exchange of the port's IDE key
(R363). -/
inductive SpdmAsk where
  | measure (index : BitVec 8)
  | ideKey (v : BitVec 256)
deriving DecidableEq, Repr

/-- An access to a register from outside: through BAR0 of a die's port, or by device address; 2^size bytes, a read or a write (R6,
R349). -/
structure RegisterAccess where
  bar : Option DieId
  addr : BitVec 52
  size : BitVec 2
  write : Bool
deriving DecidableEq, Repr

end Sys2Proof
end

