-- ==== Sys2Proof/Machine/Bits.lean ====
section
/-!
DEFINITION. Bit fields of numbers and words: extraction, sign extension, clamping and byte order (R2, R3, R8, R113).
Fields of encoded words are taken with division and remainder by literals, so that arithmetic closes their laws.
-/
namespace Sys2Proof.Machine

/-- Bits [lo+n-1:lo] of the number w, as a field of n bits. -/
def fieldOf (n lo : Nat) (w : Nat) : BitVec n := BitVec.ofNat n (w / 2 ^ lo)

/-- Bit lo of the number w. -/
def bitOf (lo : Nat) (w : Nat) : Bool := w / 2 ^ lo % 2 == 1

/-- Bits [lo+n-1:lo] of w hold v. -/
def eqAt (lo n v : Nat) (w : Nat) : Bool := w / 2 ^ lo % 2 ^ n == v

/-- Bits [lo+n-1:lo] of w are zero: a reserved or unused field as R365 wants it. -/
def zeroAt (lo n : Nat) (w : Nat) : Bool := eqAt lo n 0 w

/-- Bits [lo+n-1:lo] of w as a number. -/
def bitsAt (lo n : Nat) (w : Nat) : Nat := w / 2 ^ lo % 2 ^ n

/-- The number of bit b. -/
def b2n (b : Bool) : Nat := if b then 1 else 0

/-- The word 1 or 0 of a condition. -/
def boolWord (b : Bool) : Word := if b then 1 else 0

/-- The exact integer s clamped to the signed range of width w, or to the unsigned range (R113, R393). -/
def clampInt (s : Int) (w : Nat) (unsigned : Bool) : Int :=
  if unsigned then max 0 (min s (2 ^ w - 1)) else max (-(2 ^ (w - 1))) (min s (2 ^ (w - 1) - 1))

/-- The low 32 bits of a word. -/
def lo32 (v : Word) : W32 := v.truncate 32

/-- A 32-bit value sign-extended to 64 bits. -/
def sext32 (v : W32) : Word := v.signExtend 64

/-- A 32-bit value zero-extended to 64 bits. -/
def zext32 (v : W32) : Word := v.zeroExtend 64

/-- The integer of a word, signed or unsigned. -/
def intOf {w : Nat} (unsigned : Bool) (v : BitVec w) : Int := if unsigned then (v.toNat : Int) else v.toInt

/-- v with bits [5:0] cleared (R393). -/
def blockOf (v : Word) : Word := v &&& ~~~ (63 : Word)

/-- The number whose little-endian bytes are bs (R2). -/
def leNat : List Byte → Nat
  | [] => 0
  | b :: bs => b.toNat + 256 * leNat bs

/-- The n little-endian bytes of the number v (R2). -/
def leBytes : Nat → Nat → List Byte
  | 0, _ => []
  | n + 1, v => BitVec.ofNat 8 v :: leBytes n (v / 256)

/-- The number of set bits among the lowest k bits of v. -/
def popCount : Nat → Nat → Nat
  | 0, _ => 0
  | k + 1, v => v % 2 + popCount k (v / 2)

/-- The number of leading zero bits of the w-bit number v. -/
def leadingZeros (w : Nat) (v : Nat) : Nat := if v = 0 then w else w - 1 - Nat.log2 v

/-- The number v rounded up to a multiple of m. -/
def roundUp (m v : Nat) : Nat := (v + m - 1) / m * m

/-- The signed value of a 48-bit difference (R236). -/
def signed48 (v : Nat) : Int := if v % 2 ^ 48 < 2 ^ 47 then (v % 2 ^ 48 : Nat) else (v % 2 ^ 48 : Nat) - (2 ^ 48 : Int)

end Sys2Proof.Machine
end

