-- ==== Sys2Proof/Syntax.lean ====
section
/-!
DEFINITION. The instructions and steps of the Alastra D4: one constructor for each row of spec/opcode_table.json.
The first group are the S-words the sequencer fetches (12, Table 12.2), the second the E-words that contexts hold
(Table 12.10), the third the switch words (Table 12.11), and the last the steps of the hardware that
spec/95_what_each_step_holds.md ties to their rules; these last have no encoding, and their arguments name the unit
that takes the step and the values that reach the machine from outside.
-/
namespace Sys2Proof

/-- One row of the opcode table each. Register fields are the 7-bit specifiers of Table 3.1, `Src` the 5-bit source
codes of Table 12.9, and every other field is named after the letter the row's encoding table gives it. -/
inductive Instr where
  -- S-words
  /-- NOP (R467). -/
  | nop
  /-- ADD (R395). -/
  | add (d : Reg) (a : Reg) (b : Reg) (n : Bool) (s : Bool) (w : Bool)
  /-- SUB (R510). -/
  | sub (d : Reg) (a : Reg) (b : Reg) (n : Bool) (s : Bool) (w : Bool)
  /-- MUL (R466). -/
  | mul (d : Reg) (a : Reg) (b : Reg) (n : Bool) (s : Bool) (w : Bool)
  /-- MULH (R466). -/
  | mulh (d : Reg) (a : Reg) (b : Reg) (n : Bool) (w : Bool)
  /-- DIV (R425). -/
  | div (d : Reg) (a : Reg) (b : Reg) (n : Bool) (w : Bool)
  /-- REM (R488). -/
  | rem (d : Reg) (a : Reg) (b : Reg) (n : Bool) (w : Bool)
  /-- AND (R399). -/
  | and (d : Reg) (a : Reg) (b : Reg) (w : Bool)
  /-- OR (R471). -/
  | or (d : Reg) (a : Reg) (b : Reg) (w : Bool)
  /-- XOR (R548). -/
  | xor (d : Reg) (a : Reg) (b : Reg) (w : Bool)
  /-- SHL (R494). -/
  | shl (d : Reg) (a : Reg) (b : Reg) (w : Bool)
  /-- SHR (R494). -/
  | shr (d : Reg) (a : Reg) (b : Reg) (w : Bool)
  /-- SHA (R494). -/
  | sha (d : Reg) (a : Reg) (b : Reg) (w : Bool)
  /-- MIN (R459). -/
  | min (d : Reg) (a : Reg) (b : Reg) (n : Bool) (w : Bool)
  /-- MAX (R459). -/
  | max (d : Reg) (a : Reg) (b : Reg) (n : Bool) (w : Bool)
  /-- SLT (R493). -/
  | slt (d : Reg) (a : Reg) (b : Reg) (n : Bool) (w : Bool)
  /-- SEQ (R493). -/
  | seq (d : Reg) (a : Reg) (b : Reg) (w : Bool)
  /-- SEL (R491). -/
  | sel (d : Reg) (a : Reg) (b : Reg)
  /-- CLZ (R420). -/
  | clz (d : Reg) (a : Reg) (w : Bool)
  /-- POPC (R478). -/
  | popc (d : Reg) (a : Reg) (w : Bool)
  /-- EXT (R435). -/
  | ext (d : Reg) (a : Reg) (n : Bool) (z : BitVec 2)
  /-- BFX (R409). -/
  | bfx (d : Reg) (a : Reg) (b : Reg) (n : Bool)
  /-- BFI (R408). -/
  | bfi (d : Reg) (a : Reg) (b : Reg)
  /-- LEA (R454). -/
  | lea (d : Reg) (a : Reg) (b : Reg) (h : BitVec 3)
  /-- HASH (R447). -/
  | hash (d : Reg) (a : Reg) (b : Reg)
  /-- WIDX (R535). -/
  | widx (d : Reg) (a : Reg) (k : BitVec 3)
  /-- ADDI (R396). -/
  | addi (d : Reg) (a : Reg) (i : BitVec 10)
  /-- ANDI (R400). -/
  | andi (d : Reg) (a : Reg) (i : BitVec 10)
  /-- ORI (R471). -/
  | ori (d : Reg) (a : Reg) (i : BitVec 10)
  /-- XORI (R548). -/
  | xori (d : Reg) (a : Reg) (i : BitVec 10)
  /-- SHLI (R495). -/
  | shli (d : Reg) (a : Reg) (s : BitVec 6)
  /-- SHRI (R495). -/
  | shri (d : Reg) (a : Reg) (s : BitVec 6)
  /-- SHAI (R495). -/
  | shai (d : Reg) (a : Reg) (s : BitVec 6)
  /-- SLTI (R496). -/
  | slti (d : Reg) (a : Reg) (i : BitVec 10)
  /-- LIL (R457). -/
  | lil (d : Reg) (i : BitVec 17)
  /-- LIS (R457). -/
  | lis (d : Reg) (i : BitVec 17)
  /-- LD (R452). -/
  | ld (d : Reg) (a : Reg) (o : BitVec 8) (z : BitVec 2)
  /-- LDN (R452). -/
  | ldn (d : Reg) (a : Reg) (o : BitVec 8) (z : BitVec 2)
  /-- ST (R504). -/
  | st (t : Reg) (a : Reg) (o : BitVec 8) (z : BitVec 2)
  /-- LDX (R452). -/
  | ldx (d : Reg) (a : Reg) (b : Reg) (n : Bool) (z : BitVec 2)
  /-- STX (R504). -/
  | stx (t : Reg) (a : Reg) (b : Reg) (z : BitVec 2)
  /-- PREF (R480). -/
  | pref (a : Reg) (o : BitVec 8) (z : BitVec 2)
  /-- SWAIT (R490). -/
  | swait (d : Reg) (a : Reg) (b : Reg)
  /-- SARM (R490). -/
  | sarm (d : Reg) (a : Reg) (b : Reg)
  /-- AMO (R397). -/
  | amo (d : Reg) (a : Reg) (b : Reg) (p : BitVec 3)
  /-- AMOW (R397). -/
  | amow (d : Reg) (a : Reg) (b : Reg) (p : BitVec 3)
  /-- CAS (R412). -/
  | cas (d : Reg) (a : Reg) (b : Reg)
  /-- CASW (R412). -/
  | casw (d : Reg) (a : Reg) (b : Reg)
  /-- FENCE (R222). -/
  | fence (w : Bool) (i : Bool) (b : Bool) (s : BitVec 3)
  /-- BARR (R404). -/
  | barr (d : Reg) (a : Reg) (b : Reg)
  /-- PUBL (R229). -/
  | publ (d : Reg) (a : Reg) (b : Reg)
  /-- RCSNAP (R487). -/
  | rcsnap (d : Reg) (a : Reg)
  /-- BR (R410). -/
  | br (o : BitVec 24)
  /-- CALL (R410). -/
  | call (o : BitVec 24)
  /-- JR (R451). -/
  | jr (a : Reg) (l : Bool)
  /-- BEQ (R406). -/
  | beq (a : Reg) (b : Reg) (o : BitVec 10)
  /-- BNE (R406). -/
  | bne (a : Reg) (b : Reg) (o : BitVec 10)
  /-- BLT (R406). -/
  | blt (a : Reg) (b : Reg) (o : BitVec 10)
  /-- BGE (R406). -/
  | bge (a : Reg) (b : Reg) (o : BitVec 10)
  /-- BLTN (R406). -/
  | bltn (a : Reg) (b : Reg) (o : BitVec 10)
  /-- BGEN (R406). -/
  | bgen (a : Reg) (b : Reg) (o : BitVec 10)
  /-- LOOP (R458). -/
  | loop (a : Reg) (o : BitVec 10)
  /-- REP (R89). -/
  | rep (c : BitVec 6) (d : BitVec 5) (a : BitVec 5) (b : BitVec 5)
  /-- END (R432). -/
  | endFiring
  /-- END_DONE (R433). -/
  | endDone
  /-- END_KILL (R242). -/
  | endKill
  /-- YIELD (R554). -/
  | yield
  /-- FADD (R436). -/
  | fadd (d : Reg) (a : Reg) (b : Reg) (r : BitVec 3)
  /-- FSUB (R436). -/
  | fsub (d : Reg) (a : Reg) (b : Reg) (r : BitVec 3)
  /-- FMUL (R436). -/
  | fmul (d : Reg) (a : Reg) (b : Reg) (r : BitVec 3)
  /-- FMA (R436). -/
  | fma (d : Reg) (a : Reg) (b : Reg) (r : BitVec 3)
  /-- FMIN (R441). -/
  | fmin (d : Reg) (a : Reg) (b : Reg)
  /-- FMAX (R441). -/
  | fmax (d : Reg) (a : Reg) (b : Reg)
  /-- FCMP (R437). -/
  | fcmp (d : Reg) (a : Reg) (b : Reg) (p : BitVec 3)
  /-- FCVT (R438). -/
  | fcvt (d : Reg) (a : Reg) (k : BitVec 7) (r : BitVec 3)
  /-- SPAWN (R105). -/
  | spawn (d : Reg) (a : Reg) (b : Reg)
  /-- PUSHQ (R482). -/
  | pushq (d : Reg) (a : Reg) (b : Reg) (c : Bool)
  /-- POPQ (R479). -/
  | popq (d : Reg) (a : Reg) (b : Reg)
  /-- NOTIFY (R468). -/
  | notify (d : Reg) (a : Reg) (b : Reg)
  /-- CFLD (R416). -/
  | cfld (d : Reg) (a : Reg) (b : Reg) (c : BitVec 2)
  /-- CFSW (R417). -/
  | cfsw (d : Reg) (a : Reg) (c : BitVec 2)
  /-- CFWV (R419). -/
  | cfwv (d : Reg) (a : Reg) (b : Reg) (c : BitVec 2)
  /-- DRAIN (R426). -/
  | drain (d : Reg) (a : Reg)
  /-- QWAIT (R485). -/
  | qwait (d : Reg) (a : Reg) (b : Reg)
  /-- INJ (R449). -/
  | inj (d : Reg) (a : Reg) (b : Reg) (r : Bool) (c : Bool)
  /-- DRAW (R428). -/
  | draw (d : Reg) (a : Reg) (b : Reg)
  /-- SELV_ASSIGN (R492). -/
  | selvAssign (d : Reg) (a : Reg) (b : Reg)
  /-- SELV_OPEN (R492). -/
  | selvOpen (d : Reg) (a : Reg) (b : Reg)
  /-- SELV_CLOSE (R492). -/
  | selvClose (d : Reg) (a : Reg) (b : Reg)
  /-- CURD (R423). -/
  | curd (d : Reg) (a : Reg) (b : Reg)
  /-- XCOPY_COPY (R539). -/
  | xcopyCopy (e : BitVec 4) (b : Reg) (r : Reg)
  /-- XCOPY_FILL (R539). -/
  | xcopyFill (e : BitVec 4) (b : Reg) (r : Reg)
  /-- XGATHER_PORT (R540). -/
  | xgatherPort (e : BitVec 4) (b : Reg) (r : Reg)
  /-- XGATHER_MEM (R540). -/
  | xgatherMem (e : BitVec 4) (b : Reg) (r : Reg)
  /-- XSCATTER_WRITE (R552). -/
  | xscatterWrite (e : BitVec 4) (b : Reg) (r : Reg)
  /-- XSCATTER_ADD (R552). -/
  | xscatterAdd (e : BitVec 4) (b : Reg) (r : Reg)
  /-- XROWUPD (R551). -/
  | xrowupd (e : BitVec 4) (b : Reg) (r : Reg)
  /-- XMIGRATE (R547). -/
  | xmigrate (e : BitVec 4) (b : Reg) (r : Reg)
  /-- XSTREAM (R553). -/
  | xstream (e : BitVec 4) (b : Reg) (r : Reg)
  /-- XKVAPP_APPEND (R541). -/
  | xkvappAppend (e : BitVec 4) (b : Reg) (r : Reg)
  /-- XKVAPP_EVICT (R542). -/
  | xkvappEvict (e : BitVec 4) (b : Reg) (r : Reg)
  /-- XKVAPP_FREE (R543). -/
  | xkvappFree (e : BitVec 4) (b : Reg) (r : Reg)
  /-- XKVSEND (R544). -/
  | xkvsend (e : BitVec 4) (b : Reg) (r : Reg)
  /-- XLOG_APPEND (R545). -/
  | xlogAppend (e : BitVec 4) (b : Reg) (r : Reg)
  /-- XLOG_TRIM (R545). -/
  | xlogTrim (e : BitVec 4) (b : Reg) (r : Reg)
  /-- XLOG_STATUS (R545). -/
  | xlogStatus (e : BitVec 4) (b : Reg) (r : Reg)
  /-- XREDUCE_SUM (R550). -/
  | xreduceSum (e : BitVec 4) (b : Reg) (r : Reg)
  /-- XREDUCE_MAX (R550). -/
  | xreduceMax (e : BitVec 4) (b : Reg) (r : Reg)
  /-- XREDUCE_MIN (R550). -/
  | xreduceMin (e : BitVec 4) (b : Reg) (r : Reg)
  /-- XREDUCE_GATHER (R550). -/
  | xreduceGather (e : BitVec 4) (b : Reg) (r : Reg)
  /-- XPREF_BOUND (R549). -/
  | xprefBound (e : BitVec 4) (b : Reg) (r : Reg)
  /-- XPREF_UNBOUND (R549). -/
  | xprefUnbound (e : BitVec 4) (b : Reg) (r : Reg)
  /-- TTPAR (R517). -/
  | ttpar (d : Reg) (a : Reg) (b : Reg) (t : BitVec 2)
  /-- TTCLR (R517). -/
  | ttclr (d : Reg) (a : Reg) (t : BitVec 2)
  /-- TTMASK (R517). -/
  | ttmask (d : Reg) (a : Reg) (t : BitVec 2)
  /-- TTPOS (R517). -/
  | ttpos (d : Reg) (a : Reg) (t : BitVec 2)
  /-- TTPRUNE (R327). -/
  | ttprune (d : Reg) (a : Reg) (b : Reg) (t : BitVec 2)
  /-- TRAP (R516). -/
  | trap (i : BitVec 16)
  /-- ERET (R434). -/
  | eret
  /-- GETS (R446). -/
  | gets (d : Reg) (i : BitVec 10)
  /-- PUTS (R483). -/
  | puts (a : Reg) (i : BitVec 10)
  /-- TLBI_ALL (R513). -/
  | tlbiAll
  /-- TLBI_ASID (R513). -/
  | tlbiAsid (a : Reg)
  /-- TLBI_PAGE (R513). -/
  | tlbiPage (a : Reg) (b : Reg)
  /-- BRK (R411). -/
  | brk (i : BitVec 17)
  /-- IDLE (R448). -/
  | idle
  -- E-words
  /-- VNOP (R375). -/
  | vnop (d : BitVec 2) (a : Src)
  /-- VIADD (R522). -/
  | viadd (d : BitVec 2) (a : Src) (b : Src) (s : Bool) (n : Bool)
  /-- VISUB (R522). -/
  | visub (d : BitVec 2) (a : Src) (b : Src) (s : Bool) (n : Bool)
  /-- VIMUL (R522). -/
  | vimul (d : BitVec 2) (a : Src) (b : Src) (s : Bool) (n : Bool)
  /-- VIMULH (R522). -/
  | vimulh (d : BitVec 2) (a : Src) (b : Src) (n : Bool)
  /-- VIMAD (R522). -/
  | vimad (d : BitVec 2) (a : Src) (b : Src) (c : Src) (s : Bool) (n : Bool)
  /-- VAND (R522). -/
  | vand (d : BitVec 2) (a : Src) (b : Src)
  /-- VOR (R522). -/
  | vor (d : BitVec 2) (a : Src) (b : Src)
  /-- VXOR (R522). -/
  | vxor (d : BitVec 2) (a : Src) (b : Src)
  /-- VSHL (R522). -/
  | vshl (d : BitVec 2) (a : Src) (b : Src)
  /-- VSHR (R522). -/
  | vshr (d : BitVec 2) (a : Src) (b : Src)
  /-- VSHA (R522). -/
  | vsha (d : BitVec 2) (a : Src) (b : Src)
  /-- VIMIN (R522). -/
  | vimin (d : BitVec 2) (a : Src) (b : Src) (n : Bool)
  /-- VIMAX (R522). -/
  | vimax (d : BitVec 2) (a : Src) (b : Src) (n : Bool)
  /-- VICMP (R522). -/
  | vicmp (d : BitVec 2) (a : Src) (b : Src) (c : BitVec 3)
  /-- VSEL (R522). -/
  | vsel (d : BitVec 2) (a : Src) (b : Src) (c : Src)
  /-- VADDC (R519). -/
  | vaddc (d : BitVec 2) (a : Src) (b : Src) (o : Bool) (i : Bool)
  /-- VSUBC (R519). -/
  | vsubc (d : BitVec 2) (a : Src) (b : Src) (o : Bool) (i : Bool)
  /-- VMULC (R519). -/
  | vmulc (d : BitVec 2) (a : Src) (b : Src) (c : Src) (o : Bool) (i : Bool)
  /-- VHASH (R523). -/
  | vhash (d : BitVec 2) (a : Src) (b : Src)
  /-- VCLZ (R522). -/
  | vclz (d : BitVec 2) (a : Src)
  /-- VPOPC (R522). -/
  | vpopc (d : BitVec 2) (a : Src)
  /-- VBFX (R522). -/
  | vbfx (d : BitVec 2) (a : Src) (b : Src) (c : Src) (n : Bool)
  /-- VFADD (R525). -/
  | vfadd (d : BitVec 2) (a : Src) (b : Src) (f : Bool) (r : BitVec 3)
  /-- VFSUB (R525). -/
  | vfsub (d : BitVec 2) (a : Src) (b : Src) (f : Bool) (r : BitVec 3)
  /-- VFMUL (R525). -/
  | vfmul (d : BitVec 2) (a : Src) (b : Src) (f : Bool) (r : BitVec 3)
  /-- VFMA (R525). -/
  | vfma (d : BitVec 2) (a : Src) (b : Src) (c : Src) (f : Bool) (r : BitVec 3)
  /-- VFMIN (R525). -/
  | vfmin (d : BitVec 2) (a : Src) (b : Src)
  /-- VFMAX (R525). -/
  | vfmax (d : BitVec 2) (a : Src) (b : Src)
  /-- VFCMP (R526). -/
  | vfcmp (d : BitVec 2) (a : Src) (b : Src) (p : BitVec 2)
  /-- VFSIGN (R529). -/
  | vfsign (d : BitVec 2) (a : Src) (b : Src) (o : BitVec 2)
  /-- VFCVT (R527). -/
  | vfcvt (d : BitVec 2) (a : Src) (b : Src) (c : Src) (k : BitVec 4) (f : Bool) (r : BitVec 3)
  /-- VFRCPE (R528). -/
  | vfrcpe (d : BitVec 2) (a : Src) (f : Bool) (r : BitVec 3)
  /-- VFRSQE (R528). -/
  | vfrsqe (d : BitVec 2) (a : Src) (f : Bool) (r : BitVec 3)
  /-- VFEXP2 (R528). -/
  | vfexp2 (d : BitVec 2) (a : Src) (f : Bool) (r : BitVec 3)
  /-- VPQZ (R531). -/
  | vpqz (d : BitVec 2) (a : Src) (c : Src) (s : BitVec 2)
  /-- VPMUL (R530). -/
  | vpmul (d : BitVec 2) (a : Src) (b : Src) (s : BitVec 2)
  /-- VRED (R532). -/
  | vred (d : BitVec 2) (a : Src) (b : Src) (m : BitVec 3) (f : Bool) (r : BitVec 3)
  /-- FORK (R442). -/
  | fork (d : BitVec 2) (a : Src)
  /-- FILT (R440). -/
  | filt (d : BitVec 2) (a : Src) (b : Src) (c : BitVec 3)
  /-- STEER (R508). -/
  | steer (d : BitVec 2) (a : Src) (b : Src) (k : Bool) (c : BitVec 3)
  /-- MERGE (R461). -/
  | merge (a : Src) (b : Src) (w : BitVec 2) (l : Bool)
  /-- PACK (R475). -/
  | pack
  /-- PERM (R477). -/
  | perm (d : BitVec 2) (a : Src) (b : Src) (k : BitVec 4) (p : Bool) (m : BitVec 2)
  /-- SPLAT (R502). -/
  | splat (d : BitVec 2) (a : Src) (l : BitVec 4)
  /-- TAGSEQ (R512). -/
  | tagseq (d : BitVec 2) (a : Src)
  /-- ORDR (R472). -/
  | ordr
  /-- GEN (R445). -/
  | gen (d : BitVec 2) (s : Bool) (h : Bool) (k : BitVec 3)
  /-- CNTL (R421). -/
  | cntl (d : BitVec 2) (a : Src) (e : Bool) (r : Bool)
  /-- STAT (R506). -/
  | stat (r : Bool)
  /-- TOPK (R514). -/
  | topk (d : BitVec 2) (a : Src) (b : Src) (s : Bool)
  /-- SPLD (R497). -/
  | spld (d : BitVec 2) (a : Src) (t : Bool)
  /-- SPST (R497). -/
  | spst (d : BitVec 2) (a : Src) (b : Src) (t : Bool)
  /-- SPAMO (R497). -/
  | spamo (d : BitVec 2) (a : Src) (b : Src) (t : Bool) (p : BitVec 3)
  /-- SPFIFO (R501). -/
  | spfifo
  /-- LTAKE (R456). -/
  | ltake (d : BitVec 2) (a : Src) (n : BitVec 3)
  /-- LGIVE (R456). -/
  | lgive (d : BitVec 2) (a : Src) (n : BitVec 3)
  /-- SPSYNC (R503). -/
  | spsync (s : BitVec 3)
  /-- MLOAD (R295). -/
  | mload
  /-- MSWAP (R298). -/
  | mswap (p : Bool)
  /-- MROW (R300). -/
  | mrow (p : BitVec 2)
  /-- MDRAIN (R303). -/
  | mdrain (c : Bool) (f : BitVec 2)
  /-- MCLR (R305). -/
  | mclr
  /-- VANC (R521). -/
  | vanc (d : BitVec 2) (a : Src) (b : Src) (t : BitVec 2)
  /-- ECOUNT (R430). -/
  | ecount (d : BitVec 2) (a : Src)
  /-- BARN (R402). -/
  | barn (l : Bool) (w : Bool) (s : Bool) (e : Bool) (n : Bool)
  -- Switch words
  /-- SWP (R511). -/
  | swp (i : BitVec 3) (o : BitVec 5) (t : BitVec 3)
  /-- SWM (R511). -/
  | swm (i : BitVec 3) (o : BitVec 5) (t : BitVec 3)
  /-- SWG (R511). -/
  | swg (i : BitVec 3) (o : BitVec 5) (t : BitVec 3) (m : BitVec 3)
  /-- SWB (R511). -/
  | swb (i : BitVec 3) (o : BitVec 5) (t : BitVec 3)
  -- Steps of the hardware
  /-- FIRST_STAGE_FIRING (R32). -/
  | firstStageFiring (site : SiteId)
  /-- STAGE_FIRING (R33). -/
  | stageFiring (site : SiteId) (stage : BitVec 3)
  /-- TOKEN_TRANSFER (R37). -/
  | tokenTransfer (site : SiteId) (port : BitVec 4) (track : BitVec 3)
  /-- SLOT_FREED (R38). -/
  | slotFreed (site : SiteId) (port : BitVec 4) (track : BitVec 3)
  /-- CREDIT_TAKEN (R52). -/
  | creditTaken (site : SiteId)
  /-- ORDR_INTERNAL_FIRING (R48). -/
  | ordrInternalFiring (site : SiteId)
  /-- PACK_TIMEOUT (R46). -/
  | packTimeout (site : SiteId)
  /-- TOPK_EMIT (R515). -/
  | topkEmit (site : SiteId)
  /-- QUIET_REPORT (R55). -/
  | quietReport (origin : SiteId)
  /-- ENTRY_PORT_CLOSE (R56). -/
  | entryPortClose (origin : SiteId) (port : BitVec 8)
  /-- REGION_COMPLETION (R56). -/
  | regionCompletion (origin : SiteId)
  /-- DEADLOCK_DETECTED (R57). -/
  | deadlockDetected (origin : SiteId)
  /-- CONTEXT_SWITCH (R60). -/
  | contextSwitch (origin : SiteId) (ctx : BitVec 2)
  /-- BLOCK_SCHEDULER_CHOICE (R61). -/
  | blockSchedulerChoice (origin : SiteId)
  /-- QUANTUM_EXPIRY (R62). -/
  | quantumExpiry (origin : SiteId)
  /-- WAVEFRONT_INJECT (R63). -/
  | wavefrontInject (origin : SiteId) (port : BitVec 8)
  /-- WAVEFRONT_SITE_SWITCH (R64). -/
  | wavefrontSiteSwitch (site : SiteId)
  /-- SELVAGE_DROP (R68). -/
  | selvageDrop (site : SiteId) (port : BitVec 4) (track : BitVec 3)
  /-- SLOT_MAP_UPDATE (R72). -/
  | slotMapUpdate (core : CoreId)
  /-- SLOT_MAP_TAKE_EFFECT (R72). -/
  | slotMapTakeEffect (die : DieId)
  /-- BOUNDARY_TRACK_TRANSFER (R76). -/
  | boundaryTrackTransfer (site : SiteId) (port : BitVec 4) (track : BitVec 3)
  /-- NODE_FAULT (R275). -/
  | nodeFault (site : SiteId) (kind : BitVec 8) (stage : BitVec 3) (port : BitVec 3) (track : BitVec 3) (seq : BitVec 12)
  /-- NODE_RAISE (R276). -/
  | nodeRaise (origin : SiteId)
  /-- TRAP_ENTRY (R266). -/
  | trapEntry (core : CoreId) (cause : BitVec 8) (pc : BitVec 64) (addr : BitVec 64) (detail : BitVec 16) (inner : BitVec 8)
  /-- ASYNC_CAUSE_TAKEN (R269). -/
  | asyncCauseTaken (core : CoreId)
  /-- BUDGET_EXPIRY (R240). -/
  | budgetExpiry (core : CoreId)
  /-- SLICE_SCHEDULER_CHOICE (R236). -/
  | sliceSchedulerChoice (core : CoreId)
  /-- SLICE_PLACEMENT (R94). -/
  | slicePlacement (sid : BitVec 32)
  /-- SLICE_ADMISSION (R206). -/
  | sliceAdmission (die : DieId)
  /-- RELEASE (R107). -/
  | release (die : DieId) (key : BitVec 64)
  /-- PENDING_RETRY (R107). -/
  | pendingRetry (die : DieId)
  /-- SLICE_RETIREMENT (R209). -/
  | sliceRetirement (sid : BitVec 32)
  /-- FORWARD_NOTICE (R210). -/
  | forwardNotice (sid : BitVec 32)
  /-- SUPERVISOR_TRAP_DELIVERY (R271). -/
  | supervisorTrapDelivery (core : CoreId)
  /-- DEFERRED_RECORD (R273). -/
  | deferredRecord (eng : EngineId)
  /-- ME_TOKEN_ACCEPT (R158). -/
  | meTokenAccept (site : SiteId)
  /-- BANK_GRANT (R158). -/
  | bankGrant (site : SiteId) (bank : BitVec 4)
  /-- ME_RESPONSE (R160). -/
  | meResponse (site : SiteId)
  /-- LOCK_TIMEOUT (R164). -/
  | lockTimeout (site : SiteId)
  /-- SYNC_ARRIVAL (R167). -/
  | syncArrival
  /-- STREAM_BUNDLE_DELIVERY (R171). -/
  | streamBundleDelivery (eng : EngineId)
  /-- STREAM_WRITE (R174). -/
  | streamWrite (eng : EngineId)
  /-- SCORE_ADD_LANE (R175). -/
  | scoreAddLane (eng : EngineId)
  /-- STREAM_DEFERRED_FAULT (R176). -/
  | streamDeferredFault (eng : EngineId)
  /-- PC_POWER_DOWN (R180). -/
  | pcPowerDown (die : DieId) (pc : BitVec 7)
  /-- PC_SELF_REFRESH (R180). -/
  | pcSelfRefresh (die : DieId) (pc : BitVec 7)
  /-- PC_WAKE (R181). -/
  | pcWake (die : DieId) (pc : BitVec 7)
  /-- PAGE_WALK (R193). -/
  | pageWalk (core : CoreId) (va : BitVec 64) (write : Bool)
  /-- OWNERSHIP_RECALL (R217). -/
  | ownershipRecall (pa : BitVec 52)
  /-- HOST_ACCESS (R350). -/
  | hostAccess (pa : BitVec 52) (write : Bool) (value : BitVec 64)
  /-- BACK_INVALIDATE (R350). -/
  | backInvalidate (pa : BitVec 52)
  /-- PEER_ATOMIC (R220). -/
  | peerAtomic (pa : BitVec 52) (narrow : Bool) (op : BitVec 3) (value : BitVec 64)
  /-- DIAGONAL_FORWARD (R226). -/
  | diagonalForward (die : DieId)
  /-- DOCENT_PUSH (R246). -/
  | docentPush (die : DieId)
  /-- COHORT_SWAP_OUT (R250). -/
  | cohortSwapOut (die : DieId)
  /-- COHORT_SWAP_IN (R251). -/
  | cohortSwapIn (die : DieId)
  /-- DOORBELL (R253). -/
  | doorbell (die : DieId) (page : BitVec 8) (value : BitVec 32)
  /-- OVERRUN_CLEAR (R253). -/
  | overrunClear (die : DieId) (page : BitVec 8)
  /-- PREEMPT_MARK (R256). -/
  | preemptMark (origin : SiteId) (sid : BitVec 32)
  /-- LAYER_BOUNDARY_DRAIN (R257). -/
  | layerBoundaryDrain (origin : SiteId)
  /-- DRAIN_MARKER_PASS (R258). -/
  | drainMarkerPass (site : SiteId)
  /-- DRAIN_SAVE (R259). -/
  | drainSave (origin : SiteId)
  /-- FREEZE_SAVE (R260). -/
  | freezeSave (origin : SiteId)
  /-- REGION_RESTORE (R264). -/
  | regionRestore (sid : BitVec 32)
  /-- PLANE_READY (R295). -/
  | planeReady (site : SiteId)
  /-- MLOAD_COLUMN_FAULT (R296). -/
  | mloadColumnFault (site : SiteId)
  /-- AUTO_DRAIN (R303). -/
  | autoDrain (site : SiteId)
  /-- ACCUMULATOR_REFRESH (R285). -/
  | accumulatorRefresh (site : SiteId)
  /-- STAT_TOKEN_SEND (R146). -/
  | statTokenSend (site : SiteId)
  /-- STAT_ADDER_SEND (R147). -/
  | statAdderSend (site : SiteId)
  /-- STAT_ROOT_UPDATE (R507). -/
  | statRootUpdate (site : SiteId)
  /-- XPREF_PAGE (R313). -/
  | xprefPage (eng : EngineId)
  /-- ROW_LOCK_GRANT (R335). -/
  | rowLockGrant (eng : EngineId)
  /-- MIGRATION_FORWARD (R339). -/
  | migrationForward (eng : EngineId)
  /-- MARKER_CLEAR (R339). -/
  | markerClear (eng : EngineId)
  /-- COMPLETION_WORD (R538). -/
  | completionWord (eng : EngineId)
  /-- ENGINE_REPLY (R536). -/
  | engineReply (core : CoreId)
  /-- DROWSY (R283). -/
  | drowsy (site : SiteId)
  /-- DROWSY_WAKE (R283). -/
  | drowsyWake (site : SiteId)
  /-- ECC_ERROR (R280). -/
  | eccError (place : ErrorPlace) (uncorrectable : Bool)
  /-- ERROR_COUNTER_CLEAR (R280). -/
  | errorCounterClear (die : DieId) (ctr : BitVec 2)
  /-- LINK_RESEND (R286). -/
  | linkResend (die : DieId) (dst : DieId)
  /-- LINK_WAKE_RETRY (R287). -/
  | linkWakeRetry (die : DieId) (dst : DieId)
  /-- DIE_LOST (R288). -/
  | dieLost (die : DieId)
  /-- WARM_RESET (R289). -/
  | warmReset
  /-- COLD_RESET (R289). -/
  | coldReset
  /-- STRETCH_INTERVAL (R354). -/
  | stretchInterval (power : BitVec 10) (stretch : BitVec 4)
  /-- UNMET (R355). -/
  | unmet
  /-- UNMET_CLEAR (R355). -/
  | unmetClear
  /-- PWR_CEIL_WRITE (R354). -/
  | pwrCeilWrite (value : BitVec 64)
  /-- PS_TARGET_WRITE (R357). -/
  | psTargetWrite (die : DieId) (target : BitVec 3)
  /-- PS_TRANSITION_DONE (R357). -/
  | psTransitionDone (die : DieId)
  /-- PARK (R358). -/
  | park (die : DieId)
  /-- UNPARK (R358). -/
  | unpark (die : DieId)
  /-- REFUSED_CLEAR (R358). -/
  | refusedClear (die : DieId)
  /-- BOOT_LOAD (R360). -/
  | bootLoad
  /-- BOOT_WARM_RESET_CMD (R359). -/
  | bootWarmResetCmd
  /-- BOOT_COLD_RESET_CMD (R359). -/
  | bootColdResetCmd
  /-- FOLLOWER_VERIFY (R361). -/
  | followerVerify (die : DieId)
  /-- SPDM_REQUEST (R363). -/
  | spdmRequest (die : DieId) (ask : SpdmAsk)
  /-- REGISTER_WRITE (R6). -/
  | registerWrite (access : RegisterAccess) (value : BitVec 64)
  /-- LINK_WAKE_COMPLETE (R287). -/
  | linkWakeComplete (die : DieId) (dst : DieId)
  /-- ENGINE_COMMAND_COMPLETE (R204). -/
  | engineCommandComplete (eng : EngineId)
  /-- DRAIN_STEP (R303). -/
  | drainStep (site : SiteId)
  /-- SITE_GATING (R284). -/
  | siteGating (site : SiteId)
  /-- DIRTY_LINE_WRITE_BACK (R151). -/
  | dirtyLineWriteBack (core : CoreId) (pa : BitVec 52) (evict : Bool)
deriving DecidableEq, Repr

end Sys2Proof
end

