-- ==== Sys2Proof/WellFormed.lean ====
section
/-!
DEFINITION. Which instructions are well formed: the operand checks of R365 (undefined values and register specifiers,
R84 and Table 3.1), the source codes and modifiers of E-words (R373 to R375) and the fields of switch words (R378).
Checks that depend on a whole context are made by the configuration loader.
-/
namespace Sys2Proof

/-- A specifier allowed as a source: X, Q, Y, WID, SID, CYC (Table 3.1). -/
def srcOk (r : Reg) : Bool := decide (r.toNat ≤ 78)

/-- A specifier allowed as a destination: X, Q, or code 72 (Table 3.1). -/
def dstOk (r : Reg) : Bool := decide (r.toNat ≤ 72)

/-- The counter of LOOP: X1-X63 or Q0-Q7 (R458). -/
def loopOk (r : Reg) : Bool := decide (1 ≤ r.toNat) && decide (r.toNat ≤ 71)

/-- The base register of an SX word, 1 to 60 (R370). -/
def baseOk (r : Reg) : Bool := decide (1 ≤ r.toNat) && decide (r.toNat ≤ 60)

/-- The system-register indexes of Table 3.3 (R86). -/
def sysIndexOk (i : Nat) : Bool :=
  decide (i ≤ 0x006) || i == 0x008 || i == 0x00A || (decide (0x010 ≤ i) && decide (i ≤ 0x014)) ||
    (decide (0x018 ≤ i) && decide (i ≤ 0x021)) || (decide (0x030 ≤ i) && decide (i ≤ 0x032)) || i == 0x040 || i == 0x041

/-- A source code of Table 12.9 that is not reserved (R373). -/
def codeOk (c : Src) : Bool := decide (c.toNat ≤ 24)

/-- The sources a VFCVT kind does not use are zero, and the kind is defined (R527). -/
def cvtOk (kind : Nat) (b c : Src) : Bool :=
  decide (kind ≤ 13) && (b == 0 || kind == 4 || kind == 5 || kind == 6 || kind == 7 || kind == 12 || kind == 13) &&
    (c == 0 || kind == 6 || kind == 7)

/-- VRED: mode 7 is undefined, the reducing modes read no b, and only SUM takes a rounding code and FZ (R532). -/
def redOk (mode : Nat) (b : Src) (f : Bool) (r : BitVec 3) : Bool :=
  decide (mode < 7) && (b == 0 || decide (4 ≤ mode)) &&
    (if mode == 2 then decide (r.toNat < 4) else r == 0 && !f)

/-- PERM: INDEX takes b and no k, XOR and ROT take k and no b (R477). -/
def permOk (mode : Nat) (b : Src) (k : BitVec 4) : Bool :=
  decide (mode < 3) && (if mode == 0 then k == 0 else b == 0)

/-- INPUT 0 to 4, a track of at most 3 and at least one output (R41, R378). -/
def switchOk (i : BitVec 3) (o : BitVec 5) (t : BitVec 3) : Bool :=
  decide (i.toNat ≤ 4) && decide (t.toNat ≤ 3) && o != 0

/-- Exactly one OUT bit is set. -/
def oneBit (o : BitVec 5) : Bool := o == 1 || o == 2 || o == 4 || o == 8 || o == 16

/-- The operand checks an encoded instruction passes. The steps of the hardware carry no encoded operand. -/
def Instr.wellFormed : Instr → Bool
  | .add d a b _ _ _ => dstOk d && srcOk a && srcOk b
  | .sub d a b _ _ _ => dstOk d && srcOk a && srcOk b
  | .mul d a b _ _ _ => dstOk d && srcOk a && srcOk b
  | .mulh d a b _ _ => dstOk d && srcOk a && srcOk b
  | .div d a b _ _ => dstOk d && srcOk a && srcOk b
  | .rem d a b _ _ => dstOk d && srcOk a && srcOk b
  | .and d a b _ => dstOk d && srcOk a && srcOk b
  | .or d a b _ => dstOk d && srcOk a && srcOk b
  | .xor d a b _ => dstOk d && srcOk a && srcOk b
  | .shl d a b _ => dstOk d && srcOk a && srcOk b
  | .shr d a b _ => dstOk d && srcOk a && srcOk b
  | .sha d a b _ => dstOk d && srcOk a && srcOk b
  | .min d a b _ _ => dstOk d && srcOk a && srcOk b
  | .max d a b _ _ => dstOk d && srcOk a && srcOk b
  | .slt d a b _ _ => dstOk d && srcOk a && srcOk b
  | .seq d a b _ => dstOk d && srcOk a && srcOk b
  | .sel d a b => dstOk d && srcOk a && srcOk b
  | .clz d a _ => dstOk d && srcOk a
  | .popc d a _ => dstOk d && srcOk a
  | .ext d a _ z => dstOk d && srcOk a && decide (z.toNat < 3)
  | .bfx d a b _ => dstOk d && srcOk a && srcOk b
  | .bfi d a b => dstOk d && srcOk a && srcOk b
  | .lea d a b _ => dstOk d && srcOk a && srcOk b
  | .hash d a b => dstOk d && srcOk a && srcOk b
  | .widx d a k => dstOk d && srcOk a && decide (k.toNat < 7)
  | .addi d a _ => dstOk d && srcOk a
  | .andi d a _ => dstOk d && srcOk a
  | .ori d a _ => dstOk d && srcOk a
  | .xori d a _ => dstOk d && srcOk a
  | .shli d a _ => dstOk d && srcOk a
  | .shri d a _ => dstOk d && srcOk a
  | .shai d a _ => dstOk d && srcOk a
  | .slti d a _ => dstOk d && srcOk a
  | .lil d _ => dstOk d
  | .lis d _ => dstOk d
  | .ld d a _ _ => dstOk d && srcOk a
  | .ldn d a _ _ => dstOk d && srcOk a
  | .st t a _ _ => srcOk t && srcOk a
  | .ldx d a b _ _ => dstOk d && srcOk a && srcOk b
  | .stx t a b _ => srcOk t && srcOk a && srcOk b
  | .pref a _ _ => srcOk a
  | .swait d a b => dstOk d && srcOk a && srcOk b
  | .sarm d a b => dstOk d && srcOk a && srcOk b
  | .amo d a b _ => dstOk d && srcOk a && srcOk b
  | .amow d a b _ => dstOk d && srcOk a && srcOk b
  | .cas d a b => dstOk d && srcOk a && srcOk b
  | .casw d a b => dstOk d && srcOk a && srcOk b
  | .fence w i b _ => (w || i || b)
  | .barr d a b => dstOk d && srcOk a && srcOk b
  | .publ d a b => dstOk d && srcOk a && srcOk b
  | .rcsnap d a => dstOk d && srcOk a
  | .jr a _ => srcOk a
  | .beq a b _ => srcOk a && srcOk b
  | .bne a b _ => srcOk a && srcOk b
  | .blt a b _ => srcOk a && srcOk b
  | .bge a b _ => srcOk a && srcOk b
  | .bltn a b _ => srcOk a && srcOk b
  | .bgen a b _ => srcOk a && srcOk b
  | .loop a _ => loopOk a
  | .fadd d a b r => dstOk d && srcOk a && srcOk b && decide (r.toNat ≤ 4)
  | .fsub d a b r => dstOk d && srcOk a && srcOk b && decide (r.toNat ≤ 4)
  | .fmul d a b r => dstOk d && srcOk a && srcOk b && decide (r.toNat ≤ 4)
  | .fma d a b r => dstOk d && srcOk a && srcOk b && decide (r.toNat ≤ 4)
  | .fmin d a b => dstOk d && srcOk a && srcOk b
  | .fmax d a b => dstOk d && srcOk a && srcOk b
  | .fcmp d a b p => dstOk d && srcOk a && srcOk b && decide (p.toNat < 4)
  | .fcvt d a k r => dstOk d && srcOk a && decide (k.toNat ≤ 10) && decide (r.toNat ≤ 4)
  | .spawn d a b => dstOk d && srcOk a && srcOk b
  | .pushq d a b _ => dstOk d && srcOk a && srcOk b
  | .popq d a b => dstOk d && srcOk a && dstOk b
  | .notify d a b => dstOk d && srcOk a && srcOk b
  | .cfld d a b _ => dstOk d && srcOk a && srcOk b
  | .cfsw d a _ => dstOk d && srcOk a
  | .cfwv d a b _ => dstOk d && srcOk a && srcOk b
  | .drain d a => dstOk d && srcOk a
  | .qwait d a b => dstOk d && srcOk a && srcOk b
  | .inj d a b _ _ => dstOk d && srcOk a && srcOk b
  | .draw d a b => dstOk d && srcOk a && srcOk b
  | .selvAssign d a b => dstOk d && srcOk a && srcOk b
  | .selvOpen d a b => dstOk d && srcOk a && srcOk b
  | .selvClose d a b => dstOk d && srcOk a && srcOk b
  | .curd d a b => dstOk d && srcOk a && srcOk b
  | .xcopyCopy e b r => decide (e.toNat < 4) && baseOk b && dstOk r
  | .xcopyFill e b r => decide (e.toNat < 4) && baseOk b && dstOk r
  | .xgatherPort e b r => decide (e.toNat < 4) && baseOk b && dstOk r
  | .xgatherMem e b r => decide (e.toNat < 4) && baseOk b && dstOk r
  | .xscatterWrite e b r => decide (e.toNat < 4) && baseOk b && dstOk r
  | .xscatterAdd e b r => decide (e.toNat < 4) && baseOk b && dstOk r
  | .xrowupd e b r => decide (e.toNat < 4) && baseOk b && dstOk r
  | .xmigrate e b r => decide (e.toNat < 4) && baseOk b && dstOk r
  | .xstream _ b r => baseOk b && dstOk r
  | .xkvappAppend e b r => decide (e.toNat < 4) && baseOk b && dstOk r
  | .xkvappEvict e b r => decide (e.toNat < 4) && baseOk b && dstOk r
  | .xkvappFree e b r => decide (e.toNat < 4) && baseOk b && dstOk r
  | .xkvsend e b r => decide (e.toNat < 4) && baseOk b && dstOk r
  | .xlogAppend e b r => decide (e.toNat < 4) && baseOk b && dstOk r
  | .xlogTrim e b r => decide (e.toNat < 4) && baseOk b && dstOk r
  | .xlogStatus e b r => decide (e.toNat < 4) && baseOk b && dstOk r
  | .xreduceSum e b r => decide (e.toNat < 4) && baseOk b && dstOk r
  | .xreduceMax e b r => decide (e.toNat < 4) && baseOk b && dstOk r
  | .xreduceMin e b r => decide (e.toNat < 4) && baseOk b && dstOk r
  | .xreduceGather e b r => decide (e.toNat < 4) && baseOk b && dstOk r
  | .xprefBound e b r => decide (e.toNat < 4) && baseOk b && dstOk r
  | .xprefUnbound e b r => decide (e.toNat < 4) && baseOk b && dstOk r
  | .ttpar d a b _ => dstOk d && srcOk a && srcOk b
  | .ttclr d a _ => dstOk d && srcOk a
  | .ttmask d a _ => dstOk d && srcOk a
  | .ttpos d a _ => dstOk d && srcOk a
  | .ttprune d a b _ => dstOk d && srcOk a && srcOk b
  | .gets d i => dstOk d && sysIndexOk i.toNat
  | .puts a i => srcOk a && sysIndexOk i.toNat
  | .tlbiAsid a => srcOk a
  | .tlbiPage a b => srcOk a && srcOk b
  | .vnop _ a => codeOk a
  | .viadd _ a b _ _ => codeOk a && codeOk b
  | .visub _ a b _ _ => codeOk a && codeOk b
  | .vimul _ a b _ _ => codeOk a && codeOk b
  | .vimulh _ a b _ => codeOk a && codeOk b
  | .vimad _ a b c _ _ => codeOk a && codeOk b && codeOk c
  | .vand _ a b => codeOk a && codeOk b
  | .vor _ a b => codeOk a && codeOk b
  | .vxor _ a b => codeOk a && codeOk b
  | .vshl _ a b => codeOk a && codeOk b
  | .vshr _ a b => codeOk a && codeOk b
  | .vsha _ a b => codeOk a && codeOk b
  | .vimin _ a b _ => codeOk a && codeOk b
  | .vimax _ a b _ => codeOk a && codeOk b
  | .vicmp _ a b c => codeOk a && codeOk b && decide (c.toNat < 6)
  | .vsel _ a b c => codeOk a && codeOk b && codeOk c
  | .vaddc _ a b _ _ => codeOk a && codeOk b
  | .vsubc _ a b _ _ => codeOk a && codeOk b
  | .vmulc _ a b c _ _ => codeOk a && codeOk b && codeOk c
  | .vhash _ a b => codeOk a && codeOk b
  | .vclz _ a => codeOk a
  | .vpopc _ a => codeOk a
  | .vbfx _ a b c _ => codeOk a && codeOk b && codeOk c
  | .vfadd _ a b _ r => codeOk a && codeOk b && decide (r.toNat < 4)
  | .vfsub _ a b _ r => codeOk a && codeOk b && decide (r.toNat < 4)
  | .vfmul _ a b _ r => codeOk a && codeOk b && decide (r.toNat < 4)
  | .vfma _ a b c _ r => codeOk a && codeOk b && codeOk c && decide (r.toNat < 4)
  | .vfmin _ a b => codeOk a && codeOk b
  | .vfmax _ a b => codeOk a && codeOk b
  | .vfcmp _ a b _ => codeOk a && codeOk b
  | .vfsign _ a b o => codeOk a && codeOk b && (o.toNat % 2 == 0 || b == 0)
  | .vfcvt _ a b c k _ r => codeOk a && codeOk b && codeOk c && cvtOk k.toNat b c && decide (r.toNat < 4)
  | .vfrcpe _ a _ r => codeOk a && decide (r.toNat < 4)
  | .vfrsqe _ a _ r => codeOk a && decide (r.toNat < 4)
  | .vfexp2 _ a _ r => codeOk a && decide (r.toNat < 4)
  | .vpqz _ a c _ => codeOk a && codeOk c
  | .vpmul _ a b _ => codeOk a && codeOk b
  | .vred _ a b m f r => codeOk a && codeOk b && redOk m.toNat b f r
  | .fork _ a => codeOk a
  | .filt _ a b _ => codeOk a && codeOk b
  | .steer _ a b _ _ => codeOk a && codeOk b
  | .merge a b _ _ => decide (4 ≤ a.toNat) && decide (a.toNat ≤ 8) && decide (4 ≤ b.toNat) && decide (b.toNat ≤ 8) && decide (a ≠ b)
  | .perm _ a b k _ m => codeOk a && codeOk b && permOk m.toNat b k
  | .splat _ a _ => codeOk a
  | .tagseq _ a => codeOk a
  | .gen _ _ _ k => decide (k.toNat < 7)
  | .cntl _ a _ _ => codeOk a
  | .topk _ a b _ => codeOk a && codeOk b
  | .spld _ a _ => codeOk a
  | .spst _ a b _ => codeOk a && codeOk b
  | .spamo _ a b _ _ => codeOk a && codeOk b
  | .ltake _ a _ => codeOk a
  | .lgive _ a _ => codeOk a
  | .mrow p => decide (p.toNat < 3)
  | .mdrain _ f => decide (f.toNat < 3)
  | .vanc _ a b _ => codeOk a && codeOk b
  | .ecount _ a => codeOk a
  | .barn l w s e n => (l || w || s || e || n)
  | .swp i o t => switchOk i o t && oneBit o
  | .swm i o t => switchOk i o t && !oneBit o
  | .swg i o t m => switchOk i o t && oneBit o && decide (m.toNat < 3)
  | .swb i o t => switchOk i o t && oneBit o && decide (i.toNat < 4)
  | _ => true

end Sys2Proof
end

