-- ==== Sys2Proof/Decode.lean ====
section
/-!
DEFINITION. Decoding of S-words, E-words and switch words (12, Tables 12.1, 12.2, 12.8, 12.10, 12.11 and the encoding
table of each entry), and the encoder written from the same tables. A word is taken as a number, bit 0 its least
significant bit. FCMP has opcode 0x76 (Tables 12.2 and 14.3).
-/
namespace Sys2Proof

open Sys2Proof.Machine

/-- Why a word is no instruction: check 1, 2 or 3 of R365 for S-words, R66 and R373 for E-words, R378 for switch
words, or too few bytes. -/
inductive DecodeError where
  | unassignedOpcode
  | reservedField
  | badOperand
  | tooShort
deriving DecidableEq, Repr

/-- The S-word whose fixed bits and reserved fields agree with its encoding table. -/
def rawS (w : Nat) : Option Instr :=
  match w / 0x1000000 with
  | 0x01 => if zeroAt 0 24 w then some (.nop) else none
  | 0x10 => some (.add (fieldOf 7 17 w) (fieldOf 7 10 w) (fieldOf 7 3 w) (bitOf 2 w) (bitOf 1 w) (bitOf 0 w))
  | 0x11 => some (.sub (fieldOf 7 17 w) (fieldOf 7 10 w) (fieldOf 7 3 w) (bitOf 2 w) (bitOf 1 w) (bitOf 0 w))
  | 0x12 => some (.mul (fieldOf 7 17 w) (fieldOf 7 10 w) (fieldOf 7 3 w) (bitOf 2 w) (bitOf 1 w) (bitOf 0 w))
  | 0x13 => if zeroAt 1 1 w then some (.mulh (fieldOf 7 17 w) (fieldOf 7 10 w) (fieldOf 7 3 w) (bitOf 2 w) (bitOf 0 w)) else none
  | 0x14 => if zeroAt 1 1 w then some (.div (fieldOf 7 17 w) (fieldOf 7 10 w) (fieldOf 7 3 w) (bitOf 2 w) (bitOf 0 w)) else none
  | 0x15 => if zeroAt 1 1 w then some (.rem (fieldOf 7 17 w) (fieldOf 7 10 w) (fieldOf 7 3 w) (bitOf 2 w) (bitOf 0 w)) else none
  | 0x16 => if zeroAt 1 2 w then some (.and (fieldOf 7 17 w) (fieldOf 7 10 w) (fieldOf 7 3 w) (bitOf 0 w)) else none
  | 0x17 => if zeroAt 1 2 w then some (.or (fieldOf 7 17 w) (fieldOf 7 10 w) (fieldOf 7 3 w) (bitOf 0 w)) else none
  | 0x18 => if zeroAt 1 2 w then some (.xor (fieldOf 7 17 w) (fieldOf 7 10 w) (fieldOf 7 3 w) (bitOf 0 w)) else none
  | 0x19 => if zeroAt 1 2 w then some (.shl (fieldOf 7 17 w) (fieldOf 7 10 w) (fieldOf 7 3 w) (bitOf 0 w)) else none
  | 0x1A => if zeroAt 1 2 w then some (.shr (fieldOf 7 17 w) (fieldOf 7 10 w) (fieldOf 7 3 w) (bitOf 0 w)) else none
  | 0x1B => if zeroAt 1 2 w then some (.sha (fieldOf 7 17 w) (fieldOf 7 10 w) (fieldOf 7 3 w) (bitOf 0 w)) else none
  | 0x1C => if zeroAt 1 1 w then some (.min (fieldOf 7 17 w) (fieldOf 7 10 w) (fieldOf 7 3 w) (bitOf 2 w) (bitOf 0 w)) else none
  | 0x1D => if zeroAt 1 1 w then some (.max (fieldOf 7 17 w) (fieldOf 7 10 w) (fieldOf 7 3 w) (bitOf 2 w) (bitOf 0 w)) else none
  | 0x1E => if zeroAt 1 1 w then some (.slt (fieldOf 7 17 w) (fieldOf 7 10 w) (fieldOf 7 3 w) (bitOf 2 w) (bitOf 0 w)) else none
  | 0x1F => if zeroAt 1 2 w then some (.seq (fieldOf 7 17 w) (fieldOf 7 10 w) (fieldOf 7 3 w) (bitOf 0 w)) else none
  | 0x20 => if zeroAt 0 3 w then some (.sel (fieldOf 7 17 w) (fieldOf 7 10 w) (fieldOf 7 3 w)) else none
  | 0x21 => if zeroAt 3 7 w && zeroAt 1 2 w then some (.clz (fieldOf 7 17 w) (fieldOf 7 10 w) (bitOf 0 w)) else none
  | 0x22 => if zeroAt 3 7 w && zeroAt 1 2 w then some (.popc (fieldOf 7 17 w) (fieldOf 7 10 w) (bitOf 0 w)) else none
  | 0x23 => if zeroAt 3 7 w then some (.ext (fieldOf 7 17 w) (fieldOf 7 10 w) (bitOf 2 w) (fieldOf 2 0 w)) else none
  | 0x24 => if zeroAt 0 2 w then some (.bfx (fieldOf 7 17 w) (fieldOf 7 10 w) (fieldOf 7 3 w) (bitOf 2 w)) else none
  | 0x25 => if zeroAt 0 3 w then some (.bfi (fieldOf 7 17 w) (fieldOf 7 10 w) (fieldOf 7 3 w)) else none
  | 0x26 => some (.lea (fieldOf 7 17 w) (fieldOf 7 10 w) (fieldOf 7 3 w) (fieldOf 3 0 w))
  | 0x27 => if zeroAt 0 3 w then some (.hash (fieldOf 7 17 w) (fieldOf 7 10 w) (fieldOf 7 3 w)) else none
  | 0x28 => if zeroAt 3 7 w then some (.widx (fieldOf 7 17 w) (fieldOf 7 10 w) (fieldOf 3 0 w)) else none
  | 0x30 => some (.addi (fieldOf 7 17 w) (fieldOf 7 10 w) (fieldOf 10 0 w))
  | 0x31 => some (.andi (fieldOf 7 17 w) (fieldOf 7 10 w) (fieldOf 10 0 w))
  | 0x32 => some (.ori (fieldOf 7 17 w) (fieldOf 7 10 w) (fieldOf 10 0 w))
  | 0x33 => some (.xori (fieldOf 7 17 w) (fieldOf 7 10 w) (fieldOf 10 0 w))
  | 0x34 => if zeroAt 6 4 w then some (.shli (fieldOf 7 17 w) (fieldOf 7 10 w) (fieldOf 6 0 w)) else none
  | 0x35 => if zeroAt 6 4 w then some (.shri (fieldOf 7 17 w) (fieldOf 7 10 w) (fieldOf 6 0 w)) else none
  | 0x36 => if zeroAt 6 4 w then some (.shai (fieldOf 7 17 w) (fieldOf 7 10 w) (fieldOf 6 0 w)) else none
  | 0x37 => some (.slti (fieldOf 7 17 w) (fieldOf 7 10 w) (fieldOf 10 0 w))
  | 0x38 => some (.lil (fieldOf 7 17 w) (fieldOf 17 0 w))
  | 0x39 => some (.lis (fieldOf 7 17 w) (fieldOf 17 0 w))
  | 0x40 => some (.ld (fieldOf 7 17 w) (fieldOf 7 10 w) (fieldOf 8 2 w) (fieldOf 2 0 w))
  | 0x41 => some (.ldn (fieldOf 7 17 w) (fieldOf 7 10 w) (fieldOf 8 2 w) (fieldOf 2 0 w))
  | 0x42 => some (.st (fieldOf 7 17 w) (fieldOf 7 10 w) (fieldOf 8 2 w) (fieldOf 2 0 w))
  | 0x43 => some (.ldx (fieldOf 7 17 w) (fieldOf 7 10 w) (fieldOf 7 3 w) (bitOf 2 w) (fieldOf 2 0 w))
  | 0x44 => if zeroAt 2 1 w then some (.stx (fieldOf 7 17 w) (fieldOf 7 10 w) (fieldOf 7 3 w) (fieldOf 2 0 w)) else none
  | 0x45 => if zeroAt 17 7 w then some (.pref (fieldOf 7 10 w) (fieldOf 8 2 w) (fieldOf 2 0 w)) else none
  | 0x46 => if zeroAt 0 3 w then some (.swait (fieldOf 7 17 w) (fieldOf 7 10 w) (fieldOf 7 3 w)) else none
  | 0x47 => if zeroAt 0 3 w then some (.sarm (fieldOf 7 17 w) (fieldOf 7 10 w) (fieldOf 7 3 w)) else none
  | 0x50 => some (.amo (fieldOf 7 17 w) (fieldOf 7 10 w) (fieldOf 7 3 w) (fieldOf 3 0 w))
  | 0x51 => some (.amow (fieldOf 7 17 w) (fieldOf 7 10 w) (fieldOf 7 3 w) (fieldOf 3 0 w))
  | 0x52 => if zeroAt 0 3 w then some (.cas (fieldOf 7 17 w) (fieldOf 7 10 w) (fieldOf 7 3 w)) else none
  | 0x53 => if zeroAt 0 3 w then some (.casw (fieldOf 7 17 w) (fieldOf 7 10 w) (fieldOf 7 3 w)) else none
  | 0x54 => if zeroAt 6 18 w then some (.fence (bitOf 5 w) (bitOf 4 w) (bitOf 3 w) (fieldOf 3 0 w)) else none
  | 0x55 => if zeroAt 0 3 w then some (.barr (fieldOf 7 17 w) (fieldOf 7 10 w) (fieldOf 7 3 w)) else none
  | 0x56 => if zeroAt 0 3 w then some (.publ (fieldOf 7 17 w) (fieldOf 7 10 w) (fieldOf 7 3 w)) else none
  | 0x57 => if zeroAt 0 10 w then some (.rcsnap (fieldOf 7 17 w) (fieldOf 7 10 w)) else none
  | 0x60 => some (.br (fieldOf 24 0 w))
  | 0x61 => some (.call (fieldOf 24 0 w))
  | 0x62 => if zeroAt 17 7 w && zeroAt 1 9 w then some (.jr (fieldOf 7 10 w) (bitOf 0 w)) else none
  | 0x63 => some (.beq (fieldOf 7 17 w) (fieldOf 7 10 w) (fieldOf 10 0 w))
  | 0x64 => some (.bne (fieldOf 7 17 w) (fieldOf 7 10 w) (fieldOf 10 0 w))
  | 0x65 => some (.blt (fieldOf 7 17 w) (fieldOf 7 10 w) (fieldOf 10 0 w))
  | 0x66 => some (.bge (fieldOf 7 17 w) (fieldOf 7 10 w) (fieldOf 10 0 w))
  | 0x67 => some (.bltn (fieldOf 7 17 w) (fieldOf 7 10 w) (fieldOf 10 0 w))
  | 0x68 => some (.bgen (fieldOf 7 17 w) (fieldOf 7 10 w) (fieldOf 10 0 w))
  | 0x69 => if zeroAt 10 7 w then some (.loop (fieldOf 7 17 w) (fieldOf 10 0 w)) else none
  | 0x6A => if zeroAt 0 3 w then some (.rep (fieldOf 6 18 w) (fieldOf 5 13 w) (fieldOf 5 8 w) (fieldOf 5 3 w)) else none
  | 0x6B => if zeroAt 0 24 w then some (.endFiring) else if eqAt 0 24 1 w then some (.endDone) else if eqAt 0 24 2 w then some (.endKill) else none
  | 0x6C => if zeroAt 0 24 w then some (.yield) else none
  | 0x70 => some (.fadd (fieldOf 7 17 w) (fieldOf 7 10 w) (fieldOf 7 3 w) (fieldOf 3 0 w))
  | 0x71 => some (.fsub (fieldOf 7 17 w) (fieldOf 7 10 w) (fieldOf 7 3 w) (fieldOf 3 0 w))
  | 0x72 => some (.fmul (fieldOf 7 17 w) (fieldOf 7 10 w) (fieldOf 7 3 w) (fieldOf 3 0 w))
  | 0x73 => some (.fma (fieldOf 7 17 w) (fieldOf 7 10 w) (fieldOf 7 3 w) (fieldOf 3 0 w))
  | 0x74 => if zeroAt 0 3 w then some (.fmin (fieldOf 7 17 w) (fieldOf 7 10 w) (fieldOf 7 3 w)) else none
  | 0x75 => if zeroAt 0 3 w then some (.fmax (fieldOf 7 17 w) (fieldOf 7 10 w) (fieldOf 7 3 w)) else none
  | 0x76 => some (.fcmp (fieldOf 7 17 w) (fieldOf 7 10 w) (fieldOf 7 3 w) (fieldOf 3 0 w))
  | 0x77 => some (.fcvt (fieldOf 7 17 w) (fieldOf 7 10 w) (fieldOf 7 3 w) (fieldOf 3 0 w))
  | 0x78 => if zeroAt 0 3 w then some (.spawn (fieldOf 7 17 w) (fieldOf 7 10 w) (fieldOf 7 3 w)) else none
  | 0x79 => if zeroAt 1 2 w then some (.pushq (fieldOf 7 17 w) (fieldOf 7 10 w) (fieldOf 7 3 w) (bitOf 0 w)) else none
  | 0x7A => if zeroAt 0 3 w then some (.popq (fieldOf 7 17 w) (fieldOf 7 10 w) (fieldOf 7 3 w)) else none
  | 0x7B => if zeroAt 0 3 w then some (.notify (fieldOf 7 17 w) (fieldOf 7 10 w) (fieldOf 7 3 w)) else none
  | 0x80 => if zeroAt 2 1 w then some (.cfld (fieldOf 7 17 w) (fieldOf 7 10 w) (fieldOf 7 3 w) (fieldOf 2 0 w)) else none
  | 0x81 => if zeroAt 2 8 w then some (.cfsw (fieldOf 7 17 w) (fieldOf 7 10 w) (fieldOf 2 0 w)) else none
  | 0x82 => if zeroAt 2 1 w then some (.cfwv (fieldOf 7 17 w) (fieldOf 7 10 w) (fieldOf 7 3 w) (fieldOf 2 0 w)) else none
  | 0x83 => if zeroAt 0 10 w then some (.drain (fieldOf 7 17 w) (fieldOf 7 10 w)) else none
  | 0x84 => if zeroAt 0 3 w then some (.qwait (fieldOf 7 17 w) (fieldOf 7 10 w) (fieldOf 7 3 w)) else none
  | 0x85 => if zeroAt 2 1 w then some (.inj (fieldOf 7 17 w) (fieldOf 7 10 w) (fieldOf 7 3 w) (bitOf 1 w) (bitOf 0 w)) else none
  | 0x86 => if zeroAt 0 3 w then some (.draw (fieldOf 7 17 w) (fieldOf 7 10 w) (fieldOf 7 3 w)) else none
  | 0x87 => if zeroAt 0 3 w then some (.selvAssign (fieldOf 7 17 w) (fieldOf 7 10 w) (fieldOf 7 3 w)) else if eqAt 0 3 1 w then some (.selvOpen (fieldOf 7 17 w) (fieldOf 7 10 w) (fieldOf 7 3 w)) else if eqAt 0 3 2 w then some (.selvClose (fieldOf 7 17 w) (fieldOf 7 10 w) (fieldOf 7 3 w)) else none
  | 0x88 => if zeroAt 0 3 w then some (.curd (fieldOf 7 17 w) (fieldOf 7 10 w) (fieldOf 7 3 w)) else none
  | 0x90 => if zeroAt 14 6 w then some (.xcopyCopy (fieldOf 4 20 w) (fieldOf 7 7 w) (fieldOf 7 0 w)) else if eqAt 14 6 1 w then some (.xcopyFill (fieldOf 4 20 w) (fieldOf 7 7 w) (fieldOf 7 0 w)) else none
  | 0x91 => if zeroAt 14 6 w then some (.xgatherPort (fieldOf 4 20 w) (fieldOf 7 7 w) (fieldOf 7 0 w)) else if eqAt 14 6 1 w then some (.xgatherMem (fieldOf 4 20 w) (fieldOf 7 7 w) (fieldOf 7 0 w)) else none
  | 0x92 => if zeroAt 14 6 w then some (.xscatterWrite (fieldOf 4 20 w) (fieldOf 7 7 w) (fieldOf 7 0 w)) else if eqAt 14 6 1 w then some (.xscatterAdd (fieldOf 4 20 w) (fieldOf 7 7 w) (fieldOf 7 0 w)) else none
  | 0x93 => if zeroAt 14 6 w then some (.xrowupd (fieldOf 4 20 w) (fieldOf 7 7 w) (fieldOf 7 0 w)) else none
  | 0x94 => if zeroAt 14 6 w then some (.xmigrate (fieldOf 4 20 w) (fieldOf 7 7 w) (fieldOf 7 0 w)) else none
  | 0x95 => if zeroAt 14 6 w then some (.xstream (fieldOf 4 20 w) (fieldOf 7 7 w) (fieldOf 7 0 w)) else none
  | 0x96 => if zeroAt 14 6 w then some (.xkvappAppend (fieldOf 4 20 w) (fieldOf 7 7 w) (fieldOf 7 0 w)) else if eqAt 14 6 1 w then some (.xkvappEvict (fieldOf 4 20 w) (fieldOf 7 7 w) (fieldOf 7 0 w)) else if eqAt 14 6 2 w then some (.xkvappFree (fieldOf 4 20 w) (fieldOf 7 7 w) (fieldOf 7 0 w)) else none
  | 0x97 => if zeroAt 14 6 w then some (.xkvsend (fieldOf 4 20 w) (fieldOf 7 7 w) (fieldOf 7 0 w)) else none
  | 0x98 => if zeroAt 14 6 w then some (.xlogAppend (fieldOf 4 20 w) (fieldOf 7 7 w) (fieldOf 7 0 w)) else if eqAt 14 6 1 w then some (.xlogTrim (fieldOf 4 20 w) (fieldOf 7 7 w) (fieldOf 7 0 w)) else if eqAt 14 6 2 w then some (.xlogStatus (fieldOf 4 20 w) (fieldOf 7 7 w) (fieldOf 7 0 w)) else none
  | 0x99 => if zeroAt 14 6 w then some (.xreduceSum (fieldOf 4 20 w) (fieldOf 7 7 w) (fieldOf 7 0 w)) else if eqAt 14 6 1 w then some (.xreduceMax (fieldOf 4 20 w) (fieldOf 7 7 w) (fieldOf 7 0 w)) else if eqAt 14 6 2 w then some (.xreduceMin (fieldOf 4 20 w) (fieldOf 7 7 w) (fieldOf 7 0 w)) else if eqAt 14 6 3 w then some (.xreduceGather (fieldOf 4 20 w) (fieldOf 7 7 w) (fieldOf 7 0 w)) else none
  | 0x9A => if zeroAt 14 6 w then some (.xprefBound (fieldOf 4 20 w) (fieldOf 7 7 w) (fieldOf 7 0 w)) else if eqAt 14 6 1 w then some (.xprefUnbound (fieldOf 4 20 w) (fieldOf 7 7 w) (fieldOf 7 0 w)) else none
  | 0xA0 => if zeroAt 2 1 w then some (.ttpar (fieldOf 7 17 w) (fieldOf 7 10 w) (fieldOf 7 3 w) (fieldOf 2 0 w)) else none
  | 0xA1 => if zeroAt 2 8 w then some (.ttclr (fieldOf 7 17 w) (fieldOf 7 10 w) (fieldOf 2 0 w)) else none
  | 0xA2 => if zeroAt 2 8 w then some (.ttmask (fieldOf 7 17 w) (fieldOf 7 10 w) (fieldOf 2 0 w)) else none
  | 0xA3 => if zeroAt 2 8 w then some (.ttpos (fieldOf 7 17 w) (fieldOf 7 10 w) (fieldOf 2 0 w)) else none
  | 0xA4 => if zeroAt 2 1 w then some (.ttprune (fieldOf 7 17 w) (fieldOf 7 10 w) (fieldOf 7 3 w) (fieldOf 2 0 w)) else none
  | 0xF0 => if zeroAt 16 8 w then some (.trap (fieldOf 16 0 w)) else none
  | 0xF1 => if zeroAt 0 24 w then some (.eret) else none
  | 0xF2 => if zeroAt 10 7 w then some (.gets (fieldOf 7 17 w) (fieldOf 10 0 w)) else none
  | 0xF3 => if zeroAt 17 7 w then some (.puts (fieldOf 7 10 w) (fieldOf 10 0 w)) else none
  | 0xF4 => if zeroAt 0 24 w then some (.tlbiAll) else if eqAt 0 3 1 w && zeroAt 17 7 w && zeroAt 3 7 w then some (.tlbiAsid (fieldOf 7 10 w)) else if eqAt 0 3 2 w && zeroAt 17 7 w then some (.tlbiPage (fieldOf 7 10 w) (fieldOf 7 3 w)) else none
  | 0xF5 => if zeroAt 17 7 w then some (.brk (fieldOf 17 0 w)) else none
  | 0xF6 => if zeroAt 0 24 w then some (.idle) else none
  | _ => none

/-- The opcodes Table 12.2 assigns. -/
def assignedS (op : Nat) : Bool :=
  [0x01, 0x10, 0x11, 0x12, 0x13, 0x14, 0x15, 0x16, 0x17, 0x18, 0x19, 0x1A, 0x1B, 0x1C, 0x1D, 0x1E, 0x1F, 0x20, 0x21, 0x22, 0x23, 0x24, 0x25, 0x26, 0x27, 0x28, 0x30, 0x31, 0x32, 0x33, 0x34, 0x35, 0x36, 0x37, 0x38, 0x39, 0x40, 0x41, 0x42, 0x43, 0x44, 0x45, 0x46, 0x47, 0x50, 0x51, 0x52, 0x53, 0x54, 0x55, 0x56, 0x57, 0x60, 0x61, 0x62, 0x63, 0x64, 0x65, 0x66, 0x67, 0x68, 0x69, 0x6A, 0x6B, 0x6C, 0x70, 0x71, 0x72, 0x73, 0x74, 0x75, 0x76, 0x77, 0x78, 0x79, 0x7A, 0x7B, 0x80, 0x81, 0x82, 0x83, 0x84, 0x85, 0x86, 0x87, 0x88, 0x90, 0x91, 0x92, 0x93, 0x94, 0x95, 0x96, 0x97, 0x98, 0x99, 0x9A, 0xA0, 0xA1, 0xA2, 0xA3, 0xA4, 0xF0, 0xF1, 0xF2, 0xF3, 0xF4, 0xF5, 0xF6].contains op

/-- The E-word whose fixed bits and unused fields agree with its encoding table. -/
def rawE (w : Nat) : Option Instr :=
  match w / 0x2000000 with
  | 0x00 => if zeroAt 0 18 w then some (.vnop (fieldOf 2 23 w) (fieldOf 5 18 w)) else none
  | 0x01 => if zeroAt 2 11 w then some (.viadd (fieldOf 2 23 w) (fieldOf 5 18 w) (fieldOf 5 13 w) (bitOf 1 w) (bitOf 0 w)) else none
  | 0x02 => if zeroAt 2 11 w then some (.visub (fieldOf 2 23 w) (fieldOf 5 18 w) (fieldOf 5 13 w) (bitOf 1 w) (bitOf 0 w)) else none
  | 0x03 => if zeroAt 2 11 w then some (.vimul (fieldOf 2 23 w) (fieldOf 5 18 w) (fieldOf 5 13 w) (bitOf 1 w) (bitOf 0 w)) else none
  | 0x04 => if zeroAt 1 12 w then some (.vimulh (fieldOf 2 23 w) (fieldOf 5 18 w) (fieldOf 5 13 w) (bitOf 0 w)) else none
  | 0x05 => if zeroAt 2 6 w then some (.vimad (fieldOf 2 23 w) (fieldOf 5 18 w) (fieldOf 5 13 w) (fieldOf 5 8 w) (bitOf 1 w) (bitOf 0 w)) else none
  | 0x06 => if zeroAt 0 13 w then some (.vand (fieldOf 2 23 w) (fieldOf 5 18 w) (fieldOf 5 13 w)) else none
  | 0x07 => if zeroAt 0 13 w then some (.vor (fieldOf 2 23 w) (fieldOf 5 18 w) (fieldOf 5 13 w)) else none
  | 0x08 => if zeroAt 0 13 w then some (.vxor (fieldOf 2 23 w) (fieldOf 5 18 w) (fieldOf 5 13 w)) else none
  | 0x09 => if zeroAt 0 13 w then some (.vshl (fieldOf 2 23 w) (fieldOf 5 18 w) (fieldOf 5 13 w)) else none
  | 0x0A => if zeroAt 0 13 w then some (.vshr (fieldOf 2 23 w) (fieldOf 5 18 w) (fieldOf 5 13 w)) else none
  | 0x0B => if zeroAt 0 13 w then some (.vsha (fieldOf 2 23 w) (fieldOf 5 18 w) (fieldOf 5 13 w)) else none
  | 0x0C => if zeroAt 1 12 w then some (.vimin (fieldOf 2 23 w) (fieldOf 5 18 w) (fieldOf 5 13 w) (bitOf 0 w)) else none
  | 0x0D => if zeroAt 1 12 w then some (.vimax (fieldOf 2 23 w) (fieldOf 5 18 w) (fieldOf 5 13 w) (bitOf 0 w)) else none
  | 0x0E => if zeroAt 0 2 w && zeroAt 5 8 w then some (.vicmp (fieldOf 2 23 w) (fieldOf 5 18 w) (fieldOf 5 13 w) (fieldOf 3 2 w)) else none
  | 0x0F => if zeroAt 0 8 w then some (.vsel (fieldOf 2 23 w) (fieldOf 5 18 w) (fieldOf 5 13 w) (fieldOf 5 8 w)) else none
  | 0x10 => if zeroAt 0 2 w && zeroAt 4 9 w then some (.vaddc (fieldOf 2 23 w) (fieldOf 5 18 w) (fieldOf 5 13 w) (bitOf 3 w) (bitOf 2 w)) else none
  | 0x11 => if zeroAt 0 2 w && zeroAt 4 9 w then some (.vsubc (fieldOf 2 23 w) (fieldOf 5 18 w) (fieldOf 5 13 w) (bitOf 3 w) (bitOf 2 w)) else none
  | 0x12 => if zeroAt 0 2 w && zeroAt 4 4 w then some (.vmulc (fieldOf 2 23 w) (fieldOf 5 18 w) (fieldOf 5 13 w) (fieldOf 5 8 w) (bitOf 3 w) (bitOf 2 w)) else none
  | 0x13 => if zeroAt 0 13 w then some (.vhash (fieldOf 2 23 w) (fieldOf 5 18 w) (fieldOf 5 13 w)) else none
  | 0x14 => if zeroAt 0 18 w then some (.vclz (fieldOf 2 23 w) (fieldOf 5 18 w)) else none
  | 0x15 => if zeroAt 0 18 w then some (.vpopc (fieldOf 2 23 w) (fieldOf 5 18 w)) else none
  | 0x16 => if zeroAt 1 7 w then some (.vbfx (fieldOf 2 23 w) (fieldOf 5 18 w) (fieldOf 5 13 w) (fieldOf 5 8 w) (bitOf 0 w)) else none
  | 0x18 => if zeroAt 4 9 w then some (.vfadd (fieldOf 2 23 w) (fieldOf 5 18 w) (fieldOf 5 13 w) (bitOf 3 w) (fieldOf 3 0 w)) else none
  | 0x19 => if zeroAt 4 9 w then some (.vfsub (fieldOf 2 23 w) (fieldOf 5 18 w) (fieldOf 5 13 w) (bitOf 3 w) (fieldOf 3 0 w)) else none
  | 0x1A => if zeroAt 4 9 w then some (.vfmul (fieldOf 2 23 w) (fieldOf 5 18 w) (fieldOf 5 13 w) (bitOf 3 w) (fieldOf 3 0 w)) else none
  | 0x1B => if zeroAt 4 4 w then some (.vfma (fieldOf 2 23 w) (fieldOf 5 18 w) (fieldOf 5 13 w) (fieldOf 5 8 w) (bitOf 3 w) (fieldOf 3 0 w)) else none
  | 0x1C => if zeroAt 0 13 w then some (.vfmin (fieldOf 2 23 w) (fieldOf 5 18 w) (fieldOf 5 13 w)) else none
  | 0x1D => if zeroAt 0 13 w then some (.vfmax (fieldOf 2 23 w) (fieldOf 5 18 w) (fieldOf 5 13 w)) else none
  | 0x1E => if zeroAt 0 4 w && zeroAt 6 7 w then some (.vfcmp (fieldOf 2 23 w) (fieldOf 5 18 w) (fieldOf 5 13 w) (fieldOf 2 4 w)) else none
  | 0x1F => if zeroAt 0 4 w && zeroAt 6 7 w then some (.vfsign (fieldOf 2 23 w) (fieldOf 5 18 w) (fieldOf 5 13 w) (fieldOf 2 4 w)) else none
  | 0x20 => some (.vfcvt (fieldOf 2 23 w) (fieldOf 5 18 w) (fieldOf 5 13 w) (fieldOf 5 8 w) (fieldOf 4 4 w) (bitOf 3 w) (fieldOf 3 0 w))
  | 0x21 => if zeroAt 4 14 w then some (.vfrcpe (fieldOf 2 23 w) (fieldOf 5 18 w) (bitOf 3 w) (fieldOf 3 0 w)) else none
  | 0x22 => if zeroAt 4 14 w then some (.vfrsqe (fieldOf 2 23 w) (fieldOf 5 18 w) (bitOf 3 w) (fieldOf 3 0 w)) else none
  | 0x23 => if zeroAt 4 14 w then some (.vfexp2 (fieldOf 2 23 w) (fieldOf 5 18 w) (bitOf 3 w) (fieldOf 3 0 w)) else none
  | 0x24 => if zeroAt 0 4 w && zeroAt 6 2 w && zeroAt 13 5 w then some (.vpqz (fieldOf 2 23 w) (fieldOf 5 18 w) (fieldOf 5 8 w) (fieldOf 2 4 w)) else none
  | 0x25 => if zeroAt 0 4 w && zeroAt 6 7 w then some (.vpmul (fieldOf 2 23 w) (fieldOf 5 18 w) (fieldOf 5 13 w) (fieldOf 2 4 w)) else none
  | 0x26 => if zeroAt 7 6 w then some (.vred (fieldOf 2 23 w) (fieldOf 5 18 w) (fieldOf 5 13 w) (fieldOf 3 4 w) (bitOf 3 w) (fieldOf 3 0 w)) else none
  | 0x30 => if zeroAt 0 18 w then some (.fork (fieldOf 2 23 w) (fieldOf 5 18 w)) else none
  | 0x31 => if zeroAt 3 10 w then some (.filt (fieldOf 2 23 w) (fieldOf 5 18 w) (fieldOf 5 13 w) (fieldOf 3 0 w)) else none
  | 0x32 => if zeroAt 4 9 w then some (.steer (fieldOf 2 23 w) (fieldOf 5 18 w) (fieldOf 5 13 w) (bitOf 3 w) (fieldOf 3 0 w)) else none
  | 0x33 => if zeroAt 1 1 w && zeroAt 4 9 w && zeroAt 23 2 w then some (.merge (fieldOf 5 18 w) (fieldOf 5 13 w) (fieldOf 2 2 w) (bitOf 0 w)) else none
  | 0x34 => if zeroAt 0 25 w then some (.pack) else none
  | 0x35 => if zeroAt 3 1 w && zeroAt 8 5 w then some (.perm (fieldOf 2 23 w) (fieldOf 5 18 w) (fieldOf 5 13 w) (fieldOf 4 4 w) (bitOf 2 w) (fieldOf 2 0 w)) else none
  | 0x36 => if zeroAt 4 14 w then some (.splat (fieldOf 2 23 w) (fieldOf 5 18 w) (fieldOf 4 0 w)) else none
  | 0x37 => if zeroAt 0 18 w then some (.tagseq (fieldOf 2 23 w) (fieldOf 5 18 w)) else none
  | 0x38 => if zeroAt 0 25 w then some (.ordr) else none
  | 0x39 => if zeroAt 4 3 w && zeroAt 8 15 w then some (.gen (fieldOf 2 23 w) (bitOf 7 w) (bitOf 3 w) (fieldOf 3 0 w)) else none
  | 0x3A => if zeroAt 2 16 w then some (.cntl (fieldOf 2 23 w) (fieldOf 5 18 w) (bitOf 1 w) (bitOf 0 w)) else none
  | 0x3B => if zeroAt 1 24 w then some (.stat (bitOf 0 w)) else none
  | 0x3C => if zeroAt 1 12 w then some (.topk (fieldOf 2 23 w) (fieldOf 5 18 w) (fieldOf 5 13 w) (bitOf 0 w)) else none
  | 0x48 => if zeroAt 0 7 w && zeroAt 8 10 w then some (.spld (fieldOf 2 23 w) (fieldOf 5 18 w) (bitOf 7 w)) else none
  | 0x49 => if zeroAt 0 7 w && zeroAt 8 5 w then some (.spst (fieldOf 2 23 w) (fieldOf 5 18 w) (fieldOf 5 13 w) (bitOf 7 w)) else none
  | 0x4A => if zeroAt 3 4 w && zeroAt 8 5 w then some (.spamo (fieldOf 2 23 w) (fieldOf 5 18 w) (fieldOf 5 13 w) (bitOf 7 w) (fieldOf 3 0 w)) else none
  | 0x4B => if zeroAt 0 25 w then some (.spfifo) else none
  | 0x4C => if zeroAt 3 15 w then some (.ltake (fieldOf 2 23 w) (fieldOf 5 18 w) (fieldOf 3 0 w)) else none
  | 0x4D => if zeroAt 3 15 w then some (.lgive (fieldOf 2 23 w) (fieldOf 5 18 w) (fieldOf 3 0 w)) else none
  | 0x4E => if zeroAt 3 22 w then some (.spsync (fieldOf 3 0 w)) else none
  | 0x58 => if zeroAt 0 25 w then some (.mload) else none
  | 0x59 => if zeroAt 1 24 w then some (.mswap (bitOf 0 w)) else none
  | 0x5A => if zeroAt 0 4 w && zeroAt 6 19 w then some (.mrow (fieldOf 2 4 w)) else none
  | 0x5B => if zeroAt 0 4 w && zeroAt 7 18 w then some (.mdrain (bitOf 6 w) (fieldOf 2 4 w)) else none
  | 0x5C => if zeroAt 0 25 w then some (.mclr) else none
  | 0x60 => if zeroAt 2 11 w then some (.vanc (fieldOf 2 23 w) (fieldOf 5 18 w) (fieldOf 5 13 w) (fieldOf 2 0 w)) else none
  | 0x61 => if zeroAt 0 18 w then some (.ecount (fieldOf 2 23 w) (fieldOf 5 18 w)) else none
  | 0x62 => if zeroAt 5 20 w then some (.barn (bitOf 4 w) (bitOf 3 w) (bitOf 2 w) (bitOf 1 w) (bitOf 0 w)) else none
  | _ => none

/-- The opcodes Table 12.10 assigns. -/
def assignedE (op : Nat) : Bool :=
  [0x00, 0x01, 0x02, 0x03, 0x04, 0x05, 0x06, 0x07, 0x08, 0x09, 0x0A, 0x0B, 0x0C, 0x0D, 0x0E, 0x0F, 0x10, 0x11, 0x12, 0x13, 0x14, 0x15, 0x16, 0x18, 0x19, 0x1A, 0x1B, 0x1C, 0x1D, 0x1E, 0x1F, 0x20, 0x21, 0x22, 0x23, 0x24, 0x25, 0x26, 0x30, 0x31, 0x32, 0x33, 0x34, 0x35, 0x36, 0x37, 0x38, 0x39, 0x3A, 0x3B, 0x3C, 0x48, 0x49, 0x4A, 0x4B, 0x4C, 0x4D, 0x4E, 0x58, 0x59, 0x5A, 0x5B, 0x5C, 0x60, 0x61, 0x62].contains op

/-- The switch word of 16 bits: KIND, INPUT, OUT, TRACK, MODE (Table 12.11). MODE is zero outside SWG (R378). -/
def rawSw (w : Nat) : Option Instr :=
  match w / 0x4000 with
  | 0 => if zeroAt 0 3 w then some (.swp (fieldOf 3 11 w) (fieldOf 5 6 w) (fieldOf 3 3 w)) else none
  | 1 => if zeroAt 0 3 w then some (.swm (fieldOf 3 11 w) (fieldOf 5 6 w) (fieldOf 3 3 w)) else none
  | 2 => some (.swg (fieldOf 3 11 w) (fieldOf 5 6 w) (fieldOf 3 3 w) (fieldOf 3 0 w))
  | 3 => if zeroAt 0 3 w then some (.swb (fieldOf 3 11 w) (fieldOf 5 6 w) (fieldOf 3 3 w)) else none
  | _ => none

/-- The well-formed instruction of a raw decoding, or the reason there is none. -/
def checkRaw (assigned : Bool) (raw : Option Instr) : Except DecodeError Instr :=
  if !assigned then .error .unassignedOpcode
  else match raw with
    | none => .error .reservedField
    | some i => if i.wellFormed then .ok i else .error .badOperand

/-- Decodes an S-word (R364 to R370). -/
def decodeS (w : Nat) : Except DecodeError Instr := checkRaw (assignedS (w / 0x1000000)) (rawS w)

/-- Decodes an E-word (R372 to R375). -/
def decodeE (w : Nat) : Except DecodeError Instr := checkRaw (assignedE (w / 0x2000000)) (rawE w)

/-- Decodes a switch word (R377, R378). -/
def decodeSw (w : Nat) : Except DecodeError Instr := checkRaw (decide (w < 0x10000)) (rawSw w)

/-- Decodes the S-word at the head of a byte string, with the rest of the string. -/
def decodeBytes : List Byte → Except DecodeError (Instr × List Byte)
  | b0 :: b1 :: b2 :: b3 :: rest =>
    match decodeS (leNat [b0, b1, b2, b3]) with
    | .ok i => .ok (i, rest)
    | .error e => .error e
  | _ => .error .tooShort

/-- The S-word of an instruction the sequencer fetches, as a number; none for every other row. -/
def encodeS : Instr → Option Nat
  | .nop => some (0x01000000)
  | .add d a b n s w => some (0x10000000 + d.toNat * 0x20000 + a.toNat * 0x400 + b.toNat * 0x8 + n.toNat * 0x4 + s.toNat * 0x2 + w.toNat)
  | .sub d a b n s w => some (0x11000000 + d.toNat * 0x20000 + a.toNat * 0x400 + b.toNat * 0x8 + n.toNat * 0x4 + s.toNat * 0x2 + w.toNat)
  | .mul d a b n s w => some (0x12000000 + d.toNat * 0x20000 + a.toNat * 0x400 + b.toNat * 0x8 + n.toNat * 0x4 + s.toNat * 0x2 + w.toNat)
  | .mulh d a b n w => some (0x13000000 + d.toNat * 0x20000 + a.toNat * 0x400 + b.toNat * 0x8 + n.toNat * 0x4 + w.toNat)
  | .div d a b n w => some (0x14000000 + d.toNat * 0x20000 + a.toNat * 0x400 + b.toNat * 0x8 + n.toNat * 0x4 + w.toNat)
  | .rem d a b n w => some (0x15000000 + d.toNat * 0x20000 + a.toNat * 0x400 + b.toNat * 0x8 + n.toNat * 0x4 + w.toNat)
  | .and d a b w => some (0x16000000 + d.toNat * 0x20000 + a.toNat * 0x400 + b.toNat * 0x8 + w.toNat)
  | .or d a b w => some (0x17000000 + d.toNat * 0x20000 + a.toNat * 0x400 + b.toNat * 0x8 + w.toNat)
  | .xor d a b w => some (0x18000000 + d.toNat * 0x20000 + a.toNat * 0x400 + b.toNat * 0x8 + w.toNat)
  | .shl d a b w => some (0x19000000 + d.toNat * 0x20000 + a.toNat * 0x400 + b.toNat * 0x8 + w.toNat)
  | .shr d a b w => some (0x1A000000 + d.toNat * 0x20000 + a.toNat * 0x400 + b.toNat * 0x8 + w.toNat)
  | .sha d a b w => some (0x1B000000 + d.toNat * 0x20000 + a.toNat * 0x400 + b.toNat * 0x8 + w.toNat)
  | .min d a b n w => some (0x1C000000 + d.toNat * 0x20000 + a.toNat * 0x400 + b.toNat * 0x8 + n.toNat * 0x4 + w.toNat)
  | .max d a b n w => some (0x1D000000 + d.toNat * 0x20000 + a.toNat * 0x400 + b.toNat * 0x8 + n.toNat * 0x4 + w.toNat)
  | .slt d a b n w => some (0x1E000000 + d.toNat * 0x20000 + a.toNat * 0x400 + b.toNat * 0x8 + n.toNat * 0x4 + w.toNat)
  | .seq d a b w => some (0x1F000000 + d.toNat * 0x20000 + a.toNat * 0x400 + b.toNat * 0x8 + w.toNat)
  | .sel d a b => some (0x20000000 + d.toNat * 0x20000 + a.toNat * 0x400 + b.toNat * 0x8)
  | .clz d a w => some (0x21000000 + d.toNat * 0x20000 + a.toNat * 0x400 + w.toNat)
  | .popc d a w => some (0x22000000 + d.toNat * 0x20000 + a.toNat * 0x400 + w.toNat)
  | .ext d a n z => some (0x23000000 + d.toNat * 0x20000 + a.toNat * 0x400 + n.toNat * 0x4 + z.toNat)
  | .bfx d a b n => some (0x24000000 + d.toNat * 0x20000 + a.toNat * 0x400 + b.toNat * 0x8 + n.toNat * 0x4)
  | .bfi d a b => some (0x25000000 + d.toNat * 0x20000 + a.toNat * 0x400 + b.toNat * 0x8)
  | .lea d a b h => some (0x26000000 + d.toNat * 0x20000 + a.toNat * 0x400 + b.toNat * 0x8 + h.toNat)
  | .hash d a b => some (0x27000000 + d.toNat * 0x20000 + a.toNat * 0x400 + b.toNat * 0x8)
  | .widx d a k => some (0x28000000 + d.toNat * 0x20000 + a.toNat * 0x400 + k.toNat)
  | .addi d a i => some (0x30000000 + d.toNat * 0x20000 + a.toNat * 0x400 + i.toNat)
  | .andi d a i => some (0x31000000 + d.toNat * 0x20000 + a.toNat * 0x400 + i.toNat)
  | .ori d a i => some (0x32000000 + d.toNat * 0x20000 + a.toNat * 0x400 + i.toNat)
  | .xori d a i => some (0x33000000 + d.toNat * 0x20000 + a.toNat * 0x400 + i.toNat)
  | .shli d a s => some (0x34000000 + d.toNat * 0x20000 + a.toNat * 0x400 + s.toNat)
  | .shri d a s => some (0x35000000 + d.toNat * 0x20000 + a.toNat * 0x400 + s.toNat)
  | .shai d a s => some (0x36000000 + d.toNat * 0x20000 + a.toNat * 0x400 + s.toNat)
  | .slti d a i => some (0x37000000 + d.toNat * 0x20000 + a.toNat * 0x400 + i.toNat)
  | .lil d i => some (0x38000000 + d.toNat * 0x20000 + i.toNat)
  | .lis d i => some (0x39000000 + d.toNat * 0x20000 + i.toNat)
  | .ld d a o z => some (0x40000000 + d.toNat * 0x20000 + a.toNat * 0x400 + o.toNat * 0x4 + z.toNat)
  | .ldn d a o z => some (0x41000000 + d.toNat * 0x20000 + a.toNat * 0x400 + o.toNat * 0x4 + z.toNat)
  | .st t a o z => some (0x42000000 + t.toNat * 0x20000 + a.toNat * 0x400 + o.toNat * 0x4 + z.toNat)
  | .ldx d a b n z => some (0x43000000 + d.toNat * 0x20000 + a.toNat * 0x400 + b.toNat * 0x8 + n.toNat * 0x4 + z.toNat)
  | .stx t a b z => some (0x44000000 + t.toNat * 0x20000 + a.toNat * 0x400 + b.toNat * 0x8 + z.toNat)
  | .pref a o z => some (0x45000000 + a.toNat * 0x400 + o.toNat * 0x4 + z.toNat)
  | .swait d a b => some (0x46000000 + d.toNat * 0x20000 + a.toNat * 0x400 + b.toNat * 0x8)
  | .sarm d a b => some (0x47000000 + d.toNat * 0x20000 + a.toNat * 0x400 + b.toNat * 0x8)
  | .amo d a b p => some (0x50000000 + d.toNat * 0x20000 + a.toNat * 0x400 + b.toNat * 0x8 + p.toNat)
  | .amow d a b p => some (0x51000000 + d.toNat * 0x20000 + a.toNat * 0x400 + b.toNat * 0x8 + p.toNat)
  | .cas d a b => some (0x52000000 + d.toNat * 0x20000 + a.toNat * 0x400 + b.toNat * 0x8)
  | .casw d a b => some (0x53000000 + d.toNat * 0x20000 + a.toNat * 0x400 + b.toNat * 0x8)
  | .fence w i b s => some (0x54000000 + w.toNat * 0x20 + i.toNat * 0x10 + b.toNat * 0x8 + s.toNat)
  | .barr d a b => some (0x55000000 + d.toNat * 0x20000 + a.toNat * 0x400 + b.toNat * 0x8)
  | .publ d a b => some (0x56000000 + d.toNat * 0x20000 + a.toNat * 0x400 + b.toNat * 0x8)
  | .rcsnap d a => some (0x57000000 + d.toNat * 0x20000 + a.toNat * 0x400)
  | .br o => some (0x60000000 + o.toNat)
  | .call o => some (0x61000000 + o.toNat)
  | .jr a l => some (0x62000000 + a.toNat * 0x400 + l.toNat)
  | .beq a b o => some (0x63000000 + a.toNat * 0x20000 + b.toNat * 0x400 + o.toNat)
  | .bne a b o => some (0x64000000 + a.toNat * 0x20000 + b.toNat * 0x400 + o.toNat)
  | .blt a b o => some (0x65000000 + a.toNat * 0x20000 + b.toNat * 0x400 + o.toNat)
  | .bge a b o => some (0x66000000 + a.toNat * 0x20000 + b.toNat * 0x400 + o.toNat)
  | .bltn a b o => some (0x67000000 + a.toNat * 0x20000 + b.toNat * 0x400 + o.toNat)
  | .bgen a b o => some (0x68000000 + a.toNat * 0x20000 + b.toNat * 0x400 + o.toNat)
  | .loop a o => some (0x69000000 + a.toNat * 0x20000 + o.toNat)
  | .rep c d a b => some (0x6A000000 + c.toNat * 0x40000 + d.toNat * 0x2000 + a.toNat * 0x100 + b.toNat * 0x8)
  | .endFiring => some (0x6B000000)
  | .endDone => some (0x6B000001)
  | .endKill => some (0x6B000002)
  | .yield => some (0x6C000000)
  | .fadd d a b r => some (0x70000000 + d.toNat * 0x20000 + a.toNat * 0x400 + b.toNat * 0x8 + r.toNat)
  | .fsub d a b r => some (0x71000000 + d.toNat * 0x20000 + a.toNat * 0x400 + b.toNat * 0x8 + r.toNat)
  | .fmul d a b r => some (0x72000000 + d.toNat * 0x20000 + a.toNat * 0x400 + b.toNat * 0x8 + r.toNat)
  | .fma d a b r => some (0x73000000 + d.toNat * 0x20000 + a.toNat * 0x400 + b.toNat * 0x8 + r.toNat)
  | .fmin d a b => some (0x74000000 + d.toNat * 0x20000 + a.toNat * 0x400 + b.toNat * 0x8)
  | .fmax d a b => some (0x75000000 + d.toNat * 0x20000 + a.toNat * 0x400 + b.toNat * 0x8)
  | .fcmp d a b p => some (0x76000000 + d.toNat * 0x20000 + a.toNat * 0x400 + b.toNat * 0x8 + p.toNat)
  | .fcvt d a k r => some (0x77000000 + d.toNat * 0x20000 + a.toNat * 0x400 + k.toNat * 0x8 + r.toNat)
  | .spawn d a b => some (0x78000000 + d.toNat * 0x20000 + a.toNat * 0x400 + b.toNat * 0x8)
  | .pushq d a b c => some (0x79000000 + d.toNat * 0x20000 + a.toNat * 0x400 + b.toNat * 0x8 + c.toNat)
  | .popq d a b => some (0x7A000000 + d.toNat * 0x20000 + a.toNat * 0x400 + b.toNat * 0x8)
  | .notify d a b => some (0x7B000000 + d.toNat * 0x20000 + a.toNat * 0x400 + b.toNat * 0x8)
  | .cfld d a b c => some (0x80000000 + d.toNat * 0x20000 + a.toNat * 0x400 + b.toNat * 0x8 + c.toNat)
  | .cfsw d a c => some (0x81000000 + d.toNat * 0x20000 + a.toNat * 0x400 + c.toNat)
  | .cfwv d a b c => some (0x82000000 + d.toNat * 0x20000 + a.toNat * 0x400 + b.toNat * 0x8 + c.toNat)
  | .drain d a => some (0x83000000 + d.toNat * 0x20000 + a.toNat * 0x400)
  | .qwait d a b => some (0x84000000 + d.toNat * 0x20000 + a.toNat * 0x400 + b.toNat * 0x8)
  | .inj d a b r c => some (0x85000000 + d.toNat * 0x20000 + a.toNat * 0x400 + b.toNat * 0x8 + r.toNat * 0x2 + c.toNat)
  | .draw d a b => some (0x86000000 + d.toNat * 0x20000 + a.toNat * 0x400 + b.toNat * 0x8)
  | .selvAssign d a b => some (0x87000000 + d.toNat * 0x20000 + a.toNat * 0x400 + b.toNat * 0x8)
  | .selvOpen d a b => some (0x87000001 + d.toNat * 0x20000 + a.toNat * 0x400 + b.toNat * 0x8)
  | .selvClose d a b => some (0x87000002 + d.toNat * 0x20000 + a.toNat * 0x400 + b.toNat * 0x8)
  | .curd d a b => some (0x88000000 + d.toNat * 0x20000 + a.toNat * 0x400 + b.toNat * 0x8)
  | .xcopyCopy e b r => some (0x90000000 + e.toNat * 0x100000 + b.toNat * 0x80 + r.toNat)
  | .xcopyFill e b r => some (0x90004000 + e.toNat * 0x100000 + b.toNat * 0x80 + r.toNat)
  | .xgatherPort e b r => some (0x91000000 + e.toNat * 0x100000 + b.toNat * 0x80 + r.toNat)
  | .xgatherMem e b r => some (0x91004000 + e.toNat * 0x100000 + b.toNat * 0x80 + r.toNat)
  | .xscatterWrite e b r => some (0x92000000 + e.toNat * 0x100000 + b.toNat * 0x80 + r.toNat)
  | .xscatterAdd e b r => some (0x92004000 + e.toNat * 0x100000 + b.toNat * 0x80 + r.toNat)
  | .xrowupd e b r => some (0x93000000 + e.toNat * 0x100000 + b.toNat * 0x80 + r.toNat)
  | .xmigrate e b r => some (0x94000000 + e.toNat * 0x100000 + b.toNat * 0x80 + r.toNat)
  | .xstream e b r => some (0x95000000 + e.toNat * 0x100000 + b.toNat * 0x80 + r.toNat)
  | .xkvappAppend e b r => some (0x96000000 + e.toNat * 0x100000 + b.toNat * 0x80 + r.toNat)
  | .xkvappEvict e b r => some (0x96004000 + e.toNat * 0x100000 + b.toNat * 0x80 + r.toNat)
  | .xkvappFree e b r => some (0x96008000 + e.toNat * 0x100000 + b.toNat * 0x80 + r.toNat)
  | .xkvsend e b r => some (0x97000000 + e.toNat * 0x100000 + b.toNat * 0x80 + r.toNat)
  | .xlogAppend e b r => some (0x98000000 + e.toNat * 0x100000 + b.toNat * 0x80 + r.toNat)
  | .xlogTrim e b r => some (0x98004000 + e.toNat * 0x100000 + b.toNat * 0x80 + r.toNat)
  | .xlogStatus e b r => some (0x98008000 + e.toNat * 0x100000 + b.toNat * 0x80 + r.toNat)
  | .xreduceSum e b r => some (0x99000000 + e.toNat * 0x100000 + b.toNat * 0x80 + r.toNat)
  | .xreduceMax e b r => some (0x99004000 + e.toNat * 0x100000 + b.toNat * 0x80 + r.toNat)
  | .xreduceMin e b r => some (0x99008000 + e.toNat * 0x100000 + b.toNat * 0x80 + r.toNat)
  | .xreduceGather e b r => some (0x9900C000 + e.toNat * 0x100000 + b.toNat * 0x80 + r.toNat)
  | .xprefBound e b r => some (0x9A000000 + e.toNat * 0x100000 + b.toNat * 0x80 + r.toNat)
  | .xprefUnbound e b r => some (0x9A004000 + e.toNat * 0x100000 + b.toNat * 0x80 + r.toNat)
  | .ttpar d a b t => some (0xA0000000 + d.toNat * 0x20000 + a.toNat * 0x400 + b.toNat * 0x8 + t.toNat)
  | .ttclr d a t => some (0xA1000000 + d.toNat * 0x20000 + a.toNat * 0x400 + t.toNat)
  | .ttmask d a t => some (0xA2000000 + d.toNat * 0x20000 + a.toNat * 0x400 + t.toNat)
  | .ttpos d a t => some (0xA3000000 + d.toNat * 0x20000 + a.toNat * 0x400 + t.toNat)
  | .ttprune d a b t => some (0xA4000000 + d.toNat * 0x20000 + a.toNat * 0x400 + b.toNat * 0x8 + t.toNat)
  | .trap i => some (0xF0000000 + i.toNat)
  | .eret => some (0xF1000000)
  | .gets d i => some (0xF2000000 + d.toNat * 0x20000 + i.toNat)
  | .puts a i => some (0xF3000000 + a.toNat * 0x400 + i.toNat)
  | .tlbiAll => some (0xF4000000)
  | .tlbiAsid a => some (0xF4000001 + a.toNat * 0x400)
  | .tlbiPage a b => some (0xF4000002 + a.toNat * 0x400 + b.toNat * 0x8)
  | .brk i => some (0xF5000000 + i.toNat)
  | .idle => some (0xF6000000)
  | _ => none

/-- The E-word of an operation of a context, as a number; none for every other row. -/
def encodeE : Instr → Option Nat
  | .vnop d a => some (0x00000000 + d.toNat * 0x800000 + a.toNat * 0x40000)
  | .viadd d a b s n => some (0x02000000 + d.toNat * 0x800000 + a.toNat * 0x40000 + b.toNat * 0x2000 + s.toNat * 0x2 + n.toNat)
  | .visub d a b s n => some (0x04000000 + d.toNat * 0x800000 + a.toNat * 0x40000 + b.toNat * 0x2000 + s.toNat * 0x2 + n.toNat)
  | .vimul d a b s n => some (0x06000000 + d.toNat * 0x800000 + a.toNat * 0x40000 + b.toNat * 0x2000 + s.toNat * 0x2 + n.toNat)
  | .vimulh d a b n => some (0x08000000 + d.toNat * 0x800000 + a.toNat * 0x40000 + b.toNat * 0x2000 + n.toNat)
  | .vimad d a b c s n => some (0x0A000000 + d.toNat * 0x800000 + a.toNat * 0x40000 + b.toNat * 0x2000 + c.toNat * 0x100 + s.toNat * 0x2 + n.toNat)
  | .vand d a b => some (0x0C000000 + d.toNat * 0x800000 + a.toNat * 0x40000 + b.toNat * 0x2000)
  | .vor d a b => some (0x0E000000 + d.toNat * 0x800000 + a.toNat * 0x40000 + b.toNat * 0x2000)
  | .vxor d a b => some (0x10000000 + d.toNat * 0x800000 + a.toNat * 0x40000 + b.toNat * 0x2000)
  | .vshl d a b => some (0x12000000 + d.toNat * 0x800000 + a.toNat * 0x40000 + b.toNat * 0x2000)
  | .vshr d a b => some (0x14000000 + d.toNat * 0x800000 + a.toNat * 0x40000 + b.toNat * 0x2000)
  | .vsha d a b => some (0x16000000 + d.toNat * 0x800000 + a.toNat * 0x40000 + b.toNat * 0x2000)
  | .vimin d a b n => some (0x18000000 + d.toNat * 0x800000 + a.toNat * 0x40000 + b.toNat * 0x2000 + n.toNat)
  | .vimax d a b n => some (0x1A000000 + d.toNat * 0x800000 + a.toNat * 0x40000 + b.toNat * 0x2000 + n.toNat)
  | .vicmp d a b c => some (0x1C000000 + d.toNat * 0x800000 + a.toNat * 0x40000 + b.toNat * 0x2000 + c.toNat * 0x4)
  | .vsel d a b c => some (0x1E000000 + d.toNat * 0x800000 + a.toNat * 0x40000 + b.toNat * 0x2000 + c.toNat * 0x100)
  | .vaddc d a b o i => some (0x20000000 + d.toNat * 0x800000 + a.toNat * 0x40000 + b.toNat * 0x2000 + o.toNat * 0x8 + i.toNat * 0x4)
  | .vsubc d a b o i => some (0x22000000 + d.toNat * 0x800000 + a.toNat * 0x40000 + b.toNat * 0x2000 + o.toNat * 0x8 + i.toNat * 0x4)
  | .vmulc d a b c o i => some (0x24000000 + d.toNat * 0x800000 + a.toNat * 0x40000 + b.toNat * 0x2000 + c.toNat * 0x100 + o.toNat * 0x8 + i.toNat * 0x4)
  | .vhash d a b => some (0x26000000 + d.toNat * 0x800000 + a.toNat * 0x40000 + b.toNat * 0x2000)
  | .vclz d a => some (0x28000000 + d.toNat * 0x800000 + a.toNat * 0x40000)
  | .vpopc d a => some (0x2A000000 + d.toNat * 0x800000 + a.toNat * 0x40000)
  | .vbfx d a b c n => some (0x2C000000 + d.toNat * 0x800000 + a.toNat * 0x40000 + b.toNat * 0x2000 + c.toNat * 0x100 + n.toNat)
  | .vfadd d a b f r => some (0x30000000 + d.toNat * 0x800000 + a.toNat * 0x40000 + b.toNat * 0x2000 + f.toNat * 0x8 + r.toNat)
  | .vfsub d a b f r => some (0x32000000 + d.toNat * 0x800000 + a.toNat * 0x40000 + b.toNat * 0x2000 + f.toNat * 0x8 + r.toNat)
  | .vfmul d a b f r => some (0x34000000 + d.toNat * 0x800000 + a.toNat * 0x40000 + b.toNat * 0x2000 + f.toNat * 0x8 + r.toNat)
  | .vfma d a b c f r => some (0x36000000 + d.toNat * 0x800000 + a.toNat * 0x40000 + b.toNat * 0x2000 + c.toNat * 0x100 + f.toNat * 0x8 + r.toNat)
  | .vfmin d a b => some (0x38000000 + d.toNat * 0x800000 + a.toNat * 0x40000 + b.toNat * 0x2000)
  | .vfmax d a b => some (0x3A000000 + d.toNat * 0x800000 + a.toNat * 0x40000 + b.toNat * 0x2000)
  | .vfcmp d a b p => some (0x3C000000 + d.toNat * 0x800000 + a.toNat * 0x40000 + b.toNat * 0x2000 + p.toNat * 0x10)
  | .vfsign d a b o => some (0x3E000000 + d.toNat * 0x800000 + a.toNat * 0x40000 + b.toNat * 0x2000 + o.toNat * 0x10)
  | .vfcvt d a b c k f r => some (0x40000000 + d.toNat * 0x800000 + a.toNat * 0x40000 + b.toNat * 0x2000 + c.toNat * 0x100 + k.toNat * 0x10 + f.toNat * 0x8 + r.toNat)
  | .vfrcpe d a f r => some (0x42000000 + d.toNat * 0x800000 + a.toNat * 0x40000 + f.toNat * 0x8 + r.toNat)
  | .vfrsqe d a f r => some (0x44000000 + d.toNat * 0x800000 + a.toNat * 0x40000 + f.toNat * 0x8 + r.toNat)
  | .vfexp2 d a f r => some (0x46000000 + d.toNat * 0x800000 + a.toNat * 0x40000 + f.toNat * 0x8 + r.toNat)
  | .vpqz d a c s => some (0x48000000 + d.toNat * 0x800000 + a.toNat * 0x40000 + c.toNat * 0x100 + s.toNat * 0x10)
  | .vpmul d a b s => some (0x4A000000 + d.toNat * 0x800000 + a.toNat * 0x40000 + b.toNat * 0x2000 + s.toNat * 0x10)
  | .vred d a b m f r => some (0x4C000000 + d.toNat * 0x800000 + a.toNat * 0x40000 + b.toNat * 0x2000 + m.toNat * 0x10 + f.toNat * 0x8 + r.toNat)
  | .fork d a => some (0x60000000 + d.toNat * 0x800000 + a.toNat * 0x40000)
  | .filt d a b c => some (0x62000000 + d.toNat * 0x800000 + a.toNat * 0x40000 + b.toNat * 0x2000 + c.toNat)
  | .steer d a b k c => some (0x64000000 + d.toNat * 0x800000 + a.toNat * 0x40000 + b.toNat * 0x2000 + k.toNat * 0x8 + c.toNat)
  | .merge a b w l => some (0x66000000 + a.toNat * 0x40000 + b.toNat * 0x2000 + w.toNat * 0x4 + l.toNat)
  | .pack => some (0x68000000)
  | .perm d a b k p m => some (0x6A000000 + d.toNat * 0x800000 + a.toNat * 0x40000 + b.toNat * 0x2000 + k.toNat * 0x10 + p.toNat * 0x4 + m.toNat)
  | .splat d a l => some (0x6C000000 + d.toNat * 0x800000 + a.toNat * 0x40000 + l.toNat)
  | .tagseq d a => some (0x6E000000 + d.toNat * 0x800000 + a.toNat * 0x40000)
  | .ordr => some (0x70000000)
  | .gen d s h k => some (0x72000000 + d.toNat * 0x800000 + s.toNat * 0x80 + h.toNat * 0x8 + k.toNat)
  | .cntl d a e r => some (0x74000000 + d.toNat * 0x800000 + a.toNat * 0x40000 + e.toNat * 0x2 + r.toNat)
  | .stat r => some (0x76000000 + r.toNat)
  | .topk d a b s => some (0x78000000 + d.toNat * 0x800000 + a.toNat * 0x40000 + b.toNat * 0x2000 + s.toNat)
  | .spld d a t => some (0x90000000 + d.toNat * 0x800000 + a.toNat * 0x40000 + t.toNat * 0x80)
  | .spst d a b t => some (0x92000000 + d.toNat * 0x800000 + a.toNat * 0x40000 + b.toNat * 0x2000 + t.toNat * 0x80)
  | .spamo d a b t p => some (0x94000000 + d.toNat * 0x800000 + a.toNat * 0x40000 + b.toNat * 0x2000 + t.toNat * 0x80 + p.toNat)
  | .spfifo => some (0x96000000)
  | .ltake d a n => some (0x98000000 + d.toNat * 0x800000 + a.toNat * 0x40000 + n.toNat)
  | .lgive d a n => some (0x9A000000 + d.toNat * 0x800000 + a.toNat * 0x40000 + n.toNat)
  | .spsync s => some (0x9C000000 + s.toNat)
  | .mload => some (0xB0000000)
  | .mswap p => some (0xB2000000 + p.toNat)
  | .mrow p => some (0xB4000000 + p.toNat * 0x10)
  | .mdrain c f => some (0xB6000000 + c.toNat * 0x40 + f.toNat * 0x10)
  | .mclr => some (0xB8000000)
  | .vanc d a b t => some (0xC0000000 + d.toNat * 0x800000 + a.toNat * 0x40000 + b.toNat * 0x2000 + t.toNat)
  | .ecount d a => some (0xC2000000 + d.toNat * 0x800000 + a.toNat * 0x40000)
  | .barn l w s e n => some (0xC4000000 + l.toNat * 0x10 + w.toNat * 0x8 + s.toNat * 0x4 + e.toNat * 0x2 + n.toNat)
  | _ => none

/-- The switch word of a route, as a number; none for every other row. -/
def encodeSw : Instr → Option Nat
  | .swp i o t => some (i.toNat * 0x800 + o.toNat * 0x40 + t.toNat * 0x8)
  | .swm i o t => some (0x4000 + i.toNat * 0x800 + o.toNat * 0x40 + t.toNat * 0x8)
  | .swg i o t m => some (0x8000 + i.toNat * 0x800 + o.toNat * 0x40 + t.toNat * 0x8 + m.toNat)
  | .swb i o t => some (0xC000 + i.toNat * 0x800 + o.toNat * 0x40 + t.toNat * 0x8)
  | _ => none

/-- The little-endian bytes of an encoded instruction: four for an S-word or an E-word, two for a switch word, none
for a step of the hardware. -/
def encode (i : Instr) : List Byte :=
  match encodeS i, encodeE i, encodeSw i with
  | some w, _, _ => leBytes 4 w
  | _, some w, _ => leBytes 4 w
  | _, _, some w => leBytes 2 w
  | _, _, _ => []

/-- The instruction the decoders read from the opcode table's word w of nbits bits. A 16-bit word is a switch word.
S-words and E-words share one space of 32-bit numbers and are told apart by where they stand (R364, R372): this
answers the S-word where the sequencer's decoder has one, and else the E-word. -/
def decodeTableWord (nbits w : Nat) : Option Instr :=
  if nbits = 16 then (decodeSw w).toOption
  else match decodeS w with
    | .ok i => some i
    | .error _ => (decodeE w).toOption

end Sys2Proof
end

