-- ==== Sys2Proof/Config.lean ====
section
/-!
DEFINITION. What an implementation or a board fixes, and the free values of the manual. An opaque constant has no body,
so nothing can be proved of its value.
-/
namespace Sys2Proof

/-- The value an operation leaves in an invalid lane (R26, R524), by number of the draw and of the lane. Log entry 8. -/
opaque Config.freeLane : Nat → Nat → BitVec 32

/-- Delivered cycles a sequencer step takes beyond its first: stalls and misses (R79, R85, Table 5.1), by number of
the draw. Log entry 5. -/
opaque Config.extraCycles : Nat → Nat

/-- Delivered cycles of a die during a step beyond those of the step's own instruction (R85), by number of the draw. Log
entry 5. -/
opaque Config.dieCycles : Nat → BitVec 2 → Nat

/-- Ticks of the reference timebase that pass during a step (R5), by number of the draw. Log entry 5. -/
opaque Config.extraTicks : Nat → Nat

/-- Which of the agents that may move takes the next turn, where the manual gives no order, by number of the draw.
Log entry 6. -/
opaque Config.pick : Nat → Nat

/-- SHA-512 (R14, R360), a standard the manual names and does not give. Log entry 9. -/
opaque Config.sha512 : List (BitVec 8) → BitVec 512

/-- RSASSA-PSS verification with SHA-512 (R360): modulus, signature, signed bytes. Log entry 9. -/
opaque Config.pssValid : List (BitVec 8) → List (BitVec 8) → List (BitVec 8) → Bool

/-- A die's RSASSA-PSS signature over a measurement (R363). Log entry 9. -/
opaque Config.identitySign : BitVec 2 → List (BitVec 8) → List (BitVec 8)

/-- A die's certificate chain to Orogar's root (R363). Log entry 9. -/
opaque Config.certChain : BitVec 2 → List (BitVec 8)

/-- The root-key digest fused in a die (R360). Log entry 9. -/
opaque Config.rootKeyDigest : BitVec 2 → BitVec 512

/-- The rollback counter fused in a die (R360). Log entry 9. -/
opaque Config.rollback : BitVec 2 → BitVec 32

/-- The boot ROM version a die reports as measurement 1 (R363). Log entry 9. -/
opaque Config.romVersion : BitVec 2 → BitVec 512

/-- Whether peer memory, not host memory, answers at a line of the CXL window (R351, R352): what is attached decides.
Log entry 13. -/
opaque Config.peer : Nat → Bool

/-- The leader die named by the strap pins LEAD[1:0] (R359). Log entry 4. -/
opaque Config.leader : BitVec 2

/-- Which entry a full cache gives up for a new one: by number of the draw and by the line, page or block that comes in.
The manual gives no replacement order. Log entry 11. -/
opaque Config.victim : Nat → Nat → Nat

/-- The set of its home die cache that a line belongs to. Log entry 82. -/
opaque Config.cacheSet : Nat → Nat

/-- Whether a heartbeat of a die arrives during a step, by number of the draw (R288). Log entry 83. -/
opaque Config.beats : Nat → BitVec 2 → Bool

/-- Whether the links of a die's edges train at a cold reset, and the lanes its port trains at: by number of the draw
(R288, R289, R349). Log entry 83. -/
opaque Config.trains : Nat → BitVec 2 → Bool

/-- Whether a queue, by its QID, feeds the entry port of a pattern at a site and a port number (R56, R246). The manual gives no word
that binds them. Log entry 91. -/
opaque Config.queueFeeds : BitVec 24 → BitVec 14 → Nat → Bool

end Sys2Proof
end

