-- ==== Sys2Proof/Machine/State.lean ====
section
/-!
DEFINITION. The state of the Alastra D4 module as plain data, and the state right after cold reset (R289, Table 8.10).
Sparse stores are lists of keys and values in rising order of key; a key that is not listed stands for the value its
reset gives. INVENTORY.md lists each piece of state with the rule that names it.
-/
namespace Sys2Proof.Machine

/-- A sparse store: keys in strictly rising order. -/
abbrev Tbl (α : Type) := List (Nat × α)

/-- The stop reasons of the machine. -/
inductive Fault where
  /-- The focus of a stage or switch turn names a column above 71: the fabric has no such site (R20). Raised by the
  E-word and switch-word meanings. Safe: no site exists there. -/
  | noSuchSite
deriving DecidableEq, Repr

/-- Why an instruction has no meaning in the model. -/
inductive Refusal where
  /-- The instruction's arm is not written yet. Raised by Dispatch only. Safe. -/
  | notModelled (mnemonic : String)
deriving DecidableEq, Repr

/-! ### Sequencer -/

/-- A trap as R266 takes it: cause, the values for TRAP_PC, TRAP_ADDR, and the fields of TRAP_INFO (Table 8.3). -/
structure TrapReq where
  cause : BitVec 8
  pc : Word
  addr : Word := 0
  detail : BitVec 16 := 0
  inner : BitVec 8 := 0
  coh : Bool := false
  slice : BitVec 32 := 0
deriving DecidableEq, Repr

/-- A deferred fault record (R272, Table 8.4). -/
structure DeferRec where
  pc : Word
  cmd : BitVec 6
  eng : BitVec 4
  msgSeq : BitVec 16
  slice : BitVec 32
  opA : Word
  opB : Word
  opC : Word
  opD : Word
  addr : Word
  progress : Word
  cause : BitVec 8
deriving DecidableEq, Repr

/-- A trap queued for a cohort supervisor (R271), with its deferred record if it is DEFERRED. -/
structure SupTrap where
  cause : BitVec 8
  addr : Word
  slice : BitVec 32
  inner : BitVec 8
  record : Option DeferRec := none
deriving DecidableEq, Repr

/-- A frozen region's NODE, pending for its owner (R276). -/
structure NodePend where
  site : SiteId
  catid : BitVec 16
  kind : BitVec 8
  slice : BitVec 32
deriving DecidableEq, Repr

/-- A repeat in progress (R88 to R92): repeats left, the three steps and the next register numbers, and the repeated word as
REP read it; a repeat that REP_STATE brings back reads its word anew, once. -/
structure RepRun where
  left : Nat
  stepD : BitVec 5
  stepA : BitVec 5
  stepB : BitVec 5
  d : Reg
  a : Reg
  b : Reg
  ins : Option Nat := none
deriving DecidableEq, Repr

/-- The sequencer registers a slice keeps while it does not run (R96, R261). -/
structure SeqRegs where
  x : Vector Word 64 := Vector.replicate 64 0
  q : Vector Word 8 := Vector.replicate 8 0
  y : Vector Word 4 := Vector.replicate 4 0
  pc : Word := 0
  flags : Word := 0
  repState : Word := 0
  asid : Word := 0
  ptBase : Word := 0
deriving DecidableEq, Repr

/-- The trap and deferred-fault registers of a core (Tables 8.1, 8.3, 8.4). -/
structure TrapRegs where
  base : Word := 0
  cause : Word := 0
  pc : Word := 0
  addr : Word := 0
  info : Word := 0
  deferPc : Word := 0
  deferTag : Word := 0
  deferOpA : Word := 0
  deferOpB : Word := 0
  deferOpC : Word := 0
  deferOpD : Word := 0
  deferAddr : Word := 0
  deferProgress : Word := 0
deriving DecidableEq, Repr

/-- A line of an L1 data cache (R150, R151): line number, 64 bytes, which of them are dirty, held in exclusive
ownership (R217). -/
structure L1Line where
  line : Nat
  data : List Byte
  dirty : BitVec 64 := 0
  own : Bool := false
deriving DecidableEq, Repr

/-- A block of an instruction cache (R79, R371): address space, block address, 64 bytes, and the span of the leaf it was fetched
through. -/
structure ILine where
  asid : BitVec 16
  va : Nat
  data : List Byte
  base : Nat := 0
  span : Nat := 0
deriving DecidableEq, Repr

/-- A TLB entry (R192): address space, first address and length of its span, the leaf, and the domain whose request filled
it (R74). -/
structure TlbEntry where
  asid : BitVec 16
  va : Nat
  span : Nat
  pte : Word
  dom : BitVec 4 := 0
deriving DecidableEq, Repr

/-- A region record of a manifest (Table 6.1). -/
structure Region where
  base : Nat
  extent : Nat
  mode : BitVec 3
  action : BitVec 2 := 0
  fwd : BitVec 3 := 0
  fwdsp : Bool := false
  dstoff : BitVec 10 := 0
deriving DecidableEq, Repr

/-- A provenance tree (R322): parents, live nodes, base position and owner. -/
structure Tree where
  parent : Vector (BitVec 6) 64 := Vector.replicate 64 0
  live : BitVec 64 := 0
  base : BitVec 48 := 0
  owner : Option (BitVec 32) := none
deriving DecidableEq, Repr

/-- A queue in a core's queue RAM (R243, R244): its entries, oldest first, capacity, cohort, and entries popped. -/
structure QueueRam where
  qid : BitVec 24
  entries : List Word
  cap : Nat
  cohort : BitVec 16
  popped : BitVec 32
deriving DecidableEq, Repr

/-- What an engine command does (Table 12.6). -/
inductive EngOp where
  | copy | fill | gatherPort | gatherMem | scatterWrite | scatterAdd | rowUpd | migrate | stream
  | kvAppend | kvEvict | kvFree | kvSend | logAppend | logTrim | logStatus
  | redSum | redMax | redMin | redGather | prefBound | prefUnbound
deriving DecidableEq, Repr

/-- A command sent to an engine (R536): operation, the codes of its SX word, operands, the issuing core, slice, pc and
MSGSEQ, the translation root and regions taken at issue (R202), STRICT, what was read at issue (a stream or table record, a
list of sources) with the element size of a stream, and its run: a number that orders acceptances, the backing its table is
bound to (R341), the next index, that it has started, that a row operation of it is under way, indices dropped and missing
(R332), the counts of its conversions (R145), and the fault that stopped it. -/
structure Cmd where
  op : EngOp
  cmd6 : BitVec 6
  eng4 : BitVec 4
  opA : Word
  opB : Word
  opC : Word
  opD : Word
  core : CoreId
  slice : BitVec 32
  pc : Word
  msgSeq : BitVec 16 := 0
  asid : Word
  ptBase : Word
  checked : Bool
  regions : List Region
  strict : Bool
  payload : List Byte := []
  esize : Nat := 1
  order : Nat := 0
  bound : Option Bool := none
  progress : Nat := 0
  started : Bool := false
  out : Bool := false
  drops : Nat := 0
  misses : Nat := 0
  stats : List Nat := []
  fault : Option (BitVec 8 × Word) := none
deriving DecidableEq, Repr

/-- An SX word that waits for its engine's answer (R536 step 5). -/
structure SxWait where
  cmd : Cmd
  reply : Reg
  target : EngineId
deriving DecidableEq, Repr

/-- How far an instruction that waits has come: polls made (R486), and, for BARR, that it has arrived, its result, and
the generation it waits to leave or the fabric form (R404). -/
structure WaitSt where
  polls : Nat := 0
  arrived : Bool := false
  result : Word := 0
  gen : BitVec 32 := 0
  fabric : Bool := false
deriving DecidableEq, Repr

/-- The state of one core outside its fabric sites. -/
structure Core where
  /-- The registers in use: those of the running or interrupted firing, or the supervisor's own. -/
  regs : SeqRegs := {}
  trap : TrapRegs := {}
  /-- PRIV_MODE: supervisor mode (R86, R87). -/
  sup : Bool := true
  /-- The sequencer has a firing or supervisor code to run. -/
  running : Bool := false
  /-- IDLE has stopped issue (R448). -/
  idle : Bool := false
  /-- The die's cycle count at which the core's last instruction has ended (R85; the model's own). -/
  busy : Nat := 0
  /-- The slice whose firing runs, or whose firing took the trap (R86). -/
  slice : Option (BitVec 32) := none
  /-- A trap handler has started and has not returned or ended (R270; the model's own). -/
  handling : Bool := false
  rep : Option RepRun := none
  wait : Option WaitSt := none
  sx : Option SxWait := none
  /-- The MSGSEQ counter (R536). -/
  msgSeq : BitVec 16 := 0
  /-- SELV_DOMAIN (Table 2.9). -/
  selvDomain : Word := 0
  l1 : List L1Line := []
  icache : List ILine := []
  tlb : List TlbEntry := []
  trees : Vector Tree 4 := Vector.replicate 4 {}
  /-- The routing counters and their owner (R343, R344). -/
  counters : Vector W32 64 := Vector.replicate 64 0
  counterOwner : Option (BitVec 32) := none
  queues : List QueueRam := []
  /-- Asynchronous causes pending (R269, R270). -/
  pendBudget : Bool := false
  pendNode : List NodePend := []
  pendLink : List (BitVec 2 × BitVec 8) := []
  pendLost : List (BitVec 2) := []
  /-- The deferred list (R273) and the supervisor list (R271), 16 places each. -/
  deferred : List DeferRec := []
  supTraps : List SupTrap := []
  /-- Incarnation counts of the 32 slots (R101). -/
  incarnation : Tbl (BitVec 16) := []
deriving DecidableEq, Repr

/-! ### Slices -/

/-- The states of Table 3.8, with the steps in between: created and not yet placed, retiring, and saved out. -/
inductive SliceState where
  | created | waiting | resident | retiring | swapped | retired
deriving DecidableEq, Repr

/-- An actor of a slice (Table 3.6): descriptor address, entry, input queues with rates, output queues with rates. -/
structure Actor where
  desc : Nat
  entry : Word
  ins : List (BitVec 24 × Nat)
  outs : List (BitVec 24 × Nat)
deriving DecidableEq, Repr

/-- A forward notice (R210), with the STRICT of the slice that sent it (R582). -/
structure Notice where
  region : Region
  asid : Word
  ptBase : Word
  strict : Bool := false
deriving DecidableEq, Repr

/-- What a suspended wait watches (R486): a region's origin, a sync word's scratchpad offset on its core, or a track of
a site's L output. -/
inductive Watch where
  | region (origin : SiteId)
  | sync (offset : Nat)
  | output (site : SiteId) (track : BitVec 2)
deriving DecidableEq, Repr

/-- A slice (R98 to R102). -/
structure Slice where
  id : BitVec 32
  core : CoreId
  slot : BitVec 5
  state : SliceState
  record : Word
  deadline : BitVec 48
  cls : BitVec 3
  strict : Bool
  /-- BUDGET_LEFT, or none for a record with BUDGET = 0 (R239). -/
  budget : Option (BitVec 48)
  cohort : BitVec 16
  member : Nat := 0
  entryDesc : Word
  manifest : Word
  wid : Word
  widShape : Word
  succ : Word
  nsucc : Nat
  regions : List Region := []
  actors : List Actor := []
  entryFired : Bool := false
  regs : SeqRegs := {}
  /-- READY[8], READY[9] (R261): a suspended firing; that it waits, and for what; that its watched state has changed. -/
  suspended : Bool := false
  watch : Option Watch := none
  woken : Bool := false
  /-- CYCLES: cycles delivered to its firings (Table 3.3). -/
  cycles : Word := 0
  notices : List Notice := []
  /-- Successors released so far during retirement (R209). -/
  released : Nat := 0
  killed : Bool := false
  /-- Order in which the slice entered Waiting (R206). -/
  order : Nat := 0
  spawner : Option (BitVec 32) := none
  /-- The regions in its save image (R261): origin, context, offset and length of each section. -/
  saved : List (SiteId × BitVec 2 × Nat × Nat) := []
  /-- Destination ranges of engine commands of the slice that have faulted (R229). -/
  faulted : List (Nat × Nat) := []
  /-- The manifest and the entry descriptor that SPAWN read and sent with the record (R105, R108). -/
  sent : Option (List Byte × List Byte) := none
deriving DecidableEq, Repr

/-- An entry of a die's pending table (R107), with the slice whose SPAWN named its key (R206). -/
structure PendEntry where
  key : Nat
  balance : Int
  record : Option (List Byte) := none
  place : Word := 0
  spawnDie : DieId := 0
  asid : Word := 0
  ptBase : Word := 0
  notices : List Notice := []
  order : Nat := 0
  spawner : Option (BitVec 32) := none
deriving DecidableEq, Repr

/-- A record of a die's conflict table (R204). -/
structure ConflictRec where
  slice : BitVec 32
  asid : Word
  core : CoreId
  region : Region
deriving DecidableEq, Repr

/-! ### Fabric -/

/-- The sixteen lanes of one token (R24); a lane not listed is zero. -/
abbrev Lanes := List W32

/-- A token (Table 2.1). -/
structure Token where
  kind : BitVec 3
  seq : BitVec 12
  eos : Bool
  valid : BitVec 16
  lanes : Lanes
deriving DecidableEq, Repr

/-- One track at its consumer's end (R36 to R38): slots filled, oldest first; tokens written and not yet present, each
with the site it comes from and whether it comes by an SWB word; slots freed that the producer has not seen; and for a track
across a die edge the sending die's cycle of its last crossing (R76). -/
structure Chan where
  slots : List Token := []
  flight : List (Token × SiteId × Bool) := []
  freed : Nat := 0
  crossed : Option Nat := none
deriving DecidableEq, Repr

/-- An invocation in a stage arc (R33, R34, Table 7.9): its sideband, stage registers P0 to P3, the predicate of the STEER it has
passed, its carry lanes, and the number j of the GEN that made it (R445). -/
structure Inv where
  kind : BitVec 3
  seq : BitVec 12
  eos : Bool
  valid : BitVec 16
  p : List Lanes
  mask : BitVec 16 := 0
  carry : Lanes := []
  gen : Nat := 0
deriving DecidableEq, Repr

/-- A context of a site's vitrine (R29, R376, Table 9.1, Table 12.18), with the slice that owns it and the origin of
its placement. For a matrix tile the input words are the four role inputs. -/
structure Ctx where
  catid : BitVec 16
  kind : BitVec 2
  owner : BitVec 32
  origin : SiteId
  input : W32 := 0
  ewords : List W32 := []
  outs : List (BitVec 16) := []
  ks : List W32 := []
  cs : List W32 := []
  sw : List (BitVec 16) := []
  scope : BitVec 8 := 0
deriving DecidableEq, Repr

/-- An entry an ORDR holds (R47): its SEQ, words, VALID, whether the EOS fragment and a HOLE have come. -/
structure OrdEntry where
  seq : BitVec 12
  words : List Lanes
  valid : BitVec 16
  done : Bool
  hole : Bool
deriving DecidableEq, Repr

/-- The node state of a processing element beyond its arcs and counters: MERGE turn and credits (R51, R52), ORDR (R47),
PACK (R475), TOPK (R514), a reducing VRED (R533), GEN (R445) and a FORK's side-2 buffer (R442). -/
structure Node where
  turnB : Bool := false
  credits : Nat := 0
  /-- Credits the context is primed with, not yet taken (R462). -/
  primed : Nat := 0
  next : BitVec 12 := 0
  pend : List OrdEntry := []
  /-- PACK: shuttles filled, each its words, in order. -/
  part : List (List W32) := []
  lastIn : Nat := 0
  /-- TOPK: pairs of score and position of the open row, best first; tokens still to be emitted. -/
  row : List (W32 × W32) := []
  emit : List Inv := []
  rowOpen : Bool := false
  /-- VRED: accumulator lanes, tokens absorbed, exact P6 sum and its saturation, NaN seen, lanes counted. -/
  acc : Lanes := []
  absorbed : Nat := 0
  sum : Nat := 0
  dsat : Bool := false
  nan : Bool := false
  count : Nat := 0
  /-- GEN: invocation counter, closed, and that its base and offset were read at activation. -/
  j : Nat := 0
  offset : Nat := 0
  closed : Bool := false
  /-- FORK: the invocation whose side 2 is still to be written. -/
  side2 : Option Inv := none
deriving DecidableEq, Repr

/-- One access of a token a memory element holds (R158): lane, element offset, operand, granted. -/
structure LaneAcc where
  lane : Nat
  offset : Nat
  operand : W32
  granted : Bool := false
deriving DecidableEq, Repr

/-- A token in a memory element's completion window (R158 to R160): the bundle as it came, its accesses, the words read,
VALID less the dropped lanes, a number that orders acceptances, and one that orders completions once it is complete. -/
structure MeEntry where
  bundle : List Token
  accs : List LaneAcc
  words : List (Nat × W32)
  valid : BitVec 16
  serial : Nat := 0
  done : Option Nat := none
deriving DecidableEq, Repr

/-- The states of a tile's shadow plane (R294). -/
inductive PlaneState where
  | empty | loading | ready | faulted
deriving DecidableEq, Repr

/-- A stationary plane (R290, R297): columns of 192 bytes, the operand set that loaded it, its lane form. -/
structure Plane where
  cols : List (List Byte) := []
  ops : List W32 := []
  form : Nat := 0
  poisoned : List Nat := []
deriving DecidableEq, Repr

/-- A matrix tile (R290): planes, accumulator rows in use, row and pass counters, a waiting pass swap, a drain in
progress at its next row and bundle, and the column its load has reached. -/
structure Tile where
  active : Option Plane := none
  shadow : Plane := {}
  shadowState : PlaneState := .empty
  loadCol : Nat := 0
  swapPending : Bool := false
  rows : Tbl (List W32) := []
  drain : Option (Nat × Nat) := none
  drainDue : Bool := false
  lastRefresh : Nat := 0
deriving DecidableEq, Repr

/-- The counts of a converter's current tile, lanes 0 to 6 of Table 4.8, and the SEQ of its last output (R145, R146). -/
structure TileCount where
  counts : List Nat := []
  seq : BitVec 12 := 0
deriving DecidableEq, Repr

/-- One site of the fabric (R20). -/
structure Site where
  ctxs : Vector (Option Ctx) 4 := Vector.replicate 4 none
  act : BitVec 2 := 0
  /-- The active context may fire: a pattern is active here (R60). -/
  on : Bool := false
  domain : BitVec 4 := 0
  cs : List W32 := []
  /-- Arcs after stages 1 to 5 (R33). -/
  arcs : Vector (Option Inv) 6 := Vector.replicate 6 none
  node : Node := {}
  win : List MeEntry := []
  fifo : List (List Token) := []
  tile : Tile := {}
  /-- The node fault register (Table 8.6). -/
  fault : Word := 0
  frozen : Bool := false
  gated : Bool := false
  drowsy : Bool := false
  lastFire : Nat := 0
  /-- Counts of the current tile of each converter, by its stage or role (R145), and the statistics tokens of tiles that have
  ended and are not sent (R146). -/
  stats : Tbl TileCount := []
  tiles : List Token := []
  /-- STAT: sums received and not yet sent (R147). -/
  adder : List Nat := []
  statDead : Bool := false
  /-- The blocked-node bit its curator recorded (R58). -/
  blocked : Bool := false
  /-- The SWG grants in force: output track, input, mode-2 hold (R378). -/
  swgLast : Tbl Nat := []
  swgHold : Tbl Nat := []
deriving DecidableEq, Repr

/-- A port of a placed pattern (Table 12.19) with its site. -/
structure Port where
  site : SiteId
  port : BitVec 3
  exit : Bool
  track : BitVec 3
  width : BitVec 2
deriving DecidableEq, Repr

/-- A pattern placed by CFLD or CFWV in one context number (R416), with its run-time state: whether it is active,
admission, draining (R426), an armed wavefront (R63), freezing (R275), pre-emption (R256), the closed ports, bundles
admitted per port (R255), completion (R56), movement and quiet times, and what the statistics root holds. -/
structure Placement where
  origin : SiteId
  rows : Nat
  cols : Nat
  ctx : BitVec 2
  catid : BitVec 16
  owner : BitVec 32
  ports : List Port
  primes : List (SiteId × BitVec 3 × BitVec 3 × Nat)
  /-- The scope levels the pattern declares (R221, Table 12.21). -/
  scopes : List Nat := []
  bport : Nat
  bcount : Nat
  active : Bool := false
  /-- Bound for the owner's block scheduler (R61). -/
  bound : Bool := true
  stopped : Bool := false
  draining : Bool := false
  /-- DRAIN, and not a pre-emption, has begun the drain (R417, R426). -/
  drainOwn : Bool := false
  armed : Option (BitVec 2) := none
  injected : List Nat := []
  frozen : Bool := false
  raised : Bool := false
  faultSite : Option SiteId := none
  preempt : Option (BitVec 32) := none
  closed : List Nat := []
  sources : List Nat := []
  admitted : Tbl Nat := []
  markersOut : List Nat := []
  complete : Bool := false
  quiet : Bool := false
  lastMove : Nat := 0
  /-- The cycle from which the deadlock count runs after its last suspension (R57). -/
  countFrom : Nat := 0
  activeSince : Nat := 0
  lastUsed : Nat := 0
  dropReported : Bool := false
  /-- Its state lies in its owner's save image (R259, R260). -/
  saved : Bool := false
  /-- The sites as they were saved, for what the image gives no place to. -/
  kept : List (SiteId × Site) := []
deriving DecidableEq, Repr

/-- A lock token that is held (R161 to R164, R456): core, element, bank and token number, SEQ, since when, and the lanes
that still share it. -/
structure Lock where
  core : CoreId
  me : BitVec 3
  bank : BitVec 4
  tok : BitVec 6
  seq : BitVec 12
  since : Nat
  lanes : BitVec 16
deriving DecidableEq, Repr

/-! ### Engines -/

/-- A stream an engine runs (R168 to R179), or the bundles of a gather onto a port (R540): its command, the bound port,
elements and bundles done, for a chase its page, the pages begun, the bundles sent of this page, and NEXT of its header; for a
score add the lanes of the bundle in hand and the page of the lane before; for a gather the index in hand, none where it is dropped,
the shuttles not yet delivered and that no more will come; for a writer of F8C the codes the region held, the elements not yet encoded,
segments and bytes written; its fault and counts. -/
structure Stream where
  eng : EngineId
  cmd : Cmd
  origin : SiteId
  ctx : BitVec 2
  port : Nat
  done : Nat := 0
  bundles : Nat := 0
  page : Nat := 0
  pages : Nat := 0
  pageDone : Nat := 0
  next : Nat := 0
  started : Bool := false
  lanes : List (W32 × W32) := []
  pend : List (List W32 × Bool) := []
  last : Bool := false
  index : Option (Nat × Option Nat) := none
  old : List Nat := []
  codes : List Nat := []
  segments : Nat := 0
  written : Nat := 0
  faulted : Option DeferRec := none
  stats : List Nat := []
  /-- SEQ of the last bundle it has moved, for its statistics token (R146). -/
  seq : BitVec 12 := 0
deriving DecidableEq, Repr

/-- A prefetch in progress (R313): its command, the next page, pages made resident, and the stream it follows, by the number of
its command, with the pages that stream had begun before. -/
structure Prefetch where
  eng : EngineId
  cmd : Cmd
  page : Nat
  count : Nat := 0
  stream : Option (Nat × Nat) := none
deriving DecidableEq, Repr

/-- A row operation of a gallery command that has resolved its address (R335, R338): the engine that accepted the command, the
row, its virtual address and the physical address of its first byte. -/
structure RowOp where
  eng : EngineId
  cmd : Cmd
  row : Nat
  va : Nat
  pa : Nat
deriving DecidableEq, Repr

/-- A forwarding marker (R339): the old location, the new one, and the table's record. -/
structure Marker where
  old : Nat
  newVa : Nat
  newPa : Nat
  table : Word
  asid : Word
deriving DecidableEq, Repr

/-- An engine: its queue of accepted commands, commands performed whose completion word is to be written, with status and
result (R538), its held deferred record (R273), row operations waiting, row locks with the operation that holds each (R335),
forwarding markers, operations to be forwarded (R339), and the micro-TLB of a stream engine or the gallery (R192). -/
structure Engine where
  queue : List Cmd := []
  done : List (Cmd × BitVec 8 × Nat) := []
  held : Option DeferRec := none
  rowWait : List RowOp := []
  rowLocks : List RowOp := []
  markers : List Marker := []
  forward : List RowOp := []
  tlb : List TlbEntry := []
deriving DecidableEq, Repr

/-! ### Dies and module -/

/-- A notify control block (Table 7.6). -/
structure Notify where
  ringPa : Word := 0
  log2 : BitVec 5 := 0
  maxClass : BitVec 3 := 0
  asid : BitVec 16 := 0
  en : Bool := false
  overrun : Bool := false
  root : Word := 0
  last : BitVec 32 := 0
  refused : BitVec 32 := 0
  ringVa : Word := 0
  /-- The index a doorbell write has asked for and not yet reached, in arrival order (R253). -/
  todo : List (BitVec 32) := []
deriving DecidableEq, Repr

/-- The docent of a die (R243 to R254): control registers, a cohort command in progress, pushes it holds. -/
structure Docent where
  qdir : Word := 0
  cdir : Word := 0
  cohort : BitVec 16 := 0
  cmd : BitVec 2 := 0
  busy : Bool := false
  split : Bool := false
  notify : Tbl Notify := []
  held : List (BitVec 24 × Word × Bool × CoreId) := []
deriving DecidableEq, Repr

/-- The memory error log of a die (Table 8.8). -/
structure ErrLog where
  ce : BitVec 32 := 0
  ueReads : BitVec 32 := 0
  sqPoison : BitVec 32 := 0
  lastUe : Word := 0
deriving DecidableEq, Repr

/-- The power states of a pseudo-channel (R180). -/
inductive PcState where
  | active | powerDown | selfRefresh
deriving DecidableEq, Repr

/-- The TLB nearest to the maker of an access (R192): its core's, the micro-TLB of a stream engine or of the gallery, or none
below the die's second level. -/
inductive NearTlb where
  | core | engine (e : EngineId) | die
deriving DecidableEq, Repr

/-- A page walk of a die's walker, in progress or waiting (R193): the core whose access, or whose engine command's, missed, its
address space, root and address, whether it writes, its domain (R74), and the TLB nearest to its maker. -/
structure Walk where
  core : CoreId
  asid : BitVec 16
  root : Word := 0
  va : Nat
  write : Bool
  dom : BitVec 4
  tlb : NearTlb := .core
deriving DecidableEq, Repr

/-- A link of a die over the edge to a neighbour (R286 to R288): waking, attempts, since which tick, cores with a held request, a
request outstanding since which tick, the dies that held requests are bound for, and how often the link layer has resent. -/
structure Link where
  waking : Bool := false
  attempts : Nat := 0
  since : Nat := 0
  cores : List CoreId := []
  request : Option Nat := none
  dsts : List DieId := []
  resends : Nat := 0
deriving DecidableEq, Repr

/-- What a turn that must wait leaves behind: a walk in a die's list (R193), or a request of a core, or of a unit, held at the link
from one die to another and bound for a third or for that one (R287). -/
inductive Ask where
  | walk (die : DieId) (w : Walk)
  | link (a b : DieId) (core : Option CoreId) (dst : DieId)
deriving DecidableEq, Repr

/-- A write-back on its way over an intermediate die, and the die it is bound for (R226). -/
structure WriteBack where
  core : CoreId
  home : DieId
  line : Nat
  data : List Byte
  dirty : BitVec 64
deriving DecidableEq, Repr

/-- One die outside its cores and fabric. -/
structure Die where
  /-- The die has been declared lost (R288). -/
  lost : Bool := false
  parked : Bool := false
  /-- CYC: delivered core cycles since cold reset, the die frame counter (R71, R85). -/
  cyc : Nat := 0
  slotMap : Word := 0
  /-- The slot map in force per class, and the one read and waiting for its frame (R72): 64 bytes each. -/
  slots : Vector (List Byte) 5 := Vector.replicate 5 []
  slotsNext : Vector (Option (List Byte)) 5 := Vector.replicate 5 none
  /-- The frame in which that read completed. -/
  slotsFrame : Nat := 0
  selvDrops : Tbl (BitVec 64) := []
  pending : List PendEntry := []
  conflicts : List ConflictRec := []
  tlb2 : List TlbEntry := []
  /-- The walker: walks in the order they came (R193). -/
  walks : List Walk := []
  docent : Docent := {}
  err : ErrLog := {}
  pcs : Tbl PcState := []
  pcSince : Tbl Nat := []
  hdecBase : Vector Word 8 := Vector.replicate 8 0
  hdecSize : Vector Word 8 := Vector.replicate 8 0
  /-- Write-backs this die forwards for a diagonal pair (R226). -/
  forwards : List WriteBack := []
  links : Tbl Link := []
  /-- The annex log: HEAD and TAIL as page numbers of the ring, and the pages written since their trim (R183, R545). -/
  logHead : Nat := 0
  logTail : Nat := 0
  annexWritten : List Nat := []
  /-- The measurement register and whether the die runs the firmware (R361). One that does not is missing (R13, R348). -/
  measure : BitVec 512 := 0
  firmware : Bool := false
  /-- The tick of the last heartbeat, and how often in a row an edge of the die has failed to train (R288). -/
  beat : Nat := 0
  trainFails : Nat := 0
  /-- The port: its lanes, 0 when it has not trained (R349), its IDE key and the SPDM answer last given (R363). -/
  lanes : Nat := 16
  ideKey : BitVec 256 := 0
  spdm : List Byte := []
  /-- PS_CTRL (Table 11.2): TARGET, CURRENT, a TARGET held during a transition, BUSY, REFUSED, and the tick at which the transition
  began (R357). -/
  psTarget : BitVec 3 := 0
  psCurrent : BitVec 3 := 0
  psHeld : Option (BitVec 3) := none
  psBusy : Bool := false
  psRefused : Bool := false
  psSince : Nat := 0
deriving DecidableEq, Repr

/-- The power block's module-wide registers (Table 11.2), and since which tick maximum stretch has not sufficed. -/
structure Power where
  ceil : BitVec 10 := 1000
  power : BitVec 10 := 0
  stretch : BitVec 4 := 0
  unmet : Bool := false
  overSince : Option Nat := none
deriving DecidableEq, Repr

/-- The boot mailbox (Table 11.4), the image the leader has verified and sends to the followers (R361), whether the last
reset was a warm one (R362), and the host's memory the image is fetched from (R360). -/
structure Boot where
  imageHpa : Word := 0
  imageLen : BitVec 32 := 0
  cmd : BitVec 2 := 0
  status : BitVec 8 := 1
  kept : List Byte := []
  warm : Bool := false
  hostMem : List Host.Cell := []
deriving DecidableEq, Repr

/-- One turn of an agent: the sequencer of a core; stage k of a site's active context (0 for a matrix tile's role words
and a memory element's operation is stage 1); a slot of a site's switch box; or a step of the hardware. -/
inductive Turn where
  | seq (core : CoreId)
  | stage (site : SiteId) (k : BitVec 3)
  | switch (site : SiteId) (slot : BitVec 5)
  | event (i : Instr)
deriving DecidableEq, Repr

/-- The module. -/
structure State where
  /-- Home memory by physical address: HBM, annex, host and peer memory, and the scratchpads at their aperture. -/
  mem : List Host.Cell := []
  /-- Poisoned line numbers, rising (R280). -/
  poison : List Nat := []
  /-- Lines resident in the die caches, each with the domain whose share it is in (R74, R150, R313); lines the host holds
  (R350). -/
  resident : Tbl (BitVec 4) := []
  hostLines : List Nat := []
  cores : Tbl Core := []
  dies : Tbl Die := []
  slices : List Slice := []
  sites : Tbl Site := []
  chans : Tbl Chan := []
  placements : List Placement := []
  /-- Open gateways: link keys (R70, R492). -/
  gateways : List Nat := []
  locks : List Lock := []
  streams : List Stream := []
  prefetches : List Prefetch := []
  engines : Tbl Engine := []
  /-- Arrivals at sync words that have not been applied: scratchpad address, bytes (R166). -/
  arrivals : List (Nat × Nat) := []
  power : Power := {}
  boot : Boot := {}
  /-- TICKS (R5, Table 3.3). -/
  ticks : Nat := 0
  /-- Answers to the outside: the last host read and the last peer atomic (R350, R220). -/
  hostReply : Word := 0
  peerReply : Word := 0
  /-- The core and the site the turn in progress belongs to, and its stage or slot (the model's own). -/
  cur : CoreId := 0
  focus : SiteId := 0
  focusStage : BitVec 5 := 0
  /-- Turns to be taken, in order; when empty, a free choice picks (the model's own). -/
  agenda : List Turn := []
  /-- Draws made of free values (the model's own). -/
  draws : Nat := 0
  /-- The turn in progress has made an access that must wait: the step gives the turn up (the model's own). -/
  stall : Bool := false
  /-- What that turn leaves behind when it is given up (the model's own). -/
  asks : List Ask := []
  /-- A counter that orders creations and waits (the model's own). -/
  serial : Nat := 0
deriving DecidableEq, Repr

/-- The state right after cold reset: every core in its reset values, the leader's boot ROM waiting for the host
(R289, R359). -/
def State.reset : State := {}

end Sys2Proof.Machine
end

