-- ==== Sys2Proof/Machine/Table.lean ====
section
/-!
DEFINITION. Sparse stores and home memory: look-up, update and removal by key, and bytes of memory in canonical form.
-/
namespace Sys2Proof.Machine

/-- The value listed for key i. -/
def tblGet {α : Type} : Tbl α → Nat → Option α
  | [], _ => none
  | (k, v) :: t, i => if k = i then some v else if i < k then none else tblGet t i

/-- The store with v listed for key i. -/
def tblSet {α : Type} : Tbl α → Nat → α → Tbl α
  | [], i, w => [(i, w)]
  | (k, v) :: t, i, w =>
    if i < k then (i, w) :: (k, v) :: t else if i = k then (i, w) :: t else (k, v) :: tblSet t i w

/-- The store with key i not listed. -/
def tblErase {α : Type} : Tbl α → Nat → Tbl α
  | [], _ => []
  | (k, v) :: t, i => if i < k then (k, v) :: t else if i = k then t else (k, v) :: tblErase t i

/-- The keys rise strictly from a lower bound on. -/
def keysFrom {α : Type} : Nat → Tbl α → Bool
  | _, [] => true
  | lo, (k, _) :: t => decide (lo ≤ k) && keysFrom (k + 1) t

/-- What a byte of memory that nothing has written reads as. Log entry 1. -/
def blankByte : Byte := 0

/-- The byte of memory at an address. -/
def memByte (m : List Host.Cell) (a : Nat) : Byte := (tblGet m a).getD blankByte

/-- Memory with byte b at address a, in canonical form. -/
def memPut (m : List Host.Cell) (a : Nat) (b : Byte) : List Host.Cell :=
  if b = blankByte then tblErase m a else tblSet m a b

/-- The canonical form of memory: addresses strictly rising, no entry equal to the blank byte. -/
def Memory.wf (m : List Host.Cell) : Bool := keysFrom 0 m && m.all fun c => c.2 != blankByte

/-- n bytes from address a on. -/
def memBytes (m : List Host.Cell) : Nat → Nat → List Byte
  | _, 0 => []
  | a, n + 1 => memByte m a :: memBytes m (a + 1) n

/-- Memory with the bytes written from address a on. -/
def memWrite (m : List Host.Cell) : Nat → List Byte → List Host.Cell
  | _, [] => m
  | a, b :: bs => memWrite (memPut m a b) (a + 1) bs

/-- Memory with those of the bytes written whose bit is set in the mask. -/
def memMerge (m : List Host.Cell) : Nat → List Byte → Nat → List Host.Cell
  | _, [], _ => m
  | a, b :: bs, k => memMerge (if k % 2 = 1 then memPut m a b else m) (a + 1) bs (k / 2)

/-- The number of the n little-endian bytes at a. -/
def memNat (m : List Host.Cell) (a n : Nat) : Nat := leNat (memBytes m a n)

/-- The list with element i replaced. -/
def listSet {α : Type} : List α → Nat → α → List α
  | [], _, _ => []
  | _ :: t, 0, w => w :: t
  | v :: t, i + 1, w => v :: listSet t i w

/-- Rising list of numbers with i put in. -/
def setInsert : List Nat → Nat → List Nat
  | [], i => [i]
  | k :: t, i => if i < k then i :: k :: t else if i = k then k :: t else k :: setInsert t i

/-- Bytes d with the bytes bs put in from position i on. -/
def spliceBytes (d : List Byte) (i : Nat) (bs : List Byte) : List Byte := d.take i ++ bs ++ d.drop (i + bs.length)

/-- The mask of n bits from bit i on. -/
def byteMask (i n : Nat) : BitVec 64 := BitVec.ofNat 64 ((2 ^ n - 1) * 2 ^ i)

/-- The values 0 to n - 1, each with its lane number. -/
def laneList {α : Type} (f : Nat → α) : List α :=
  [f 0, f 1, f 2, f 3, f 4, f 5, f 6, f 7, f 8, f 9, f 10, f 11, f 12, f 13, f 14, f 15]

end Sys2Proof.Machine
end

