-- ==== Sys2Proof/Machine/Ops.lean ====
section
/-!
DEFINITION. The named operations on sequencer state: cores, dies, slices and sites by number, registers (R82 to R84),
going on to the next instruction (R89, R92), charging cycles (R85, R239), taking a trap (R266) and returning from one
(R268, R434), traps for a cohort supervisor (R271) and pending causes (R269, R270).
-/
namespace Sys2Proof.Machine

/-- The outcome of a step of this machine. -/
abbrev Out := Host.Outcome State Fault Refusal

/-! ### Parts by number -/

/-- Core c. -/
def coreOf (s : State) (c : CoreId) : Core := (tblGet s.cores c.toNat).getD {}

/-- The state with core c replaced. -/
def setCore (s : State) (c : CoreId) (k : Core) : State := { s with cores := tblSet s.cores c.toNat k }

/-- The core the step in progress belongs to. -/
def curCore (s : State) : Core := coreOf s s.cur

/-- The state with the core of the step in progress changed. -/
def modCore (s : State) (f : Core → Core) : State := setCore s s.cur (f (curCore s))

/-- Die d. -/
def dieOf (s : State) (d : DieId) : Die := (tblGet s.dies d.toNat).getD {}

/-- The state with die d replaced. -/
def setDie (s : State) (d : DieId) (k : Die) : State := { s with dies := tblSet s.dies d.toNat k }

/-- The state with die d changed. -/
def modDie (s : State) (d : DieId) (f : Die → Die) : State := setDie s d (f (dieOf s d))

/-- The die of a core (R11). -/
def dieOfCore (c : CoreId) : DieId := BitVec.ofNat 2 (c.toNat / 16)

/-- The die of the step's core. -/
def curDie (s : State) : DieId := dieOfCore s.cur

/-- A die that is lost, absent or held in reset (R13, R288, R348, R361). -/
def dieDown (s : State) (d : DieId) : Bool := (dieOf s d).lost || !(dieOf s d).firmware

/-- A die whose cores, panels and engines do not run: down or parked (R105, R348, R358). -/
def dieGone (s : State) (d : DieId) : Bool := dieDown s d || (dieOf s d).parked

/-- Two dies that share no edge (R10). -/
def diagonal (a b : DieId) : Bool := a ^^^ b == 3

/-- The intermediate die of a diagonal route: it crosses the horizontal edge first (R226). -/
def viaDie (a : DieId) : DieId := a ^^^ 1

/-- Requests of a die do not reach another: it is down, or the intermediate die of the route is (R288, R346). -/
def cutOff (s : State) (a b : DieId) : Bool :=
  (dieOf s b).lost || (a != b && (dieDown s b || (diagonal a b && dieDown s (viaDie a))))

/-- The slice with an identifier. -/
def findSlice (s : State) (i : BitVec 32) : Option Slice := s.slices.find? fun l => l.id == i

/-- The state with the slice of l's identifier replaced by l. -/
def setSlice (s : State) (l : Slice) : State :=
  { s with slices := s.slices.map fun k => if k.id = l.id then l else k }

/-- The state with a slice changed. -/
def modSlice (s : State) (i : BitVec 32) (f : Slice → Slice) : State :=
  { s with slices := s.slices.map fun k => if k.id = i then f k else k }

/-- A slice that has been created and has not retired. -/
def liveSlice (l : Slice) : Bool := l.state != .retired

/-- The slice whose firing runs, or took the trap, on the step's core (R86). -/
def curSlice (s : State) : Option Slice := (curCore s).slice.bind (findSlice s)

/-- The identifier of the running slice, 0 with none (R86). -/
def curSliceId (s : State) : BitVec 32 := (curCore s).slice.getD 0

/-- A site. -/
def siteOf (s : State) (i : SiteId) : Site := (tblGet s.sites i.toNat).getD {}

/-- The state with a site replaced. -/
def setSite (s : State) (i : SiteId) (k : Site) : State := { s with sites := tblSet s.sites i.toNat k }

/-- The state with a site changed. -/
def modSite (s : State) (i : SiteId) (f : Site → Site) : State := setSite s i (f (siteOf s i))

/-- An engine. -/
def engineOf (s : State) (e : EngineId) : Engine := (tblGet s.engines e.toNat).getD {}

/-- The state with an engine replaced. -/
def setEngine (s : State) (e : EngineId) (k : Engine) : State := { s with engines := tblSet s.engines e.toNat k }

/-- The state with an engine changed. -/
def modEngine (s : State) (e : EngineId) (f : Engine → Engine) : State := setEngine s e (f (engineOf s e))

/-- The engine of a kind on a die. -/
def engineId (d : DieId) (unit : Nat) : EngineId := BitVec.ofNat 7 (d.toNat * 32 + unit)

/-- The die of an engine. -/
def dieOfEngine (e : EngineId) : DieId := BitVec.ofNat 2 (e.toNat / 32)

/-- The next free value of a lane, and the state that has drawn it. -/
def drawLane (s : State) : W32 × State := (Config.freeLane s.draws 0, { s with draws := s.draws + 1 })

/-! ### Domains and slots -/

/-- The SELV_DOMAIN of a core. -/
def coreDomain (s : State) (c : CoreId) : BitVec 4 := (coreOf s c).selvDomain.truncate 4

/-- A slot of a row of the slot map belongs to a domain: bit 7 enables it (R72). -/
def slotIs (b : Byte) (d : BitVec 4) : Bool := bitOf 7 b.toNat && b.toNat % 16 == d.toNat

/-- The row of class k in force on a die, none when no table is: a table that has been read is in force from the first frame
that begins after its read (R72). -/
def slotRow (m : Die) (k : Nat) : List Byte :=
  match m.slotsNext[k]?.getD none with
  | none => m.slots[k]?.getD []
  | some row => if m.slotsFrame < m.cyc / 64 then row else m.slots[k]?.getD []

/-- The slot of class k in the present cycle of a die's frame belongs to a domain (R71, Table 2.8). -/
def slotNow (s : State) (die : DieId) (k : Nat) (d : BitVec 4) : Bool :=
  match slotRow (dieOf s die) k with
  | [] => d == 0
  | row => slotIs (row[(dieOf s die).cyc % 64]?.getD 0) d

/-- A domain owns some slot of class k on a die. -/
def ownsSlot (s : State) (die : DieId) (k : Nat) (d : BitVec 4) : Bool :=
  match slotRow (dieOf s die) k with
  | [] => d == 0
  | row => row.any fun b => slotIs b d

/-- The number of domains among which a die divides its shared stores: those that own a slot of class 0; none while no table
is in force (R74). -/
def shareCount (m : Die) : Option Nat :=
  match slotRow m 0 with
  | [] => none
  | row => some (((List.range 16).filter fun d => row.any fun b => slotIs b (BitVec.ofNat 4 d)).length)

/-- The places of a store of n that one domain of a die has (R74): all of them while the store is not divided; else an equal
share, rounded down and at least one, of each domain that owns a slot of class 0, and none of another. -/
def shareOf (m : Die) (n : Nat) (d : BitVec 4) : Nat :=
  match shareCount m with
  | none => n
  | some k => if (slotRow m 0).any fun b => slotIs b d then max 1 (n / k) else 0

/-- The domain in whose share of a die's stores something counts: one for all while they are not divided (R74). -/
def shareKey (m : Die) (d : BitVec 4) : BitVec 4 := if (shareCount m).isNone then 0 else d

/-- The list without the i-th of its elements that satisfy p. -/
def dropNth {α : Type} (p : α → Bool) : Nat → List α → List α
  | _, [] => []
  | i, x :: t => if p x then (match i with | 0 => t | j + 1 => x :: dropNth p j t) else x :: dropNth p i t

/-- Room for one more element of domain d in a store of n places of which each domain has its share: any one of its own goes
when its share is full; else, when the store is, any one of a domain that holds more than its share. Log entry 11. -/
def makeRoom {α : Type} (dom : α → BitVec 4) (share : BitVec 4 → Nat) (d : BitVec 4) (n pick : Nat) (l : List α) : List α :=
  let held (e : BitVec 4) : Nat := (l.filter fun x => dom x == e).length
  let excess (x : α) : Bool := decide (share (dom x) < held (dom x))
  if share d ≤ held d then dropNth (fun x => dom x == d) (pick % held d) l
  else if n ≤ l.length then dropNth excess (pick % (l.filter excess).length) l
  else l

/-! ### Registers -/

/-- The register files with v written at specifier d: X0 discards, code 72 and every code that is no destination write
no file (Table 3.1). -/
def putFile (g : SeqRegs) (d : Reg) (v : Word) : SeqRegs :=
  if d.toNat = 0 then g
  else if d.toNat < 64 then { g with x := g.x.setIfInBounds d.toNat v }
  else if d.toNat < 72 then { g with q := g.q.setIfInBounds (d.toNat - 64) v }
  else g

/-- The last-result file with v pushed (R83). -/
def pushFile (g : SeqRegs) (v : Word) : SeqRegs := { g with y := #v[v, g.y[0], g.y[1], g.y[2]] }

/-- The value at source specifier r of register files, or of the running slice (Table 3.1). -/
def readFile (g : SeqRegs) (wid sid cyc : Word) (r : Reg) : Word :=
  if r.toNat = 0 then 0
  else if r.toNat < 64 then g.x[r.toNat]?.getD 0
  else if r.toNat < 72 then g.q[r.toNat - 64]?.getD 0
  else if r.toNat < 76 then g.y[r.toNat - 72]?.getD 0
  else if r.toNat = 76 then wid
  else if r.toNat = 77 then sid
  else if r.toNat = 78 then cyc
  else 0

/-- X[r] of R393 as a source. -/
def readReg (s : State) (r : Reg) : Word :=
  readFile (curCore s).regs (((curSlice s).map (·.wid)).getD 0) ((curSliceId s).zeroExtend 64)
    (BitVec.ofNat 64 (dieOf s (curDie s)).cyc) r

/-- An assignment to X[d] (R393): the file is written and the value pushed to Y. -/
def writeReg (s : State) (d : Reg) (v : Word) : State :=
  modCore s fun c => { c with regs := pushFile (putFile c.regs d v) v }

/-- A write of a register that pushes nothing (LOOP, R458). -/
def writeQuiet (s : State) (d : Reg) (v : Word) : State := modCore s fun c => { c with regs := putFile c.regs d v }

/-- A push to Y alone. -/
def pushY (s : State) (v : Word) : State := modCore s fun c => { c with regs := pushFile c.regs v }

/-- The address of the instruction. -/
def pcOf (s : State) : Word := (curCore s).regs.pc

/-- The state with the address of the next instruction set. -/
def setPc (s : State) (v : Word) : State := modCore s fun c => { c with regs := { c.regs with pc := v } }

/-! ### Going on -/

/-- A register number of a repeat, one step on (R89). -/
def stepNumber (r : Reg) (st : BitVec 5) : Reg :=
  if st = 0 then r else BitVec.ofNat 7 ((r.toNat + st.toNat) % 64)

/-- The repeat after the one that has just completed, or none after the last (R89). -/
def nextRepeat (p : RepRun) : Option RepRun :=
  if p.left ≤ 1 then none
  else some { p with
    left := p.left - 1, d := stepNumber p.d p.stepD, a := stepNumber p.a p.stepA, b := stepNumber p.b p.stepB }

/-- The core after its instruction has completed: the next repeat, or the next word; a repeat that finishes clears
REP_STATE.VALID (R89, R92). -/
def advanceCore (c : Core) : Core :=
  match c.rep with
  | none => { c with regs := { c.regs with pc := c.regs.pc + 4 }, wait := none }
  | some p =>
    match nextRepeat p with
    | some p' => { c with rep := some p', wait := none }
    | none => { c with
        rep := none, wait := none,
        regs := { c.regs with pc := c.regs.pc + 4, repState := c.regs.repState &&& 0x7FFFFFFFFFFFFFFF } }

/-- The state after the instruction of the step's core has completed. -/
def advance (s : State) : State := modCore s advanceCore

/-- An instruction that writes v to X[d] and completes. -/
def finish (s : State) (d : Reg) (v : Word) : Out := .next (advance (writeReg s d v))

/-- An instruction with no result that completes. -/
def finishQuiet (s : State) : Out := .next (advance s)

/-- The die's cycle count has come to where the core's last instruction ended, and the core is busy for n cycles from there: the
cores of a die run side by side on one count (R71, R85). -/
def spendCycles (s : State) (n : Nat) : State :=
  let t := max (dieOf s (curDie s)).cyc (curCore s).busy
  modCore (modDie s (curDie s) fun d => { d with cyc := t }) fun c => { c with busy := t + n }

/-- The cycles that the die has delivered since the core's last instruction ended. -/
def cyclesSince (s : State) : Nat := (dieOf s (curDie s)).cyc - (curCore s).busy

/-- The state after n delivered cycles of the step's core and those since its last instruction, charged to a firing in CYCLES and
BUDGET_LEFT (R85, R239). The supervisor's trap handling is charged to no slice. -/
def charge (s : State) (m : Nat) : State :=
  let s1 := spendCycles s m
  let n := cyclesSince s + m
  if (curCore s).sup then s1
  else
    match curSlice s with
    | none => s1
    | some l =>
      let left := l.budget.map fun b => b - BitVec.ofNat 48 (min n b.toNat)
      let s2 := setSlice s1 { l with cycles := l.cycles + BitVec.ofNat 64 n, budget := left }
      if left = some 0 && decide (0 < n) then modCore s2 fun c => { c with pendBudget := true } else s2

/-- The state after the free number of ticks a step takes (R5). -/
def passTime (s : State) : State :=
  { s with ticks := s.ticks + Config.extraTicks s.draws, draws := s.draws + 1 }

/-! ### Traps -/

/-- REP_STATE of a repeat (Table 3.5). DNUM, ANUM and BNUM of a field that does not step, or that the instruction's format lacks,
hold the low 6 bits of the word's bits in that place. Log entry 81. -/
def repWord (p : RepRun) : Word :=
  BitVec.ofNat 64 (2 ^ 63 + p.left * 2 ^ 34 + p.stepD.toNat * 2 ^ 29 + p.stepA.toNat * 2 ^ 24 + p.stepB.toNat * 2 ^ 19
    + p.d.toNat % 64 * 2 ^ 12 + p.a.toNat % 64 * 2 ^ 6 + p.b.toNat % 64)

/-- TRAP_INFO of a trap (Table 8.3). -/
def infoWord (t : TrapReq) : Word :=
  BitVec.ofNat 64 (b2n t.coh * 2 ^ 63 + t.slice.toNat * 2 ^ 24 + t.detail.toNat * 2 ^ 8 + t.inner.toNat)

/-- Where a cause's vector begins (R266). -/
def vectorOf (base : Word) (cause : BitVec 8) : Word := base + BitVec.ofNat 64 (cause.toNat * 64)

/-- The core after it has taken a trap (R266, R91): the trap registers written, REP_STATE set or its VALID cleared,
supervisor mode, and the pc at the vector. -/
def trapCore (t : TrapReq) (c : Core) : Core :=
  { c with
    trap := { c.trap with
      cause := BitVec.ofNat 64 (b2n c.sup * 256 + t.cause.toNat), pc := t.pc, addr := t.addr, info := infoWord t }
    sup := true
    running := true
    idle := false
    handling := true
    rep := none
    wait := none
    regs := { c.regs with
      pc := vectorOf c.trap.base t.cause
      repState := match c.rep with
        | some p => repWord p
        | none => c.regs.repState &&& 0x7FFFFFFFFFFFFFFF } }

/-- Taking a trap on the step's core. -/
def takeTrap (s : State) (t : TrapReq) : State := modCore s (trapCore t)

/-- A precise trap of the instruction: TRAP_PC at the instruction, TRAP_INFO.SLICE the running slice. -/
def trapHere (s : State) (cause : BitVec 8) (addr : Word) (detail : BitVec 16 := 0) : Out :=
  .next (takeTrap s { cause := cause, pc := pcOf s, addr := addr, detail := detail, slice := curSliceId s })

/-- PRIV, for what slice mode may not do. -/
def trapPriv (s : State) : Out := trapHere s 0x0D 0

/-- The repeat REP_STATE holds (Table 3.5). A field of ins whose step is zero keeps its own specifier. -/
def repOfWord (w : Word) : RepRun :=
  { left := bitsAt 34 7 w.toNat, stepD := fieldOf 5 29 w.toNat, stepA := fieldOf 5 24 w.toNat,
    stepB := fieldOf 5 19 w.toNat, d := BitVec.ofNat 7 (bitsAt 12 6 w.toNat),
    a := BitVec.ofNat 7 (bitsAt 6 6 w.toNat), b := BitVec.ofNat 7 (bitsAt 0 6 w.toNat) }

/-- The core after ERET to TRAP_PC (R268, R434): the mode of TRAP_CAUSE.PMODE, and the repeat when REP_STATE is valid. -/
def eretCore (c : Core) : Core :=
  { c with
    sup := bitOf 8 c.trap.cause.toNat
    handling := false
    wait := none
    rep := if bitOf 63 c.regs.repState.toNat then some (repOfWord c.regs.repState) else none
    regs := { c.regs with pc := c.trap.pc } }

/-! ### Traps for a cohort supervisor -/

/-- The core that takes the traps of a cohort about a slice of a die (R271). -/
def superCore (s : State) (cohort : BitVec 16) (die : DieId) : CoreId :=
  let cdir := (dieOf s die).docent.cdir.toNat
  if cdir / 2 ^ 12 % 2 ^ 40 = 0 || decide (2 ^ (cdir % 32) ≤ cohort.toNat) then BitVec.ofNat 6 (die.toNat * 16)
  else fieldOf 6 19 (memNat s.mem (cdir / 2 ^ 12 % 2 ^ 40 * 2 ^ 12 + 32 * cohort.toNat + 8) 8)

/-- The state with a trap in the list of a cohort supervisor, or none when the list is full: the sender waits (R271). -/
def sendSuper (s : State) (cohort : BitVec 16) (die : DieId) (t : SupTrap) : Option State :=
  let k := superCore s cohort die
  let c := coreOf s k
  if 16 ≤ c.supTraps.length then none
  else some (setCore s k { c with supTraps := c.supTraps ++ [t] })

/-! ### Pending asynchronous causes -/

/-- DEFER_TAG of a record (Table 8.4). -/
def deferTagWord (r : DeferRec) : Word :=
  BitVec.ofNat 64 (r.cmd.toNat * 2 ^ 52 + r.eng.toNat * 2 ^ 48 + r.msgSeq.toNat * 2 ^ 32 + r.slice.toNat)

/-- The trap registers with the DEFER_* registers written (R273). -/
def putDefer (g : TrapRegs) (r : DeferRec) : TrapRegs :=
  { g with
    deferPc := r.pc, deferTag := deferTagWord r, deferOpA := r.opA, deferOpB := r.opB, deferOpC := r.opC,
    deferOpD := r.opD, deferAddr := r.addr, deferProgress := r.progress }

/-- Taking the DEFERRED trap of a record at pc; none says no firing was in progress (R273). -/
def takeDeferred (s : State) (r : DeferRec) (pc : Word) (none : Bool) : State :=
  takeTrap (modCore s fun c => { c with trap := putDefer c.trap r })
    { cause := 0x0E, pc := pc, addr := r.addr, detail := if none then 1 else 0, inner := r.cause, slice := r.slice }

/-- The records of the deferred list that the core may deliver now: those of its running slice. -/
def dueRecord (c : Core) : Option DeferRec := c.deferred.find? fun r => c.slice == some r.slice

/-- Asynchronous causes may be taken: a firing runs, none does, or supervisor code runs or waits in IDLE (R269, R270). A
handler is left to end first; one that another has interrupted is open to them again from the boundary that its ERET returns to
(R434). Log entry 28. -/
def mayTakeAsync (c : Core) : Bool := !c.sup || !c.running || c.idle || !c.handling

/-- The first pending asynchronous cause is taken at this boundary (R269, R270): DIE_LOST, LINK, NODE, DEFERRED, BUDGET.
The traps a core holds as cohort supervisor are delivered by a step of their own (R271). -/
def takeAsync (s : State) : Option State :=
  let c := curCore s
  let at_ : Word := c.regs.pc + (if c.idle then 4 else 0)
  match c.pendLost with
  | d :: t =>
    some (takeTrap (modCore s fun c => { c with pendLost := t })
      { cause := 0x12, pc := at_, detail := d.zeroExtend 16, slice := curSliceId s })
  | [] =>
  match c.pendLink with
  | (d, n) :: t =>
    some (takeTrap (modCore s fun c => { c with pendLink := t })
      { cause := 0x11, pc := at_, detail := d.zeroExtend 16, inner := n, slice := curSliceId s })
  | [] =>
  match c.pendNode with
  | n :: t =>
    some (takeTrap (modCore s fun c => { c with pendNode := t })
      { cause := 0x0F, pc := at_, addr := n.site.zeroExtend 64, detail := n.catid, inner := n.kind, slice := n.slice })
  | [] =>
  match dueRecord c with
  | some r => some (takeDeferred (modCore s fun c => { c with deferred := c.deferred.erase r }) r at_ false)
  | none =>
  if c.pendBudget && !c.sup then
    some (takeTrap (modCore s fun c => { c with pendBudget := false })
      { cause := 0x09, pc := at_, slice := curSliceId s })
  else none

end Sys2Proof.Machine
end

