-- ==== Sys2Proof/Machine/Grid.lean ====
section
/-!
DEFINITION. The fabric's grid, channels and ports (R20 to R23, R36 to R41, R67, R70, R75, R76, R581): coordinates,
neighbours, where a token written to an output goes, free slots, and a channel's tokens. Channels are those of single
sites: tracks 4-7 of a matrix tile's port are tracks 0-3 of its lower row (R377).
-/
namespace Sys2Proof.Machine

/-! ### Coordinates -/

/-- The die of a site. -/
def siteDie (x : SiteId) : DieId := BitVec.ofNat 2 (x.toNat / 4096)

/-- The row of a site on its die. -/
def siteRow (x : SiteId) : Nat := x.toNat / 128 % 32

/-- The column of a site on its die. -/
def siteCol (x : SiteId) : Nat := x.toNat % 128

/-- The site at a row and column of a die. -/
def mkSite (d : DieId) (r c : Nat) : SiteId := BitVec.ofNat 14 (d.toNat * 4096 + r * 128 + c)

/-- The fabric has this site. -/
def siteOk (x : SiteId) : Bool := decide (siteCol x < 72)

/-- The core whose panel holds a site (R12). -/
def siteCore (x : SiteId) : CoreId := BitVec.ofNat 6 ((siteDie x).toNat * 16 + siteRow x / 8 * 4 + siteCol x / 18)

/-- The kind of a site, as contexts number it: 0 processing element, 1 memory element, 2 matrix tile (R20). -/
def siteKind (x : SiteId) : Nat := if siteCol x % 18 = 16 then 1 else if siteCol x % 18 = 17 then 2 else 0

/-- The lower row of a matrix tile. -/
def lowerRow (x : SiteId) : Bool := siteKind x == 2 && siteRow x % 2 == 1

/-- The site that holds the node: a tile's upper row. -/
def anchorOf (x : SiteId) : SiteId := if lowerRow x then x - 128 else x

/-- The row and column of a site in the module's fabric (R413). -/
def moduleAt (x : SiteId) : Nat × Nat :=
  (siteRow x + 32 * ((siteDie x).toNat / 2), siteCol x + 72 * ((siteDie x).toNat % 2))

/-- The site at a row and column of the module's fabric. -/
def ofModule (r c : Nat) : SiteId := mkSite (BitVec.ofNat 2 (r / 32 * 2 + c / 72)) (r % 32) (c % 72)

/-- The facing port: N and S, E and W. -/
def facing (p : Nat) : Nat := (p + 2) % 4

/-- The neighbour of a site in direction p: 0 N, 1 E, 2 S, 3 W. -/
def neighbour (x : SiteId) (p : Nat) : Option SiteId :=
  let (r, c) := moduleAt x
  match p with
  | 0 => if r = 0 then none else some (ofModule (r - 1) c)
  | 1 => if c = 143 then none else some (ofModule r (c + 1))
  | 2 => if r = 63 then none else some (ofModule (r + 1) c)
  | 3 => if c = 0 then none else some (ofModule r (c - 1))
  | _ => none

/-- The single site and track of track t of a node's port: tracks 4-7 lie in a tile's lower row. -/
def trackAt (x : SiteId) (t : Nat) : SiteId × Nat :=
  if siteKind x = 2 && 4 ≤ t then (anchorOf x + 128, t - 4) else (x, t)

/-- The rectangle of a placement's sites in row-major order. -/
def rectSites (o : SiteId) (rows cols : Nat) : List SiteId :=
  let (r, c) := moduleAt o
  (List.range rows).flatMap fun i => (List.range cols).map fun j => ofModule (r + i) (c + j)

/-- A rectangle lies in the module's fabric. -/
def rectOk (o : SiteId) (rows cols : Nat) : Bool :=
  siteOk o && decide ((moduleAt o).1 + rows ≤ 64) && decide ((moduleAt o).2 + cols ≤ 144)

/-! ### Channels -/

/-- The key of the channel that ends at port p, track t of a site; ports 5 to 9 are the buffers of exit ports N to W and
of the L output, and ports 10 to 13 hold what reaches a closed selvage by outputs N to W until it is dropped (R68). -/
def chanKey (x : SiteId) (p t : Nat) : Nat := x.toNat * 128 + p * 8 + t

/-- A channel. -/
def chanOf (s : State) (k : Nat) : Chan := (tblGet s.chans k).getD {}

/-- The state with a channel replaced; an empty one is not listed. -/
def setChan (s : State) (k : Nat) (c : Chan) : State :=
  { s with chans := if c = {} then tblErase s.chans k else tblSet s.chans k c }

/-- The state with a channel changed. -/
def modChan (s : State) (k : Nat) (f : Chan → Chan) : State := setChan s k (f (chanOf s k))

/-- Tokens a track holds for its consumer: 4 slots (R36), and on a track across a die edge the tokens its 16 stages and
its boundary elements hold as well (R75, R76). Log entry 16. -/
def chanCapacity (x src : SiteId) : Nat := if siteDie x = siteDie src then 4 else 36

/-- A placement whose context is active at its sites. -/
def activeAt (s : State) (x : SiteId) : Option Placement :=
  s.placements.find? fun p => p.active && (rectSites p.origin p.rows p.cols).contains x

/-- The placement whose context is the active one of a site. -/
def placementOf (s : State) (x : SiteId) : Option Placement :=
  s.placements.find? fun p => p.ctx == (siteOf s x).act && (rectSites p.origin p.rows p.cols).contains x

/-- The active placement's declared port that covers port p, track t of a site (R413, Table 12.19). -/
def portAt (s : State) (exit : Bool) (x : SiteId) (p t : Nat) : Option (Placement × Nat) :=
  match activeAt s x with
  | none => none
  | some pl =>
    let hit := (List.range pl.ports.length).find? fun i =>
      match pl.ports[i]? with
      | some q =>
        q.exit == exit && q.port.toNat == p &&
          (List.range (q.width.toNat + 1)).any fun k => trackAt q.site (q.track.toNat + k) == (x, t)
      | none => false
    hit.map fun i => (pl, i)

/-- The link key of a gateway: tokens that leave the site by the port and track. -/
def linkKey (x : SiteId) (p t : Nat) : Nat := x.toNat * 32 + p * 4 + t

/-- The domain of a site (R67). -/
def domainOf (s : State) (x : SiteId) : BitVec 4 := (siteOf s x).domain

/-- A token from a site's output p, track t comes through to the neighbour y: their domains are the same, or it comes by an SWB
word whose gateway is open (R68, R70). -/
def comesThrough (s : State) (x : SiteId) (p t : Nat) (y : SiteId) (gate : Bool) : Bool :=
  domainOf s y == domainOf s x || (gate && s.gateways.contains (linkKey x p t))

/-- Where a token goes that leaves a site by port p, track t: the L output, an exit port's buffer unless the neighbour
declares an entry port there, the near side of a selvage it does not pass, the neighbour's input, or nowhere. Log entry 17. -/
def outDest (s : State) (x : SiteId) (p t : Nat) (gate : Bool) : Option (SiteId × Nat × Nat) :=
  if p = 4 then some (x, 9, t)
  else
    match neighbour x p with
    | none => if (portAt s true x p t).isSome then some (x, p + 5, t) else none
    | some y =>
      if (portAt s true x p t).isSome && (portAt s false y (facing p) t).isNone then some (x, p + 5, t)
      else if comesThrough s x p t y gate then some (y, facing p, t)
      else some (x, p + 10, t)

/-- An output track has a free slot at its consumer, as last reported (R38); what a selvage drops waits for nothing beyond it
(R68). A track that leads nowhere never has. -/
def outFree (s : State) (x : SiteId) (p t : Nat) (gate : Bool := false) : Bool :=
  match outDest s x p t gate with
  | none => false
  | some (y, q, u) =>
    let c := chanOf s (chanKey y q u)
    decide (10 ≤ q) || decide (c.slots.length + c.flight.length + c.freed < chanCapacity y x)

/-- A token is written to an output track; gate tells that it comes by an SWB word (R70). -/
def emitTok (s : State) (x : SiteId) (p t : Nat) (k : Token) (gate : Bool) : State :=
  match outDest s x p t gate with
  | none => s
  | some (y, q, u) => modChan s (chanKey y q u) fun c => { c with flight := c.flight ++ [(k, x, gate)] }

/-- The oldest token present at an input track of a node. -/
def headTok (s : State) (x : SiteId) (p t : Nat) : Option Token :=
  let (y, u) := trackAt x t
  (chanOf s (chanKey y p u)).slots.head?

/-- The oldest token of an input track is consumed; its slot is seen free later (R38). -/
def consumeTok (s : State) (x : SiteId) (p t : Nat) : State :=
  let (y, u) := trackAt x t
  modChan s (chanKey y p u) fun c => { c with slots := c.slots.drop 1, freed := c.freed + 1 }

/-- The tokens of a bundle, which are of one kind (R27): where one of them has been dropped whole, each is a HOLE. -/
def oneKind (ts : List Token) : List Token :=
  if ts.any fun k => k.kind == 6 then ts.map fun k => { k with kind := 6, valid := 0, lanes := [] } else ts

/-- The tokens at the heads of tracks t to t + w of a port, or none unless all are present (R27). -/
def headBundle (s : State) (x : SiteId) (p t w : Nat) : Option (List Token) :=
  ((List.range (w + 1)).mapM fun k => headTok s x p (t + k)).map oneKind

/-- The heads of tracks t to t + w are consumed. -/
def consumeBundle (s : State) (x : SiteId) (p t w : Nat) : State :=
  (List.range (w + 1)).foldl (fun u k => consumeTok u x p (t + k)) s

/-! ### Contexts -/

/-- The active context of a node, where its site has one that may fire (R60). -/
def activeCtx (s : State) (x : SiteId) : Option Ctx :=
  let k := siteOf s x
  if k.on then (k.ctxs[k.act.toNat]?).getD none else none

/-- A site may fire: its context is active, and it is neither frozen nor gated (R275, R284), and its die is there. -/
def mayFire (s : State) (x : SiteId) : Bool :=
  let k := siteOf s x
  k.on && !k.frozen && !k.gated && !dieGone s (siteDie x)

/-- A site has acted: it wakes, and its region's movement is noted (R57, R283). -/
def noteMove (s : State) (x : SiteId) : State :=
  let s1 := modSite s x fun k => { k with drowsy := false, lastFire := (dieOf s (siteDie x)).cyc }
  { s1 with placements := s1.placements.map fun p =>
      if p.active && (rectSites p.origin p.rows p.cols).contains x then
        { p with lastMove := (dieOf s (siteDie p.origin)).cyc, quiet := false }
      else p }

end Sys2Proof.Machine
end

