-- ==== Sys2Proof/Machine/Device.lean ====
section
/-!
DEFINITION. The device register range: docent control areas and notify pages (Tables 7.3 to 7.6), the memory error logs
(Table 8.8) and the power block (Table 11.2), with the access rules of R6 and R7. Addresses of the range that no table
lists read zero and ignore writes. Log entry 14.
-/
namespace Sys2Proof.Machine

/-- What a device address names: a docent control register, a notify page, an error log or a power block, with the die
and the offset. -/
inductive DevUnit where
  | docent (d : DieId) (o : Nat)
  | notify (d : DieId) (n o : Nat)
  | errLog (d : DieId) (o : Nat)
  | power (d : DieId) (o : Nat)
  | none
deriving DecidableEq, Repr

/-- The unit at a device address. -/
def devUnit (pa : Nat) : DevUnit :=
  let o := pa - 0xD000000000000
  if o < 0x400000000 then
    let d : DieId := BitVec.ofNat 2 (o / 0x100000000)
    let r := o % 0x100000000
    if r < 0x100000 then .docent d r
    else if r < 0x200000 then .notify d ((r - 0x100000) / 0x1000) (r % 0x1000) else .none
  else if 0x1000000000 ≤ o && o < 0x1000004000 then .errLog (BitVec.ofNat 2 (o / 0x1000)) (o % 0x1000)
  else if 0x2000000000 ≤ o && o < 0x2000004000 then .power (BitVec.ofNat 2 (o / 0x1000)) (o % 0x1000)
  else .none

/-- The die that serves a device address: the leader serves the registers of the whole module (R353); none where no table lists
the address. -/
def devDie (pa : Nat) : Option DieId :=
  match devUnit pa with
  | .docent d _ => some d
  | .notify d _ _ => some d
  | .errLog d _ => some d
  | .power d o => some (if o < 0x30 then Config.leader else d)
  | .none => none

/-- The bits of the 64-bit device word at an 8-byte aligned address that are marked SV (R6). A notify control block is SV as a
whole, as Table 7.3 has it. Log entry 100. -/
def devSvMask (pa : Nat) : BitVec 64 :=
  match devUnit pa with
  | .docent _ o =>
    if o < 0x10 then 0xFFFFFFFFFF01F
    else if o = 0x10 then 0x3FFFF
    else if o = 0x18 then 1
    else if 0x4000 ≤ o && o < 0x8000 then BitVec.allOnes 64 else 0
  | .notify _ _ _ => 0
  | .errLog _ o => if o = 0 then BitVec.allOnes 64 else if o = 8 then 0xFFFFFFFF else if o = 0x10 then 0xFFFFFFFFFFFC0 else 0
  | .power _ o =>
    if o = 0 then 0x3FF
    else if 0x10 ≤ o && o < 0x30 then 7
    else if 0x100 ≤ o && o < 0x180 then (if o % 16 = 0 then 0xFFFFFFFE00001 else 0xFFFFFFFE0000F) else 0
  | .none => 0

/-- An access of n bytes within a word meets a field marked SV: in slice mode it traps PRIV (R6). -/
def devSv (pa n : Nat) : Bool := devSvMask (pa / 8 * 8) &&& byteMask (8 * (pa % 8)) (8 * n) != 0

/-- The bits of w from lo on, n of them, in their place. -/
def keepBits (lo n : Nat) (w : Word) : Word := BitVec.ofNat 64 (bitsAt lo n w.toNat * 2 ^ lo)

/-- A notify control block's word at an offset (Table 7.6). -/
def notifyWord (b : Notify) (o : Nat) : Word :=
  if o = 0 then b.ringPa
  else if o = 8 then
    BitVec.ofNat 64 (b.log2.toNat + b.maxClass.toNat * 32 + b.asid.toNat * 2 ^ 16 + b2n b.en * 2 ^ 32 + b2n b.overrun * 2 ^ 33)
  else if o = 0x10 then b.root
  else if o = 0x18 then BitVec.ofNat 64 (b.last.toNat + b.refused.toNat * 2 ^ 32)
  else if o = 0x20 then b.ringVa
  else 0

/-- A notify control block after a write of word v, with the bits of w1 written as ones (Table 7.6). -/
def notifyPut (b : Notify) (o : Nat) (v w1 : Word) : Notify :=
  if o = 0 then { b with ringPa := keepBits 6 46 v }
  else if o = 8 then
    { b with
      log2 := if bitsAt 0 5 v.toNat ≤ 16 then fieldOf 5 0 v.toNat else b.log2
      maxClass := fieldOf 3 5 v.toNat, asid := fieldOf 16 16 v.toNat, en := bitOf 32 v.toNat
      overrun := b.overrun && !bitOf 33 w1.toNat }
  else if o = 0x10 then { b with root := keepBits 12 40 v }
  else if o = 0x18 then { b with last := fieldOf 32 0 v.toNat, refused := fieldOf 32 32 v.toNat }
  else if o = 0x20 then { b with ringVa := keepBits 0 56 v }
  else b

/-- The notify control block of page n of a die. -/
def notifyOf (s : State) (d : DieId) (n : Nat) : Notify := (tblGet (dieOf s d).docent.notify n).getD {}

/-- The state with the control block of a page changed. -/
def modNotify (s : State) (d : DieId) (n : Nat) (f : Notify → Notify) : State :=
  modDie s d fun k => { k with docent := { k.docent with notify := tblSet k.docent.notify n (f (notifyOf s d n)) } }

/-- The docent register at an offset (Table 7.3). -/
def docentWord (s : State) (d : DieId) (o : Nat) : Word :=
  let k := (dieOf s d).docent
  if o = 0 then k.qdir
  else if o = 8 then k.cdir
  else if o = 0x10 then BitVec.ofNat 64 (k.cohort.toNat + k.cmd.toNat * 2 ^ 16 + b2n k.busy * 2 ^ 63)
  else if o = 0x18 then boolWord k.split
  else if 0x4000 ≤ o && o < 0x8000 then notifyWord (notifyOf s d ((o - 0x4000) / 64)) (o % 64)
  else 0

/-- COHORT_CMD after a write of the bits of the mask: one while BUSY is ignored, CMD 1 or 2 starts a command, and a write that
does not cover CMD starts none (Table 7.3). -/
def cohortPut (k : Docent) (v mask : Word) : Docent :=
  if k.busy then k
  else
    let c := bitsAt 16 2 v.toNat
    let k1 := { k with cohort := fieldOf 16 0 v.toNat }
    if bitsAt 16 2 mask.toNat = 0 || c = 0 || c = 3 then k1 else { k1 with cmd := BitVec.ofNat 2 c, busy := true }

/-- A docent register after a write of the bits of the mask: v is its new value, w1 what was written (Table 7.3). -/
def docentPut (s : State) (d : DieId) (o : Nat) (v w1 mask : Word) : State :=
  let setDoc (f : Docent → Docent) : State := modDie s d fun k => { k with docent := f k.docent }
  if o = 0 then
    if bitsAt 0 5 v.toNat ≤ 22 then setDoc fun k => { k with qdir := keepBits 12 40 v ||| keepBits 0 5 v } else s
  else if o = 8 then
    if bitsAt 0 5 v.toNat ≤ 16 then setDoc fun k => { k with cdir := keepBits 12 40 v ||| keepBits 0 5 v } else s
  else if o = 0x10 then setDoc fun k => cohortPut k v mask
  else if o = 0x18 then setDoc fun k => { k with split := bitOf 0 v.toNat }
  else if 0x4000 ≤ o && o < 0x8000 then modNotify s d ((o - 0x4000) / 64) fun b => notifyPut b (o % 64) v w1
  else s

/-- An error log's word (Table 8.8). -/
def errWord (e : ErrLog) (o : Nat) : Word :=
  if o = 0 then BitVec.ofNat 64 (e.ce.toNat + e.ueReads.toNat * 2 ^ 32)
  else if o = 8 then e.sqPoison.zeroExtend 64
  else if o = 0x10 then e.lastUe
  else 0

/-- Counter k of an error log cleared: 0 CE, 1 UE_READS, 2 SQ_POISON (Table 8.8). -/
def errClear (e : ErrLog) (k : Nat) : ErrLog :=
  if k = 0 then { e with ce := 0 } else if k = 1 then { e with ueReads := 0 }
  else if k = 2 then { e with sqPoison := 0 } else e

/-- The half of a word, 0 or 1, is wholly covered by the mask and written as zero. -/
def zeroHalf (h : Nat) (w1 mask : Word) : Bool := bitsAt (32 * h) 32 mask.toNat == 0xFFFFFFFF && bitsAt (32 * h) 32 w1.toNat == 0

/-- An error log after a write of the bits of the mask: each counter wholly covered by zeros is cleared, every other write of a
counter is ignored, and LAST_UE is v (Table 8.8). -/
def errPut (e : ErrLog) (o : Nat) (v w1 mask : Word) : ErrLog :=
  if o = 0x10 then { e with lastUe := keepBits 6 46 v }
  else
    let e1 := if zeroHalf 0 w1 mask then errClear e (o / 4) else e
    if zeroHalf 1 w1 mask then errClear e1 (o / 4 + 1) else e1

/-- PWR_CEIL after a write: values outside 250 to 1,000 leave it unchanged (Table 11.2). Power that the new ceiling admits is no
longer over it (R355). -/
def ceilPut (s : State) (v : Word) : State :=
  let c := bitsAt 0 10 v.toNat
  if 250 ≤ c && c ≤ 1000 then
    { s with power := { s.power with
      ceil := BitVec.ofNat 10 c, overSince := if s.power.power.toNat ≤ c then none else s.power.overSince } }
  else s

/-- A die that may be parked: no slice that holds a slot, no active region, no engine command and no request to or from it in
progress (R286, R358). -/
def mayPark (s : State) (d : DieId) : Bool :=
  s.slices.all (fun l => !(liveSlice l && dieOfCore l.core == d && l.state != .swapped)) &&
  s.placements.all (fun p => !(p.active && (rectSites p.origin p.rows p.cols).any fun x => siteDie x == d)) &&
  s.engines.all (fun e => !(e.1 / 32 == d.toNat && !(e.2.queue.isEmpty && e.2.done.isEmpty && e.2.rowWait.isEmpty && e.2.held.isNone))) &&
  s.streams.all (fun t => dieOfEngine t.eng != d) && s.prefetches.all (fun t => dieOfEngine t.eng != d) &&
  s.cores.all (fun c => !(c.1 / 16 == d.toNat && c.2.sx.isSome)) &&
  s.dies.all (fun e => e.2.forwards.all fun w =>
    e.1 != d.toNat && dieOfCore w.core != d && w.home != d) &&
  s.dies.all fun e => e.2.links.all fun l =>
    !(l.2.request.isSome && (e.1 == d.toNat || l.1 == d.toNat || l.2.dsts.contains d))

/-- A write of PS_CTRL.TARGET (R357, R358): 6 and 7 change nothing; a target is held while BUSY; a park request is
refused when the die may not be parked; parking takes hold at once for new work. -/
def targetPut (s : State) (d : DieId) (t : BitVec 3) : State :=
  let k := dieOf s d
  if 5 < t.toNat then s
  else if k.psBusy then setDie s d { k with psHeld := some t }
  else if t = k.psCurrent then setDie s d { k with psTarget := t }
  else if t = 5 && !mayPark s d then setDie s d { k with psRefused := true }
  else setDie s d { k with psTarget := t, psBusy := true, parked := t == 5 || k.parked, psSince := s.ticks }

/-- A power register (Table 11.2). -/
def powerWord (s : State) (d : DieId) (o : Nat) : Word :=
  if o = 0 then s.power.ceil.zeroExtend 64
  else if o = 8 then
    BitVec.ofNat 64 (s.power.power.toNat + s.power.stretch.toNat * 2 ^ 16 + b2n s.power.unmet * 2 ^ 24)
  else if 0x10 ≤ o && o < 0x30 then
    let k := dieOf s (BitVec.ofNat 2 ((o - 0x10) / 8))
    BitVec.ofNat 64 (k.psTarget.toNat + k.psCurrent.toNat * 256 + b2n k.psBusy * 2 ^ 16 + b2n k.psRefused * 2 ^ 17)
  else if 0x100 ≤ o && o < 0x180 then
    let k := (o - 0x100) / 16
    if o % 16 = 0 then ((dieOf s d).hdecBase[k]?).getD 0 else ((dieOf s d).hdecSize[k]?).getD 0
  else 0

/-- A power register after a write of the bits of the mask: v is its new value, w1 what was written (Table 11.2). -/
def powerPut (s : State) (d : DieId) (o : Nat) (v w1 mask : Word) : State :=
  if o = 0 then ceilPut s v
  else if o = 8 then
    if bitOf 24 w1.toNat then { s with power := { s.power with unmet := false } } else s
  else if 0x10 ≤ o && o < 0x30 then
    let i : DieId := BitVec.ofNat 2 ((o - 0x10) / 8)
    let s1 := if bitOf 17 w1.toNat then modDie s i fun k => { k with psRefused := false } else s
    if bitsAt 0 3 mask.toNat = 0 then s1 else targetPut s1 i (fieldOf 3 0 v.toNat)
  else if 0x100 ≤ o && o < 0x180 then
    let k := (o - 0x100) / 16
    modDie s d fun n =>
      if o % 16 = 0 then { n with hdecBase := n.hdecBase.setIfInBounds k (keepBits 21 31 v ||| keepBits 0 1 v) }
      else { n with hdecSize := n.hdecSize.setIfInBounds k (keepBits 21 31 v ||| keepBits 0 4 v) }
  else s

/-- The 64-bit word at an 8-byte aligned device address. -/
def devWord (s : State) (pa : Nat) : Word :=
  match devUnit pa with
  | .docent d o => docentWord s d o
  | .notify d n o => if o = 0 then (notifyOf s d n).last.zeroExtend 64 else 0
  | .errLog d o => errWord (dieOf s d).err o
  | .power d o => powerWord s d o
  | .none => 0

/-- A read of n bytes of the device range. A DOORBELL read of any size but 4 is ignored and answers zero (R253). -/
def devRead (s : State) (pa n : Nat) : List Byte :=
  match devUnit pa with
  | .notify d p o => leBytes n (if o = 0 && n = 4 then (notifyOf s d p).last.toNat else 0)
  | _ => leBytes n ((devWord s (pa / 8 * 8)).toNat / 2 ^ (8 * (pa % 8)))

/-- A write of n bytes of v within a word of the device range, of the bits that the writer may set (R6). A DOORBELL write joins
its page's list (R253). -/
def devWrite (s : State) (pa n : Nat) (v : Nat) (may : BitVec 64 := BitVec.allOnes 64) : State :=
  let a := pa / 8 * 8
  let sh := 2 ^ (8 * (pa % 8))
  let mask : Word := byteMask (8 * (pa % 8)) (8 * n) &&& may
  let put : Word := BitVec.ofNat 64 (v % 2 ^ (8 * n) * sh) &&& mask
  let new : Word := (devWord s a &&& ~~~ mask) ||| put
  match devUnit a with
  | .docent d o => docentPut s d o new put mask
  | .notify d p _ =>
    if pa % 0x1000 = 0 && n = 4 then modNotify s d p fun b => { b with todo := b.todo ++ [BitVec.ofNat 32 v] } else s
  | .errLog d o => modDie s d fun k => { k with err := errPut k.err o new put mask }
  | .power d o => powerPut s d o new put mask
  | .none => s

/-! ### Accesses of engines and the host's like, which act as slice mode does (R6) -/

/-- A range cut at 8-byte words: address and length of each part; the fuel covers one part a step. -/
def wordParts : Nat → Nat → Nat → List (Nat × Nat)
  | 0, _, _ => []
  | f + 1, a, n =>
    if n = 0 then []
    else
      let k := min n (8 - a % 8)
      (a, k) :: wordParts f (a + k) (n - k)

/-- n bytes of the device range read by supervisor code. -/
def devReadAll (s : State) (pa n : Nat) : List Byte := (wordParts (n / 8 + 2) pa n).flatMap fun p => devRead s p.1 p.2

/-- n bytes of the device range meet a field marked SV (R6). -/
def devSvRange (pa n : Nat) : Bool := (wordParts (n / 8 + 2) pa n).any fun p => devSv p.1 p.2

/-- n bytes of the device range read with the fields marked SV as zero. -/
def devReadOpen (s : State) (pa n : Nat) : List Byte :=
  (wordParts (n / 8 + 2) pa n).flatMap fun p =>
    leBytes p.2 (leNat (devRead s p.1 p.2) &&& (~~~ devSvMask (p.1 / 8 * 8)).toNat / 2 ^ (8 * (p.1 % 8)))

/-- Bytes written to the device range, the fields marked SV left as they are. -/
def devWriteOpen (s : State) (pa : Nat) (bs : List Byte) : State :=
  (wordParts (bs.length / 8 + 2) pa bs.length).foldl (fun t p =>
    devWrite t p.1 p.2 (leNat ((bs.drop (p.1 - pa)).take p.2)) (~~~ devSvMask (p.1 / 8 * 8))) s

end Sys2Proof.Machine
end

