-- ==== Sys2Proof/Machine/Mem.lean ====
section
/-!
DEFINITION. Home memory, poison and the L1 caches (R149 to R156, R217, R223 to R226, R280 to R282): who is home to a
physical address, reads and writes at home with recall of lines held for atomics, cached reads and writes of a core,
write-backs, and atomics on exclusively held lines.
-/
namespace Sys2Proof.Machine

/-- What a physical address names (Table 5.2). -/
inductive PaKind where
  | hbm (d : DieId) | annex (d : DieId) | cxl | device | scratch (c : CoreId) | reserved
deriving DecidableEq, Repr

/-- Table 5.2. -/
def paKind (pa : Nat) : PaKind :=
  if pa < 0x6000000000 then .hbm (BitVec.ofNat 2 (pa / 0x1800000000))
  else if 0x100000000000 ≤ pa && pa < 0x180000000000 then .annex (BitVec.ofNat 2 ((pa - 0x100000000000) / 0x20000000000))
  else if 0x8000000000000 ≤ pa && pa < 0xC000000000000 then .cxl
  else if 0xD000000000000 ≤ pa && pa < 0xE000000000000 then .device
  else if 0xE000000000000 ≤ pa && pa < 0xE000010000000 then .scratch (BitVec.ofNat 6 ((pa - 0xE000000000000) / 0x400000))
  else .reserved

/-- The physical address of scratchpad offset o of core c. -/
def scratchPa (c : CoreId) (o : Nat) : Nat := 0xE000000000000 + c.toNat * 0x400000 + o

/-- The site of the memory element that holds a scratchpad address (R12, R154). -/
def elementSite (pa : Nat) : SiteId :=
  let c := (pa - 0xE000000000000) / 0x400000
  mkSite (BitVec.ofNat 2 (c / 16)) (c % 16 / 4 * 8 + pa % 0x400000 / 0x80000) (c % 4 * 18 + 16)

/-- An address lies in a memory element whose operation is SPFIFO, which serves no other access (R501). -/
def fifoTaken (s : State) (pa : Nat) : Bool :=
  match paKind pa with
  | .scratch _ => (activeCtx s (elementSite pa)).any fun cx =>
      (cx.ewords.head?).any fun w => match decodeE w.toNat with | .ok .spfifo => true | _ => false
  | _ => false

/-- The line of an address. -/
def lineOf (pa : Nat) : Nat := pa / 64

/-- The first die port set in a decoder's mask from n on, counting: the ports of the mask in ascending order (R351). -/
def portsOf (m : Nat) : List Nat := [0, 1, 2, 3].filter fun p => bitOf p m

/-- The port a host or peer address goes out by, through the lowest decoder of the die that matches; none when no decoder
matches or its mask names a lost die's port (R351). -/
def cxlPort (s : State) (d : DieId) (pa : Nat) : Option DieId :=
  let k := dieOf s d
  let hit := [0, 1, 2, 3, 4, 5, 6, 7].find? fun i =>
    let b := ((k.hdecBase[i]?).getD 0).toNat
    let z := ((k.hdecSize[i]?).getD 0).toNat
    bitOf 0 b && b / 2 ^ 21 * 2 ^ 21 ≤ pa && pa < b / 2 ^ 21 * 2 ^ 21 + z / 2 ^ 21 * 2 ^ 21
  match hit with
  | none => none
  | some i =>
    let b := ((k.hdecBase[i]?).getD 0).toNat
    let ps := portsOf (((k.hdecSize[i]?).getD 0).toNat % 16)
    if ps.any fun p => (dieOf s (BitVec.ofNat 2 p)).lost then none
    else (ps[(pa - b / 2 ^ 21 * 2 ^ 21) / 4096 % ps.length]?).map (BitVec.ofNat 2)

/-- The die that holds an address of the module's memory; for any other address the die that asks. -/
def memoryDie (asker : DieId) (pa : Nat) : DieId :=
  match paKind pa with
  | .hbm d => d
  | .annex d => d
  | .scratch c => dieOfCore c
  | _ => asker

/-- The die that serves an address: the home of a line, the die whose port leads to the host or a peer (R351), or the die of a
device register. -/
def homeDie (s : State) (asker : DieId) (pa : Nat) : DieId :=
  match paKind pa with
  | .cxl => (cxlPort s asker pa).getD asker
  | .device => (devDie pa).getD asker
  | _ => memoryDie asker pa

/-- The home of an address cannot be reached by a die's requests (R288, R346, R348). -/
def unreachable (s : State) (asker : DieId) (pa : Nat) : Bool := cutOff s asker (homeDie s asker pa)

/-- A read of the line meets poison: the line is poisoned, or its home cannot be reached (R280, R288). -/
def poisoned (s : State) (asker : DieId) (pa : Nat) : Bool :=
  s.poison.contains (lineOf pa) || unreachable s asker pa

/-- Some line of the n bytes from pa on is poisoned. -/
def poisonedRange (s : State) (asker : DieId) (pa n : Nat) : Bool :=
  (List.range ((pa + n - 1) / 64 + 1 - pa / 64)).any fun i => poisoned s asker ((pa / 64 + i) * 64)

/-- A read met poison: it counts in UE_READS of the home's log, whose LAST_UE takes its line. Log entry 97. -/
def countUe (s : State) (d : DieId) (pa : Nat) : State :=
  modDie s d fun k => { k with err := { k.err with
    ueReads := if k.err.ueReads = 0xFFFFFFFF then 0xFFFFFFFF else k.err.ueReads + 1
    lastUe := BitVec.ofNat 64 (pa / 64 * 64) } }

/-! ### Requests that wait -/

/-- The pseudo-channel of an HBM address: PC = o[18:12] of its offset on the die (R153). -/
def pseudoChannel (pa : Nat) : Nat := pa % 0x1800000000 / 4096 % 128

/-- The stack a pseudo-channel lies in, PC[6] (R153). -/
def pcStack (p : Nat) : Nat := p / 64

/-- The stream engine of its die that owns a pseudo-channel, PC[6:3] (R153). -/
def pcEngine (p : Nat) : Nat := p / 8

/-- The state of a pseudo-channel of a die (R180). -/
def channelState (s : State) (d : DieId) (p : Nat) : PcState := (tblGet (dieOf s d).pcs p).getD .active

/-- A pseudo-channel has had a request: its idle timer starts again (R180). -/
def touchChannel (s : State) (d : DieId) (p : Nat) : State :=
  modDie s d fun k => { k with pcSince := tblSet k.pcSince p s.ticks }

/-- A request for a line goes to a pseudo-channel of HBM, not to its home die cache (R149, R177). -/
def channelOf (s : State) (l : Nat) : Option (DieId × Nat) :=
  match paKind (64 * l) with
  | .hbm d => if (tblGet s.resident l).isSome then none else some (d, pseudoChannel (64 * l))
  | _ => none

/-- A link of a die over its edge to a neighbour. -/
def edgeOf (s : State) (d e : DieId) : Link := (tblGet (dieOf s d).links e.toNat).getD {}

/-- The edges a die's traffic to another crosses (R10, R226). -/
def hopsOf (d h : DieId) : List (DieId × DieId) :=
  if d = h then [] else if diagonal d h then [(d, viaDie d), (viaDie d, h)] else [(d, h)]

/-- The first edge of a route whose link is waking (R287). -/
def wakingHop (s : State) (d h : DieId) : Option (DieId × DieId) := (hopsOf d h).find? fun p => (edgeOf s p.1 p.2).waking

/-- What a turn that was given up has asked for: its walk stands in the die's list, once for a page and address space (R193), and
its held request at the link (R286, R287). -/
def putAsk (s : State) : Ask → State
  | .walk d w => modDie s d fun m =>
      if m.walks.any fun k => k.asid == w.asid && k.va / 4096 == w.va / 4096 then m else { m with walks := m.walks ++ [w] }
  | .link a b c dst => modDie s a fun k =>
      let l := (tblGet k.links b.toNat).getD {}
      let more := (c.toList.filter fun i => !l.cores.contains i)
      { k with links := tblSet k.links b.toNat { l with
          cores := l.cores ++ more, request := some (l.request.getD s.ticks)
          dsts := if l.dsts.contains dst then l.dsts else l.dsts ++ [dst] } }

/-- Every such thing, in order. -/
def putAsks (s : State) (l : List Ask) : State := l.foldl putAsk s

/-- Traffic of a core, or of a unit, from one die to another is held while a link of its route wakes (R287). -/
def holdLink (s : State) (core : Option CoreId) (d h : DieId) : State :=
  match wakingHop s d h with
  | none => s
  | some (a, b) => { s with stall := true, asks := s.asks ++ [.link a b core h] }

/-- A request of a die for a line waits: for a link that is waking (R287), or for its pseudo-channel to leave a sleep state
(R181). -/
def lineWaits (s : State) (d : DieId) (l : Nat) : Bool :=
  !unreachable s d (64 * l) &&
    ((wakingHop s d (homeDie s d (64 * l))).isSome ||
      match channelOf s l with | some (h, p) => channelState s h p != .active | none => false)

/-- A request of a die for a line is made at its home. -/
def reach (s : State) (d : DieId) (l : Nat) : State :=
  if lineWaits s d l then { holdLink s none d (homeDie s d (64 * l)) with stall := true }
  else
    match channelOf s l with
    | some (h, p) => touchChannel s h p
    | none => s

/-- The ports of the line's home die cache are open to a core's domain in this cycle (R71, Table 2.7 class 0). -/
def portOpen (s : State) (c : CoreId) (l : Nat) : Bool :=
  match paKind (64 * l) with | .hbm d => slotNow s d 0 (coreDomain s c) | _ => true

/-- A request of a core's domain at the ports of the line's home die cache. -/
def claimPort (s : State) (c : CoreId) (l : Nat) : State := if portOpen s c l then s else { s with stall := true }

/-- A request or write-back of core c sets out for the line's home: it may wait for a link (R287), or for a port. -/
def coreRequest (s : State) (c : CoreId) (l : Nat) : State :=
  let d := dieOfCore c
  let h := homeDie s d (64 * l)
  claimPort (if cutOff s d h then s else holdLink s (some c) d h) c l

/-! ### Die caches (R149, R150) -/

/-- The line is in its home die cache: brought in by a request of a domain, in its share of the line's set of 16 ways, where
none leaves a cache that holds fewer lines than a share; only HBM lines are cached there. Log entries 11, 82. -/
def dieFill (s : State) (dom : BitVec 4) (l : Nat) : State :=
  match paKind (64 * l) with
  | .hbm d =>
    let m := dieOf s d
    let share (e : BitVec 4) : Nat := shareOf m 16 e
    if (tblGet s.resident l).isSome || share dom = 0 then s
    else
      let here (x : Nat × BitVec 4) : Bool := match paKind (64 * x.1) with | .hbm e => e == d | _ => false
      let way (x : Nat × BitVec 4) : Bool := here x && Config.cacheSet x.1 % 65536 == Config.cacheSet l % 65536
      let kept := makeRoom (fun x => shareKey m x.2) share (shareKey m dom) 16 (Config.victim s.draws l) (s.resident.filter way)
      if (s.resident.filter here).length < share dom then { s with resident := tblSet s.resident l dom }
      else { s with resident := tblSet (s.resident.filter fun x => !way x || kept.contains x) l dom }
  | _ => s

/-! ### Lines on their way home -/

/-- The dirty bytes of a line perform at home; bound for a lost die they are discarded (R288). A line written whole loses
its poison (R280). -/
def putLine (s0 : State) (asker : DieId) (l : Nat) (data : List Byte) (dirty : BitVec 64) : State :=
  if unreachable s0 asker (64 * l) then s0
  else
    let s := reach s0 asker l
    { s with
      mem := memMerge s.mem (64 * l) data dirty.toNat
      poison := if dirty = BitVec.allOnes 64 then s.poison.erase l else s.poison }

/-- The owner of a line other than core c gives it up: its bytes go home and it drops the line. -/
def yieldLine (s : State) (c : Option CoreId) (l : Nat) : State :=
  s.cores.foldl (fun t e =>
    let k : CoreId := BitVec.ofNat 6 e.1
    if c == some k then t
    else
      match e.2.l1.find? fun x => x.line == l && x.own with
      | none => t
      | some x =>
        let d := dieOfCore k
        let t1 := putLine (holdLink t none (homeDie t d (64 * l)) d) d l x.data x.dirty
        setCore t1 k { coreOf t1 k with l1 := (coreOf t1 k).l1.filter fun y => !(y.line == l) }) s

/-- A die's forwarded write-backs perform, oldest first, those of the named source and home only (R226); an owner of a line gives
it up first (R217, R223). -/
def flushForwards (s : State) (src home : DieId) : State :=
  let v := viaDie src
  let all := (dieOf s v).forwards
  let mine (w : WriteBack) : Bool := dieOfCore w.core == src && w.home == home
  let s1 := modDie s v fun k => { k with forwards := k.forwards.filter fun w => !mine w }
  (all.filter mine).foldl (fun t w => putLine (yieldLine t (some w.core) w.line) src w.line w.data w.dirty) s1

/-- A request of a die has reached another, and what answers it has come back: what either had sent the other before has arrived
(R225, R226). -/
def exchange (s : State) (d h : DieId) : State := if diagonal d h then flushForwards (flushForwards s d h) h d else s

/-- What a die and the home of a line have sent each other arrives first (R225, R226). -/
def arriveFirst (s : State) (d : DieId) (l : Nat) : State := exchange s d (homeDie s d (64 * l))

/-- The line's owner other than core c gives it up: a snoop reaches it, after what the two dies have sent each other (R217, R225,
R287). -/
def recallLine (s : State) (c : Option CoreId) (l : Nat) : State :=
  let owners := s.cores.filter fun e => c != some (BitVec.ofNat 6 e.1) && e.2.l1.any fun x => x.line == l && x.own
  yieldLine (owners.foldl (fun t e => arriveFirst t (dieOfCore (BitVec.ofNat 6 e.1)) l) s) c l

/-- A line of core c performs at its home, which recalls it from another owner first (R217). -/
def storeLine (s : State) (c : CoreId) (l : Nat) (data : List Byte) (dirty : BitVec 64) : State :=
  putLine (recallLine s (some c) l) (dieOfCore c) l data dirty

/-- A write-back leaves core c: it performs at its home, but towards a diagonal die it goes to the intermediate die
first (R224 to R226). A line held for atomics is given up to its home in the same step (R217). -/
def writeBack (s0 : State) (c : CoreId) (l : L1Line) : State :=
  if l.dirty = 0 then s0
  else
    let d := dieOfCore c
    let h := homeDie s0 d (64 * l.line)
    let s := coreRequest s0 c l.line
    if l.own then storeLine (arriveFirst s d l.line) c l.line l.data l.dirty
    else if diagonal d h && !cutOff s d h then
      modDie s (viaDie d) fun k => { k with
        forwards := k.forwards ++ [{ core := c, home := h, line := l.line, data := l.data, dirty := l.dirty }] }
    else storeLine s c l.line l.data l.dirty

/-- Before an access by an agent of a die to a line performs at home: the request gets there, lines held for atomics are
recalled, and the die's own traffic of the same route has arrived. -/
def atHome (s : State) (d : DieId) (l : Nat) : State :=
  recallLine (arriveFirst (reach s d l) d l) none l

/-! ### The L1 of a core -/

/-- Lines an L1 holds (R149). -/
def l1Capacity : Nat := 4096

/-- The L1's line. -/
def l1Find (c : Core) (l : Nat) : Option L1Line := c.l1.find? fun x => x.line == l

/-- The state with an L1 line replaced. -/
def l1Put (s : State) (c : CoreId) (x : L1Line) : State :=
  setCore s c { coreOf s c with l1 := (coreOf s c).l1.map fun y => if y.line = x.line then x else y }

/-- The line leaves the L1, written back if dirty. -/
def l1Drop (s : State) (c : CoreId) (l : Nat) : State :=
  match l1Find (coreOf s c) l with
  | none => s
  | some x =>
    let s1 := writeBack s c x
    setCore s1 c { coreOf s1 c with l1 := (coreOf s1 c).l1.filter fun y => !(y.line == l) }

/-- The dirty bytes of a line go home; the line stays, clean. -/
def l1Clean (s : State) (c : CoreId) (l : Nat) : State :=
  match l1Find (coreOf s c) l with
  | none => s
  | some x => l1Put (writeBack s c x) c { x with dirty := 0 }

/-- The line is brought into the L1 if it is not there; a full L1 gives up any one of its lines. Log entry 11. -/
def l1Fill (s : State) (c : CoreId) (l : Nat) : State :=
  match l1Find (coreOf s c) l with
  | some _ => s
  | none =>
    let s1 := dieFill (atHome (coreRequest s c l) (dieOfCore c) l) (coreDomain s c) l
    let n := (coreOf s1 c).l1.length
    let s2 := if l1Capacity ≤ n then
        match (coreOf s1 c).l1[Config.victim s1.draws l % n]? with
        | some x => l1Drop s1 c x.line
        | none => s1
      else s1
    setCore s2 c { coreOf s2 c with l1 := (coreOf s2 c).l1 ++ [{ line := l, data := memBytes s2.mem (64 * l) 64 }] }

/-- A cached read of n bytes within one line. -/
def cachedRead (s : State) (c : CoreId) (pa n : Nat) : State × List Byte :=
  let s1 := l1Fill s c (lineOf pa)
  let d := ((l1Find (coreOf s1 c) (lineOf pa)).map (·.data)).getD []
  (s1, (d.drop (pa % 64)).take n)

/-- A cached write of bytes within one line: the L1 allocates, and the bytes stay dirty there (R151). -/
def cachedWrite (s : State) (c : CoreId) (pa : Nat) (bs : List Byte) : State :=
  let s1 := l1Fill s c (lineOf pa)
  match l1Find (coreOf s1 c) (lineOf pa) with
  | none => s1
  | some x =>
    let s2 := l1Put s1 c { x with
      data := spliceBytes x.data (pa % 64) bs, dirty := x.dirty ||| byteMask (pa % 64) bs.length }
    if bs.length = 64 then { s2 with poison := s2.poison.erase (lineOf pa) } else s2

/-- The line is brought into the L1 in exclusive ownership: its own dirty bytes go home first, and every other owner
gives it up (R217); a host that holds it gives it up by a back-invalidate snoop (R350). -/
def l1Own (s0 : State) (c : CoreId) (l : Nat) : State :=
  let s := { s0 with hostLines := s0.hostLines.erase l }
  match l1Find (coreOf s c) l with
  | some x => if x.own then s else
    let s1 := l1Fill (atHome (l1Drop s c l) (dieOfCore c) l) c l
    match l1Find (coreOf s1 c) l with
    | some y => l1Put s1 c { y with own := true }
    | none => s1
  | none =>
    let s1 := l1Fill s c l
    match l1Find (coreOf s1 c) l with
    | some y => l1Put s1 c { y with own := true }
    | none => s1

/-- The core's lines that meet the n bytes from pa on. -/
def linesIn (c : Core) (pa n : Nat) : List Nat :=
  (c.l1.filter fun x => decide (x.line * 64 < pa + n) && decide (pa < x.line * 64 + 64) && decide (0 < n)).map (·.line)

/-! ### Accesses at home -/

/-- Requests of a die for the lines of n bytes have been made at their home, which has recalled them. -/
def linesAtHome (s : State) (d : DieId) (pa n : Nat) : State :=
  ((List.range ((pa + n - 1) / 64 + 1 - pa / 64)).map (pa / 64 + ·)).foldl (fun t l => atHome t d l) s

/-- n bytes read at home by an agent of a die. Device registers answer as to slice mode: fields marked SV read zero. -/
def homeRead (s : State) (d : DieId) (pa n : Nat) : State × List Byte :=
  match paKind pa with
  | .device => (s, if unreachable s d pa then List.replicate n 0 else devReadOpen s pa n)
  | _ =>
    let s1 := linesAtHome s d pa n
    (s1, memBytes s1.mem pa n)

/-- Bytes written at home by an agent of a die; whole lines lose their poison. A write to a lost die is discarded. -/
def homeWrite (s : State) (d : DieId) (pa : Nat) (bs : List Byte) : State :=
  match paKind pa with
  | .device => if unreachable s d pa then s else devWriteOpen s pa bs
  | _ =>
    if unreachable s d pa then s
    else
      let s1 := linesAtHome s d pa bs.length
      { s1 with
        mem := memWrite s1.mem pa bs
        poison := s1.poison.filter fun l => !(decide (pa ≤ 64 * l) && decide (64 * l + 64 ≤ pa + bs.length)) }

/-- A read-modify-write of n bytes at home in one step (R218). -/
def homeAtomic (s : State) (d : DieId) (pa n : Nat) (f : Nat → Nat) : State × Nat :=
  let s1 := atHome s d (lineOf pa)
  let old := memNat s1.mem pa n
  ({ s1 with mem := memWrite s1.mem pa (leBytes n (f old)) }, old)

/-! ### Sync words -/

/-- Advance of R167 on TARGET, COUNT and GEN; the steps left bound the loop. -/
def syncAdvance (armed target count gen : Nat) : Nat × Nat :=
  if armed % 2 = 1 && target ≠ 0 then (count % target, (gen + count / target) % 2 ^ 32) else (count, gen)

/-- An arrival of n bytes at the sync word at pa (R167). -/
def syncArrive (s : State) (pa n : Nat) : State :=
  let t := memNat s.mem pa 4
  let c := memNat s.mem (pa + 4) 4
  let g := memNat s.mem (pa + 8) 4
  let f := memNat s.mem (pa + 12) 4
  let (c1, f1) := if c + n > 0xFFFFFFFF then (0xFFFFFFFF, f / 4 * 4 + f % 2 + 2) else (c + n, f)
  let (c2, g2) := syncAdvance f1 t c1 g
  { s with mem := memWrite (memWrite s.mem (pa + 4) (leBytes 4 c2)) (pa + 8) (leBytes 4 g2 ++ leBytes 4 f1) }

/-- The slices that wait in SWAIT on the sync word at pa are candidates again (R486). -/
def wakeSync (s : State) (pa : Nat) : State :=
  { s with slices := s.slices.map fun l =>
      match l.watch with
      | some (.sync o) => if scratchPa l.core o = pa then { l with woken := true } else l
      | _ => l }

/-- The sync words of the n bytes from pa on have changed (R486). -/
def wakeRange (s : State) (pa n : Nat) : State :=
  ((List.range ((pa + n - 1) / 16 + 1 - pa / 16)).map (pa / 16 + ·)).foldl (fun t w => wakeSync t (16 * w)) s

/-- The scratchpad address of a sync tag: core in bits [23:18], offset bits [21:4] in bits [17:0] (R166). -/
def tagPa (tag : Nat) : Nat := scratchPa (BitVec.ofNat 6 (tag / 2 ^ 18)) (tag % 2 ^ 18 * 16)

end Sys2Proof.Machine
end

