-- ==== Sys2Proof/Machine/Access.lean ====
section
/-!
DEFINITION. Translation, manifests and the checks of an access (R184 to R195, R196 to R202, R123, R126, R127, R152,
R155, R156, R182), in the order of R189, for the sequencer and for engines.
-/
namespace Sys2Proof.Machine

/-- Kinds of access (Table 6.3). -/
inductive Acc where
  | load | store | atomic | engRead | engWrite | publ | fetch
deriving DecidableEq, Repr

/-- A fault of an access: cause, address, DETAIL. -/
structure Flt where
  cause : BitVec 8
  addr : Word
  detail : BitVec 16 := 0
deriving DecidableEq, Repr

/-- Who makes an access: the core it belongs to, the die it is made from, translation root, the regions it is checked
against, if it is checked, and the TLB it looks in first. -/
structure Who where
  core : CoreId
  die : DieId
  asid : Word
  root : Word
  checked : Bool
  regions : List Region
  tlb : NearTlb := .core
deriving DecidableEq, Repr

/-! ### Manifests -/

/-- Table 6.3: the mode admits the access. -/
def admits (m : BitVec 3) (a : Acc) : Bool :=
  match a with
  | .load => m == 0 || m == 2
  | .store => m == 1 || m == 2
  | .atomic => m == 2 || m == 3
  | .engRead => m == 0 || m == 2 || m == 4
  | .engWrite => m == 1 || m == 2 || m == 4
  | .publ => m == 1 || m == 2 || m == 4
  | .fetch => true

/-- The record a byte lies in. -/
def regionAt (rs : List Region) (a : Nat) : Option Region :=
  rs.find? fun r => decide (r.base ≤ a) && decide (a < r.base + r.extent)

/-- The first byte from a up to e that lies in no record satisfying ok; the fuel covers one record a step. -/
def firstOut (rs : List Region) (ok : Region → Bool) : Nat → Nat → Nat → Option Nat
  | 0, a, e => if a < e then some a else none
  | f + 1, a, e =>
    if e ≤ a then none
    else
      match regionAt rs a with
      | none => some a
      | some r => if ok r then firstOut rs ok f (r.base + r.extent) e else some a

/-- The manifest check of n bytes at va (R199): UNDECLARED at the first byte in no record, else MODE. -/
def checkManifest (w : Who) (va n : Nat) (a : Acc) : Option Flt :=
  if !w.checked then none
  else
    match firstOut w.regions (fun _ => true) 9 va (va + n) with
    | some b => some { cause := 0x07, addr := BitVec.ofNat 64 b }
    | none =>
      match firstOut w.regions (fun r => admits r.mode a) 9 va (va + n) with
      | some _ => some { cause := 0x08, addr := BitVec.ofNat 64 va }
      | none => none

/-! ### Page tables -/

/-- A leaf with the span it maps (R186). -/
structure Leaf where
  pte : Word
  va : Nat
  span : Nat
deriving DecidableEq, Repr

/-- A bit of a leaf. -/
def Leaf.bit (l : Leaf) (i : Nat) : Bool := bitOf i l.pte.toNat

/-- FMT of a leaf (Table 5.7). -/
def Leaf.fmt (l : Leaf) : Nat := bitsAt 54 4 l.pte.toNat

/-- GEOM of a leaf (Table 5.7). -/
def Leaf.geom (l : Leaf) : Nat := bitsAt 52 2 l.pte.toNat

/-- The physical address of va in the visible backing, or in the hidden one of a shadow leaf (R187). -/
def Leaf.pa (l : Leaf) (va : Nat) (hidden : Bool) : Nat :=
  bitsAt 12 40 l.pte.toNat * 4096 + (va - l.va) + (if l.bit 9 && (l.bit 10 != hidden) then l.span else 0)

/-- The span of a leaf at a level by its SIZE, none where reserved (Table 5.8). -/
def leafSpan (level size : Nat) : Option Nat :=
  match level, size with
  | 3, 0 => some 0x1000 | 3, 1 => some 0x4000 | 3, 2 => some 0x10000 | 3, 3 => some 0x40000
  | 2, 0 => some 0x200000 | 2, 1 => some 0x2000000 | 2, 2 => some 0x20000000
  | 1, 0 => some 0x40000000 | 1, 1 => some 0x100000000
  | _, _ => none

/-- A leaf at a level passes R188, and the span it maps. -/
def leafOk (pte level va : Nat) : Option Leaf :=
  match leafSpan level (bitsAt 58 2 pte) with
  | none => none
  | some sp =>
    let ppn := bitsAt 12 40 pte * 4096
    let shadow := bitOf 9 pte
    if zeroAt 60 4 pte && zeroAt 11 1 pte && ppn % (if shadow then 2 * sp else sp) == 0 &&
        (bitOf 2 pte || (!bitOf 3 pte && !bitOf 4 pte)) then
      some { pte := BitVec.ofNat 64 pte, va := va / sp * sp, span := sp }
    else none

/-- A walk from a table on, with n levels left (R185, R188): the leaf and the address of its entry, or the level that
faults. -/
def walk (rd : Nat → Nat) (va : Nat) : Nat → Nat → Except (BitVec 16) (Leaf × Nat)
  | 0, _ => .error 3
  | n + 1, table =>
    let level := 3 - n
    let at_ := table + 8 * bitsAt (12 + 9 * n) 9 va
    let e := rd at_
    if !bitOf 0 e then .error (BitVec.ofNat 16 level)
    else if bitOf 1 e then
      match leafOk e level va with
      | some l => .ok (l, at_)
      | none => .error (BitVec.ofNat 16 level)
    else if zeroAt 2 10 e && zeroAt 52 12 e && n != 0 then walk rd va n (bitsAt 12 40 e * 4096)
    else .error (BitVec.ofNat 16 level)

/-- The addresses of the entries that a walk reads, from a table on with n levels left (R185). -/
def walkPath (rd : Nat → Nat) (va : Nat) : Nat → Nat → List Nat
  | 0, _ => []
  | n + 1, table =>
    let at_ := table + 8 * bitsAt (12 + 9 * n) 9 va
    let e := rd at_
    at_ :: (if bitOf 0 e && !bitOf 1 e && zeroAt 2 10 e && zeroAt 52 12 e then walkPath rd va n (bitsAt 12 40 e * 4096) else [])

/-- The 8 bytes of a page-table entry as the walker reads them: from the line's owner if a core holds it for atomics, else
from the home (R191). -/
def walkerRead (s : State) (pa : Nat) : Nat :=
  let l := lineOf pa
  match s.cores.find? fun e => e.2.l1.any fun x => x.line == l && x.own with
  | none => memNat s.mem pa 8
  | some e =>
    match e.2.l1.find? fun x => x.line == l && x.own with
    | some x => leNat ((x.data.drop (pa % 64)).take 8)
    | none => memNat s.mem pa 8

/-- The cached translation of va in an address space. -/
def tlbFind (t : List TlbEntry) (asid : BitVec 16) (va : Nat) : Option Leaf :=
  (t.find? fun e => e.asid == asid && decide (e.va ≤ va) && decide (va < e.va + e.span)).map
    fun e => { pte := e.pte, va := e.va, span := e.span }

/-- A translation joins a store of cap places in its domain's share: it takes the place of one of its span, and finds room. Log
entry 11. -/
def tlbPut (t : List TlbEntry) (dom : BitVec 4 → BitVec 4) (share : BitVec 4 → Nat) (cap draw : Nat) (e : TlbEntry) : List TlbEntry :=
  if share (dom e.dom) = 0 then t
  else
    makeRoom (fun x => dom x.dom) share (dom e.dom) cap (Config.victim draw e.va)
      (t.filter fun x => !(x.asid == e.asid && x.va == e.va)) ++ [e]

/-- A translation found, and the entry the walk read it from, if it walked. -/
structure Found where
  leaf : Leaf
  entry : Option Nat
deriving DecidableEq, Repr

/-- The entries of the first TLB an access looks in. -/
def nearTlb (s : State) (w : Who) : List TlbEntry :=
  match w.tlb with | .core => (coreOf s w.core).tlb | .engine e => (engineOf s e).tlb | .die => []

/-- ASID of the maker of an access. -/
def Who.asid16 (w : Who) : BitVec 16 := w.asid.truncate 16

/-- The domain in whose share a request of the maker counts (R74). -/
def whoDomain (s : State) (w : Who) : BitVec 4 := coreDomain s w.core

/-- The cached translation of va: in the first TLB, else in the die's second level (R192). -/
def cachedLeaf (s : State) (w : Who) (va : Nat) (ok : Leaf → Bool) : Option Leaf :=
  match (tlbFind (nearTlb s w) w.asid16 va).filter ok with
  | some l => some l
  | none => (tlbFind (dieOf s w.die).tlb2 w.asid16 va).filter ok

/-- The leaf of va: cached, where a write wants D set (R190), or walked. -/
def findLeaf (s : State) (w : Who) (va : Nat) (write : Bool) : Except (BitVec 16) Found :=
  match cachedLeaf s w va fun l => !write || l.bit 6 with
  | some l => .ok { leaf := l, entry := none }
  | none =>
    match walk (walkerRead s) va 4 (bitsAt 12 40 w.root.toNat * 4096) with
    | .ok (l, at_) => .ok { leaf := l, entry := some at_ }
    | .error d => .error d

/-- The first TLB with a translation put in (R192): 128 entries of a core, 64 of a stream engine, 512 of the gallery. -/
def putNear (s : State) (w : Who) (e : TlbEntry) : State :=
  let put (t : List TlbEntry) (n : Nat) : List TlbEntry := tlbPut t (fun _ => 0) (fun _ => n) n s.draws e
  match w.tlb with
  | .core => setCore s w.core { coreOf s w.core with tlb := put (coreOf s w.core).tlb 128 }
  | .engine u => modEngine s u fun k => { k with tlb := put k.tlb (if u.toNat % 32 < 16 then 64 else 512) }
  | .die => s

/-- The second-level TLB of a die with a translation put in, in the share of its domain (R74, R192). -/
def putTlb2 (d : Die) (draw : Nat) (e : TlbEntry) : Die :=
  { d with tlb2 := tlbPut d.tlb2 (shareKey d) (shareOf d 8192) 8192 draw e }

/-- The lines of the page-table entries that a walk for va reads. -/
def walkLines (s : State) (w : Who) (va : Nat) : List Nat :=
  (walkPath (walkerRead s) va 4 (bitsAt 12 40 w.root.toNat * 4096)).map lineOf

/-- The requests of a walk for va have been made at their home die caches (R180, R191). -/
def walkReads (s : State) (w : Who) (va : Nat) : State :=
  (walkLines s w va).foldl (fun t l => dieFill (reach t w.die l) (whoDomain s w) l) s

/-- The access to va goes ahead: A and D are set in the entry that was read, and the TLBs hold the translation (R190, R192). -/
def useLeaf (s : State) (w : Who) (va : Nat) (f : Found) (write : Bool) : State × Leaf :=
  let set : Nat := f.leaf.pte.toNat ||| 32 ||| (if write then 64 else 0)
  let l : Leaf := if f.entry.isSome then { f.leaf with pte := BitVec.ofNat 64 set } else f.leaf
  let s1 := match f.entry with
    | some at_ =>
      let s0 := walkReads s w va
      if set = f.leaf.pte.toNat then s0
      else (homeAtomic s0 w.die at_ 8 fun v => v ||| 32 ||| (if write then 64 else 0)).1
    | none => s
  let e : TlbEntry := { asid := w.asid16, va := l.va, span := l.span, pte := l.pte, dom := whoDomain s w }
  let s2 := putNear s1 w e
  (if f.entry.isSome then modDie s2 w.die fun d => putTlb2 d s1.draws e else s2, l)

/-! ### The walker (R74, R193) -/

/-- The access is not served by any TLB it looks in: none holds the page, or, for one that writes, none with D set (R190). -/
def tlbMiss (s : State) (w : Who) (va : Nat) (write : Bool) : Bool := (cachedLeaf s w va fun l => !write || l.bit 6).isNone

/-- A walk is of the ASID and the 4 KiB page of an access. -/
def Walk.of (k : Walk) (w : Who) (va : Nat) : Bool := k.asid == w.asid16 && k.va / 4096 == va / 4096

/-- The walks of a domain that are in progress: the first of its own in arrival order, as many as its places; the others
wait. -/
def activeWalks (m : Die) (dom : BitVec 4) : List Walk :=
  (m.walks.filter fun k => shareKey m k.dom == shareKey m dom).take (shareOf m 64 dom)

/-- A walk for va waits at a die cache: for a slot of its domain there (R71), for a link or for a pseudo-channel (R181, R287). -/
def walkHeld (s : State) (w : Who) (va : Nat) : Bool :=
  (walkLines s w va).any fun l => lineWaits s w.die l || !portOpen s w.core l

/-- An access that misses waits: a walk of its page is under way, which it joins, the walker has no place for another, or the
walk's requests wait. -/
def walkWaits (s : State) (w : Who) (va : Nat) (write : Bool) : Bool :=
  let m := dieOf s w.die
  tlbMiss s w va write &&
    ((m.walks.any fun k => k.of w va) || decide (shareOf m 64 (whoDomain s w) ≤ (activeWalks m (whoDomain s w)).length) ||
      walkHeld s w va)

/-- The walk an access asks for. -/
def walkAsk (s : State) (w : Who) (va : Nat) (write : Bool) : Ask :=
  .walk w.die { core := w.core, asid := w.asid16, root := w.root, va := va, write := write, dom := whoDomain s w, tlb := w.tlb }

/-- The walk of an access joins the walker's list, unless one of its page is there. -/
def joinWalk (s : State) (w : Who) (va : Nat) (write : Bool) : State := putAsk s (walkAsk s w va write)

/-- An access that has passed its checks waits for its walk, which takes its place in the walker's list (R193). -/
def walkClaim (s s1 : State) (w : Who) (va : Nat) (write : Bool) : State :=
  if walkWaits s w va write then { s1 with stall := true, asks := s1.asks ++ [walkAsk s w va false] } else s1

/-! ### The checks of an access -/

/-- Element bytes of a page format, none for RAW, F8C and reserved codes (Table 4.4). -/
def fmtBytes (f : Nat) : Option Nat :=
  match f with
  | 1 => some 4 | 2 => some 2 | 3 => some 2 | 4 => some 1 | 6 => some 1 | 7 => some 2 | 8 => some 4 | 9 => some 1
  | _ => none

/-- FMT and GEOM of a leaf are codes of Table 4.4, with GEOM only on F8C pages (R123). -/
def fmtOk (l : Leaf) : Bool := decide (l.fmt ≤ 9) && (if l.fmt = 5 then l.geom != 3 else l.geom == 0)

/-- RAW, FP32 and INT32 pages, on which every size and every atomic acts as on bytes (R126). -/
def plainFmt (f : Nat) : Bool := f == 0 || f == 1 || f == 8

/-- A sequencer access goes through on a page of the format (R126, R127); element tells a word access, which converts
one element. -/
def seqFmt (f : Nat) (a : Acc) (element : Bool) : Bool :=
  plainFmt f ||
    (element && (match a with | .load => f != 5 | .store => f != 5 && f != 9 | _ => false))

/-- The permission an access lacks (R189 step 5). -/
def lacksPerm (l : Leaf) (a : Acc) : Bool :=
  match a with
  | .load => !l.bit 2
  | .engRead => !l.bit 2
  | .store => !l.bit 3 && !l.bit 7
  | .engWrite => !l.bit 3 && !l.bit 7
  | .atomic => !l.bit 2 || (!l.bit 3 && !l.bit 7)
  | .publ => false
  | .fetch => !l.bit 4

/-- The access writes (R189 step 6). -/
def accWrites (a : Acc) : Bool := a == .store || a == .atomic || a == .engWrite

/-- Where an access goes: the scratchpad of the issuing core, or a physical address through a leaf. -/
inductive Target where
  | window (o : Nat)
  | phys (pa : Nat) (leaf : Leaf)
deriving DecidableEq, Repr

/-- The physical address of a target. -/
def Target.pa (t : Target) (c : CoreId) : Nat :=
  match t with
  | .window o => scratchPa c o
  | .phys p _ => p

/-- The physical address exists (R152, R351). -/
def paThere (s : State) (d : DieId) (pa : Nat) : Bool :=
  match paKind pa with
  | .reserved => false
  | .cxl => (cxlPort s d pa).isSome
  | _ => true

/-- A page admits an atomic at an address: not on host memory (R220) nor on the device range. -/
def atomicPage (pa : Nat) : Bool := match paKind pa with | .cxl => Config.peer (lineOf pa) | .device => false | _ => true

/-- The page admits a load, a store or an atomic of the sequencer (R123, R126, R127, R156, R182, R220); the device range admits
no atomic. -/
def seqPage (l : Leaf) (pa : Nat) (a : Acc) (element : Bool) : Bool :=
  fmtOk l && !l.bit 8 &&
    (match paKind pa with
     | .scratch _ => false
     | .annex _ => false
     | _ => a != .atomic || atomicPage pa) &&
    seqFmt l.fmt a element

/-- The page admits an instruction fetch (R127, R156, R182): what is no F8C page is read as it stands. Log entry 84. -/
def fetchPage (l : Leaf) (pa : Nat) : Bool :=
  !l.bit 8 && l.fmt != 5 && (match paKind pa with | .scratch _ => false | .annex _ => false | _ => true)

/-- The page admits an engine (R123, R182, R220): the annex may be read by stream engines and the gallery engine only, and is
mapped by 4 KiB leaves. A leaf whose ANNEX bit and address disagree admits none. Log entry 85. -/
def engPage (l : Leaf) (pa : Nat) (a : Acc) (annexOk : Bool) (atom : Bool := false) : Bool :=
  fmtOk l && (!(atom || a == .atomic) || atomicPage pa) &&
    (match paKind pa with
     | .annex _ => l.bit 8 && annexOk && a == .engRead && l.span == 0x1000
     | _ => !l.bit 8)

/-- The address has no form that a translation or the window has (R189 step 2). -/
def formBad (va : Nat) (a : Acc) : Bool :=
  !(va / 2 ^ 48 == 0xF0 && a != .fetch && decide (va % 2 ^ 48 < 0x400000)) && va / 2 ^ 48 != 0

/-- The checks of an access of n bytes at va, within one page, in the order of R189. `page` is the format, annex and
aperture check of step 7; hidden chooses the backing of a shadow leaf; setD tells whether D is set (R190, R412). -/
def checkAccess (s : State) (w : Who) (va n : Nat) (a : Acc) (hidden : Bool) (page : Leaf → Nat → Bool)
    (setD : Bool := accWrites a) : Except Flt (State × Target) :=
  let here : Word := BitVec.ofNat 64 va
  let window := va / 2 ^ 48 == 0xF0 && a != .fetch
  if formBad va a then .error { cause := 0x04, addr := here, detail := 4 }
  else
    match (if a = .fetch then none else checkManifest w va n a) with
    | some f => .error f
    | none =>
      if window then .ok (s, .window (va % 0x400000))
      else
        match findLeaf s w va (accWrites a) with
        | .error d => .error { cause := 0x04, addr := here, detail := d }
        | .ok f =>
          let pa := f.leaf.pa va hidden
          if !paThere s w.die pa then .error { cause := 0x04, addr := here, detail := 5 }
          else if lacksPerm f.leaf a then .error { cause := 0x05, addr := here }
          else if accWrites a && f.leaf.bit 7 then .error { cause := 0x06, addr := here }
          else if !page f.leaf pa then .error { cause := 0x08, addr := here }
          else
            let (s1, l) := useLeaf s w va f setD
            .ok (s1, .phys pa l)

/-- The running firing, or supervisor code, as the maker of accesses. Supervisor code is not checked against manifests.
Log entry 7. -/
def whoSeq (s : State) : Who :=
  let c := curCore s
  { core := s.cur, die := curDie s, asid := c.regs.asid, root := c.regs.ptBase, checked := !c.sup,
    regions := ((curSlice s).map (·.regions)).getD [] }

/-- A sequencer access of n bytes at va. -/
def seqAccess (s : State) (va : Word) (n : Nat) (a : Acc) (element : Bool := false) (setD : Bool := accWrites a) :
    Except Flt (State × Target) :=
  checkAccess s (whoSeq s) va.toNat n a false (fun l pa => seqPage l pa a element) setD

/-- The format of the page a word access at va meets, where an element page takes it (R126); the page is looked up without
effect. -/
def elementFmt (s : State) (va : Word) : Option Nat :=
  if va.toNat / 2 ^ 48 ≠ 0 then none
  else
    match findLeaf s (whoSeq s) va.toNat false with
    | .ok f => if plainFmt f.leaf.fmt || (fmtBytes f.leaf.fmt).isNone then none else some f.leaf.fmt
    | .error _ => none

/-- The trap of an access fault, precise at the instruction. -/
def trapFlt (s : State) (f : Flt) : Out := trapHere s f.cause f.addr f.detail

/-! ### Sequencer accesses that have passed their checks -/

/-- The virtual address a target was reached by, to its 4 KiB page. -/
def Target.page (t : Target) : Nat :=
  match t with | .window _ => 0 | .phys pa l => l.va + (pa - bitsAt 12 40 l.pte.toNat * 4096) % l.span

/-- An access of the step's core at an address goes to the line's home: the L1 does not hold the line, or, for an atomic, not in
ownership (R217); a device register is always there. -/
def goesHome (s : State) (pa : Nat) (a : Acc) : Bool :=
  match paKind pa with
  | .device => true
  | _ =>
    match l1Find (coreOf s s.cur) (lineOf pa) with
    | none => true
    | some x => a == .atomic && !x.own

/-- A request of the step's core to the home of an address waits: for a link or a pseudo-channel (R181, R287), or for a slot of
the core's domain at the home die cache's ports (R71). -/
def requestWaits (s : State) (pa : Nat) : Bool := lineWaits s (curDie s) (lineOf pa) || !portOpen s s.cur (lineOf pa)

/-- A target waits: a window bank for an SPFIFO to leave its element (R501), else its translation for the walker (R193), or, where the
access goes to the line's home, its request. -/
def targetHeld (s : State) (t : Target) (a : Acc) : Bool :=
  match t with
  | .window o => fifoTaken s (scratchPa s.cur o)
  | .phys pa _ => walkWaits s (whoSeq s) t.page (accWrites a) || (goesHome s pa a && requestWaits s pa)

/-- The core waits with a request held: it stands in the walker's list, and in that of the link that is waking, until the
instruction is taken again (R193, R287). -/
def holdRequest (s : State) (t : Target) (a : Acc) : State :=
  match t with
  | .window _ => s
  | .phys pa _ =>
    let w := whoSeq s
    let h := homeDie s w.die pa
    putAsks s ((if walkWaits s w t.page (accWrites a) then [walkAsk s w t.page false] else []) ++
      (match wakingHop s w.die h with | some (x, y) => [.link x y (some s.cur) h] | none => []))

/-- The slice's loads of poisoned data trap (R282). -/
def strictSlice (s : State) : Bool := !(curCore s).sup && ((curSlice s).map (·.strict)).getD false

/-- A load answered with zero counts in SQ_POISON of the log of the core's own die (R281). Log entry 97. -/
def countSq (s : State) : State :=
  modDie s (curDie s) fun k => { k with err := { k.err with
    sqPoison := if k.err.sqPoison = 0xFFFFFFFF then 0xFFFFFFFF else k.err.sqPoison + 1 } }

/-- The bytes a sequencer read of n bytes within a line finds: window bank, device register, or L1 (R155, R453). -/
def seqRead (s : State) (t : Target) (n : Nat) : State × List Byte :=
  match t with
  | .window o => (s, memBytes s.mem (scratchPa s.cur o) n)
  | .phys pa _ =>
    match paKind pa with
    | .device => (s, devReadAll s pa n)
    | _ => cachedRead s s.cur pa n

/-- A sequencer write of bytes within a line: the window bank, a device register, or L1 (R155, R505). -/
def seqWrite (s : State) (t : Target) (bs : List Byte) : State :=
  match t with
  | .window o =>
    let p := scratchPa s.cur o
    wakeRange { s with
      mem := memWrite s.mem p bs
      poison := s.poison.filter fun l => !(decide (p ≤ 64 * l) && decide (64 * l + 64 ≤ p + bs.length)) } p bs.length
  | .phys pa _ =>
    match paKind pa with
    | .device => if unreachable s (curDie s) pa then s else devWrite s pa bs.length (leNat bs)
    | _ => cachedWrite s s.cur pa bs

/-- The device registers a slice may not reach trap PRIV (R6). -/
def privDevice (s : State) (t : Target) (n : Nat) : Bool :=
  match t with
  | .window _ => false
  | .phys pa _ => paKind pa == .device && devSvRange pa n && !(curCore s).sup

/-- A target's line is poisoned for the step's core, a copy of it in the L1 too; an access that stays in the L1 needs no reachable
home (R280, R288). Log entry 97. -/
def targetPoisoned (s : State) (t : Target) (a : Acc) : Bool :=
  match t with
  | .window o => s.poison.contains (lineOf (scratchPa s.cur o))
  | .phys pa _ => s.poison.contains (lineOf pa) || (goesHome s pa a && unreachable s (curDie s) pa)

/-- A read-modify-write of n bytes by the sequencer as one atomic (R217, R218): at the scratchpad bank, at the peer, or in
L1 on a line held exclusively. The function gives the value written, if one is. -/
def seqAtomic (s : State) (t : Target) (n : Nat) (f : Nat → Option Nat) : State × Nat :=
  match t with
  | .window o =>
    let p := scratchPa s.cur o
    let old := memNat s.mem p n
    (match f old with
      | some new => wakeRange { s with mem := memWrite s.mem p (leBytes n new) } p n
      | none => s, old)
  | .phys pa _ =>
    match paKind pa with
    | .cxl => homeAtomic (l1Drop s s.cur (lineOf pa)) (curDie s) pa n fun old => (f old).getD old
    | _ =>
      let s1 := l1Own s s.cur (lineOf pa)
      let (s2, bs) := cachedRead s1 s.cur pa n
      (match f (leNat bs) with
        | some new => cachedWrite s2 s.cur pa (leBytes n new)
        | none => s2, leNat bs)

/-- An access that goes to the line's home finds it as its owner leaves it (R217). -/
def settle (s : State) (t : Target) (a : Acc) : State :=
  match t with
  | .window _ => s
  | .phys pa _ => if goesHome s pa a && paKind pa != .device then recallLine s none (lineOf pa) else s

/-- A sequencer access of n bytes that has been allowed goes on: supervisor registers (R6), what it must wait for, then
poison. -/
def withTarget (s s1 : State) (t : Target) (n : Nat) (a : Acc) (poison go : State → Out) : Out :=
  if privDevice s t n then trapPriv s
  else if targetHeld s t a then .next (holdRequest s t a)
  else
    let s2 := settle s1 t a
    if targetPoisoned s2 t a then poison s2 else go s2

/-- A sequencer read of n bytes at va whose address is aligned: the checks, poison and the bytes, handed on (R281,
R282). -/
def seqLoad (s : State) (va : Word) (n : Nat) (element : Bool) (k : State → List Byte → Out) : Out :=
  match seqAccess s va n .load element with
  | .error f => trapFlt s f
  | .ok (s1, t) =>
    withTarget s s1 t n .load
      (fun u => if strictSlice s then trapHere u 0x13 va else k (countSq u) (List.replicate n 0))
      fun u => k (seqRead u t n).1 (seqRead u t n).2

/-- A sequencer write of bytes at va whose address is aligned, handed on. -/
def seqStore (s : State) (va : Word) (bs : List Byte) (element : Bool) (k : State → Out) : Out :=
  match seqAccess s va bs.length .store element with
  | .error f => trapFlt s f
  | .ok (s1, t) => withTarget s s1 t bs.length .store (fun u => k (seqWrite u t bs)) fun u => k (seqWrite u t bs)

/-- A sequencer atomic of n bytes at va whose address is aligned, handed on with the old value; a poisoned line raises
MEMERR (R282). -/
def seqRmw (s : State) (va : Word) (n : Nat) (f : Nat → Option Nat) (setD : Bool) (k : State → Nat → Out) : Out :=
  match seqAccess s va n .atomic false setD with
  | .error e => trapFlt s e
  | .ok (s1, t) =>
    withTarget s s1 t n .atomic (fun u => trapHere u 0x13 va) fun u => k (seqAtomic u t n f).1 (seqAtomic u t n f).2

/-! ### Lines of regions -/

/-- The physical ranges a virtual range maps to now, in the visible backing; pages that do not translate are passed over.
The fuel covers one page or span a step. -/
def rangePas (rd : Nat → Nat) (root : Nat) : Nat → Nat → Nat → List (Nat × Nat)
  | 0, _, _ => []
  | f + 1, a, e =>
    if e ≤ a then []
    else
      match walk rd a 4 (bitsAt 12 40 root * 4096) with
      | .ok (l, _) =>
        let stop := min e (l.va + l.span)
        (l.pa a false, stop - a) :: rangePas rd root f stop e
      | .error _ => rangePas rd root f (a / 4096 * 4096 + 4096) e

/-- The L1 lines of core c that lie, in whole or part, within the regions of a root that satisfy ok (R106, R208, R209,
R212, R222). Window regions have none. -/
def regionLines (s : State) (c : CoreId) (root : Word) (rs : List Region) (ok : Region → Bool) : List Nat :=
  (rs.filter fun r => ok r && r.base / 2 ^ 48 == 0).flatMap fun r =>
    (rangePas (walkerRead s) root.toNat (r.extent / 4096 + 2) r.base (r.base + r.extent)).flatMap fun p =>
      linesIn (coreOf s c) p.1 p.2

/-- W and RW regions. -/
def writable (r : Region) : Bool := r.mode == 1 || r.mode == 2

/-- R and RW regions. -/
def readable (r : Region) : Bool := r.mode == 0 || r.mode == 2

/-- The dirty L1 lines of the regions are written back and stay (R209, R212, R222). -/
def cleanRegions (s : State) (c : CoreId) (root : Word) (rs : List Region) (ok : Region → Bool) : State :=
  (regionLines s c root rs ok).foldl (fun t l => l1Clean t c l) s

/-- The L1 lines of the regions are written back if dirty and dropped (R208, R222). -/
def dropRegions (s : State) (c : CoreId) (root : Word) (rs : List Region) (ok : Region → Bool) : State :=
  (regionLines s c root rs ok).foldl (fun t l => l1Drop t c l) s

end Sys2Proof.Machine
end

