-- ==== Sys2Proof/Machine/Float.lean ====
section
/-!
DEFINITION. Numbers and their rounding (R109 to R122, R133 to R140): exact values as a sign, a magnitude and a power of
two, decoding and rounding for every format, exact sums and products, quotients, roots, exponentials and logarithms
taken far enough for one correct rounding, and the P6 code.
-/
namespace Sys2Proof.Machine

/-- A floating format: mantissa width, exponent width, bias (Table 4.1). -/
structure Fmt where
  mant : Nat
  expo : Nat
  bias : Nat
deriving DecidableEq, Repr

/-- FP32. -/
def fp32 : Fmt := ⟨23, 8, 127⟩
/-- BF16. -/
def bf16 : Fmt := ⟨7, 8, 127⟩
/-- FP16. -/
def fp16 : Fmt := ⟨10, 5, 15⟩
/-- F8. -/
def f8 : Fmt := ⟨3, 4, 7⟩

/-- A number: NaN (signalling or not), an infinity, or the finite value with magnitude m * 2^e. -/
inductive Num where
  | nan (signalling : Bool)
  | inf (neg : Bool)
  | fin (neg : Bool) (m : Nat) (e : Int)
deriving DecidableEq, Repr

/-- The rounding codes of Table 4.2. -/
inductive Rnd where
  | rne | rtz | rdn | rup
deriving DecidableEq, Repr

/-- A rounding code 0 to 3. -/
def rndOf (c : Nat) : Rnd := match c with | 0 => .rne | 1 => .rtz | 2 => .rdn | _ => .rup

/-- The number of a code of FP32, BF16 or FP16 (R109, R110). -/
def decodeIeee (f : Fmt) (w : Nat) : Num :=
  let neg := bitOf (f.mant + f.expo) w
  let ex := bitsAt f.mant f.expo w
  let m := bitsAt 0 f.mant w
  if ex = 2 ^ f.expo - 1 then
    if m = 0 then .inf neg else .nan (!bitOf (f.mant - 1) w)
  else if ex = 0 then .fin neg m (1 - (f.bias : Int) - f.mant)
  else .fin neg (m + 2 ^ f.mant) ((ex : Int) - f.bias - f.mant)

/-- The number of an F8 code (R111). -/
def decodeF8 (w : Nat) : Num :=
  if w % 128 = 127 then .nan false
  else
    let ex := bitsAt 3 4 w
    let m := bitsAt 0 3 w
    if ex = 0 then .fin (bitOf 7 w) m (-9) else .fin (bitOf 7 w) (m + 8) ((ex : Int) - 10)

/-- The number of a code in a format. -/
def decodeNum (f : Fmt) (w : Nat) : Num := if f = f8 then decodeF8 w else decodeIeee f w

/-- m * 2^(-r) rounded to an integer; neg is the sign of the value. -/
def roundShift (mode : Rnd) (neg : Bool) (m r : Nat) : Nat :=
  let n := m / 2 ^ r
  let rem := m % 2 ^ r
  let up : Bool := match mode with
    | .rne => decide (2 ^ r < 2 * rem) || (decide (2 * rem = 2 ^ r) && n % 2 == 1)
    | .rtz => false
    | .rdn => neg && rem != 0
    | .rup => !neg && rem != 0
  n + b2n up

/-- What a rounding gives: the code, and whether it was inexact, tiny and inexact, or beyond the largest finite value. -/
structure Rounded where
  code : Nat
  nx : Bool := false
  uf : Bool := false
  ovf : Bool := false
deriving DecidableEq, Repr

/-- The finite value (-1)^neg * m * 2^e rounded once to a format (R115 to R117); F8 values are at most 448 here (R120). Tininess is that of
the value rounded with unbounded exponent. -/
def roundIeee (f : Fmt) (mode : Rnd) (neg : Bool) (m : Nat) (e : Int) : Rounded :=
  let sign := b2n neg * 2 ^ (f.mant + f.expo)
  if m = 0 then { code := sign }
  else
    let top := e + Nat.log2 m
    let emin : Int := 1 - (f.bias : Int)
    let q := max (top - f.mant) (emin - f.mant)
    let r := (q - e).toNat
    let n := if e ≤ q then roundShift mode neg m r else m * 2 ^ (e - q).toNat
    let nx := e < q && m % 2 ^ r != 0
    let r0 := (top - f.mant - e).toNat
    let n0 := if e ≤ top - f.mant then roundShift mode neg m r0 else m * 2 ^ (e - (top - f.mant)).toNat
    let tiny := top < emin && !(top + 1 == emin && n0 == 2 ^ (f.mant + 1))
    let code := n + (q + f.mant + f.bias - 1).toNat * 2 ^ f.mant
    let big := if f = f8 then 0x7F else (2 ^ f.expo - 1) * 2 ^ f.mant
    if big ≤ code then
      let toInf : Bool := match mode with | .rne => true | .rtz => false | .rdn => neg | .rup => !neg
      { code := sign + (if toInf then big else big - 1), nx := true, ovf := true }
    else { code := sign + code, nx := nx, uf := tiny && nx }

/-- The canonical NaN of a format (R112). -/
def nanCode (f : Fmt) : Nat :=
  if f = f8 then 0x7F else (2 ^ f.expo - 1) * 2 ^ f.mant + 2 ^ (f.mant - 1)

/-- The infinity of a format. -/
def infCode (f : Fmt) (neg : Bool) : Nat := b2n neg * 2 ^ (f.mant + f.expo) + (2 ^ f.expo - 1) * 2 ^ f.mant

/-- A finite value rounded to F8; past 448 it saturates (R120). A subnormal result is rounded once, to the F8 grid, as R119 says, and
not first to four significant bits. Log entry 94. -/
def roundF8 (mode : Rnd) (neg : Bool) (m : Nat) (e : Int) : Rounded :=
  let above := if 0 ≤ e then decide (448 < m * 2 ^ e.toNat) else decide (448 * 2 ^ (-e).toNat < m)
  if above then { code := b2n neg * 128 + 0x7E, nx := true, ovf := true }
  else { roundIeee f8 mode neg m e with ovf := false }

/-- A number rounded to a format (R116, R119, R120); the last flag tells a saturation. -/
def roundNum (f : Fmt) (mode : Rnd) (v : Num) : Rounded × Bool :=
  match v with
  | .nan _ => ({ code := nanCode f }, false)
  | .inf neg => if f = f8 then ({ code := b2n neg * 128 + 0x7E, nx := true, ovf := true }, true) else ({ code := infCode f neg }, false)
  | .fin neg m e =>
    if f = f8 then
      let r := roundF8 mode neg m e
      (r, r.ovf)
    else (roundIeee f mode neg m e, false)

/-- The FP32 number of a lane. -/
def num32 (w : W32) : Num := decodeIeee fp32 w.toNat

/-- A number rounded to FP32. -/
def round32 (mode : Rnd) (v : Num) : W32 := BitVec.ofNat 32 (roundNum fp32 mode v).1.code

/-- RNE32 of the pseudocode (Table 0.2). -/
def rne32 (v : Num) : W32 := round32 .rne v

/-- The canonical FP32 NaN. -/
def nan32 : W32 := 0x7FC00000

/-- A FP32 NaN. -/
def isNan32 (w : W32) : Bool := decide (0x7F800000 < w.toNat % 2 ^ 31)

/-- A signalling NaN. -/
def signals (v : Num) : Bool := match v with | .nan s => s | _ => false

/-- A NaN. -/
def isNan (v : Num) : Bool := match v with | .nan _ => true | _ => false

/-- The negative of a number. -/
def negNum (v : Num) : Num :=
  match v with | .nan s => .nan s | .inf n => .inf (!n) | .fin n m e => .fin (!n) m e

/-- The signed integer of a magnitude at exponent e, counted in units of 2^q with q ≤ e. -/
def unitsOf (neg : Bool) (m : Nat) (e q : Int) : Int := (if neg then -1 else 1) * ((m * 2 ^ (e - q).toNat : Nat) : Int)

/-- The exact sum of two numbers, with the zero signs of R117 under a mode. Infinities of opposite sign, and NaN, give
NaN; the flag of that NaN tells nothing. -/
def addNum (mode : Rnd) (a b : Num) : Num :=
  match a, b with
  | .nan _, _ => .nan false
  | _, .nan _ => .nan false
  | .inf x, .inf y => if x = y then .inf x else .nan false
  | .inf x, .fin _ _ _ => .inf x
  | .fin _ _ _, .inf y => .inf y
  | .fin x m e, .fin y n f =>
    let q := min e f
    let s := unitsOf x m e q + unitsOf y n f q
    if s = 0 then
      if x = y && m = 0 && n = 0 then .fin x 0 q
      else if x = y then .fin x 0 q
      else .fin (mode == .rdn) 0 q
    else .fin (decide (s < 0)) s.natAbs q

/-- The exact product of two numbers; ∞ × 0 gives NaN. -/
def mulNum (a b : Num) : Num :=
  match a, b with
  | .nan _, _ => .nan false
  | _, .nan _ => .nan false
  | .inf x, .inf y => .inf (x != y)
  | .inf x, .fin y n _ => if n = 0 then .nan false else .inf (x != y)
  | .fin x m _, .inf y => if m = 0 then .nan false else .inf (x != y)
  | .fin x m e, .fin y n f => .fin (x != y) (m * n) (e + f)

/-- A quotient of finite values with a divisor that is not zero, carried far enough for one rounding: the last bit stands
for all that follows. -/
def divNum (a b : Num) : Num :=
  match a, b with
  | .fin x m e, .fin y n f =>
    let k := 128 + Nat.log2 n
    let q := m * 2 ^ k / n
    .fin (x != y) (if m * 2 ^ k % n = 0 then 4 * q else 4 * q + 1) (e - f - k - 2)
  | .nan _, _ => .nan false
  | _, .nan _ => .nan false
  | .inf _, .inf _ => .nan false
  | .inf x, .fin y _ _ => .inf (x != y)
  | .fin x _ _, .inf y => .fin (x != y) 0 0

/-- The quotient of any numbers: a finite non-zero value over zero is infinite, and 0 / 0 NaN. -/
def quotNum (a b : Num) : Num :=
  match a, b with
  | .fin x m _, .fin y 0 _ => if m = 0 then .nan false else .inf (x != y)
  | .inf x, .fin y 0 _ => .inf (x != y)
  | _, _ => divNum a b

/-- The integer square root, bit by bit: the largest r below 2^k added to r0 with r * r ≤ n. -/
def isqrtFrom (n : Nat) : Nat → Nat → Nat
  | 0, r => r
  | k + 1, r => isqrtFrom n k (if (r + 2 ^ k) * (r + 2 ^ k) ≤ n then r + 2 ^ k else r)

/-- The integer square root of n. -/
def isqrt (n : Nat) : Nat := isqrtFrom n (Nat.log2 n / 2 + 1) 0

/-- A square root, carried far enough for one rounding. -/
def sqrtNum (a : Num) : Num :=
  match a with
  | .nan _ => .nan false
  | .inf x => if x then .nan false else .inf false
  | .fin x m e =>
    if m = 0 then .fin x 0 e
    else if x then .nan false
    else
      let (m1, e1) := if e % 2 = 0 then (m, e) else (2 * m, e - 1)
      let big := m1 * 2 ^ 256
      let r := isqrt big
      .fin false (if r * r = big then 4 * r else 4 * r + 1) (e1 / 2 - 128 - 2)

/-! ### Comparisons -/

/-- a < b of finite or infinite numbers; NaN compares false. -/
def ltNum (a b : Num) : Bool :=
  match a, b with
  | .nan _, _ => false
  | _, .nan _ => false
  | .inf x, .inf y => x && !y
  | .inf x, .fin _ _ _ => x
  | .fin _ _ _, .inf y => !y
  | .fin x m e, .fin y n f => decide (unitsOf x m e (min e f) < unitsOf y n f (min e f))

/-- a = b; -0 equals +0 and NaN nothing. -/
def eqNum (a b : Num) : Bool := !isNan a && !isNan b && !ltNum a b && !ltNum b a

/-- FMAX and FMIN of R441 on FP32 codes. -/
def pickMax (wantMax : Bool) (a b : W32) : W32 :=
  if isNan32 a && isNan32 b then nan32
  else if isNan32 a then b
  else if isNan32 b then a
  else if eqNum (num32 a) (num32 b) then
    (if wantMax then (if a.getLsbD 31 then b else a) else (if a.getLsbD 31 then a else b))
  else if ltNum (num32 a) (num32 b) == wantMax then b else a

/-! ### Integers -/

/-- A finite value rounded to an integer under a mode. -/
def roundInt (mode : Rnd) (neg : Bool) (m : Nat) (e : Int) : Int :=
  let n := if 0 ≤ e then m * 2 ^ e.toNat else roundShift mode neg m (-e).toNat
  if neg then -(n : Int) else n

/-- A finite value is an integer. -/
def isInt (m : Nat) (e : Int) : Bool := decide (0 ≤ e) || m % 2 ^ (-e).toNat == 0

/-- Conversion of a number to an integer of w bits: the value, saturated or NaN, inexact (R121). -/
def toInt (mode : Rnd) (w : Nat) (uns : Bool) (v : Num) : Int × Bool × Bool :=
  match v with
  | .nan _ => (0, true, false)
  | .inf neg => (clampInt (if neg then -(2 ^ 80) else 2 ^ 80) w uns, true, false)
  | .fin neg m e =>
    let i := roundInt mode neg m e
    let c := clampInt i w uns
    (c, i != c, !isInt m e)

/-- An integer as a number. -/
def ofInt (i : Int) : Num := .fin (decide (i < 0)) i.natAbs 0

/-! ### Estimates, exponentials and logarithms -/

/-- Round12: the value m * 2^e, its last bit standing for all that follows, to 12 significant bits, ties to even (R133). -/
def round12 (m : Nat) (e : Int) : Nat × Int :=
  let r := Nat.log2 m - 11
  (roundShift .rne false m r, e + r)

/-- VFRSQE (R133). -/
def rsqrtEst (x : W32) : W32 :=
  match num32 x with
  | .nan _ => nan32
  | .inf neg => if neg then nan32 else 0
  | .fin neg m e =>
    if m = 0 then (if neg then 0xFF800000 else 0x7F800000)
    else if neg then nan32
    else
      let p := Nat.log2 m
      let ex := e + p
      let odd := ex % 2 != 0
      let k := m * 2 ^ (64 + b2n odd) * 128 / 2 ^ (p + 64)
      let ex' := if odd then ex - 1 else ex
      let r := isqrt (2 ^ 207 / k)
      let (n, f) := round12 (if r * r * k = 2 ^ 207 then 2 * r else 2 * r + 1) (-101)
      round32 .rne (.fin false n (f - ex' / 2))

/-- VFRCPE (R134). -/
def rcpEst (x : W32) : W32 :=
  match num32 x with
  | .nan _ => nan32
  | .inf neg => if neg then 0x80000000 else 0
  | .fin neg m e =>
    if m = 0 then (if neg then 0xFF800000 else 0x7F800000)
    else
      let p := Nat.log2 m
      let k := m * 2 ^ 64 * 128 / 2 ^ (p + 64)
      let q := 2 ^ 107 / k
      let (n, f) := round12 (if q * k = 2 ^ 107 then 2 * q else 2 * q + 1) (-101)
      round32 .rne (.fin neg n (f - (e + p)))

/-- 2^f for f = fr / 2^64 with fr below 2^64, in units of 2^-160: the product of the square roots the bits of fr name,
from r = 2^(1/2) on. -/
def exp2Frac : Nat → Nat → Nat → Nat → Nat
  | 0, _, _, acc => acc
  | k + 1, fr, r, acc =>
    exp2Frac k fr (isqrt (r * 2 ^ 160)) (if fr / 2 ^ k % 2 = 1 then acc * r / 2 ^ 160 else acc)

/-- VFEXP2 (R135): 2^x, one rounding. Log entry 10. -/
def exp2Num (x : Num) : Num :=
  match x with
  | .nan _ => .nan false
  | .inf neg => if neg then .fin false 0 0 else .inf false
  | .fin neg m e =>
    if m = 0 then .fin false 1 0
    else if e + Nat.log2 m < -40 then
      (if neg then .fin false (2 ^ 62 - 1) (-62) else .fin false (2 ^ 62 + 1) (-62))
    else if 10 < e + Nat.log2 m then (if neg then .fin false 1 (-2000) else .fin false 1 2000)
    else
      let units := unitsOf neg (m * 2 ^ 100) (e - 100) (-164) / 2 ^ 100
      let n := units / 2 ^ 64
      let fr := (units % 2 ^ 64).toNat
      if fr = 0 then .fin false 1 n
      else .fin false (4 * exp2Frac 64 fr (isqrt (2 ^ 321)) (2 ^ 160) + 1) (n - 162)

/-- k bits of log2 of y / 2^200 with 1 ≤ y / 2^200 < 2, by repeated squaring. -/
def log2Bits : Nat → Nat → Nat → Nat
  | 0, _, acc => acc
  | k + 1, y, acc =>
    let z := y * y / 2 ^ 200
    if 2 ^ 201 ≤ z then log2Bits k (z / 2) (2 * acc + 1) else log2Bits k z (2 * acc)

/-- log2(d * 2^-16) for d > 0, one last bit standing for all that follows. Log entry 10. -/
def log2Den (d : Nat) : Num :=
  let p := Nat.log2 d
  let frac := log2Bits 128 (d * 2 ^ (200 - p)) 0
  let whole : Int := (p : Int) - 16
  let u : Int := whole * 2 ^ 130 + (4 * frac + (if d = 2 ^ p then 0 else 1) : Nat)
  .fin (decide (u < 0)) u.natAbs (-130)

/-! ### P6 -/

/-- The value of a P6 code in units of 2^-16 (R114, R138). -/
def p6Units (c : Nat) : Nat :=
  let k := bitsAt 2 4 c
  if k = 15 then 0 else (4 + c % 4) * 2 ^ (14 - k)

/-- The number of a P6 code. -/
def p6Num (c : Nat) : Num := .fin false (p6Units c) (-16)

/-- VPQZ (R136): the code, NaN in, saturation. -/
def p6Quant (x : W32) : Nat × Bool × Bool :=
  match num32 x with
  | .nan _ => (0x3C, true, false)
  | .inf neg => if neg then (0x3C, false, false) else (0, false, true)
  | .fin neg m e =>
    if m = 0 then (0, false, false)
    else if !neg then (0, false, true)
    else if 6 ≤ e + Nat.log2 m then (0x3C, false, false)
    else
      let units := unitsOf true m e (-149)
      let n := units / 2 ^ 149
      let t := (units % 2 ^ 149).toNat
      let below (w : W32) : Bool := ltNum (.fin false t (-149)) (num32 w)
      let (n', f) :=
        if below 0x3E2E00D2 then (n, 0) else if below 0x3EEB3A9F then (n, 1) else if below 0x3F335004 then (n, 2)
        else if below 0x3F6829FB then (n, 3) else (n + 1, 0)
      let k := (-n').toNat
      (if 15 ≤ k then 0x3C else 4 * k + f, false, false)

/-- VPMUL (R137). -/
def p6Mul (v : W32) (c : Nat) : W32 :=
  match num32 v with
  | .nan _ => nan32
  | .inf neg => if bitsAt 2 4 c = 15 then nan32 else (if neg then 0xFF800000 else 0x7F800000)
  | .fin neg m e =>
    if bitsAt 2 4 c = 15 then 0 else rne32 (.fin neg (m * p6Units c) (e - 16))

end Sys2Proof.Machine
end

