-- ==== Sys2Proof/Machine/Formats.lean ====
section
/-!
DEFINITION. Lane forms and page formats (R123 to R132, Tables 4.4 to 4.6, 4.9, 5.6): decoding elements to lane forms,
encoding lane forms to elements, and the F8C block code.
-/
namespace Sys2Proof.Machine

/-- Bytes of one element of a lane form on a RAW page (R169). -/
def formBytes (form : Nat) : Nat :=
  match form with | 1 => 4 | 7 => 4 | 2 => 2 | 3 => 2 | 6 => 2 | _ => 1

/-- Elements per lane unit (Table 5.6). -/
def formCount (form : Nat) : Nat := 4 / formBytes form

/-- Table 4.5: a page format can be decoded to a lane form. -/
def decodable (fmt form : Nat) : Bool :=
  match fmt with
  | 0 => decide (form ≤ 8)
  | 1 => form == 1
  | 2 => form == 2 || form == 1
  | 3 => form == 3 || form == 1
  | 4 => form == 4 || form == 2 || form == 1
  | 5 => form == 4 || form == 2 || form == 1
  | 6 => form == 5 || form == 7
  | 7 => form == 6 || form == 7
  | 8 => form == 7
  | 9 => form == 8 || form == 1
  | _ => false

/-- Table 4.9: a lane form can be encoded to a page format. -/
def encodable (fmt form : Nat) : Bool :=
  match fmt with
  | 0 => decide (form ≤ 8)
  | 5 => form == 4 || form == 1 || form == 2 || form == 3
  | 9 => form == 8
  | f => decide (f ≤ 8) && decide (1 ≤ form) && decide (form ≤ 7)

/-- The element bytes of a page under a lane form (R169): those of its format, 1 on an F8C page. -/
def pageElem (fmt form : Nat) : Nat :=
  match fmt with
  | 0 => formBytes form | 1 => 4 | 2 => 2 | 3 => 2 | 7 => 2 | 8 => 4 | _ => 1

/-- The number of a float element of a page format. -/
def floatOf (fmt e : Nat) : Num :=
  match fmt with
  | 1 => decodeIeee fp32 e | 2 => decodeIeee bf16 e | 3 => decodeIeee fp16 e | 9 => p6Num e | _ => decodeF8 e

/-- The format of a float lane form, if it is one. -/
def formFmt (form : Nat) : Option Fmt :=
  match form with | 1 => some fp32 | 2 => some bf16 | 3 => some fp16 | 4 => some f8 | _ => none

/-- One element decoded to its lane form, with its counts by lane of Table 4.8 (R124). -/
def decodeElem (fmt form e : Nat) : Nat × List Nat :=
  if fmt = 0 || formBytes form == pageElem fmt form then (e, [])
  else if fmt = 6 then (((BitVec.ofNat 8 e).signExtend 32).toNat, [])
  else if fmt = 7 then (((BitVec.ofNat 16 e).signExtend 32).toNat, [])
  else
    let v := floatOf fmt e
    ((roundNum ((formFmt form).getD fp32) .rne v).1.code, if isNan v && fmt != 9 then [2, 3] else [])

/-- The integer of a lane form's element. -/
def formInt (form e : Nat) : Int :=
  match form with
  | 5 => (BitVec.ofNat 8 e).toInt | 6 => (BitVec.ofNat 16 e).toInt | _ => (BitVec.ofNat 32 e).toInt

/-- The number of a float lane form's element. -/
def formNum (form e : Nat) : Num :=
  match form with | 1 => decodeIeee fp32 e | 2 => decodeIeee bf16 e | 3 => decodeIeee fp16 e | _ => decodeF8 e

/-- The float format of a page format, if it is one. -/
def pageFmt (fmt : Nat) : Option Fmt :=
  match fmt with | 1 => some fp32 | 2 => some bf16 | 3 => some fp16 | 4 => some f8 | 5 => some f8 | _ => none

/-- A float narrowed or widened to a float format, with its counts (R119, R120). -/
def toFloat (f : Fmt) (v : Num) : Nat × List Nat :=
  let (r, sat) := roundNum f .rne v
  (r.code, (if sat then [0] else []) ++ (if isNan v then [2, 3] else []))

/-- One element encoded from its lane form to a page format, with its counts (R125): floats with RNE, integers with
saturation, elements of the page's own format as they stand; bits [7:6] of a P6 element are zero (R114). -/
def encodeElem (fmt form e : Nat) : Nat × List Nat :=
  if fmt = 0 then (e, [])
  else if fmt = 9 then (e % 64, [])
  else
    match pageFmt fmt, formFmt form with
    | some f, some g => if f = g then (e, []) else toFloat f (formNum form e)
    | some f, none =>
      let (r, sat) := roundNum f .rne (ofInt (formInt form e))
      (r.code, if sat then [0] else [])
    | none, some _ =>
      let w := 8 * pageElem fmt form
      let v := formNum form e
      let (i, bad, _) := toInt .rne w false v
      ((BitVec.ofInt w i).toNat, (if bad then [0] else []) ++ (if isNan v then [2] else []))
    | none, none =>
      let w := 8 * pageElem fmt form
      let c := clampInt (formInt form e) w false
      ((BitVec.ofInt w c).toNat, if c = formInt form e then [] else [0])

/-! ### F8C blocks (R128 to R132) -/

/-- The exponent field of an F8 code. -/
def f8Exp (e : Nat) : Nat := bitsAt 3 4 e

/-- The nibble of sign and mantissa. -/
def f8Nibble (e : Nat) : Nat := bitsAt 7 1 e * 8 + e % 8

/-- An F8 code of an exponent and a nibble. -/
def f8Code (x n : Nat) : Nat := bitsAt 3 1 n * 128 + x * 8 + n % 8

/-- A table-2 stream read: the exponents of n elements, and the bits used. -/
def table2Read (b : Nat) : Nat → Nat → Nat → List Int × Nat
  | 0, _, used => ([], used)
  | n + 1, bits, used =>
    if bits % 2 = 0 then
      let r := table2Read b n (bits / 2) (used + 1)
      ((b : Int) :: r.1, r.2)
    else
      let r := table2Read b n (bits / 4) (used + 2)
      ((if bits / 2 % 2 = 0 then (b : Int) + 1 else (b : Int) - 1) :: r.1, r.2)

/-- A block decoded from the bytes at its start: its 32 codes, unless it is corrupt, and its length (R128, R129, R132). -/
def f8cDecode (bs : List Byte) : Option (List Nat) × Nat :=
  let h := ((bs.head?).getD 0).toNat
  let base := h / 16
  let nib (i : Nat) : Nat := bitsAt (4 * (i % 2)) 4 ((bs[1 + i / 2]?).getD 0).toNat
  let stream := leNat (bs.drop 17)
  let exps : List Int × Nat :=
    match bitsAt 2 2 h with
    | 0 => (List.replicate 32 (base : Int), 0)
    | 1 => ((List.range 32).map fun i => ((base + stream / 2 ^ i % 2 : Nat) : Int), 4)
    | 2 => let r := table2Read base 32 stream 0; (r.1, (r.2 + 7) / 8)
    | _ => ((List.range 32).map fun i => ((stream / 2 ^ (4 * i) % 16 : Nat) : Int), 16)
  let bad := h % 4 != 0 || exps.1.any fun x => decide (x < 0) || decide (15 < x)
  (if bad then none else some ((List.range 32).map fun i => f8Code ((exps.1[i]?).getD 0).toNat (nib i)), 17 + exps.2)

/-- The bytes of a block under a table and a base, or none where an exponent cannot be coded. -/
def f8cBlockBytes (exps : List Nat) (t b : Nat) : Option Nat :=
  match t with
  | 0 => if exps.all (· == b) then some 17 else none
  | 1 => if exps.all fun e => e == b || e == b + 1 then some 21 else none
  | 2 =>
    if exps.all fun e => e == b || e == b + 1 || e + 1 == b then
      let n0 := (exps.filter (· == b)).length
      some (17 + (n0 + 2 * (32 - n0) + 7) / 8)
    else none
  | _ => some 33

/-- The table and base of a block: the first of the least size, tables and bases in rising order (R130). -/
def f8cChoose (exps : List Nat) : Nat × Nat × Nat :=
  let all := (List.range 4).flatMap fun t => (List.range 16).filterMap fun b =>
    (f8cBlockBytes exps t b).map fun z => (z, t, b)
  let best := all.foldl (fun m q => match m with | none => some q | some p => if q.1 < p.1 then some q else some p) none
  let (z, t, b) : Nat × Nat × Nat := best.getD (33, 3, 0)
  (z, t, if t = 3 then 0 else b)

/-- The bits of a table-2 stream, as a number, from the last element to the first. -/
def table2Write (b : Nat) : List Nat → Nat
  | [] => 0
  | e :: es =>
    let r := table2Write b es
    if e = b then 2 * r else if e = b + 1 then 4 * r + 1 else 4 * r + 3

/-- 32 codes encoded as a block, and whether it uses table 3. -/
def f8cEncode (codes : List Nat) : List Byte × Bool :=
  let exps := codes.map f8Exp
  let (z, t, b) := f8cChoose exps
  let code (i : Nat) : Nat := (codes[i]?).getD 0
  let nibs := (List.range 16).map fun j => BitVec.ofNat 8 (f8Nibble (code (2 * j)) + 16 * f8Nibble (code (2 * j + 1)))
  let stream : Nat :=
    match t with
    | 0 => 0
    | 1 => ((List.range 32).map fun i => if f8Exp (code i) = b then 0 else 2 ^ i).sum
    | 2 => table2Write b exps
    | _ => ((List.range 32).map fun i => f8Exp (code i) * 2 ^ (4 * i)).sum
  (BitVec.ofNat 8 (b * 16 + t * 4) :: nibs ++ leBytes (z - 17) stream, t == 3)

/-- Blocks of a segment by GEOM. -/
def f8cBlocks (geom : Nat) : Nat := match geom with | 0 => 8 | 1 => 16 | _ => 32

/-- A whole segment encoded, padded to 8 bytes, with the number of table-3 blocks. -/
def f8cSegment (codes : List Nat) : Nat → List Byte × Nat
  | 0 => ([], 0)
  | n + 1 =>
    let (b, t3) := f8cEncode (codes.take 32)
    let (r, k) := f8cSegment (codes.drop 32) n
    (b ++ r, k + b2n t3)

end Sys2Proof.Machine
end

