-- ==== Sys2Proof/Machine/EngineAccess.lean ====
section
/-!
DEFINITION. Accesses of engines and of the fabric's memory ports (R123, R156, R166, R182, R187, R189, R199, R200, R228, R280,
R582): reads and writes of byte ranges piece by piece, each piece within a line, with poison, arrivals and deferred records.
-/
namespace Sys2Proof.Machine

/-- The registers of a slice: those of its core while its firing runs, else its own. -/
def sliceRegs (s : State) (l : Slice) : SeqRegs :=
  if (coreOf s l.core).slice = some l.id then (coreOf s l.core).regs else l.regs

/-- A slice as the maker of the fabric's accesses from a die, which look in the die's TLB. -/
def whoSlice (s : State) (l : Slice) (die : DieId) : Who :=
  { core := l.core, die := die, asid := (sliceRegs s l).asid, root := (sliceRegs s l).ptBase, checked := true,
    regions := l.regions, tlb := .die }

/-- An engine command as the maker of accesses (R202). -/
def whoCmd (c : Cmd) (die : DieId) : Who :=
  { core := c.core, die := die, asid := c.asid, root := c.ptBase, checked := c.checked, regions := c.regions, tlb := .die }

/-- A command of a stream engine or of the gallery, which have TLBs of their own (R192). -/
def whoEngine (c : Cmd) (e : EngineId) : Who := { whoCmd c (dieOfEngine e) with tlb := .engine e }

/-- The maker is a stream engine or the gallery engine, which read annex pages (R182). -/
def Who.readsAnnex (w : Who) : Bool := match w.tlb with | .engine _ => true | _ => false

/-- What an access of an engine wants of the page beside the common rules. -/
structure EngRule where
  acc : Acc
  /-- The hidden backing of a shadow leaf. -/
  hidden : Bool := false
  /-- The number of the backing a command is bound to (R341); it goes before `hidden`. -/
  bound : Option Bool := none
  annex : Bool := false
  fmt : Nat → Bool := fun _ => true
  /-- The access is an atomic (R218, R220). -/
  atom : Bool := false
  /-- Whether D is set (R190). -/
  setD : Bool := true

/-- The access goes to the hidden backing of the leaf of va. -/
def EngRule.hides (r : EngRule) (s : State) (w : Who) (va : Nat) : Bool :=
  match r.bound with
  | none => r.hidden
  | some b => match findLeaf s w va false with | .ok f => f.leaf.bit 10 != b | .error _ => r.hidden

/-- The check of one piece. -/
def engCheck (s : State) (w : Who) (r : EngRule) (va n : Nat) : Except Flt (State × Target) :=
  checkAccess s w va n r.acc (r.hides s w va) (fun l pa => engPage l pa r.acc r.annex r.atom && r.fmt l.fmt) (accWrites r.acc && r.setD)

/-- A piece that has passed its check is requested: the turn waits for a walk, whose place in the walker's list it takes (R193), for
a slot of the domain at the home die cache (R71, R74), for a link (R287), or for an SPFIFO to leave the element (R501). -/
def engClaim (s s1 : State) (w : Who) (va : Nat) (t : Target) (write : Bool) : State :=
  match t with
  | .window o => if fifoTaken s (scratchPa w.core o) then { s1 with stall := true } else s1
  | .phys pa _ =>
    let h := homeDie s w.die pa
    let s2 := if cutOff s w.die h then s1 else holdLink s1 none w.die h
    let s3 := walkClaim s s2 w va write
    if portOpen s w.core (lineOf pa) && !fifoTaken s pa then s3 else { s3 with stall := true }

/-- The request of a piece is made at its home, which recalls the line from its owner. -/
def engRequest (s s1 : State) (w : Who) (va n : Nat) (t : Target) (write : Bool) : State :=
  let s2 := engClaim s s1 w va t write
  match t with
  | .window _ => s2
  | .phys pa _ => if paKind pa = .device || unreachable s2 w.die pa then s2 else linesAtHome s2 w.die pa n

/-- A range cut at line ends: address and length of each piece; the fuel covers one piece a step. -/
def pieces : Nat → Nat → Nat → List (Nat × Nat)
  | 0, _, _ => []
  | f + 1, a, n =>
    if n = 0 then []
    else
      let k := min n (64 - a % 64)
      (a, k) :: pieces f (a + k) (n - k)

/-- The first byte of a range whose address is neither translated nor in the scratchpad window (R155, R184). -/
def formFault (va n : Nat) : Option Flt :=
  let at_ (a : Nat) : Option Flt := some { cause := 0x04, addr := BitVec.ofNat 64 a, detail := 4 }
  if va / 2 ^ 48 = 0xF0 then (if 0xF0000000400000 < va + n then at_ (max va 0xF0000000400000) else none)
  else if va / 2 ^ 48 ≠ 0 then at_ va
  else if 2 ^ 48 < va + n then at_ (2 ^ 48)
  else none

/-- The pieces of a range. -/
def piecesOf (a n : Nat) : List (Nat × Nat) := pieces (n / 64 + 2) a n

/-- Every piece of a range passes its check: the first fault, or none. Nothing is changed. -/
def engCheckRange (s : State) (w : Who) (r : EngRule) (va n : Nat) : Option Flt :=
  (piecesOf va n).findSome? fun p => match engCheck s w r p.1 p.2 with | .error f => some f | .ok _ => none

/-- One piece read: its bytes and whether its line is poisoned; a read that is counted counts in UE_READS. -/
def engReadPiece (s : State) (w : Who) (r : EngRule) (va n : Nat) (count : Bool := true) : Except Flt (State × List Byte × Bool) :=
  match engCheck s w r va n with
  | .error f => .error f
  | .ok (s0, t) =>
    let s1 := engRequest s s0 w va n t false
    let pa := t.pa w.core
    let bad := poisoned s1 w.die pa
    let s2 := if bad && count then countUe s1 (homeDie s1 w.die pa) pa else s1
    match t with
    | .window _ => .ok (s2, memBytes s2.mem pa n, bad)
    | .phys _ _ =>
      let (s3, bs) := homeRead s2 w.die pa n
      .ok (s3, bs, bad)

/-- A range read: bytes, and for each whether its line is poisoned. -/
def engRead (s : State) (w : Who) (r : EngRule) (va n : Nat) (count : Nat → Bool := fun _ => true) : Except Flt (State × List Byte × List Bool) :=
  (piecesOf va n).foldl (fun acc p =>
    match acc with
    | .error f => .error f
    | .ok (u, bs, bad) =>
      match engReadPiece u w r p.1 p.2 (count p.1) with
      | .error f => .error f
      | .ok (u1, cs, b) => .ok (u1, bs ++ cs, bad ++ List.replicate p.2 b)) (.ok (s, [], []))

/-- A little-endian number read. -/
def engReadNat (s : State) (w : Who) (r : EngRule) (va n : Nat) : Except Flt (State × Nat × Bool) :=
  match engRead s w r va n with
  | .error f => .error f
  | .ok (s1, bs, bad) => .ok (s1, leNat bs, bad.any id)

/-- An arrival of n bytes is queued at a sync word. -/
def queueArrival (s : State) (sync : Option Nat) (n : Nat) : State :=
  match sync with | none => s | some pa => { s with arrivals := s.arrivals ++ [(pa, n)] }

/-- One piece written; a piece in a scratchpad makes an arrival (R166). With `taint` its line is poisoned (R582). -/
def engWritePiece (s : State) (w : Who) (r : EngRule) (sync : Option Nat) (va : Nat) (bs : List Byte) (taint : Bool) :
    Except Flt State :=
  match engCheck s w r va bs.length with
  | .error f => .error f
  | .ok (s0, t) =>
    let s1 := engClaim s s0 w va t true
    let pa := t.pa w.core
    let mark (u : State) : State := if taint then { u with poison := setInsert u.poison (lineOf pa) } else u
    match t with
    | .window _ =>
      let s2 := { s1 with
        mem := memWrite s1.mem pa bs
        poison := s1.poison.filter fun l => !(decide (pa ≤ 64 * l) && decide (64 * l + 64 ≤ pa + bs.length)) }
      .ok (queueArrival (wakeRange (mark s2) pa bs.length) sync bs.length)
    | .phys _ _ =>
      let s2 := mark (homeWrite s1 w.die pa bs)
      match paKind pa with
      | .scratch _ => .ok (queueArrival (wakeRange s2 pa bs.length) sync bs.length)
      | _ => .ok s2

/-- A range written piece by piece. -/
def engWrite (s : State) (w : Who) (r : EngRule) (sync : Option Nat) (va : Nat) (bs : List Byte) (taint : List Bool := []) :
    Except Flt State :=
  (piecesOf va bs.length).foldl (fun acc p =>
    match acc with
    | .error f => .error f
    | .ok u =>
      engWritePiece u w r sync p.1 ((bs.drop (p.1 - va)).take p.2) (((taint.drop (p.1 - va)).take p.2).any id)) (.ok s)

/-- An atomic of n bytes by an engine (R218); in a scratchpad it makes an arrival for a command with a sync word (R166). -/
def engAtomic (s : State) (w : Who) (r : EngRule) (va n : Nat) (f : Nat → Nat) (sync : Option Nat := none) :
    Except Flt (State × Nat × Bool) :=
  match engCheck s w { r with atom := true } va n with
  | .error e => .error e
  | .ok (s0, t) =>
    let s1 := engRequest s s0 w va n t true
    let pa := t.pa w.core
    if poisoned s1 w.die pa then .ok (countUe s1 (homeDie s1 w.die pa) pa, 0, true)
    else
      match t with
      | .window _ =>
        let old := memNat s1.mem pa n
        .ok (queueArrival (wakeRange { s1 with mem := memWrite s1.mem pa (leBytes n (f old)) } pa n) sync n, old, false)
      | .phys _ _ =>
        let (s2, old) := homeAtomic s1 w.die pa n f
        .ok (match paKind pa with | .scratch _ => queueArrival (wakeRange s2 pa n) sync n | _ => s2, old, false)

/-! ### Deferred records (R272, R273) -/

/-- A record goes to the deferred list of its slice's core, and a waiting slice is a candidate; to its cohort supervisor once
the slice is gone; none when the list is full. -/
def sendRecord (s : State) (r : DeferRec) : Option State :=
  match (findSlice s r.slice).filter liveSlice with
  | some l =>
    let c := coreOf s l.core
    if 16 ≤ c.deferred.length then none
    else
      some (modSlice (setCore s l.core { c with deferred := c.deferred ++ [r] }) l.id fun k => { k with woken := true })
  | none =>
    let (cohort, die) : BitVec 16 × DieId := match findSlice s r.slice with
      | some l => (l.cohort, dieOfCore l.core)
      | none => (0, dieOfCore (fieldOf 6 5 r.slice.toNat))
    sendSuper s cohort die { cause := 0x0E, addr := r.addr, slice := r.slice, inner := r.cause, record := some r }

/-- The record of a fabric node's memory work, which has no SX word (R296, R507). -/
def nodeRecord (cmd : BitVec 6) (slice : BitVec 32) (ops : List W32) (progress : Nat) (f : Flt) : DeferRec :=
  { pc := 0, cmd := cmd, eng := 0xF, msgSeq := 0, slice := slice
    opA := zext32 ((ops[0]?).getD 0), opB := zext32 ((ops[1]?).getD 0), opC := zext32 ((ops[2]?).getD 0)
    opD := zext32 ((ops[3]?).getD 0), addr := f.addr, progress := BitVec.ofNat 64 progress, cause := f.cause }

/-- The record of an engine command's fault (R272). -/
def cmdRecord (c : Cmd) (progress : Nat) (f : Flt) : DeferRec :=
  { pc := c.pc, cmd := c.cmd6, eng := c.eng4, msgSeq := c.msgSeq, slice := c.slice, opA := c.opA, opB := c.opB
    opC := c.opC, opD := c.opD, addr := f.addr, progress := BitVec.ofNat 64 progress, cause := f.cause }

/-! ### F8C regions (R131, R179) -/

/-- The address lies on an annex page that has not been written since its trim (R183). -/
def annexBlank (s : State) (w : Who) (va : Nat) (hidden : Bool) : Bool :=
  match findLeaf s w va false with
  | .error _ => false
  | .ok f =>
    let pa := f.leaf.pa va hidden
    match paKind pa with
    | .annex d => !(dieOf s d).annexWritten.contains ((pa - 0x100000000000) % 0x20000000000 / 4096)
    | _ => false

/-- A block of an F8C region as it is read: its codes, none where the block is corrupt (R132) or a line of it poisoned, its length
in bytes, whether a line was poisoned, and whether it reaches into an annex page that is not written (R183). -/
structure F8Block where
  codes : Option (List Nat)
  size : Nat
  bad : Bool
  blank : Bool := false
deriving DecidableEq, Repr

/-- The code bytes of a block are read, k of them and then as many as the codes among them ask for; the fuel bounds the
rounds. -/
def f8cReadCodes (s : State) (w : Who) (r : EngRule) (va : Nat) (head : List Byte) :
    Nat → Nat → Except Flt (State × F8Block)
  | 0, _ => .ok (s, { codes := none, size := 17, bad := false })
  | f + 1, k =>
    match engRead s w r (va + 17) k with
    | .error e => .error e
    | .ok (s1, b, bad) =>
      let d := f8cDecode (head ++ b ++ List.replicate 16 0)
      if d.2 ≤ 17 + k then .ok (s1, { codes := if bad.any id then none else d.1, size := d.2, bad := bad.any id })
      else f8cReadCodes s w r va head f (d.2 - 17)

/-- The bytes of a block are read at an address: as many as its header and codes ask for. -/
def f8cReadBlock (s : State) (w : Who) (r : EngRule) (va : Nat) : Except Flt (State × F8Block) :=
  match engRead s w r va 17 with
  | .error f => .error f
  | .ok (s1, b0, bad) =>
    match f8cReadCodes s1 w r va b0 8 (if bitsAt 2 2 ((b0.head?).getD 0).toNat = 2 then 4 else 0) with
    | .error f => .error f
    | .ok (s2, b) =>
      .ok (s2, { b with
        codes := if bad.any id then none else b.codes, bad := b.bad || bad.any id
        blank := annexBlank s2 w va false || annexBlank s2 w (va + b.size - 1) false })

/-- Block j from an address on; the fuel covers one block a step. -/
def f8cSeek (s : State) (w : Who) (r : EngRule) : Nat → Nat → Except Flt (State × F8Block)
  | 0, va => f8cReadBlock s w r va
  | j + 1, va =>
    match f8cReadBlock s w r va with
    | .error f => .error f
    | .ok (s1, b) => (f8cSeek s1 w r j (va + b.size)).map fun p => (p.1, { p.2 with bad := p.2.bad || b.bad, blank := p.2.blank || b.blank })

/-- Element k of the F8C region at an address: its F8 code, or none where its block is corrupt or not written, and whether a line it was read
from is poisoned. The region ends where the record that holds its start does. -/
def f8cElement (s : State) (w : Who) (r : EngRule) (va geom k : Nat) : Except Flt (State × Option Nat × Bool) :=
  let seg := k / (32 * f8cBlocks geom)
  match engReadNat s w r (va + 4 * seg) 4 with
  | .error f => .error f
  | .ok (s1, o, bad) =>
    let stop := match regionAt w.regions va with | some g => g.base + g.extent | none => va + 2 ^ 32
    if bad || o % 8 ≠ 0 || stop ≤ va + o then .ok (s1, none, bad)
    else
      match f8cSeek s1 w r (k % (32 * f8cBlocks geom) / 32) (va + o) with
      | .error f => .error f
      | .ok (s2, b) => .ok (s2, if b.bad || b.blank then none else b.codes.bind fun m => m[k % 32]?, b.bad)

/-! ### Tables and bound backings (R330, R341, R342) -/

/-- Word i of a list of bytes. -/
def recWord (bs : List Byte) (i : Nat) : Nat := leNat ((bs.drop (8 * i)).take 8)

/-- A field of an operand as a number. -/
def opField (v : Word) (lo n : Nat) : Nat := bitsAt lo n v.toNat

/-- The address an operand holds in bits [55:0]. -/
def opVa (v : Word) : Nat := opField v 0 56

/-- A table. -/
structure TableRec where
  base : Nat
  rows : Nat
  rowBytes : Nat
  fmt : Nat
  opt : Nat
  shadow : Bool
  stateBytes : Nat
  hotLog2 : Nat
  hotMap : Nat
  lr : W32
  eps : W32
  b1 : W32
  b2 : W32
  c1 : W32
  c2 : W32
deriving DecidableEq, Repr

/-- The table of a record. -/
def tableOf (bs : List Byte) : TableRec :=
  let f (o lo n : Nat) : Nat := bitsAt lo n (recWord bs o)
  let w (o : Nat) : W32 := BitVec.ofNat 32 (leNat ((bs.drop o).take 4))
  { base := f 0 0 56, rows := f 1 0 31, rowBytes := f 1 32 16, fmt := f 1 48 4, opt := f 1 52 4, shadow := f 1 56 1 == 1
    stateBytes := f 2 0 32, hotLog2 := f 2 32 4, hotMap := f 3 0 56, lr := w 0x20, eps := w 0x24, b1 := w 0x28
    b2 := w 0x2C, c1 := w 0x30, c2 := w 0x34 }

/-- Bytes of one weight. -/
def TableRec.elem (t : TableRec) : Nat := (fmtBytes t.fmt).getD 1

/-- Weights of a row. -/
def TableRec.count (t : TableRec) : Nat := t.rowBytes / t.elem

/-- The distance of rows (R331). -/
def TableRec.stride (t : TableRec) : Nat := roundUp 64 (t.rowBytes + t.stateBytes)

/-- Two ranges share a byte. -/
def rangesMeet (a n b m : Nat) : Bool := decide (a < b + m) && decide (b < a + n) && decide (0 < n) && decide (0 < m)

/-- Where the hot-row map of a table says rows lie (R337), as far as it can be read; nothing is changed. -/
def movedRows (s : State) (w : Who) (t : TableRec) : List (Nat × Nat) :=
  if t.hotMap = 0 then []
  else
    match engRead s { w with checked := false } { acc := .engRead, setD := false, annex := true } t.hotMap (16 * 2 ^ t.hotLog2) with
    | .error _ => []
    | .ok (_, bs, _) => (List.range (2 ^ t.hotLog2)).filterMap fun k =>
        if bitOf 31 (recWord bs (2 * k)) then some (bitsAt 0 56 (recWord bs (2 * k + 1)), t.stride) else none

/-- Where the rows of a table lie, in their places and where its map has moved them. -/
def tablePlaces (s : State) (w : Who) (t : TableRec) : List (Nat × Nat) := (t.base, t.rows * t.stride) :: movedRows s w t

/-- A page that two ranges share is SHADOW, and a write to it goes to backing b: the one that is hidden, or the one given. -/
def meetsBacking (s : State) (w : Who) (dest : Option Bool) (b : Bool) (va n : Nat) (q : Nat × Nat) : Bool :=
  rangesMeet va n q.1 q.2 &&
    (List.range (n / 4096 + 2)).any fun i =>
      let a := va / 4096 * 4096 + 4096 * i
      decide (a < va + n) && decide (a + 4096 > q.1) && decide (a < q.1 + q.2) &&
        match findLeaf s w a false with
        | .ok f => f.leaf.bit 9 && dest.getD (!f.leaf.bit 10) == b
        | .error _ => false

/-- Some command in progress, other than one of a number, is bound to the backing an engine write of a range would go to: the hidden one,
or the one the writer is bound to itself (R228, R342). A write that has no command of its own has the number none. -/
def backingHeld (s : State) (w : Who) (me : Option Nat) (va n : Nat) (dest : Option Bool := none) : Bool :=
  s.engines.any fun e => e.2.queue.any fun g =>
    match g.bound with
    | none => false
    | some b =>
      some g.order != me && g.asid == w.asid &&
        (tablePlaces s (whoEngine g (BitVec.ofNat 7 e.1)) (tableOf g.payload)).any (meetsBacking s w dest b va n)

end Sys2Proof.Machine
end

