-- ==== Sys2Proof/Machine/Flags.lean ====
section
/-!
DEFINITION. The FLAGS register (R118, Table 4.3): the bits each sequencer float instruction and conversion sets.
-/
namespace Sys2Proof.Machine

/-- The events of one float operation. -/
structure FpFlags where
  sat : Bool := false
  nv : Bool := false
  dz : Bool := false
  ovf : Bool := false
  uf : Bool := false
  nx : Bool := false
deriving DecidableEq, Repr

/-- The bits of FLAGS for a set of events. -/
def flagBits (f : FpFlags) : Word :=
  BitVec.ofNat 64 (b2n f.sat * 32 + b2n f.nv * 16 + b2n f.dz * 8 + b2n f.ovf * 4 + b2n f.uf * 2 + b2n f.nx)

/-- The state with sticky bits set in FLAGS. -/
def setFlags (s : State) (f : FpFlags) : State :=
  modCore s fun c => { c with regs := { c.regs with flags := c.regs.flags ||| flagBits f } }

/-- FLAGS after PUTS of v: RM keeps its value under 4 to 7 (Table 4.3, R483). -/
def flagsPut (old v : Word) : Word :=
  BitVec.ofNat 64 (bitsAt 0 6 v.toNat + (if bitsAt 8 3 v.toNat < 4 then bitsAt 8 3 v.toNat else bitsAt 8 3 old.toNat) * 256)

/-- The rounding mode of an S-word float instruction (R436). -/
def seqMode (s : State) (r : BitVec 3) : Rnd :=
  if r = 4 then rndOf (bitsAt 8 3 (curCore s).regs.flags.toNat) else rndOf r.toNat

/-- The events of a rounding. -/
def roundFlags (r : Rounded) : FpFlags := { ovf := r.ovf, uf := r.uf, nx := r.nx }

/-- The result and events of FADD, FSUB, FMUL and FMA from the operands read and the exact value (R436): invalid is a NaN
value that no operand brings. -/
def fpResult (mode : Rnd) (ops : List Num) (invalid : Bool) (v : Num) : W32 × FpFlags :=
  if ops.any isNan || invalid then (nan32, { nv := ops.any signals || invalid })
  else
    let r := (roundNum fp32 mode v).1
    (BitVec.ofNat 32 r.code, roundFlags r)

/-- ∞ × 0 (R436). -/
def badProduct (a b : Num) : Bool :=
  match a, b with
  | .inf _, .fin _ m _ => m == 0
  | .fin _ m _, .inf _ => m == 0
  | _, _ => false

/-- ∞ - ∞ (R436). -/
def badSum (a b : Num) : Bool := match a, b with | .inf x, .inf y => x != y | _, _ => false

/-- FADD. -/
def fpAdd (mode : Rnd) (a b : Num) : W32 × FpFlags := fpResult mode [a, b] (badSum a b) (addNum mode a b)

/-- FMUL. -/
def fpMul (mode : Rnd) (a b : Num) : W32 × FpFlags := fpResult mode [a, b] (badProduct a b) (mulNum a b)

/-- FMA: invalid for ∞ × 0 whatever c is (R436). -/
def fpFma (mode : Rnd) (a b c : Num) : W32 × FpFlags :=
  fpResult mode [a, b, c] (badProduct a b || (!badProduct a b && badSum (mulNum a b) c)) (addNum mode (mulNum a b) c)

/-- The comparison predicates: 0 EQ, 1 LT, 2 LE, 3 UN, false on unordered operands but for UN (R437). -/
def fpHolds (p : Nat) (a b : Num) : Bool :=
  match p with
  | 0 => eqNum a b
  | 1 => ltNum a b
  | 2 => ltNum a b || eqNum a b
  | _ => isNan a || isNan b

/-- The events of FCMP (R437). -/
def cmpFlags (p : Nat) (a b : Num) : FpFlags :=
  { nv := if p = 1 || p = 2 then isNan a || isNan b else signals a || signals b }

/-- A float conversion to a float format, with its events (R119, R120, R438). -/
def cvtFloat (f : Fmt) (mode : Rnd) (v : Num) : Nat × FpFlags :=
  let (r, sat) := roundNum f mode v
  (r.code, { roundFlags r with sat := sat, nv := signals v })

/-- A float conversion to an integer of w bits, with its events (R121, R438). -/
def cvtInt (mode : Rnd) (w : Nat) (uns : Bool) (v : Num) : Int × FpFlags :=
  let (i, bad, nx) := toInt mode w uns v
  (i, { nv := bad, sat := bad, nx := nx && !bad })

/-- FCVT: result and events by kind code (Table 12.5). -/
def fcvtResult (k : Nat) (mode : Rnd) (x : Word) : Word × FpFlags :=
  let n32 := num32 (lo32 x)
  match k with
  | 0 => let (i, f) := cvtInt mode 32 false n32; (BitVec.ofInt 64 i, f)
  | 1 => let (i, f) := cvtInt mode 32 true n32; (BitVec.ofInt 64 i, f)
  | 2 => let (i, f) := cvtInt mode 64 false n32; (BitVec.ofInt 64 i, f)
  | 3 => let (c, f) := cvtFloat fp32 mode (ofInt x.toInt); (BitVec.ofNat 64 c, f)
  | 4 => let (c, f) := cvtFloat fp32 mode (ofInt x.toNat); (BitVec.ofNat 64 c, f)
  | 5 => let (c, f) := cvtFloat bf16 mode n32; (BitVec.ofNat 64 c, f)
  | 6 => let (c, f) := cvtFloat fp16 mode n32; (BitVec.ofNat 64 c, f)
  | 7 => let (c, f) := cvtFloat f8 mode n32; (BitVec.ofNat 64 c, f)
  | 8 => let (c, f) := cvtFloat fp32 .rne (decodeIeee bf16 (x.toNat % 2 ^ 16)); (BitVec.ofNat 64 c, f)
  | 9 => let (c, f) := cvtFloat fp32 .rne (decodeIeee fp16 (x.toNat % 2 ^ 16)); (BitVec.ofNat 64 c, f)
  | _ => let (c, f) := cvtFloat fp32 .rne (decodeF8 (x.toNat % 2 ^ 8)); (BitVec.ofNat 64 c, f)

end Sys2Proof.Machine
end

