-- ==== Sys2Proof/Machine/Pipeline.lean ====
section
/-!
DEFINITION. The firing of a stage (R26 to R35, R42 to R45, R50, R258, R373, R376, R442, R508, R519, R581): what the first
stage consumes, the values of source codes, arcs, outputs with their sides, node faults (R275, Table 8.6) and converter
counts (R145).
-/
namespace Sys2Proof.Machine

/-! ### Fields of a context -/

/-- A field of an input word (Table 2.3). -/
def inField (cx : Ctx) (n lo : Nat) : Nat := bitsAt lo n cx.input.toNat

/-- PRIMARY. -/
def primaryPort (cx : Ctx) : Nat := inField cx 3 29

/-- PWIDTH: the primary bundle's tokens less one. -/
def primaryWidth (cx : Ctx) : Nat := inField cx 2 27

/-- PTRACK. -/
def primaryTrack (cx : Ctx) : Nat := inField cx 2 25

/-- The track a port source reads: NTRK, ETRK, STRK, WTRK, LTRK. -/
def portTrack (cx : Ctx) (p : Nat) : Nat := inField cx 2 (8 - 2 * p)

/-- An output selection (Table 2.4). -/
structure OutSel where
  en : Bool
  preg : Nat
  width : Nat
  port : Nat
  track : Nat
  side : Nat
deriving DecidableEq, Repr

/-- The fields of an output selection. -/
def outSel (w : BitVec 16) : OutSel :=
  { en := bitOf 15 w.toNat, preg := bitsAt 13 2 w.toNat, width := bitsAt 11 2 w.toNat, port := bitsAt 8 3 w.toNat,
    track := bitsAt 6 2 w.toNat + 4 * bitsAt 3 1 w.toNat, side := bitsAt 4 2 w.toNat }

/-- The enabled output selections of a context. -/
def outSels (cx : Ctx) : List OutSel := (cx.outs.map outSel).filter (·.en)

/-- The E-words of a context, decoded. -/
def stageOps (cx : Ctx) : List Instr :=
  cx.ewords.filterMap fun w => match decodeE w.toNat with | .ok i => some i | .error _ => none

/-- The source codes an E-word uses (R373). -/
def usedSources : Instr → List Src
  | .vnop _ a => [a]
  | .viadd _ a b _ _ => [a, b]
  | .visub _ a b _ _ => [a, b]
  | .vimul _ a b _ _ => [a, b]
  | .vimulh _ a b _ => [a, b]
  | .vimad _ a b c _ _ => [a, b, c]
  | .vand _ a b => [a, b]
  | .vor _ a b => [a, b]
  | .vxor _ a b => [a, b]
  | .vshl _ a b => [a, b]
  | .vshr _ a b => [a, b]
  | .vsha _ a b => [a, b]
  | .vimin _ a b _ => [a, b]
  | .vimax _ a b _ => [a, b]
  | .vicmp _ a b _ => [a, b]
  | .vsel _ a b c => [a, b, c]
  | .vaddc _ a b _ _ => [a, b]
  | .vsubc _ a b _ _ => [a, b]
  | .vmulc _ a b c _ _ => [a, b, c]
  | .vhash _ a b => [a, b]
  | .vclz _ a => [a]
  | .vpopc _ a => [a]
  | .vbfx _ a b c _ => [a, b, c]
  | .vfadd _ a b _ _ => [a, b]
  | .vfsub _ a b _ _ => [a, b]
  | .vfmul _ a b _ _ => [a, b]
  | .vfma _ a b c _ _ => [a, b, c]
  | .vfmin _ a b => [a, b]
  | .vfmax _ a b => [a, b]
  | .vfcmp _ a b _ => [a, b]
  | .vfsign _ a b _ => [a, b]
  | .vfcvt _ a b c k _ _ =>
    let n := k.toNat
    a :: (if [4, 5, 6, 7, 12, 13].contains n then [b] else []) ++ (if n = 6 || n = 7 then [c] else [])
  | .vfrcpe _ a _ _ => [a]
  | .vfrsqe _ a _ _ => [a]
  | .vfexp2 _ a _ _ => [a]
  | .vpqz _ a c _ => [a, c]
  | .vpmul _ a b _ => [a, b]
  | .vred _ a b m _ _ => if 4 ≤ m.toNat then [a, b] else [a]
  | .fork _ a => [a]
  | .filt _ a b _ => [a, b]
  | .steer _ a b _ _ => [a, b]
  | .merge a b _ _ => [a, b]
  | .perm _ a b _ _ m => if m = 0 then [a, b] else [a]
  | .splat _ a _ => [a]
  | .tagseq _ a => [a]
  | .cntl _ a _ _ => [a]
  | .topk _ a b _ => [a, b]
  | .spld _ a _ => [a]
  | .spst _ a b _ => [a, b]
  | .spamo _ a b _ _ => [a, b]
  | .ltake _ a _ => [a]
  | .lgive _ a _ => [a]
  | .vanc _ a b _ => [a, b]
  | .ecount _ a => [a]
  | _ => []

/-- The context holds a STEER; with BACK. -/
def steerBack (cx : Ctx) : Option Bool :=
  (stageOps cx).findSome? fun i => match i with | .steer _ _ _ k _ => some k | _ => none

/-- The context holds a FORK. -/
def hasFork (cx : Ctx) : Bool := (stageOps cx).any fun i => match i with | .fork _ _ => true | _ => false

/-- The context's CNTL: EOSONLY and DIR. -/
def cntlOf (cx : Ctx) : Option (Bool × Bool) :=
  (stageOps cx).findSome? fun i => match i with | .cntl _ _ e r => some (e, r) | _ => none

/-- Carry output and carry input of the context's carry operation (R519). -/
def carryOf (cx : Ctx) : Bool × Bool :=
  ((stageOps cx).findSome? fun i =>
    match i with
    | .vaddc _ _ _ o i => some (o, i)
    | .vsubc _ _ _ o i => some (o, i)
    | .vmulc _ _ _ _ o i => some (o, i)
    | _ => none).getD (false, false)

/-! ### Outputs -/

/-- Tracks a write on port p, track t covers besides: those an INPUT-4 SWM word copies it to (R581). A tile's context lists
the words of its lower row's box, for tracks 4-7, after those of the upper. -/
def swmCopies (cx : Ctx) (p t : Nat) : List (Nat × Nat) :=
  (if t < 4 then cx.sw.take 20 else cx.sw.drop 20).flatMap fun w =>
    let o := bitsAt 6 5 w.toNat
    if w ≠ 0 && bitsAt 14 2 w.toNat == 1 && bitsAt 11 3 w.toNat == 4 && bitsAt 3 3 w.toNat == t % 4 && bitOf p o then
      ([0, 1, 2, 3, 4].filter fun q => q != p && bitOf q o).map fun q => (q, t)
    else []

/-- The output tracks of a selection, copies included. -/
def selTracks (cx : Ctx) (o : OutSel) : List (Nat × Nat) :=
  (List.range (o.width + 1)).flatMap fun j => (o.port, o.track + j) :: swmCopies cx o.port (o.track + j)

/-- An output track of a node has a free slot. -/
def nodeOutFree (s : State) (x : SiteId) (pt : Nat × Nat) : Bool :=
  let (y, u) := trackAt x pt.2
  outFree s y pt.1 u

/-- Every enabled output of the context, its carry output included, has a free slot (R32, R519). -/
def outsFree (s : State) (x : SiteId) (cx : Ctx) : Bool :=
  ((outSels cx).flatMap (selTracks cx)).all (nodeOutFree s x) && (!(carryOf cx).1 || nodeOutFree s x (1, 3))

/-- A token of KIND 1: an initial token (R53). -/
def initialTok : Token := { kind := 1, seq := 0, eos := true, valid := 0xFFFF, lanes := [] }

/-- The tokens of one selection for a kind, sideband and stage registers; those of a HOLE, a marker or an initial token
have no lanes. -/
def selTokens (o : OutSel) (k : Token) (p : List Lanes) : List (Nat × Nat × Token) :=
  (List.range (o.width + 1)).map fun j =>
    (o.port, o.track + j, { k with lanes := if k.kind = 0 || k.kind = 5 then p[o.preg + j]?.getD [] else [] })

/-- The token head of an invocation: kind, SEQ, EOS and VALID. -/
def invHead (v : Inv) : Token := { kind := v.kind, seq := v.seq, eos := v.eos, valid := v.valid, lanes := [] }

/-- The context holds a BARN. -/
def hasBarn (cx : Ctx) : Bool := (stageOps cx).any fun i => match i with | .barn _ _ _ _ _ => true | _ => false

/-- A kind that the context's CNTL converts (Table 13.23). -/
def cntlHits (cx : Ctx) (kind : BitVec 3) : Bool :=
  (cntlOf cx).any fun q => if q.2 then kind == 5 else kind == 0 || kind == 1 || kind == 6

/-- A token's kind after the context's CNTL, if it has one (R421). -/
def cntlKind (cx : Ctx) (kind : BitVec 3) : BitVec 3 :=
  if cntlHits cx kind then (if (cntlOf cx).any (·.2) then 0 else 5) else kind

/-- The context's CNTL absorbs an invocation (R422). -/
def cntlAbsorbs (cx : Ctx) (v : Inv) : Bool := cntlHits cx v.kind && (cntlOf cx).any (·.1) && !v.eos

/-- What an invocation writes at stage 6, on side 2 of a FORK or on everything else (R44, R45, R402, R421, R422, R442, R443,
R508, R509, Table 2.5). A CNTL changes the kind of what goes out, or absorbs it. The carry token belongs to no side: it is written with
the enabled outputs whatever the invocation's sides are (R519, R520; DEDUCED, log entry 21). -/
def outTokens (cx : Ctx) (v : Inv) (forkSide2 : Bool) : List (Nat × Nat × Token) :=
  let sels := outSels cx
  let words : List Lanes := if v.kind = 5 && hasBarn cx then [] else v.p
  let on (f : OutSel → Bool) (k : Token) : List (Nat × Nat × Token) := (sels.filter f).flatMap fun o => selTokens o k words
  let h : Token := { invHead v with kind := cntlKind cx v.kind }
  let carry : List (Nat × Nat × Token) := if (carryOf cx).1 then [(1, 3, { h with lanes := v.carry })] else []
  if cntlAbsorbs cx v then []
  else if forkSide2 then (if v.kind = 6 || v.kind = 2 || v.valid ≠ 0 then on (fun o => o.side == 2) h else [])
  else if v.kind = 2 then on (fun o => !(hasFork cx && o.side == 2)) h ++ carry
  else
    match steerBack cx with
    | some back =>
      let two (k : Token) := if k.valid = 0 && v.kind != 6 then (if back then on (fun o => o.side == 2) initialTok else [])
        else on (fun o => o.side == 2) k
      if v.kind = 6 then
        on (fun o => o.side == 0) h ++ on (fun o => o.side == 1) { h with eos := true } ++
          (if back then on (fun o => o.side == 2) initialTok else []) ++ carry
      else
        let v1 := v.valid &&& v.mask
        let v2 := v.valid &&& ~~~ v.mask
        on (fun o => o.side == 0) h ++
          (if v1 = 0 then [] else on (fun o => o.side == 1) { h with valid := v1, eos := v.eos && v2 == 0 }) ++
          two { h with valid := v2 } ++ carry
    | none =>
      if hasFork cx then (if v.kind = 6 || v.valid ≠ 0 then on (fun o => o.side != 2) h else []) ++ carry
      else on (fun _ => true) h ++ carry

/-- Tokens of a node with the copies its SWM words make (R581). -/
def withCopies (cx : Ctx) (ts : List (Nat × Nat × Token)) : List (Nat × Nat × Token) :=
  ts.flatMap fun k => k :: (swmCopies cx k.1 k.2.1).map fun q => (q.1, q.2, k.2.2)

/-- Tokens are written to a node's outputs. -/
def emitAll (s : State) (x : SiteId) (ts : List (Nat × Nat × Token)) : State :=
  ts.foldl (fun u k => let (y, t) := trackAt x k.2.1; emitTok u y k.1 t k.2.2 false) s

/-- Every track the tokens go to has a free slot. -/
def canEmit (s : State) (x : SiteId) (ts : List (Nat × Nat × Token)) : Bool :=
  ts.all fun k => nodeOutFree s x (k.1, k.2.1)

/-! ### Node faults and counts -/

/-- The node fault register (Table 8.6). -/
def faultWord (catid seq stage port track kind : Nat) : Word :=
  BitVec.ofNat 64 (catid * 2 ^ 48 + seq * 2 ^ 36 + stage * 2 ^ 32 + port * 2 ^ 29 + track * 2 ^ 26 + kind)

/-- A node faults (R275): it records the fault and stops; its region begins to freeze. -/
def nodeFault (s : State) (x : SiteId) (kind stage port track seq : Nat) : State :=
  let cat := ((activeCtx s x).map (·.catid.toNat)).getD 0xFFFF
  let s1 := modSite s x fun k => { k with
    frozen := true, fault := if k.fault = 0 then faultWord cat seq stage port track kind else k.fault }
  { s1 with placements := s1.placements.map fun p =>
      if p.active && (rectSites p.origin p.rows p.cols).contains x && p.faultSite.isNone then
        { p with faultSite := some x, quiet := false } else p }

/-- A list of seven counts with n added to count i, saturating (Table 4.8). -/
def addCount (m : List Nat) (i n : Nat) : List Nat :=
  (List.range 7).map fun j => if j = i then min 0xFFFFFFFF (m[j]?.getD 0 + n) else m[j]?.getD 0

/-- Counts added lane by lane, saturating (R147). -/
def sumCounts (m d : List Nat) : List Nat :=
  (List.range 7).map fun j => min 0xFFFFFFFF (m[j]?.getD 0 + d[j]?.getD 0)

/-- The tile of the converter at stage or role k of a site. -/
def tileAt (s : State) (x : SiteId) (k : Nat) : TileCount := (tblGet (siteOf s x).stats k).getD {}

/-- A converter counts n of kind i; nothing is counted for n = 0 (R145). -/
def countAt (s : State) (x : SiteId) (k i n : Nat) : State :=
  if n = 0 then s
  else
    let c := tileAt s x k
    modSite s x fun q => { q with stats := tblSet q.stats k { c with counts := addCount c.counts i n } }

/-- A statistics token: the counts in lanes 0 to 6 (R146). -/
def statToken (counts : List Nat) (seq : BitVec 12) : Token :=
  { kind := 4, seq := seq, eos := true, valid := 0x007F, lanes := laneList fun l => BitVec.ofNat 32 (counts[l]?.getD 0) }

/-- The counts a statistics token carries. -/
def tokenCounts (k : Token) : List Nat := (List.range 7).map fun l => (k.lanes[l]?.getD 0).toNat

/-- The tile of the converter at stage or role k has ended: counts that are not all zero make a statistics token (R146). -/
def closeTile (s : State) (x : SiteId) (k : Nat) : State :=
  let c := tileAt s x k
  modSite s x fun q => { q with
    stats := tblErase q.stats k, tiles := if c.counts.any (· ≠ 0) then q.tiles ++ [statToken c.counts c.seq] else q.tiles }

/-- A token has left the converter at stage or role k; with EOS its tile ends (R145). -/
def endTile (s : State) (x : SiteId) (k : Nat) (eos : Bool) (seq : BitVec 12) : State :=
  match tblGet (siteOf s x).stats k with
  | none => s
  | some c =>
    let s1 := modSite s x fun q => { q with stats := tblSet q.stats k { c with seq := seq } }
    if eos then closeTile s1 x k else s1

/-! ### Sources -/

/-- Lane l of a word. -/
def laneOf (w : Lanes) (l : Nat) : W32 := w[l]?.getD 0

/-- A word with a free value in each lane that VALID leaves out; j tells the words of one draw apart (R26). Log entry 8. -/
def freeInvalid (draw j : Nat) (valid : BitVec 16) (w : Lanes) : Lanes :=
  laneList fun l => if bitOf l valid.toNat then laneOf w l else Config.freeLane draw (16 * j + l)

/-- The words of an invocation with free values in its invalid lanes. -/
def freeInv (draw : Nat) (v : Inv) : Inv :=
  { v with p := (List.range 4).map fun j => freeInvalid draw j v.valid (v.p[j]?.getD []) }

/-- What a stage's E-word sees: its site, context, invocation and the tokens of port sources. -/
structure StageEnv where
  site : SiteId
  cx : Ctx
  inv : Inv
  ports : List (Nat × Token)
deriving DecidableEq, Repr

/-- Lane l of source code c (Table 12.9). -/
def srcLane (s : State) (e : StageEnv) (c : Src) (l : Nat) : W32 :=
  let n := c.toNat
  if n < 4 then laneOf (e.inv.p[n]?.getD []) l
  else if n < 9 then ((e.ports.find? fun q => q.1 == n - 4).map fun q => laneOf q.2.lanes l).getD 0
  else if n < 13 then ((siteOf s e.site).cs[n - 9]?).getD 0
  else if n < 21 then (e.cx.ks[n - 13]?).getD 0
  else if n = 21 then BitVec.ofNat 32 l
  else if n = 22 then lo32 (((findSlice s e.cx.owner).map (·.wid)).getD 0)
  else if n = 24 then e.inv.valid.zeroExtend 32
  else 0

/-- The word of a source code. -/
def srcWord (s : State) (e : StageEnv) (c : Src) : Lanes := laneList (srcLane s e c)

/-- The lanes of VALID. -/
def validLanes (v : BitVec 16) : List Nat := (List.range 16).filter fun l => bitOf l v.toNat

/-! ### The first stage -/

/-- The inputs a first stage names: its primary bundle's tracks, the tracks of its port sources, and the carry input. -/
def firstInputs (cx : Ctx) (srcs : List Src) (cin : Bool) : List (Nat × Nat) :=
  let pr := primaryPort cx
  let bundle : List (Nat × Nat) :=
    if pr < 5 then (List.range (primaryWidth cx + 1)).map fun j => (pr, primaryTrack cx + j) else []
  let named : List (Nat × Nat) := [0, 1, 2, 3, 4].filterMap fun p =>
    if srcs.any fun n => n.toNat == p + 4 then some (p, portTrack cx p) else none
  (bundle ++ named ++ (if cin then [(3, 3)] else [])).eraseDups

/-- Which input carries the sideband: the primary bundle, or else the named port of the lowest code. Log entry 18. -/
def leadInput (ins : List (Nat × Nat)) : Nat × Nat := ins.headD (0, 0)

/-- An initial token acts as a data token of zero lanes (R53). -/
def asData (k : Token) : Token := if k.kind = 1 then { k with kind := 0, valid := 0xFFFF, seq := 0, eos := true, lanes := [] } else k

/-- What the first stage takes: nothing yet, a node fault, or the state without the consumed tokens, the invocation and the
tokens of port sources. -/
inductive First where
  | wait
  | strand (p t seq : Nat)
  | take (s : State) (v : Inv) (ports : List (Nat × Token))
deriving DecidableEq, Repr

/-- The first stage of a context without a rule of its own takes its inputs (R32, R34, R45, R258). -/
def takeFirst (s : State) (x : SiteId) (cx : Ctx) (srcs : List Src) (cin : Bool) : First :=
  let ins := firstInputs cx srcs cin
  let lead := leadInput ins
  if ins.isEmpty then .wait
  else
    match ins.mapM fun i => headTok s x i.1 i.2 with
    | none => .wait
    | some hs =>
      match hs.zip ins with
      | [] => .wait
      | (h0, _) :: _ =>
        if hs.any fun k => k.kind == 3 then .wait
        else if hs.all fun k => k.kind == 2 then
          .take (ins.foldl (fun u i => consumeTok u x i.1 i.2) s)
            { kind := 2, seq := h0.seq, eos := h0.eos, valid := h0.valid, p := [] } []
        else if hs.any fun k => k.kind == 2 then .strand lead.1 lead.2 h0.seq.toNat
        else
          let d0 := asData h0
          let word (j : Nat) : Lanes :=
            if primaryPort cx < 5 && j ≤ primaryWidth cx then
              ((headTok s x (primaryPort cx) (primaryTrack cx + j)).map fun k => (asData k).lanes).getD []
            else []
          let ports := (ins.zip hs).map fun q => (q.1, asData q.2)
          let named (p : Nat) : Option Token := (ports.find? fun q => q.1 == (p, portTrack cx p)).map (·.2)
          let s1 := ins.foldl (fun u i => consumeTok u x i.1 i.2) s
          .take s1
            { kind := if hs.any fun k => k.kind == 6 then 6 else d0.kind, seq := d0.seq, eos := d0.eos, valid := d0.valid,
              p := [word 0, word 1, word 2, word 3],
              carry := if cin then ((ports.find? fun q => q.1 == (3, 3)).map (·.2.lanes)).getD [] else [] }
            ([0, 1, 2, 3, 4].filterMap fun p => (named p).map fun k => (p, k))

/-! ### A stage -/

/-- The invocation with register d replaced. -/
def putP (v : Inv) (d : BitVec 2) (w : Lanes) : Inv :=
  { v with p := (List.range 4).map fun j => if j = d.toNat then w else v.p[j]?.getD [] }

/-- The site with the arc after stage k set. -/
def setArc (s : State) (x : SiteId) (k : Nat) (v : Option Inv) : State :=
  modSite s x fun n => { n with arcs := n.arcs.setIfInBounds (k - 1) v }

/-- The invocation in the arc after stage k. -/
def arcOf (s : State) (x : SiteId) (k : Nat) : Option Inv := ((siteOf s x).arcs[k - 1]?).getD none

/-- The second side of a FORK that is held leaves, if its tracks are free (R442). -/
def flushSide2 (s : State) (x : SiteId) (cx : Ctx) : State :=
  match (siteOf s x).node.side2 with
  | none => s
  | some v =>
    let ts := withCopies cx (outTokens cx v true)
    if canEmit s x ts then
      modSite (emitAll s x ts) x fun n => { n with node := { n.node with side2 := none } }
    else s

/-- The tracks that stage 6 waits for: those of the sides a STEER writes (R508), those of side 1 and of the selections with SIDE 0
of a FORK (R442), and otherwise those of every enabled output (R33, R519). -/
def leaveTracks (cx : Ctx) (v : Option Inv) : List (Nat × Nat) :=
  let carry : List (Nat × Nat) := if (carryOf cx).1 then [(1, 3)] else []
  match steerBack cx, v with
  | some _, some w => (withCopies cx (outTokens cx w false)).map fun k => (k.1, k.2.1)
  | some _, none => []
  | none, _ => (((outSels cx).filter fun o => !(hasFork cx && o.side == 2)).flatMap (selTracks cx)) ++ carry

/-- An invocation leaves stage 6, or is absorbed there; none tells that stage 6 waits (R33, R442). -/
def leaveSix (s : State) (x : SiteId) (cx : Ctx) (v : Option Inv) : Option State :=
  if !(leaveTracks cx v).all (nodeOutFree s x) || (siteOf s x).node.side2.isSome || (arcOf s x 6).isSome then none
  else
    match v with
    | none => some s
    | some w =>
      let s1 := emitAll s x (withCopies cx (outTokens cx w false))
      some (if hasFork cx && !(outTokens cx w true).isEmpty then
        modSite s1 x fun n => { n with node := { n.node with side2 := some w } } else s1)

/-- Stage 6 takes an invocation, which leaves at once or is held in the arc after it until its outputs have room (R33, R561,
Table 7.10). Log entry 103. -/
def takeSix (s : State) (x : SiteId) (cx : Ctx) (v : Option Inv) : Option State :=
  match leaveSix s x cx v with
  | some s1 => some s1
  | none => if v.isSome && (siteOf s x).node.side2.isNone && (arcOf s x 6).isNone then some (setArc s x 6 v) else none

/-- What stage 6 holds leaves where it can: side 2 of a FORK, then the invocation in the arc after it. -/
def flushSix (s : State) (x : SiteId) (cx : Ctx) : State :=
  let s1 := flushSide2 s x cx
  match arcOf s1 x 6 with
  | none => s1
  | some v => (leaveSix (setArc s1 x 6 none) x cx (some v)).getD s1

/-- The invocation goes on from stage k: into its arc, or out at stage 6; none tells that it cannot yet. A converter's tile ends
with its last output. -/
def passOn (s : State) (x : SiteId) (cx : Ctx) (k : Nat) (v : Option Inv) : Option State :=
  let s1 := match v with | some w => endTile s x k w.eos w.seq | none => s
  if k < 6 then
    match v with
    | none => some s1
    | some w => if (arcOf s x k).isNone then some (setArc s1 x k (some w)) else none
  else takeSix s1 x cx v

/-- A stage whose E-word computes on every invocation and has no rule of its own for the first stage: f gives the state and
the invocation that goes on, if one does; bad tells that the firing is a PORT_PROTOCOL fault. A stage that cannot fire
changes nothing. A control token is computed on as data is (log entry 99). -/
def fireStage (st : State) (srcs : List Src) (cin : Bool) (f : State → StageEnv → State × Option Inv)
    (bad : State → StageEnv → Bool := fun _ _ => false) : Out :=
  let x := st.focus
  let k := st.focusStage.toNat
  if !siteOk x then .fault .noSuchSite
  else
    match activeCtx st x with
    | none => .next st
    | some cx =>
      if !mayFire st x then .next st
      else if k = 1 then
        if (arcOf st x 1).isSome || !outsFree st x cx then .next st
        else
          match takeFirst st x cx srcs cin with
          | .wait => .next st
          | .strand p t q => .next (noteMove (nodeFault st x 2 0 p t q) x)
          | .take s1 v ports =>
            let e : StageEnv := { site := x, cx := cx, inv := v, ports := ports }
            if bad s1 e then .next (nodeFault st x 3 1 0 0 v.seq.toNat)
            else .next (noteMove ((passOn (f s1 e).1 x cx 1 (f s1 e).2).getD st) x)
      else
        let s0 := if k = 6 then flushSix st x cx else st
        match arcOf s0 x (k - 1) with
        | none => .next s0
        | some v =>
          let s1 := setArc s0 x (k - 1) none
          let e : StageEnv := { site := x, cx := cx, inv := v, ports := [] }
          if bad s1 e then .next (nodeFault s0 x 3 k 0 0 v.seq.toNat)
          else
            match passOn (f s1 e).1 x cx k (f s1 e).2 with
            | none => .next s0
            | some s2 => .next (noteMove s2 x)

/-- HOLEs and drain markers pass a stage without computation (R45, R258). -/
def passes (v : Inv) : Bool := v.kind == 6 || v.kind == 2

/-- A stage that writes register d lane by lane; invalid lanes hold free values (R26). -/
def laneStage (st : State) (d : BitVec 2) (srcs : List Src) (f : State → StageEnv → Nat → W32) : Out :=
  fireStage st srcs false fun s e =>
    if passes e.inv then (s, some e.inv)
    else
      ({ s with draws := s.draws + 1 },
        some (putP e.inv d (laneList fun l =>
          if bitOf l e.inv.valid.toNat then f s e l else Config.freeLane s.draws l)))

end Sys2Proof.Machine
end

