-- ==== Sys2Proof/Machine/Operands.lean ====
section
/-!
DEFINITION. The operand forms of S-words: integers of 32 or 64 bits read from registers and the results they give
(R8, R393), sizes and addresses of memory forms (R452, R454, R504), branch targets (R406, R410), bit fields (R408) and
fields of a work identifier (R104).
-/
namespace Sys2Proof.Machine

/-- The width the modifier W gives. -/
def opWidth (w : Bool) : Nat := if w then 32 else 64

/-- The integer of a source of 32 or 64 bits, unsigned with N. -/
def opInt (n w : Bool) (v : Word) : Int := if w then intOf n (lo32 v) else intOf n v

/-- An exact integer as a result: with W its low 32 bits sign-extended. -/
def opResult (w : Bool) (r : Int) : Word := if w then sext32 (BitVec.ofInt 32 r) else BitVec.ofInt 64 r

/-- A 64-bit result narrowed with W. -/
def narrow (w : Bool) (v : Word) : Word := if w then sext32 (lo32 v) else v

/-- A sum, difference or product, clamped with S (R395, R466, R510). -/
def opClamp (s n w : Bool) (r : Int) : Word := opResult w (if s then clampInt r (opWidth w) n else r)

/-- The bytes of a size code. -/
def sizeBytes (z : BitVec 2) : Nat := 2 ^ z.toNat

/-- X[a] + Sext(off8) × size. -/
def addrOff (s : State) (a : Reg) (o : BitVec 8) (z : BitVec 2) : Word :=
  readReg s a + o.signExtend 64 * BitVec.ofNat 64 (sizeBytes z)

/-- X[a] + X[b] × size. -/
def addrIdx (s : State) (a b : Reg) (z : BitVec 2) : Word :=
  readReg s a + readReg s b * BitVec.ofNat 64 (sizeBytes z)

/-- Block(PC) + 64 × a signed offset. -/
def branchTarget {n : Nat} (s : State) (o : BitVec n) : Word := blockOf (pcOf s) + o.signExtend 64 * 64

/-- The value a load of n bytes gives, extended with zeros or with the sign (R452). -/
def loadValue (zero : Bool) (n : Nat) (bs : List Byte) : Word :=
  if zero then BitVec.ofNat 64 (leNat bs)
  else
    match n with
    | 1 => (BitVec.ofNat 8 (leNat bs)).signExtend 64
    | 2 => (BitVec.ofNat 16 (leNat bs)).signExtend 64
    | 4 => (BitVec.ofNat 32 (leNat bs)).signExtend 64
    | _ => BitVec.ofNat 64 (leNat bs)

/-- The position and width of a bit field in X[b], width 0 meaning 64 (R408). -/
def fieldSpec (v : Word) : Nat × Nat := (bitsAt 0 6 v.toNat, if bitsAt 6 6 v.toNat = 0 then 64 else bitsAt 6 6 v.toNat)

/-- The mask of w bits from p on, within 64 bits. -/
def fieldMask (p w : Nat) : Word := BitVec.ofNat 64 ((2 ^ w - 1) * 2 ^ p)

/-- BFX (R409). -/
def bitFieldExtract (n : Bool) (a spec : Word) : Word :=
  let (p, w) := fieldSpec spec
  let f := a.toNat / 2 ^ p % 2 ^ w
  if n || f < 2 ^ (w - 1) then BitVec.ofNat 64 f else BitVec.ofInt 64 ((f : Int) - 2 ^ w)

/-- BFI (R408). -/
def bitFieldInsert (d a spec : Word) : Word :=
  let (p, w) := fieldSpec spec
  (d &&& ~~~ fieldMask p w) ||| BitVec.ofNat 64 (a.toNat % 2 ^ w * 2 ^ p)

/-- The width of field i of WID_SHAPE. -/
def shapeWidth (shape : Word) (i : Nat) : Nat := bitsAt (6 * i) 6 shape.toNat

/-- The sum of the widths of fields 0 to k - 1. -/
def shapeOffset (shape : Word) (k : Nat) : Nat := ((List.range k).map (shapeWidth shape)).sum

/-- Field k of a work identifier under a shape (R104). -/
def widField (shape id : Word) (k : Nat) : Word :=
  let o := shapeOffset shape k
  let w := if k = 6 then 64 - o else shapeWidth shape k
  BitVec.ofNat 64 (id.toNat / 2 ^ o % 2 ^ w)

/-- Op of an AMO on n-byte values (R368, Table 12.4). -/
def amoOp (n p old x : Nat) : Nat :=
  let so : Int := (BitVec.ofNat (8 * n) old).toInt
  let sx : Int := (BitVec.ofNat (8 * n) x).toInt
  match p with
  | 0 => (old + x) % 2 ^ (8 * n)
  | 1 => if sx < so then x else old
  | 2 => if so < sx then x else old
  | 3 => old &&& x
  | 4 => old ||| x
  | 5 => old ^^^ x
  | 6 => x
  | _ => if x < old then x else old

/-- HASH (R447). -/
def hash64 (a seed : Word) : Word :=
  let h1 := (a ^^^ seed) * 0x9E3779B97F4A7C15
  let h2 := (h1 ^^^ (h1 >>> 29)) * 0xB7E151628AED2A6B
  h2 ^^^ (h2 >>> 32)

end Sys2Proof.Machine
end

