-- ==== Sys2Proof/Machine/Tree.lean ====
section
/-!
DEFINITION. Provenance trees (R322, R323, R325, R517, Table 9.8): TTCLR, TTPAR, TTMASK and TTPOS. TTPRUNE stands with the
KV engine.
-/
namespace Sys2Proof.Machine

/-- A node is live. -/
def Tree.isLive (t : Tree) (n : Nat) : Bool := bitOf n t.live.toNat

/-- PARENT of a node. -/
def Tree.parentOf (t : Tree) (n : Nat) : Nat := ((t.parent[n]?).map BitVec.toNat).getD 0

/-- The path from a node to the root, the node first; every parent is lower, so 64 steps reach the root. -/
def Tree.pathFrom (t : Tree) : Nat → Nat → List Nat
  | 0, _ => []
  | f + 1, n => if n = 0 then [0] else n :: t.pathFrom f (t.parentOf n)

/-- The ancestor-or-self mask A(n) (R322). -/
def Tree.mask (t : Tree) (n : Nat) : BitVec 64 := (t.pathFrom 64 n).foldl (fun m i => m ||| BitVec.ofNat 64 (2 ^ i)) 0

/-- The depth d(n) (R322). -/
def Tree.depth (t : Tree) (n : Nat) : Nat := (t.pathFrom 64 n).length - 1

/-- Tree t of a core. -/
def treeOf (s : State) (k : CoreId) (t : BitVec 2) : Tree := ((coreOf s k).trees[t.toNat]?).getD {}

/-- The state with tree t of a core replaced. -/
def setTree (s : State) (k : CoreId) (t : BitVec 2) (v : Tree) : State :=
  setCore s k { coreOf s k with trees := (coreOf s k).trees.setIfInBounds t.toNat v }

/-- The running slice owns tree t of its core. -/
def ownsTree (s : State) (t : BitVec 2) : Bool := (treeOf s s.cur t).owner == some (curSliceId s)

/-- TTCLR (R323): a free tree is claimed, an own one reset. -/
def execTtclr (d a : Reg) (t : BitVec 2) (st : State) : Out :=
  if (treeOf st st.cur t).owner.isNone || ownsTree st t then
    finish (setTree st st.cur t
      { live := 1, base := (readReg st a).truncate 48, owner := some (curSliceId st) }) d 0
  else finish st d 3

/-- The status of TTPAR (Table 9.8, R517); 0 allows it. -/
def ttparStatus (t : Tree) (own : Bool) (n p : Nat) : Nat :=
  if !own then 3
  else if 63 < n || 63 < p then 5
  else if n = 0 then 4
  else if n ≤ p || !t.isLive p then 1
  else if t.isLive n then 2
  else 0

/-- TTPAR (R325). -/
def execTtpar (d a b : Reg) (t : BitVec 2) (st : State) : Out :=
  let n := (readReg st a).toNat
  let p := (readReg st b).toNat
  let r := treeOf st st.cur t
  let status := ttparStatus r (ownsTree st t) n p
  if status = 0 then
    finish (setTree st st.cur t { r with
      parent := r.parent.setIfInBounds n (BitVec.ofNat 6 p), live := r.live ||| BitVec.ofNat 64 (2 ^ n) }) d 0
  else finish st d (BitVec.ofNat 64 status)

/-- TTMASK (R325). -/
def execTtmask (d a : Reg) (t : BitVec 2) (st : State) : Out :=
  let n := (readReg st a).toNat
  let r := treeOf st st.cur t
  finish st d (if ownsTree st t && decide (n ≤ 63) && r.isLive n then r.mask n else 0)

/-- TTPOS (R325). -/
def execTtpos (d a : Reg) (t : BitVec 2) (st : State) : Out :=
  let n := (readReg st a).toNat
  let r := treeOf st st.cur t
  finish st d (if ownsTree st t && decide (n ≤ 63) && r.isLive n then
    r.base.zeroExtend 64 + BitVec.ofNat 64 (r.depth n) else BitVec.allOnes 64)

end Sys2Proof.Machine
end

