-- ==== Sys2Proof/Machine/Lanes.lean ====
section
/-!
DEFINITION. The E-words that compute lane by lane (R519 to R534): integer, carry-chain and floating operations, the
converters VFCVT, VPQZ, VPMUL and VRED, and VANC.
-/
namespace Sys2Proof.Machine

/-! ### Integer lanes (R522) -/

/-- An exact integer as a lane, clamped with S. -/
def laneInt (s n : Bool) (r : Int) : W32 := BitVec.ofInt 32 (if s then clampInt r 32 n else r)

/-- A stage of two integer operands with an exact result. -/
def intStage (st : State) (d : BitVec 2) (a b : Src) (s n : Bool) (f : Int → Int → Int) : Out :=
  laneStage st d [a, b] fun u e l => laneInt s n (f (intOf n (srcLane u e a l)) (intOf n (srcLane u e b l)))

/-- A stage of two words. -/
def wordStage (st : State) (d : BitVec 2) (a b : Src) (f : W32 → W32 → W32) : Out :=
  laneStage st d [a, b] fun u e l => f (srcLane u e a l) (srcLane u e b l)

/-- A memory element whose operation is VNOP passes its bundle on unchanged (R375). -/
def passThrough (st : State) : Out :=
  let x := st.focus
  match activeCtx st x with
  | none => .next st
  | some cx =>
    if !mayFire st x || !outsFree st x cx then .next st
    else
      match takeFirst st x cx [] false with
      | .wait => .next st
      | .strand p t q => .next (noteMove (nodeFault st x 2 0 p t q) x)
      | .take s1 v _ => .next (noteMove ((leaveSix s1 x cx v).getD st) x)

/-- VNOP (R522): the word of a goes to P[d]; a source equal to the destination changes nothing. A memory element passes its
bundle on, and a role of a matrix tile does nothing (R375). -/
def execVnop (d : BitVec 2) (a : Src) (st : State) : Out :=
  if siteKind st.focus = 1 then passThrough st
  else if siteKind st.focus = 2 then .next st
  else if a.toNat = d.toNat then fireStage st [a] false fun s e => (s, some e.inv)
  else laneStage st d [a] fun u e l => srcLane u e a l

/-- VIADD (R522). -/
def execViadd (d : BitVec 2) (a b : Src) (s n : Bool) (st : State) : Out := intStage st d a b s n fun x y => x + y

/-- VISUB (R522). -/
def execVisub (d : BitVec 2) (a b : Src) (s n : Bool) (st : State) : Out := intStage st d a b s n fun x y => x - y

/-- VIMUL (R522). -/
def execVimul (d : BitVec 2) (a b : Src) (s n : Bool) (st : State) : Out := intStage st d a b s n fun x y => x * y

/-- VIMULH (R522). -/
def execVimulh (d : BitVec 2) (a b : Src) (n : Bool) (st : State) : Out :=
  intStage st d a b false n fun x y => Int.fdiv (x * y) (2 ^ 32)

/-- VIMAD (R522). -/
def execVimad (d : BitVec 2) (a b c : Src) (s n : Bool) (st : State) : Out :=
  laneStage st d [a, b, c] fun u e l =>
    laneInt s n (intOf n (srcLane u e a l) * intOf n (srcLane u e b l) + intOf n (srcLane u e c l))

/-- VAND (R522). -/
def execVand (d : BitVec 2) (a b : Src) (st : State) : Out := wordStage st d a b fun x y => x &&& y

/-- VOR (R522). -/
def execVor (d : BitVec 2) (a b : Src) (st : State) : Out := wordStage st d a b fun x y => x ||| y

/-- VXOR (R522). -/
def execVxor (d : BitVec 2) (a b : Src) (st : State) : Out := wordStage st d a b fun x y => x ^^^ y

/-- VSHL (R522). -/
def execVshl (d : BitVec 2) (a b : Src) (st : State) : Out := wordStage st d a b fun x y => x <<< (y.toNat % 32)

/-- VSHR (R522). -/
def execVshr (d : BitVec 2) (a b : Src) (st : State) : Out := wordStage st d a b fun x y => x >>> (y.toNat % 32)

/-- VSHA (R522). -/
def execVsha (d : BitVec 2) (a b : Src) (st : State) : Out := wordStage st d a b fun x y => x.sshiftRight (y.toNat % 32)

/-- VIMIN (R522). -/
def execVimin (d : BitVec 2) (a b : Src) (n : Bool) (st : State) : Out := intStage st d a b false n fun x y => Min.min x y

/-- VIMAX (R522). -/
def execVimax (d : BitVec 2) (a b : Src) (n : Bool) (st : State) : Out := intStage st d a b false n fun x y => Max.max x y

/-- The condition of a predicate (Table 14.7). -/
def condHolds (c : BitVec 3) (x y : W32) : Bool :=
  match c.toNat with
  | 0 => x == y
  | 1 => x != y
  | 2 => x.slt y
  | 3 => !x.slt y
  | 4 => x.ult y
  | 5 => !x.ult y
  | 6 => ltNum (num32 x) (num32 y)
  | _ => ltNum (num32 y) (num32 x) || eqNum (num32 x) (num32 y)

/-- VICMP (R522). -/
def execVicmp (d : BitVec 2) (a b : Src) (c : BitVec 3) (st : State) : Out :=
  wordStage st d a b fun x y => if condHolds c x y then 1 else 0

/-- VSEL (R522). -/
def execVsel (d : BitVec 2) (a b c : Src) (st : State) : Out :=
  laneStage st d [a, b, c] fun u e l => if srcLane u e a l ≠ 0 then srcLane u e b l else srcLane u e c l

/-- VHASH (R523). -/
def hash32 (a seed : W32) : W32 :=
  let h1 := (a ^^^ seed) * 0x9E3779B9
  let h2 := (h1 ^^^ (h1 >>> 15)) * 0xB7E15163
  h2 ^^^ (h2 >>> 16)

/-- VHASH (R523). -/
def execVhash (d : BitVec 2) (a b : Src) (st : State) : Out := wordStage st d a b hash32

/-- VCLZ (R522). -/
def execVclz (d : BitVec 2) (a : Src) (st : State) : Out :=
  laneStage st d [a] fun u e l => BitVec.ofNat 32 (leadingZeros 32 (srcLane u e a l).toNat)

/-- VPOPC (R522). -/
def execVpopc (d : BitVec 2) (a : Src) (st : State) : Out :=
  laneStage st d [a] fun u e l => BitVec.ofNat 32 (popCount 32 (srcLane u e a l).toNat)

/-- The field of VBFX (Table 16.10). -/
def laneField (n : Bool) (a p w : W32) : W32 :=
  let k := if w.toNat % 32 = 0 then 32 else w.toNat % 32
  let f := a.toNat / 2 ^ (p.toNat % 32) % 2 ^ k
  if n || f < 2 ^ (k - 1) then BitVec.ofNat 32 f else BitVec.ofInt 32 ((f : Int) - 2 ^ k)

/-- VBFX (R522). -/
def execVbfx (d : BitVec 2) (a b c : Src) (n : Bool) (st : State) : Out :=
  laneStage st d [a, b, c] fun u e l => laneField n (srcLane u e a l) (srcLane u e b l) (srcLane u e c l)

/-! ### Carry chains (R519, R520) -/

/-- A carry stage: f gives the lane and its carry from the operands and the carry in. -/
def carryStage (st : State) (d : BitVec 2) (srcs : List Src) (cin : Bool) (f : State → StageEnv → Nat → W32 → W32 × W32) :
    Out :=
  fireStage st srcs cin fun s e =>
    if passes e.inv then (s, some e.inv)
    else
      let r (l : Nat) : W32 × W32 :=
        if bitOf l e.inv.valid.toNat then f s e l (if cin then laneOf e.inv.carry l else 0)
        else (Config.freeLane s.draws l, Config.freeLane s.draws (16 + l))
      let v := putP e.inv d (laneList fun l => (r l).1)
      ({ s with draws := s.draws + 2 }, some { v with carry := laneList fun l => (r l).2 })

/-- VADDC (R519). COUT acts when the invocation leaves stage 6. -/
def execVaddc (d : BitVec 2) (a b : Src) (_o i : Bool) (st : State) : Out :=
  carryStage st d [a, b] i fun u e l c =>
    let t := (srcLane u e a l).toNat + (srcLane u e b l).toNat + c.toNat % 2
    (BitVec.ofNat 32 t, BitVec.ofNat 32 (t / 2 ^ 32))

/-- VSUBC (R519). COUT acts when the invocation leaves stage 6. -/
def execVsubc (d : BitVec 2) (a b : Src) (_o i : Bool) (st : State) : Out :=
  carryStage st d [a, b] i fun u e l c =>
    let t : Int := ((srcLane u e a l).toNat : Int) - (srcLane u e b l).toNat - (c.toNat % 2 : Nat)
    (BitVec.ofInt 32 t, if t < 0 then 1 else 0)

/-- VMULC (R519). COUT acts when the invocation leaves stage 6. -/
def execVmulc (d : BitVec 2) (a b c : Src) (_o i : Bool) (st : State) : Out :=
  carryStage st d [a, b, c] i fun u e l k =>
    let t := (srcLane u e a l).toNat * (srcLane u e b l).toNat + (srcLane u e c l).toNat + k.toNat
    (BitVec.ofNat 32 t, BitVec.ofNat 32 (t / 2 ^ 32))

/-! ### Floating lanes (R525 to R529) -/

/-- A code of a float format with a subnormal value flushed to zero, its sign kept, and whether it was (R115). -/
def flushCode (f : Fmt) (code : Nat) : Nat × Bool :=
  if code % 2 ^ f.mant ≠ 0 && code / 2 ^ f.mant % 2 ^ f.expo == 0 then
    (code / 2 ^ (f.mant + f.expo) * 2 ^ (f.mant + f.expo), true)
  else (code, false)

/-- A lane with its FP32 subnormal flushed when FZ is set. -/
def flush32 (fz : Bool) (w : W32) : W32 := if fz then BitVec.ofNat 32 (flushCode fp32 w.toNat).1 else w

/-- A float stage of two operands. -/
def floatStage (st : State) (d : BitVec 2) (a b : Src) (fz : Bool) (f : Num → Num → W32) : Out :=
  wordStage st d a b fun x y => flush32 fz (f (num32 x) (num32 y))

/-- VFADD (R525). -/
def execVfadd (d : BitVec 2) (a b : Src) (f : Bool) (r : BitVec 3) (st : State) : Out :=
  floatStage st d a b f fun x y => (fpAdd (rndOf r.toNat) x y).1

/-- VFSUB (R525). -/
def execVfsub (d : BitVec 2) (a b : Src) (f : Bool) (r : BitVec 3) (st : State) : Out :=
  floatStage st d a b f fun x y => (fpAdd (rndOf r.toNat) x (negNum y)).1

/-- VFMUL (R525). -/
def execVfmul (d : BitVec 2) (a b : Src) (f : Bool) (r : BitVec 3) (st : State) : Out :=
  floatStage st d a b f fun x y => (fpMul (rndOf r.toNat) x y).1

/-- VFMA (R525). -/
def execVfma (d : BitVec 2) (a b c : Src) (f : Bool) (r : BitVec 3) (st : State) : Out :=
  laneStage st d [a, b, c] fun u e l =>
    flush32 f (fpFma (rndOf r.toNat) (num32 (srcLane u e a l)) (num32 (srcLane u e b l)) (num32 (srcLane u e c l))).1

/-- VFMIN (R525, R441). -/
def execVfmin (d : BitVec 2) (a b : Src) (st : State) : Out := wordStage st d a b (pickMax false)

/-- VFMAX (R525, R441). -/
def execVfmax (d : BitVec 2) (a b : Src) (st : State) : Out := wordStage st d a b (pickMax true)

/-- VFCMP (R526). -/
def execVfcmp (d : BitVec 2) (a b : Src) (p : BitVec 2) (st : State) : Out :=
  wordStage st d a b fun x y => if fpHolds p.toNat (num32 x) (num32 y) then 1 else 0

/-- The lane of VFSIGN: 0 COPY, 1 NEG, 2 XOR, 3 ABS (R529). -/
def signLane (o : Nat) (a b : W32) : W32 :=
  if isNan32 a then nan32
  else
    let m := a &&& 0x7FFFFFFF
    match o with
    | 0 => m ||| (b &&& 0x80000000)
    | 1 => a ^^^ 0x80000000
    | 2 => a ^^^ (b &&& 0x80000000)
    | _ => m

/-- VFSIGN (R529). -/
def execVfsign (d : BitVec 2) (a b : Src) (o : BitVec 2) (st : State) : Out := wordStage st d a b (signLane o.toNat)

/-- VFRCPE (R528, R134): rounding code and FZ have no effect. -/
def execVfrcpe (d : BitVec 2) (a : Src) (_f : Bool) (_r : BitVec 3) (st : State) : Out :=
  laneStage st d [a] fun u e l => rcpEst (srcLane u e a l)

/-- VFRSQE (R528, R133): rounding code and FZ have no effect. -/
def execVfrsqe (d : BitVec 2) (a : Src) (_f : Bool) (_r : BitVec 3) (st : State) : Out :=
  laneStage st d [a] fun u e l => rsqrtEst (srcLane u e a l)

/-- VFEXP2 (R528, R135). -/
def execVfexp2 (d : BitVec 2) (a : Src) (f : Bool) (r : BitVec 3) (st : State) : Out :=
  laneStage st d [a] fun u e l => flush32 f (round32 (rndOf r.toNat) (exp2Num (num32 (srcLane u e a l))))

/-! ### Converters -/

/-- A lane with what it counts: indexes of Table 4.8. -/
abbrev Counted := W32 × List Nat

/-- A stage of a converter: the counts of valid lanes are kept (R145), and those of the invocation as a whole. -/
def convStage (st : State) (d : BitVec 2) (srcs : List Src) (f : State → StageEnv → Nat → Counted)
    (whole : State → StageEnv → List Nat := fun _ _ => []) : Out :=
  fireStage st srcs false fun s e =>
    if passes e.inv then (s, some e.inv)
    else
      let cs := ((validLanes e.inv.valid).flatMap fun l => (f s e l).2) ++ whole s e
      let s1 := cs.foldl (fun u i => countAt u e.site s.focusStage.toNat i 1) s
      ({ s1 with draws := s1.draws + 1 },
        some (putP e.inv d (laneList fun l =>
          if bitOf l e.inv.valid.toNat then (f s e l).1 else Config.freeLane s.draws l)))

/-- One element converted to a float format, with its counts: saturation 0, flush 1, NaN in 2, NaN out 3. -/
def cvtElem (f : Fmt) (mode : Rnd) (fz : Bool) (v : Num) : Nat × List Nat :=
  let (r, sat) := roundNum f mode v
  let (code, fl) := if fz then flushCode f r.code else (r.code, false)
  (code, (if sat then [0] else []) ++ (if fl then [1] else []) ++ (if isNan v then [2, 3] else []))

/-- One element widened to FP32, with its counts. -/
def widenElem (v : Num) : Counted := (rne32 v, if isNan v then [2, 3] else [])

/-- A float converted to an integer, with its counts (R121). -/
def cvtIntElem (mode : Rnd) (uns : Bool) (v : Num) : Counted :=
  let (i, bad, _) := toInt mode 32 uns v
  (BitVec.ofInt 32 i, (if bad then [0] else []) ++ (if isNan v then [2] else []))

/-- The lane of VFCVT by kind (Table 16.14). -/
def vcvtLane (k : Nat) (mode : Rnd) (fz : Bool) (a b c : W32) : Counted :=
  let byte (w : W32) : Nat := a.toNat / 2 ^ (8 * (w.toNat % 4)) % 256
  let half (hi : Bool) : Nat := if hi then a.toNat / 2 ^ 16 else a.toNat % 2 ^ 16
  let two (f : Fmt) (n : Nat) : Nat × List Nat :=
    let (x, p) := cvtElem f mode fz (num32 a)
    let (y, q) := cvtElem f mode fz (num32 b)
    (y * 2 ^ n + x, p ++ q)
  match k with
  | 0 => cvtIntElem mode false (num32 a)
  | 1 => (round32 mode (ofInt a.toInt), [])
  | 2 => cvtIntElem mode true (num32 a)
  | 3 => (round32 mode (ofInt a.toNat), [])
  | 4 => let (x, n) := two bf16 16; (BitVec.ofNat 32 x, n)
  | 5 => let (x, n) := two fp16 16; (BitVec.ofNat 32 x, n)
  | 6 => let (x, n) := two f8 8; (BitVec.ofNat 32 (c.toNat / 2 ^ 16 * 2 ^ 16 + x), n)
  | 7 => let (x, n) := two f8 8; (BitVec.ofNat 32 (x * 2 ^ 16 + c.toNat % 2 ^ 16), n)
  | 8 => widenElem (decodeIeee bf16 (half false))
  | 9 => widenElem (decodeIeee bf16 (half true))
  | 10 => widenElem (decodeIeee fp16 (half false))
  | 11 => widenElem (decodeIeee fp16 (half true))
  | 12 => widenElem (decodeF8 (byte b))
  | _ => (rne32 (p6Num (byte b)), [])

/-- VFCVT (R527). -/
def execVfcvt (d : BitVec 2) (a b c : Src) (k : BitVec 4) (f : Bool) (r : BitVec 3) (st : State) : Out :=
  convStage st d [a, b, c] fun u e l =>
    vcvtLane k.toNat (rndOf r.toNat) f (srcLane u e a l) (srcLane u e b l) (srcLane u e c l)

/-- A lane with byte s replaced. -/
def putByte (w : W32) (s v : Nat) : W32 :=
  BitVec.ofNat 32 (w.toNat - w.toNat / 2 ^ (8 * s) % 256 * 2 ^ (8 * s) + v % 256 * 2 ^ (8 * s))

/-- VPQZ (R531, R136). -/
def execVpqz (d : BitVec 2) (a c : Src) (s : BitVec 2) (st : State) : Out :=
  convStage st d [a, c] fun u e l =>
    let (code, nan, sat) := p6Quant (srcLane u e a l)
    (putByte (srcLane u e c l) s.toNat code, (if nan then [2] else []) ++ (if sat then [0] else []))

/-- VPMUL (R530, R137). -/
def execVpmul (d : BitVec 2) (a b : Src) (s : BitVec 2) (st : State) : Out :=
  convStage st d [a, b] fun u e l =>
    let v := srcLane u e a l
    let r := p6Mul v ((srcLane u e b l).toNat / 2 ^ (8 * s.toNat) % 256)
    (r, (if isNan32 v then [2] else []) ++ (if isNan32 r then [3] else []))

/-- The value D × 2^-16 of a denominator (R138). -/
def denNum (b : W32) : Num := .fin false b.toNat (-16)

/-- The lane of an elementwise VRED: 4 NORM, 5 LSE, 6 WEIGHT (Table 16.20). -/
def vredLane (m : Nat) (a b : W32) : W32 :=
  match m with
  | 4 => if b = 0 then 0 else if isNan32 a then nan32 else rne32 (divNum (num32 a) (denNum b))
  | 5 => if b = 0 then 0xFF800000 else if isNan32 a then nan32 else rne32 (addNum .rne (num32 a) (log2Den b.toNat))
  | _ =>
    if b = 0 || p6Units (a.toNat % 256) = 0 then 0 else rne32 (divNum (p6Num (a.toNat % 256)) (denNum b))

/-- The node with a row's accumulator begun: -∞, +∞ or +0 in every lane (Table 16.20). -/
def vredStart (m : Nat) (n : Node) : Node :=
  if n.rowOpen then n
  else { n with
    rowOpen := true, absorbed := 0, sum := 0, dsat := false, nan := false, count := 0
    acc := laneList fun _ => if m = 0 then 0xFF800000 else if m = 1 then 0x7F800000 else 0 }

/-- Lane 0 of the accumulator after one lane of a MAX or MIN row. -/
def vredPick (m : Nat) (n : Node) (v : W32) : Node :=
  { n with acc := laneList fun _ => pickMax (m == 0) (laneOf n.acc 0) v, nan := n.nan || isNan32 v }

/-- The node after a row has absorbed an invocation's valid lanes, with the counts it makes (R532, R138). -/
def vredAbsorb (m : Nat) (mode : Rnd) (fz : Bool) (valid : BitVec 16) (a : Lanes) (n : Node) : Node × List Nat :=
  let ls := validLanes valid
  let nans := (ls.filter fun l => m ≤ 2 && isNan32 (laneOf a l)).map fun _ => 2
  if m ≤ 1 then (ls.foldl (fun k l => vredPick m k (laneOf a l)) n, nans)
  else if m = 2 then
    let sum (l : Nat) : W32 := (fpAdd mode (num32 (laneOf n.acc l)) (num32 (laneOf a l))).1
    let flushes := (ls.filter fun l => fz && (flushCode fp32 (sum l).toNat).2).map fun _ => 1
    ({ n with acc := laneList fun l => if bitOf l valid.toNat then flush32 fz (sum l) else laneOf n.acc l }, nans ++ flushes)
  else
    let t := n.sum + (ls.map fun l => p6Units ((laneOf a l).toNat % 256)).sum
    let past := decide (0xFFFFFFFF < t)
    ({ n with sum := min 0xFFFFFFFF t, dsat := n.dsat || past, count := n.count + ls.length },
      if past && !n.dsat then [0] else [])

/-- What a reducing row gives at its end: the word and VALID (Table 16.20). -/
def vredResult (m : Nat) (n : Node) : Lanes × BitVec 16 :=
  if m = 3 then
    (laneList fun l =>
      if l = 0 then BitVec.ofNat 32 n.sum else if l = 1 then (if n.dsat then 2 else 0)
      else if l = 2 then BitVec.ofNat 32 n.count else 0, 0x0007)
  else if m ≤ 1 && n.nan then (laneList fun _ => nan32, 0xFFFF)
  else (n.acc, 0xFFFF)

/-- A reducing VRED at stage 6 (R533): absorbs, and writes one token at the end of a row; a marker waits until no row is
open. A control token counts as data (log entry 99). -/
def vredReduce (st : State) (d : BitVec 2) (a : Src) (m : Nat) (fz : Bool) (mode : Rnd) : Out :=
  let open_ := (siteOf st st.focus).node.rowOpen
  if open_ && ((arcOf st st.focus 5).any fun v => v.kind == 2) then .next st
  else fireStage st [a] false fun s e =>
    if e.inv.kind = 2 then (s, some e.inv)
    else
      let n0 := vredStart m (siteOf s e.site).node
      let (n1, cs) := if e.inv.kind = 6 then (n0, []) else vredAbsorb m mode fz e.inv.valid (srcWord s e a) n0
      let n2 := { n1 with absorbed := n1.absorbed + 1 }
      let s1 := cs.foldl (fun t i => countAt t e.site 6 i 1) s
      if e.inv.eos then
        let (w, v) := vredResult m n2
        let outs := if m ≤ 2 then (List.range 16).filter fun l => isNan32 (laneOf w l) else []
        let s2 := outs.foldl (fun t _ => countAt t e.site 6 3 1) s1
        ({ modSite s2 e.site (fun k => { k with node := { n2 with rowOpen := false, absorbed := 0, acc := [] } }) with
            draws := s.draws + 1 },
          some (putP { e.inv with kind := 0, valid := v } d (freeInvalid s.draws 0 v w)))
      else (modSite s1 e.site fun k => { k with node := n2 }, none)

/-- VRED (R532, R533). NORM counts an empty row for each invocation with EOS whose lane 0 of b is zero (R140). -/
def execVred (d : BitVec 2) (a b : Src) (m : BitVec 3) (f : Bool) (r : BitVec 3) (st : State) : Out :=
  if m.toNat < 4 then vredReduce st d a m.toNat f (rndOf r.toNat)
  else convStage st d [a, b] (fun u e l =>
    let x := srcLane u e a l
    let w := vredLane m.toNat x (srcLane u e b l)
    (w, (if m.toNat < 6 && isNan32 x then [2] else []) ++ (if isNan32 w then [3] else [])))
    fun u e => if m = 4 && e.inv.eos && srcLane u e b 0 == 0 then [6] else []

/-! ### VANC -/

/-- VANC (R521, R326). -/
def execVanc (d : BitVec 2) (a b : Src) (t : BitVec 2) (st : State) : Out :=
  laneStage st d [a, b] fun u e l =>
    let tr := treeOf u (siteCore e.cx.origin) t
    let x := (srcLane u e a l).toNat
    let y := (srcLane u e b l).toNat
    if tr.owner == some e.cx.owner && decide (x ≤ 63) && decide (y ≤ 63) && tr.isLive x && tr.isLive y &&
      bitOf x (tr.mask y).toNat then 1 else 0

end Sys2Proof.Machine
end

