-- ==== Sys2Proof/Machine/Flow.lean ====
section
/-!
DEFINITION. The flow E-words (R42 to R54, R402, R421, R430, R440 to R445, R461, R472 to R477, R502, R506 to R509, R512,
R514, R515) and the internal steps of their nodes: ORDR_INTERNAL_FIRING, PACK_TIMEOUT, TOPK_EMIT, CREDIT_TAKEN and the
statistics network's steps.
-/
namespace Sys2Proof.Machine

/-- The mask of lanes where p holds. -/
def laneMask (p : Nat → Bool) : BitVec 16 :=
  BitVec.ofNat 16 (((List.range 16).map fun l => if p l then 2 ^ l else 0).sum)

/-- P[d] takes the word of a; invalid lanes hold free values. -/
def moveWord (s : State) (e : StageEnv) (d : BitVec 2) (a : Src) : State × Inv :=
  ({ s with draws := s.draws + 1 },
    putP e.inv d (laneList fun l =>
      if bitOf l e.inv.valid.toNat then srcLane s e a l else Config.freeLane s.draws l))

/-- A stage that writes P[d] from a and changes the invocation's head. -/
def headStage (st : State) (d : BitVec 2) (a b : Src) (f : State → StageEnv → Inv → Inv) : Out :=
  fireStage st [a, b] false fun s e =>
    if passes e.inv then (s, some e.inv)
    else (((moveWord s e d a).1), some (f s e (moveWord s e d a).2))

/-- FORK (R442): the two sides leave at stage 6. -/
def execFork (d : BitVec 2) (a : Src) (st : State) : Out := headStage st d a a fun _ _ v => v

/-- The predicate of FILT and STEER, per lane. -/
def predMask (s : State) (e : StageEnv) (a b : Src) (c : BitVec 3) : BitVec 16 :=
  laneMask fun l => condHolds c (srcLane s e a l) (srcLane s e b l)

/-- FILT (R440). -/
def execFilt (d : BitVec 2) (a b : Src) (c : BitVec 3) (st : State) : Out :=
  headStage st d a b fun s e v => { v with valid := v.valid &&& predMask s e a b c }

/-- STEER (R508): the predicate travels with the invocation to stage 6, where BACK acts. -/
def execSteer (d : BitVec 2) (a b : Src) (_k : Bool) (c : BitVec 3) (st : State) : Out :=
  headStage st d a b fun s e v => { v with mask := predMask s e a b c }

/-- CNTL (R421, R422): the token changes its kind at stage 6. -/
def execCntl (d : BitVec 2) (a : Src) (_e _r : Bool) (st : State) : Out := headStage st d a a fun _ _ v => v

/-- The source lane of PERM (R477). -/
def permLane (m k : Nat) (b : W32) (l : Nat) : Nat :=
  match m with
  | 0 => b.toNat % 16
  | 1 => l ^^^ k
  | _ => (l + k) % 16

/-- PERM (R477). -/
def execPerm (d : BitVec 2) (a b : Src) (k : BitVec 4) (p : Bool) (m : BitVec 2) (st : State) : Out :=
  fireStage st [a, b] false fun s e =>
    if passes e.inv then (s, some e.inv)
    else
      let src (l : Nat) : Nat := permLane m.toNat k.toNat (srcLane s e b l) l
      let valid := if p then laneMask fun l => bitOf (src l) e.inv.valid.toNat else e.inv.valid
      let mask := if p then laneMask fun l => bitOf (src l) e.inv.mask.toNat else e.inv.mask
      let v := putP e.inv d (laneList fun l =>
        if bitOf l valid.toNat then srcLane s e a (src l) else Config.freeLane s.draws l)
      ({ s with draws := s.draws + 1 }, some { v with valid := valid, mask := mask })

/-- SPLAT (R502). -/
def execSplat (d : BitVec 2) (a : Src) (n : BitVec 4) (st : State) : Out :=
  fireStage st [a] false fun s e =>
    if passes e.inv then (s, some e.inv) else (s, some (putP e.inv d (laneList fun _ => srcLane s e a n.toNat)))

/-- Loop counter C3 of a site (R512). -/
def counter3 (s : State) (x : SiteId) : Nat := (((siteOf s x).cs[3]?).getD 0).toNat % 4096

/-- TAGSEQ (R512): a HOLE is tagged as well; a marker passes. -/
def execTagseq (d : BitVec 2) (a : Src) (st : State) : Out :=
  fireStage st [a] false fun s e =>
    if e.inv.kind = 2 then (s, some e.inv)
    else
      let n := counter3 s e.site
      let r := if e.inv.kind = 6 then (s, e.inv) else moveWord s e d a
      (modSite r.1 e.site fun k => { k with cs := listSet k.cs 3 (BitVec.ofNat 32 ((n + 1) % 4096)) },
        some { r.2 with seq := BitVec.ofNat 12 n, eos := true })

/-! ### ECOUNT -/

/-- The core's counters after the valid lanes of a word have counted (R430). -/
def countLanes (bank : Vector W32 64) (w : Lanes) (valid : BitVec 16) : Vector W32 64 :=
  (validLanes valid).foldl (fun m l =>
    let v := (laneOf w l).toNat
    let old : W32 := (m[v]?).getD 0
    if v < 64 then m.setIfInBounds v (if old = 0xFFFFFFFF then old else old + 1) else m) bank

/-- ECOUNT (R430, R431, R343, R344). -/
def execEcount (d : BitVec 2) (a : Src) (st : State) : Out :=
  fireStage st [a] false (fun s e =>
    if passes e.inv then (s, some e.inv)
    else
      let k := siteCore e.site
      let w := srcWord s e a
      let keep := e.inv.valid &&& laneMask fun l => decide ((laneOf w l).toNat < 64)
      let c := coreOf s k
      let s1 := setCore s k { c with
        counters := countLanes c.counters w e.inv.valid, counterOwner := some (c.counterOwner.getD e.cx.owner) }
      let dropped := ((validLanes e.inv.valid).length - (validLanes keep).length)
      let r := moveWord (countAt s1 e.site s.focusStage.toNat 5 dropped) e d a
      (r.1, some { r.2 with valid := keep }))
    fun s e => !passes e.inv && ((coreOf s (siteCore e.site)).counterOwner.any fun o => o != e.cx.owner)

/-! ### Nodes with a first stage of their own -/

/-- The site, if it may fire, with its context (every rule for the first stage starts here). -/
def firstReady (s : State) (x : SiteId) : Option Ctx :=
  match activeCtx s x with
  | none => none
  | some cx => if mayFire s x && (arcOf s x 1).isNone && outsFree s x cx then some cx else none

/-- An invocation enters the arc after stage 1. -/
def enterArc (s : State) (x : SiteId) (v : Inv) : State := noteMove (setArc s x 1 (some v)) x

/-- The invocation of a drain marker. -/
def markerInv : Inv := { kind := 2, seq := 0, eos := false, valid := 0, p := [] }

/-- The invocation of a bundle: its sideband, and word k in P[k]. -/
def bundleInv (ts : List Token) : Inv :=
  let ds := ts.map asData
  match ds with
  | [] => { kind := 0, seq := 0, eos := false, valid := 0, p := [] }
  | h :: _ => { kind := h.kind, seq := h.seq, eos := h.eos, valid := h.valid, p := ds.map (·.lanes) }

/-- BARN's masked ports, lowest first. -/
def barnPorts (l w s e n : Bool) : List Nat :=
  (if n then [0] else []) ++ (if e then [1] else []) ++ (if s then [2] else []) ++ (if w then [3] else []) ++
    (if l then [4] else [])

/-- BARN (R402). -/
def execBarn (l w s e n : Bool) (st : State) : Out :=
  let x := st.focus
  if !siteOk x then .fault .noSuchSite
  else
    match firstReady st x with
    | none => .next st
    | some cx =>
      let ps := barnPorts l w s e n
      let heads := ps.map fun p => headTok st x p (portTrack cx p)
      let bad := (ps.zip heads).find? fun q => q.2.any fun k => k.kind == 0 || k.kind == 1 || k.kind == 6
      match bad with
      | some (p, k) => .next (noteMove (nodeFault st x 3 0 p (portTrack cx p) ((k.map (·.seq.toNat)).getD 0)) x)
      | none =>
        let hs := heads.filterMap id
        let took := ps.foldl (fun u p => consumeTok u x p (portTrack cx p)) st
        if hs.any fun k => k.kind == 3 then .next st
        else if (hs.any fun k => k.kind == 2) && (hs.any fun k => k.kind == 5) then
          .next (noteMove (nodeFault st x 2 0 (ps.headD 0) (portTrack cx (ps.headD 0)) 0) x)
        else if hs.length < ps.length then .next st
        else if hs.any fun k => k.kind == 2 then .next (enterArc took x markerInv)
        else
          .next (enterArc took x
            { kind := 5, seq := ((hs.head?).map (·.seq)).getD 0, eos := true, valid := 0, p := [] })

/-- The primed number of tokens of an input of a node (R53, Table 12.20). -/
def primedCount (s : State) (x : SiteId) (p t : Nat) : Nat :=
  ((placementOf s x).bind fun pl =>
    (pl.primes.find? fun q => q.1 == x && q.2.1.toNat == p && q.2.2.1.toNat == t).map (·.2.2.2)).getD 0

/-- An input of a MERGE presents a bundle that may be taken as data. -/
def mergeOffers (s : State) (x : SiteId) (p t w : Nat) : Option (List Token) :=
  match headBundle s x p t w with
  | none => none
  | some ts => if (ts.head?.any fun k => k.kind == 2 || k.kind == 3) then none else some ts

/-- The head of an input is a drain marker. -/
def markerAt (s : State) (x : SiteId) (p t : Nat) : Bool := (headTok s x p t).any fun k => k.kind == 2

/-- MERGE takes a bundle from port p. -/
def mergeTake (s : State) (x : SiteId) (p t w : Nat) (ts : List Token) (f : Node → Node) : Out :=
  .next (enterArc (modSite (consumeBundle s x p t w) x fun k => { k with node := f k.node }) x (bundleInv ts))

/-- A plain MERGE (R51). -/
def mergePlain (s : State) (x : SiteId) (pa ta pb tb w : Nat) : Out :=
  let takeA (ts : List Token) := mergeTake s x pa ta w ts fun n => { n with turnB := true }
  let takeB (ts : List Token) := mergeTake s x pb tb w ts fun n => { n with turnB := false }
  match mergeOffers s x pa ta w, mergeOffers s x pb tb w with
  | some a, some b => if (siteOf s x).node.turnB then takeB b else takeA a
  | some a, none => takeA a
  | none, some b => takeB b
  | none, none =>
    if markerAt s x pa ta && markerAt s x pb tb then
      .next (enterArc (consumeBundle (consumeBundle s x pa ta w) x pb tb w) x markerInv)
    else .next s

/-- A loop-mode MERGE (R52, R462, R258). -/
def mergeLoop (s : State) (x : SiteId) (pa ta pb tb w : Nat) : Out :=
  let n := (siteOf s x).node
  if markerAt s x pb tb then .next (noteMove (consumeBundle s x pb tb w) x)
  else
    match (mergeOffers s x pb tb w).filter fun ts => !(ts.head?.any fun k => k.kind == 1) with
    | some b => mergeTake s x pb tb w b id
    | none =>
      match mergeOffers s x pa ta w with
      | some a => if n.credits = 0 then .next s else mergeTake s x pa ta w a fun k => { k with credits := k.credits - 1 }
      | none =>
        if markerAt s x pa ta && n.primed = 0 && n.credits = primedCount s x pb tb then
          .next (enterArc (consumeBundle s x pa ta w) x markerInv)
        else .next s

/-- MERGE (R51, R52, R461, R462). -/
def execMerge (a b : Src) (w : BitVec 2) (l : Bool) (st : State) : Out :=
  let x := st.focus
  if !siteOk x then .fault .noSuchSite
  else
    match firstReady st x with
    | none => .next st
    | some cx =>
      let pa := a.toNat - 4
      let pb := b.toNat - 4
      if l then mergeLoop st x pa (portTrack cx pa) pb (portTrack cx pb) w.toNat
      else mergePlain st x pa (portTrack cx pa) pb (portTrack cx pb) w.toNat

/-- The MERGE of a site's context, if it is a loop-mode one: back-edge port and width. -/
def loopMerge (cx : Ctx) : Option (Nat × Nat) :=
  (stageOps cx).findSome? fun i => match i with | .merge _ b w true => some (b.toNat - 4, w.toNat) | _ => none

/-- CREDIT_TAKEN (R52, R462): a primed token, or an initial bundle on the back edge, becomes a credit. -/
def execCreditTaken (site : SiteId) (st : State) : Out :=
  match (activeCtx st site).bind loopMerge with
  | none => .next st
  | some (p, w) =>
    let n := (siteOf st site).node
    let t := ((activeCtx st site).map fun cx => portTrack cx p).getD 0
    if !mayFire st site then .next st
    else if 0 < n.primed then
      .next (noteMove (modSite st site fun k => { k with
        node := { k.node with primed := k.node.primed - 1, credits := k.node.credits + 1 } }) site)
    else if (headBundle st site p t w).any fun ts => ts.head?.any fun k => k.kind == 1 then
      if 15 ≤ n.credits then .next (noteMove (nodeFault st site 3 0 p t 0) site)
      else
        .next (noteMove (modSite (consumeBundle st site p t w) site fun k => { k with
          node := { k.node with credits := k.node.credits + 1 } }) site)
    else .next st

/-! ### ORDR (R47, R48, R472, R473) -/

/-- Words joined: the lanes of v come from the newer ones. -/
def joinWords (old new : List Lanes) (v : BitVec 16) : List Lanes :=
  (List.range 4).map fun j => laneList fun l =>
    if bitOf l v.toNat then laneOf (new[j]?.getD []) l else laneOf (old[j]?.getD []) l

/-- The entries after a fragment has been stored. -/
def ordStore (es : List OrdEntry) (v : Inv) : List OrdEntry :=
  let hole := v.kind == 6
  let lanes := if hole then 0 else v.valid
  match es.find? fun e => e.seq == v.seq with
  | none => es ++ [{ seq := v.seq, words := joinWords [] v.p lanes, valid := lanes, done := v.eos, hole := hole }]
  | some _ => es.map fun e =>
      if e.seq = v.seq then
        { e with words := joinWords e.words v.p lanes, valid := e.valid ||| lanes, done := e.done || v.eos, hole := e.hole || hole }
      else e

/-- The invocation of an emitted entry (R48). -/
def ordInv (e : OrdEntry) : Inv :=
  { kind := if e.hole && e.valid = 0 then 6 else 0, seq := e.seq, eos := true, valid := e.valid, p := e.words }

/-- The entry for NEXT leaves if it is complete; its invalid lanes hold free values (R26). -/
def ordEmit (s : State) (x : SiteId) : Option State :=
  let n := (siteOf s x).node
  match n.pend.find? fun e => e.seq == n.next && e.done with
  | none => none
  | some e =>
    some (enterArc (modSite { s with draws := s.draws + 1 } x fun k => { k with
      node := { k.node with next := n.next + 1, pend := n.pend.filter fun q => !(q.seq == n.next) } }) x
      (freeInv s.draws (ordInv e)))

/-- The fragment at ORDR's input lies within the window of 64 (R47). -/
def ordAhead (n : Node) (seq : BitVec 12) : Nat := (seq - n.next).toNat

/-- ORDR (R47, R48); a control token passes it (log entry 99). -/
def execOrdr (st : State) : Out :=
  let x := st.focus
  if !siteOk x then .fault .noSuchSite
  else
    match firstReady st x with
    | none => .next st
    | some cx =>
      let n := (siteOf st x).node
      let p := primaryPort cx
      match takeFirst st x cx [] false with
      | .wait => .next st
      | .strand q t e => .next (noteMove (nodeFault st x 2 0 q t e) x)
      | .take s1 v _ =>
        if v.kind = 2 then (if n.pend.isEmpty then .next (enterArc s1 x v) else .next st)
        else if v.kind = 5 then .next (enterArc s1 x v)
        else
          let d := ordAhead n v.seq
          let clash := (n.pend.any fun e => e.seq == v.seq && (e.valid &&& v.valid) != 0) && v.kind != 6
          if 2048 ≤ d || (d < 64 && clash) then
            .next (noteMove (nodeFault st x 3 0 p (primaryTrack cx) v.seq.toNat) x)
          else if 64 ≤ d then .next st
          else
            let s2 := modSite s1 x fun k => { k with node := { k.node with pend := ordStore k.node.pend v } }
            .next (if v.seq = n.next then (ordEmit s2 x).getD (noteMove s2 x) else noteMove s2 x)

/-- The input of an ORDR could be taken now. -/
def ordInput (s : State) (x : SiteId) (cx : Ctx) : Bool :=
  match takeFirst s x cx [] false with
  | .take _ v _ => v.kind == 5 || (v.kind != 2 && ordAhead (siteOf s x).node v.seq < 64)
  | _ => false

/-- The context holds an operation. -/
def holdsOp (cx : Ctx) (f : Instr → Bool) : Bool := (stageOps cx).any f

/-- ORDR_INTERNAL_FIRING (R48, R472): an input that could be taken goes first. -/
def execOrdrInternalFiring (site : SiteId) (st : State) : Out :=
  match firstReady st site with
  | none => .next st
  | some cx =>
    if (holdsOp cx fun i => i == .ordr) && !ordInput st site cx then .next ((ordEmit st site).getD st) else .next st

/-! ### PACK (R46, R475, R476) -/

/-- The invocation of a dense bundle of shuttles; what leaves in its other lanes is packEmit's to say. -/
def packInv (n : Node) (ss : List (List W32)) : Inv :=
  { kind := 0, seq := n.next, eos := true, valid := laneMask fun l => decide (l < ss.length),
    p := (List.range 4).map fun j => laneList fun l => ((ss[l]?).bind fun w => w[j]?).getD 0 }

/-- A bundle of the first 16 shuttles leaves; its invalid lanes hold free values (R26). -/
def packEmit (s : State) (x : SiteId) : State :=
  let n := (siteOf s x).node
  enterArc (modSite { s with draws := s.draws + 1 } x fun k => { k with
    node := { k.node with next := n.next + 1, part := n.part.drop 16 } }) x (freeInv s.draws (packInv n (n.part.take 16)))

/-- An input of PACK restarts the 64 cycles (R475). -/
def packHeard (s : State) (x : SiteId) : State :=
  modSite s x fun k => { k with node := { k.node with lastIn := (dieOf s (siteDie x)).cyc } }

/-- PACK (R46, R475, R476); a control token passes it (log entry 99). -/
def execPack (st : State) : Out :=
  let x := st.focus
  if !siteOk x then .fault .noSuchSite
  else
    match firstReady st x with
    | none => .next st
    | some cx =>
      match takeFirst st x cx [] false with
      | .wait => .next st
      | .strand p t q => .next (noteMove (nodeFault st x 2 0 p t q) x)
      | .take s1 v _ =>
        if v.kind = 2 && (siteOf st x).node.part != [] then .next (packEmit st x)
        else if passes v || v.kind = 5 then .next (enterArc (packHeard s1 x) x v)
        else
          let w := primaryWidth cx
          let new := (validLanes v.valid).map fun l => (List.range (w + 1)).map fun j => laneOf (v.p[j]?.getD []) l
          let s2 := modSite (packHeard s1 x) x fun k => { k with node := { k.node with part := k.node.part ++ new } }
          .next (if 16 ≤ (siteOf s2 x).node.part.length then packEmit s2 x else noteMove s2 x)

/-- Every entry port of the site's pattern is closed. -/
def entriesClosed (pl : Placement) : Bool :=
  (List.range pl.ports.length).all fun i => ((pl.ports[i]?).any (·.exit)) || pl.closed.contains i

/-- PACK_TIMEOUT (R46): 64 delivered cycles without an input, or every entry port closed and the input empty. -/
def execPackTimeout (site : SiteId) (st : State) : Out :=
  match firstReady st site with
  | none => .next st
  | some cx =>
    let n := (siteOf st site).node
    let late := decide (n.lastIn + 64 ≤ (dieOf st (siteDie site)).cyc)
    let ended := ((activeAt st site).any entriesClosed) && (headTok st site (primaryPort cx) (primaryTrack cx)).isNone
    if (holdsOp cx fun i => i == .pack) && n.part != [] && (late || ended) then .next (packEmit st site) else .next st

/-! ### GEN (R444, R445) -/

/-- Lane l of GEN for invocation j. -/
def genLane (s : State) (cx : Ctx) (o j : Nat) (slice hi : Bool) (l : Nat) : W32 :=
  let k (i : Nat) : Nat := ((cx.ks[i]?).getD 0).toNat
  let b := if slice then (((findSlice s cx.owner).map (·.wid.toNat)).getD 0) else k 1 * 2 ^ 32 + k 0
  let id := (b + (16 * j + l) * 2 ^ o) % 2 ^ 64
  BitVec.ofNat 32 (if hi then id / 2 ^ 32 else id)

/-- The first GEN of a context: an invocation while 16j < N, or its own drain marker once the region drains. -/
def genFirst (st : State) (d : BitVec 2) (slice hi : Bool) : Out :=
  let x := st.focus
  match firstReady st x with
  | none => .next st
  | some cx =>
    let n := (siteOf st x).node
    let count := ((cx.ks[2]?).getD 0).toNat
    let pl := activeAt st x
    if pl.any (·.draining) then
      if n.turnB then .next st
      else .next (enterArc (modSite st x fun k => { k with node := { k.node with turnB := true } }) x markerInv)
    else if count ≤ 16 * n.j then .next st
    else
      let s1 := modSite st x fun k => { k with
        node := { k.node with j := n.j + 1, closed := decide (count ≤ 16 * n.j + 16) } }
      let v : Inv := { kind := 0, seq := BitVec.ofNat 12 n.j, eos := true,
                       valid := laneMask fun l => decide (16 * n.j + l < count), p := [[], [], [], []], gen := n.j }
      .next (enterArc s1 x (putP v d (laneList (genLane st cx n.offset n.j slice hi))))

/-- GEN (R445): in a later stage it computes for the invocation that passes. -/
def execGen (d : BitVec 2) (s h : Bool) (_k : BitVec 3) (st : State) : Out :=
  if !siteOk st.focus then .fault .noSuchSite
  else if st.focusStage = 1 then genFirst st d s h
  else fireStage st [] false fun u e =>
    if passes e.inv then (u, some e.inv)
    else
      (u, some (putP e.inv d (laneList (genLane u e.cx (siteOf u e.site).node.offset e.inv.gen s h))))

/-! ### TOPK (R514, R515) -/

/-- Pair a ranks before pair b. -/
def ranksBefore (a b : W32 × W32) : Bool :=
  let x := num32 a.1
  let y := num32 b.1
  if isNan x && isNan y then decide (a.2.toNat < b.2.toNat)
  else if isNan x then false
  else if isNan y then true
  else ltNum y x || (eqNum x y && decide (a.2.toNat < b.2.toNat))

/-- A pair put into a ranked list. -/
def rankInsert (a : W32 × W32) : List (W32 × W32) → List (W32 × W32)
  | [] => [a]
  | b :: t => if ranksBefore a b then a :: b :: t else b :: rankInsert a t

/-- The tokens a row ends in; where no rank exists a lane holds a free value (R26). -/
def topkTokens (draw : Nat) (d : BitVec 2) (scores : Bool) (k : Nat) (row : List (W32 × W32)) (seq : BitVec 12) : List Inv :=
  let n := (k + 15) / 16
  (List.range n).map fun j =>
    let v : Inv := { kind := 0, seq := seq, eos := decide (j + 1 = n),
                     valid := laneMask fun l => decide (16 * j + l < row.length), p := [[], [], [], []] }
    putP v d (laneList fun l =>
      ((row[16 * j + l]?).map fun q => if scores then q.1 else q.2).getD (Config.freeLane draw (16 * j + l)))

/-- TOPK (R514, R515); a control token passes it (log entry 99). -/
def execTopk (d : BitVec 2) (a b : Src) (s : Bool) (st : State) : Out :=
  let x := st.focus
  if !siteOk x then .fault .noSuchSite
  else
    match firstReady st x with
    | none => .next st
    | some cx =>
      let n := (siteOf st x).node
      let k := (((cx.ks[0]?).getD 0).toNat) % 128
      if n.emit != [] then .next st
      else
        match takeFirst st x cx [a, b] false with
        | .wait => .next st
        | .strand p t q => .next (noteMove (nodeFault st x 2 0 p t q) x)
        | .take s1 v ports =>
          if v.kind = 2 then (if n.rowOpen then .next st else .next (enterArc s1 x v))
          else if v.kind = 5 then .next (enterArc s1 x v)
          else
            let e : StageEnv := { site := x, cx := cx, inv := v, ports := ports }
            let pairs := if v.kind = 6 then [] else
              (validLanes v.valid).map fun l => (srcLane s1 e a l, srcLane s1 e b l)
            let row := (pairs.foldl (fun r q => rankInsert q r) n.row).take k
            let node : Node := if v.eos then { n with row := [], rowOpen := false, emit := topkTokens st.draws d s k row v.seq }
              else { n with row := row, rowOpen := true }
            .next (noteMove (modSite { s1 with draws := s1.draws + 1 } x fun q => { q with node := node }) x)

/-- TOPK_EMIT (R515). -/
def execTopkEmit (site : SiteId) (st : State) : Out :=
  match firstReady st site with
  | none => .next st
  | some _ =>
    match (siteOf st site).node.emit with
    | [] => .next st
    | v :: t => .next (enterArc (modSite st site fun k => { k with node := { k.node with emit := t } }) site v)

end Sys2Proof.Machine
end

