-- ==== Sys2Proof/Machine/Region.lean ====
section
/-!
DEFINITION. Regions (R23, R53, R55 to R65, R69, R221, R255 to R259, R275, R276, R414 to R419): quiescence, completion,
deadlock, freezing, activation of a context, discard, the block scheduler, wavefronts and draining, with the steps that
take them.
-/
namespace Sys2Proof.Machine

/-! ### Placements -/

/-- The placement of a context number at an origin. -/
def placementAt (s : State) (o : SiteId) (k : BitVec 2) : Option Placement :=
  s.placements.find? fun p => p.origin == o && p.ctx == k

/-- The active placement at an origin. -/
def activeRegion (s : State) (o : SiteId) : Option Placement := s.placements.find? fun p => p.origin == o && p.active

/-- The state with a placement changed. -/
def modPlacement (s : State) (o : SiteId) (k : BitVec 2) (f : Placement → Placement) : State :=
  { s with placements := s.placements.map fun p => if p.origin = o && p.ctx = k then f p else p }

/-- The sites of a placement. -/
def Placement.sites (p : Placement) : List SiteId := rectSites p.origin p.rows p.cols

/-- The delivered cycles of the lead curator's die. -/
def leadCyc (s : State) (p : Placement) : Nat := (dieOf s (siteDie p.origin)).cyc

/-- The single sites and tracks of a port. -/
def portTracks (q : Port) : List (SiteId × Nat) :=
  (List.range (q.width.toNat + 1)).map fun k => trackAt q.site (q.track.toNat + k)

/-- The key of an entry port's queue on one of its tracks: the queue belongs to the port's context. Log entry 19. -/
def entryKey (ctx : BitVec 2) (p : Nat) (xt : SiteId × Nat) : Nat :=
  (xt.1.toNat + 2 ^ 14 * (ctx.toNat + 1)) * 128 + p * 8 + xt.2

/-- The queues of an entry port, one per track. -/
def entryQueues (s : State) (pl : Placement) (q : Port) : List (List Token) :=
  (portTracks q).map fun xt => (chanOf s (entryKey pl.ctx q.port.toNat xt)).slots

/-- The entry ports of a placement with their numbers. -/
def entryPorts (pl : Placement) : List (Nat × Port) :=
  (List.range pl.ports.length).filterMap fun i =>
    match pl.ports[i]? with
    | some q => if q.exit then none else some (i, q)
    | none => none

/-- The exit ports of a placement with their numbers. -/
def exitPorts (pl : Placement) : List (Nat × Port) :=
  (List.range pl.ports.length).filterMap fun i =>
    match pl.ports[i]? with
    | some q => if q.exit then some (i, q) else none
    | none => none

/-- Tokens an entry port's queue holds per track. Log entry 19. -/
def entryCapacity : Nat := 4

/-- Every track of an entry port's queue has room. -/
def queueRoomAt (s : State) (pl : Placement) (q : Port) : Bool :=
  (entryQueues s pl q).all fun l => decide (l.length < entryCapacity)

/-- Tokens on their way to an entry port from outside the region: they wait there while it admits nothing. -/
def arriving (s : State) (pl : Placement) (q : Port) : List Token :=
  match (portTracks q).head? with
  | some xt =>
    ((chanOf s (chanKey xt.1 q.port.toNat xt.2)).flight.filter fun f => !(rectSites pl.origin pl.rows pl.cols).contains f.2.1).map (·.1)
  | none => []

/-- Shuttles waiting at a placement's entry queues, counted as valid lanes (R61); at the active one also those that a neighbouring
region has sent. -/
def waiting (s : State) (pl : Placement) : Nat :=
  ((entryPorts pl).map fun e =>
    (((entryQueues s pl e.2).headD [] ++ (if pl.active then arriving s pl e.2 else [])).map fun k =>
      (validLanes k.valid).length).sum).sum

/-- No bundle waits in an entry queue. -/
def queuesEmpty (s : State) (pl : Placement) : Bool :=
  (entryPorts pl).all fun e => (entryQueues s pl e.2).all (·.isEmpty)

/-- Slices that watch a region are candidates again (R486). -/
def wakeRegion (s : State) (o : SiteId) : State :=
  { s with slices := s.slices.map fun l => if l.watch = some (.region o) then { l with woken := true } else l }

/-- Slices that watch a track of a site's L output are candidates again (R429). -/
def wakeOutput (s : State) (x : SiteId) (t : Nat) : State :=
  { s with slices := s.slices.map fun l =>
      if l.watch = some (.output x (BitVec.ofNat 2 t)) then { l with woken := true } else l }

/-! ### Contexts and their inputs -/

/-- Context k of a site. -/
def ctxAt (s : State) (x : SiteId) (k : BitVec 2) : Option Ctx := ((siteOf s x).ctxs[k.toNat]?).getD none

/-- Role input r of a tile context: port, track and width (Table 9.1). -/
def roleIn (cx : Ctx) (r : Nat) : Nat × Nat × Nat :=
  (bitsAt (8 * r + 5) 3 cx.input.toNat, bitsAt (8 * r + 2) 3 cx.input.toNat, bitsAt (8 * r) 2 cx.input.toNat)

/-- The MERGE of a context: ports and width. -/
def mergeOf (cx : Ctx) : Option (Nat × Nat × Nat) :=
  (stageOps cx).findSome? fun i => match i with | .merge a b w _ => some (a.toNat - 4, b.toNat - 4, w.toNat) | _ => none

/-- The width less one of the bundle a context reads at an input. -/
def inputWidth (cx : Ctx) (p t : Nat) : Nat :=
  if cx.kind = 2 then
    ((List.range 4).findSome? fun r =>
      let q := roleIn cx r
      if q.1 = p && q.2.1 = t then some q.2.2 else none).getD 0
  else
    match mergeOf cx with
    | some (a, b, w) => if p = a || p = b then w else 0
    | none => if primaryPort cx = p && primaryTrack cx = t then primaryWidth cx else 0

/-- The sources the first stage of a context names, and whether it takes a carry. -/
def firstSources (cx : Ctx) : List Src × Bool :=
  ((((stageOps cx).head?).map usedSources).getD [], (carryOf cx).2)

/-- The input tracks a context reads (R64). -/
def inputsOf (cx : Ctx) : List (Nat × Nat) :=
  if cx.kind = 2 then
    (List.range 4).flatMap fun r =>
      let q := roleIn cx r
      if q.1 = 7 || ((cx.ewords[r]?).getD 0).toNat / 2 ^ 25 = 0 then [] else (List.range (q.2.2 + 1)).map fun j => (q.1, q.2.1 + j)
  else
    match mergeOf cx with
    | some (a, b, w) =>
      ((List.range (w + 1)).map fun j => (a, portTrack cx a + j)) ++
        (List.range (w + 1)).map fun j => (b, portTrack cx b + j)
    | none =>
      match (stageOps cx).findSome? fun i => match i with | .barn l w s e n => some (barnPorts l w s e n) | _ => none with
      | some ps => ps.map fun p => (p, portTrack cx p)
      | none => firstInputs cx (firstSources cx).1 (firstSources cx).2

/-- The tracks a placement primes with initial tokens, and how many each; a loop-mode MERGE's back edge holds credits
instead (R53, R462). -/
def primeSlots (s : State) (pl : Placement) : List (SiteId × Nat × Nat × Nat) :=
  pl.primes.flatMap fun q =>
    match ctxAt s q.1 pl.ctx with
    | none => []
    | some cx =>
      if (loopMerge cx).any fun m => m.1 == q.2.1.toNat then []
      else
        (List.range (inputWidth cx q.2.1.toNat q.2.2.1.toNat + 1)).map fun j =>
          let xt := trackAt q.1 (q.2.2.1.toNat + j)
          (xt.1, q.2.1.toNat, xt.2, q.2.2.2)

/-- The credits a placement primes at a site's loop-mode MERGE. -/
def primeCredits (s : State) (pl : Placement) (x : SiteId) : Nat :=
  match ctxAt s x pl.ctx with
  | none => 0
  | some cx =>
    match loopMerge cx with
    | none => 0
    | some m => ((pl.primes.find? fun q => q.1 == x && q.2.1.toNat == m.1).map (·.2.2.2)).getD 0

/-! ### The statistics network (R146 to R148, R506, R507) -/

/-- The STAT of a context: whether it is the root. -/
def statOf (cx : Ctx) : Option Bool := (stageOps cx).findSome? fun i => match i with | .stat r => some r | _ => none

/-- The innermost scope level of a mask, 0 for none. -/
def innerLevel (m : BitVec 8) : Nat := if bitOf 2 m.toNat then 3 else if bitOf 1 m.toNat then 2 else if bitOf 0 m.toNat then 1 else 0

/-- The sites of a placement that hold a STAT satisfying ok. -/
def statSites (s : State) (pl : Placement) (ok : Ctx → Bool → Bool) : Option SiteId :=
  pl.sites.find? fun x => (ctxAt s x pl.ctx).any fun cx => (statOf cx).any (ok cx)

/-- The root of a placement's statistics tree. -/
def statRoot (s : State) (pl : Placement) : Option SiteId := statSites s pl fun _ r => r

/-- Where counts from a scope mask go, levels from k down: the STAT of the innermost level that has one, else the root. -/
def statTarget (s : State) (pl : Placement) (mask : BitVec 8) : Nat → Option SiteId
  | 0 => statRoot s pl
  | k + 1 =>
    if bitOf k mask.toNat then
      match statSites s pl fun cx r => !r && innerLevel cx.scope == k + 1 with
      | some y => some y
      | none => statTarget s pl mask k
    else statTarget s pl mask k

/-- Counts arrive at an adder node. -/
def addStats (s : State) (y : SiteId) (counts : List Nat) : State :=
  modSite s y fun k => if k.statDead then k else { k with adder := sumCounts k.adder counts }

/-- The counts of an engine bound to a region's port, where one is not zero, go out as a statistics token for its root; without one
they are discarded (R146, R506). -/
def reportStats (s : State) (pl : Placement) (counts : List Nat) (seq : BitVec 12) : State :=
  match statRoot s pl with
  | some y => if counts.any (· ≠ 0) then modSite s y fun q => { q with tiles := q.tiles ++ [statToken counts seq] } else s
  | none => s

/-- The counts of a stream go to the root of its region. -/
def reportStream (s : State) (t : Stream) (pl : Placement) : State := reportStats s pl t.stats t.seq

/-- A converter's oldest statistics token goes to its adder, or is discarded where the region has no root (R146, R506). -/
def sendTile (s : State) (pl : Placement) (x : SiteId) : State :=
  match (siteOf s x).tiles with
  | [] => s
  | k :: rest =>
    let s1 := modSite s x fun q => { q with tiles := rest }
    let mask := ((ctxAt s x pl.ctx).map (·.scope)).getD 0
    match (statRoot s pl).bind fun _ => statTarget s pl mask 3 with
    | some y => addStats s1 y (tokenCounts k)
    | none => s1

/-- A non-root STAT sends its sums on (R147, R506). -/
def sendSums (s : State) (pl : Placement) (x : SiteId) : State :=
  match ctxAt s x pl.ctx with
  | none => s
  | some cx =>
    let k := siteOf s x
    if statOf cx ≠ some false || !(k.adder.any (· ≠ 0)) then s
    else
      let s1 := modSite s x fun q => { q with adder := [] }
      match statTarget s pl cx.scope (innerLevel cx.scope - 1) with
      | some y => addStats s1 y k.adder
      | none => s1

/-- The 64-byte record with totals added, lanes 0 to 6, and the rest zero (R147). -/
def recordPlus (counts : List Nat) (old : Nat) : Nat :=
  ((List.range 7).map fun i => min 0xFFFFFFFF (bitsAt (32 * i) 32 old + counts[i]?.getD 0) * 2 ^ (32 * i)).sum

/-- The root adds its totals into the record in memory, or faults and is dead until its context is activated again (R507). It
waits while a command is bound to the backing it writes (R228, R342), or the deferred list is full (R273). -/
def rootRecord (st : State) (x : SiteId) (cx? : Option Ctx) : State :=
  match cx? with
  | none => st
  | some cx =>
    let k := siteOf st x
    let kk (i : Nat) : W32 := (cx.ks[i]?).getD 0
    let va := (kk 0).toNat + (kk 1).toNat % 2 ^ 24 * 2 ^ 32
    let dead (u : State) (f : Flt) : State :=
      match sendRecord u (nodeRecord 1 cx.owner [kk 0, kk 1] 0 f) with
      | none => st
      | some v => modSite v x fun q => { q with adder := [], statDead := true }
    if statOf cx ≠ some true || !(k.adder.any (· ≠ 0)) || k.statDead then st
    else
      match findSlice st cx.owner with
      | none => st
      | some l =>
        let here : Word := BitVec.ofNat 64 va
        let w := whoSlice st l (siteDie x)
        if va % 64 ≠ 0 then dead st { cause := 0x03, addr := here }
        else if backingHeld st w none va 64 then st
        else
          match engAtomic st w { acc := .engWrite, hidden := true, fmt := plainFmt } va 64
              (recordPlus k.adder) with
          | .error f => dead st f
          | .ok (s1, _, true) => dead s1 { cause := 0x13, addr := here }
          | .ok (s1, _, false) => modSite s1 x fun q => { q with adder := [] }

/-- Every count of a region is delivered: tiles are ended where they stand, and the sums go inward to the record. A region does so
when it is drained or saved after a fault, when its contexts change and when it is discarded (R148); while its record cannot be written, the
turn waits. Log entry 24. -/
def flushStats (s : State) (pl : Placement) : State :=
  let xs := pl.sites
  let s1 := xs.foldl (fun u x => (siteOf u x).stats.foldl (fun v e => closeTile v x e.1) u) s
  let s2 := xs.foldl (fun u x => (siteOf u x).tiles.foldl (fun v _ => sendTile v pl x) u) s1
  let s3 := ([3, 2, 1] : List Nat).foldl (fun u k =>
    xs.foldl (fun v x => if (ctxAt v x pl.ctx).any (fun cx => innerLevel cx.scope == k) then sendSums v pl x else v) u) s2
  match statRoot s3 pl with
  | none => s3
  | some y =>
    let s4 := rootRecord s3 y (ctxAt s3 y pl.ctx)
    let left := (siteOf s4 y).adder.any (· ≠ 0) && !(siteOf s4 y).statDead && (findSlice s4 pl.owner).isSome
    { s4 with stall := s4.stall || left }

/-! ### Quiescence (R55) -/

/-- Initial tokens an input track holds when quiet. -/
def primedAt (ps : List (SiteId × Nat × Nat × Nat)) (x : SiteId) (p t : Nat) : Nat :=
  ((ps.find? fun q => q.1 == x && q.2.1 == p && q.2.2.1 == t).map (·.2.2.2)).getD 0

/-- Tokens that hold quiet off: data, drain markers, control tokens and HOLEs (R55). -/
def busyToken (k : Token) : Bool := k.kind == 0 || k.kind == 2 || k.kind == 5 || k.kind == 6

/-- A channel at a site of the region holds no such token, and on a primed input its primed number of initial tokens. Tokens on
the way to an entry port that admits nothing belong to their source. -/
def chanQuiet (s : State) (pl : Placement) (ps : List (SiteId × Nat × Nat × Nat)) (x : SiteId) (p t : Nat) (c : Chan) :
    Bool :=
  let held := pl.stopped && (portAt s false x p t).isSome && c.flight.all fun f => !(pl.sites.contains f.2.1)
  (held || c.flight.all fun f => !busyToken f.1) && c.slots.all (fun k => !busyToken k) &&
    (primedAt ps x p t == 0 || (c.slots.filter fun k => k.kind == 1).length == primedAt ps x p t)

/-- Every statistics token of a region has been sent, every sum has gone inward, and the root has written its record or discards
(R146, R147, R507). -/
def statsSent (s : State) (pl : Placement) : Bool :=
  pl.sites.all fun x =>
    let k := siteOf s x
    k.tiles.isEmpty && (k.statDead || k.adder.all fun n => n == 0)

/-- A site's node holds nothing: arcs, buffers and windows empty, ORDR, PACK and SPFIFO without what makes them not quiet (R473,
R476), no operation of a memory element or tile outstanding, a loop-mode MERGE at its primed credits. -/
def nodeQuiet (s : State) (pl : Placement) (x : SiteId) : Bool :=
  let k := siteOf s x
  let n := k.node
  k.arcs.toList.all (·.isNone) && n.pend.isEmpty && n.part.isEmpty && n.emit.isEmpty && n.side2.isNone &&
    k.win.isEmpty && k.fifo.isEmpty && k.tile.shadowState != .loading &&
    k.tile.drain.isNone && !k.tile.drainDue && n.primed + n.credits == primeCredits s pl x

/-- The channels that end at a site of a list, with their place. -/
def chansAt (s : State) (xs : List SiteId) : List (SiteId × Nat × Nat × Chan) :=
  s.chans.filterMap fun e =>
    let x : SiteId := BitVec.ofNat 14 (e.1 / 128)
    if e.1 / 128 < 2 ^ 14 && xs.contains x then some (x, e.1 / 8 % 16, e.1 % 8, e.2) else none

/-- A stream engine has an operation of the region outstanding: a stream that feeds an entry port which admits, or one that has
lanes of a bundle still to add (R55, R485). -/
def streamBusy (pl : Placement) (t : Stream) : Bool :=
  t.origin == pl.origin && t.ctx == pl.ctx && t.faulted.isNone &&
    (match pl.ports[t.port]? with | some q => if q.exit then !t.lanes.isEmpty else !pl.stopped | none => false)

/-- A region is quiet (R55). -/
def regionQuiet (s : State) (pl : Placement) : Bool :=
  let xs := pl.sites
  let ps := primeSlots s pl
  (chansAt s xs).all (fun e => chanQuiet s pl ps e.1 e.2.1 e.2.2.1 e.2.2.2) &&
    ps.all (fun q => ((chanOf s (chanKey q.1 q.2.1 q.2.2.1)).slots.filter fun k => k.kind == 1).length == q.2.2.2) &&
    xs.all (nodeQuiet s pl) && (pl.stopped || queuesEmpty s pl) && !(s.streams.any (streamBusy pl))

/-- A site is quiet, for SITE_STATE. -/
def siteQuiet (s : State) (x : SiteId) : Bool :=
  match activeAt s x with
  | none => (chansAt s [x]).all fun e => e.2.2.2.slots.isEmpty && e.2.2.2.flight.isEmpty
  | some pl =>
    let ps := primeSlots s pl
    (chansAt s [x]).all (fun e => chanQuiet s pl ps e.1 e.2.1 e.2.2.1 e.2.2.2) && nodeQuiet s pl x

/-- The quiescence tree has reported, and the region is still quiet; one with a node fault is on its way to a freeze (R275). -/
def reportedQuiet (s : State) (pl : Placement) : Bool := pl.quiet && !pl.frozen && pl.faultSite.isNone && regionQuiet s pl

/-- The GEN nodes of a region have closed (R445). -/
def gensClosed (s : State) (pl : Placement) : Bool :=
  pl.sites.all fun x =>
    match ctxAt s x pl.ctx with
    | none => true
    | some cx => !(holdsOp cx fun i => match i with | .gen _ _ _ _ => true | _ => false) || (siteOf s x).node.closed

/-- QUIET_REPORT (R55). -/
def execQuietReport (origin : SiteId) (st : State) : Out :=
  match activeRegion st origin with
  | none => .next st
  | some pl =>
    if pl.quiet || pl.frozen || pl.faultSite.isSome || !regionQuiet st pl then .next st
    else .next (wakeRegion (modPlacement st origin pl.ctx fun p => { p with quiet := true }) origin)

/-- The exit of another region that feeds an entry port has closed, and everything it sent has been taken in (R56). -/
def upstreamClosed (s : State) (pl : Placement) (q : Port) : Bool :=
  match neighbour q.site q.port.toNat with
  | none => false
  | some y =>
    let u := trackAt q.site q.track.toNat
    match portAt s true y (facing q.port.toNat) u.2 with
    | none => false
    | some (pl2, j) =>
      pl2.origin != pl.origin && pl2.closed.contains j &&
        (portTracks q).all fun xt => (chanOf s (chanKey xt.1 q.port.toNat xt.2)).flight.isEmpty

/-- An entry port closes. -/
def closePort (s : State) (pl : Placement) (i : Nat) : State :=
  modPlacement s pl.origin pl.ctx fun p => { p with closed := setInsert p.closed i, sources := p.sources.erase i }

/-- The exit ports of a region close; who draws from one is told. -/
def closeExits (s : State) (pl : Placement) : State :=
  let s1 := modPlacement s pl.origin pl.ctx fun p => { p with
    complete := true, closed := (exitPorts pl).foldl (fun m e => setInsert m e.1) p.closed }
  (exitPorts pl).foldl (fun u e => (portTracks e.2).foldl (fun v xt => wakeOutput v xt.1 xt.2) u) (wakeRegion s1 pl.origin)

/-- REGION_COMPLETION (R56); the statistics record is then as R507 says it is read. -/
def execRegionCompletion (origin : SiteId) (st : State) : Out :=
  match activeRegion st origin with
  | none => .next st
  | some pl =>
    if pl.complete || pl.armed.isSome || !reportedQuiet st pl || !entriesClosed pl || !gensClosed st pl ||
        !queuesEmpty st pl || !statsSent st pl then .next st
    else .next (closeExits st pl)

/-! ### Freezing (R58, R275, R276) -/

/-- A site holds a token it cannot fire or write. -/
def siteBlocked (s : State) (x : SiteId) : Bool :=
  let k := siteOf s x
  (chansAt s [x]).any (fun e => !e.2.2.2.slots.isEmpty) || k.arcs.toList.any (·.isSome) || k.node.side2.isSome ||
    !k.node.emit.isEmpty || !k.win.isEmpty || !k.fifo.isEmpty || !k.node.pend.isEmpty || !k.node.part.isEmpty

/-- A region freezes: no site fires, and the curators record its blocked nodes. -/
def freezeRegion (s : State) (pl : Placement) : State :=
  let marks := pl.sites.map fun x => (x, siteBlocked s x)
  let s1 := marks.foldl (fun u m => modSite u m.1 fun k => { k with frozen := true, blocked := m.2 }) s
  wakeRegion (modPlacement s1 pl.origin pl.ctx fun p => { p with frozen := true, quiet := false }) pl.origin

/-- NODE becomes pending at the owner of a region's active context. -/
def raiseNode (s : State) (pl : Placement) (x : SiteId) : State :=
  let w := (siteOf s x).fault.toNat
  match findSlice s pl.owner with
  | none => s
  | some l =>
    if !liveSlice l then s
    else
      let c := coreOf s l.core
      setCore s l.core { c with
        pendNode := c.pendNode ++
          [{ site := x, catid := fieldOf 16 48 w, kind := fieldOf 8 0 w, slice := pl.owner }] }

/-- NODE_FAULT (R275): a node faults on its own account (Table 8.6). -/
def execNodeFault (site : SiteId) (kind : BitVec 8) (stage port track : BitVec 3) (seq : BitVec 12) (st : State) : Out :=
  let k := siteOf st site
  if !siteOk site || !k.on || k.frozen || kind = 0 || 7 < kind.toNat then .next st
  else .next (nodeFault st site kind.toNat stage.toNat port.toNat track.toNat seq.toNat)

/-- NODE_RAISE (R276): 64 cycles without movement after a node fault. -/
def execNodeRaise (origin : SiteId) (st : State) : Out :=
  match activeRegion st origin with
  | none => .next st
  | some pl =>
    match pl.faultSite with
    | none => .next st
    | some x =>
      if pl.raised || leadCyc st pl < pl.lastMove + 64 then .next st
      else
        .next (modPlacement (raiseNode (freezeRegion st pl) pl x) origin pl.ctx fun p => { p with raised := true })

/-- A memory element or stream of the region has a request outstanding to memory (R57): an access not granted, lanes to add, or a
stream whose port has room for what it reads. -/
def memoryBusy (s : State) (pl : Placement) : Bool :=
  pl.sites.any (fun x => (siteOf s x).win.any (fun e => e.accs.any fun a => !a.granted)) ||
    s.streams.any fun t => streamBusy pl t &&
      (match pl.ports[t.port]? with | some q => q.exit || queueRoomAt s pl q | none => false)

/-- The deadlock count of an active region is suspended (R57). -/
def countSuspended (s : State) (pl : Placement) : Bool := pl.active && (regionQuiet s pl || memoryBusy s pl)

/-- The deadlock counts after the time of a step: where one is suspended it starts again from zero (R57). -/
def countsPass (s : State) : State :=
  { s with placements := s.placements.map fun p => if countSuspended s p then { p with countFrom := leadCyc s p } else p }

/-- DEADLOCK_DETECTED (R57, R58). -/
def execDeadlockDetected (origin : SiteId) (st : State) : Out :=
  match activeRegion st origin with
  | none => .next st
  | some pl =>
    if pl.frozen || pl.faultSite.isSome || leadCyc st pl < max pl.lastMove pl.countFrom + 65536 || countSuspended st pl then
      .next st
    else
      let s1 := modSite st origin fun k => { k with fault := faultWord pl.catid.toNat 0 0 0 0 6 }
      .next (modPlacement (raiseNode (freezeRegion s1 pl) pl origin) origin pl.ctx fun p => { p with
        raised := true, faultSite := some origin })

/-! ### Activation (R53, R60, R69) -/

/-- The node of a context that becomes active. -/
def freshNode (s : State) (pl : Placement) (x : SiteId) (cx : Ctx) : Node :=
  let k (i : Nat) : Nat := ((cx.ks[i]?).getD 0).toNat
  let gen := (stageOps cx).findSome? fun i => match i with | .gen _ _ _ f => some f.toNat | _ => none
  { next := if holdsOp cx (fun i => i == .ordr || i == .pack) then BitVec.ofNat 12 (k 0) else 0
    lastIn := (dieOf s (siteDie x)).cyc
    primed := primeCredits s pl x
    offset := match gen with
      | some f => shapeOffset (((findSlice s cx.owner).map (·.widShape)).getD 0) f
      | none => 0
    closed := gen.isSome && k 2 == 0 }

/-- A site takes a context: counters at their initial values, the node fresh, a new configuration period. Statistics tokens that
wait to be sent stay. -/
def enterSite (s : State) (pl : Placement) (x : SiteId) : State :=
  let c := ctxAt s x pl.ctx
  modSite s x fun k => { k with
    act := pl.ctx, on := true, cs := (c.map (·.cs)).getD [], arcs := Vector.replicate 6 none
    node := (c.map (freshNode s pl x)).getD {}
    win := [], fifo := [], fault := 0, frozen := false, blocked := false, stats := [], adder := [], statDead := false
    swgLast := [], swgHold := [] }

/-- The input tracks of a site lose the tokens of a context that leaves; tokens on their way stay. -/
def clearInputs (s : State) (x : SiteId) : State :=
  (chansAt s [x]).foldl (fun u e => if e.2.1 < 5 then modChan u (chanKey e.1 e.2.1 e.2.2.1) fun c => { c with slots := [] } else u) s

/-- Initial tokens are placed on the tracks of a list. -/
def putPrimes (s : State) (ps : List (SiteId × Nat × Nat × Nat)) : State :=
  ps.foldl (fun u q => modChan u (chanKey q.1 q.2.1 q.2.2.1) fun c => { c with
    slots := c.slots ++ List.replicate q.2.2.2 initialTok }) s

/-- The placement once its context is active: a new period; after a completion its ports are open again. -/
def freshPlacement (s : State) (p : Placement) : Placement :=
  { p with
    active := true, stopped := false, draining := false, drainOwn := false, armed := none, injected := [], frozen := false, raised := false
    faultSite := none, preempt := none, admitted := [], markersOut := [], quiet := false, lastMove := leadCyc s p, countFrom := leadCyc s p
    activeSince := leadCyc s p, dropReported := false, complete := false
    closed := if p.complete then [] else p.closed
    sources := if p.complete then [] else p.sources }

/-- Placements inside a rectangle are no longer active. -/
def deactivate (s : State) (pl : Placement) : State :=
  { s with placements := s.placements.map fun p =>
      if p.active && p.sites.any pl.sites.contains && !(p.origin == pl.origin && p.ctx == pl.ctx) then
        { p with active := false, preempt := none, lastUsed := leadCyc s p } else p }

/-- The active placements that share a site with one deliver their counts (R148). -/
def flushOver (s : State) (pl : Placement) : State :=
  (s.placements.filter fun p => p.active && p.sites.any pl.sites.contains).foldl flushStats s

/-- A region that is active and spans a lost die freezes with LOST_SITE (R288). -/
def freezeLost (s : State) (pl : Placement) : State :=
  match pl.sites.find? fun x => (dieOf s (siteDie x)).lost with
  | some x => freezeRegion (nodeFault s x 7 0 0 0 0) pl
  | none => s

/-- A placement's context becomes active at every site in one cycle (R60). -/
def activate (s : State) (pl : Placement) : State :=
  let s1 := modPlacement (deactivate (flushOver s pl) pl) pl.origin pl.ctx (freshPlacement s)
  let s2 := pl.sites.foldl clearInputs s1
  freezeLost (putPrimes (pl.sites.foldl (fun u x => enterSite u pl x) s2) (primeSlots s2 pl)) pl

/-! ### Discard (R276, R416, R433) -/

/-- Commands leave their engines with nothing more read or written: those of the numbers given (R433). -/
def dropCommands (s : State) (orders : List Nat) : State :=
  let ops (l : List RowOp) : List RowOp := l.filter fun o => !orders.contains o.cmd.order
  if orders.isEmpty then s
  else
    { s with engines := s.engines.map fun e => (e.1, { e.2 with
        queue := e.2.queue.filter fun c => !orders.contains c.order
        rowWait := ops e.2.rowWait, rowLocks := ops e.2.rowLocks, forward := ops e.2.forward }) }

/-- The streams and gathers bound to a placement's ports end, their counts reported. -/
def endBound (s : State) (pl : Placement) : State :=
  let mine := s.streams.filter fun t => t.origin == pl.origin && t.ctx == pl.ctx
  let s1 := if pl.active then mine.foldl (fun u t => reportStream u t pl) s else s
  dropCommands { s1 with streams := s1.streams.filter fun t => !(t.origin == pl.origin && t.ctx == pl.ctx) }
    (mine.map (·.cmd.order))

/-- A placement is discarded: its contexts, its tokens if it is active, its queues and the streams and gathers bound to it. Its counts
are delivered first (R148, R433). -/
def discardPlacement (st : State) (pl : Placement) : State :=
  let s0 := endBound st pl
  let s := if pl.active then flushStats s0 pl else s0
  let xs := pl.sites
  let s1 := xs.foldl (fun u x => modSite u x fun k =>
    let k1 : Site := { k with ctxs := k.ctxs.setIfInBounds pl.ctx.toNat none }
    if pl.active then
      { k1 with
        on := false, arcs := Vector.replicate 6 none, node := {}, win := [], fifo := [], frozen := false, cs := []
        stats := [], tiles := [], adder := [], swgLast := [], swgHold := []
        tile := { k1.tile with
          shadowState := if k1.tile.shadowState = .loading then .empty else k1.tile.shadowState
          swapPending := false, drain := none, drainDue := false } }
    else k1) s
  let mine (e : Nat × Chan) : Bool :=
    let z := e.1 / 128
    let x : SiteId := BitVec.ofNat 14 z
    xs.contains x && ((pl.active && z < 2 ^ 14) || z / 2 ^ 14 == pl.ctx.toNat + 1)
  wakeRegion { s1 with
    chans := s1.chans.filter fun e => !mine e
    placements := s1.placements.filter fun p => !(p.origin == pl.origin && p.ctx == pl.ctx) } pl.origin

/-! ### Markers and draining (R257, R258, R426) -/

/-- A token of a kind enters every track of an entry port ahead of what is on its way there. -/
def injectPort (s : State) (q : Port) (k : Token) : State :=
  (portTracks q).foldl (fun u xt => modChan u (chanKey xt.1 q.port.toNat xt.2) fun c => { c with
    flight := (k, q.site, true) :: c.flight }) s

/-- A drain marker. -/
def markerTok : Token := { kind := 2, seq := 0, eos := false, valid := 0, lanes := [] }

/-- Admission stops, and one drain marker enters each entry port; a region that drains already is left alone. own tells that DRAIN
asks. -/
def startDrain (s : State) (pl : Placement) (own : Bool) : State :=
  if pl.draining then s
  else
    (entryPorts pl).foldl (fun u e => injectPort u e.2 markerTok)
      (modPlacement s pl.origin pl.ctx fun p => { p with
        stopped := true, draining := true, drainOwn := own, markersOut := [], quiet := false })

/-- Markers have left every exit, and the region is quiet. -/
def drained (s : State) (pl : Placement) : Bool :=
  pl.draining && reportedQuiet s pl && (exitPorts pl).all fun e => pl.markersOut.contains e.1

/-- Admission resumes with tokens and counters unchanged (R417). -/
def resumeAdmission (s : State) (pl : Placement) : State :=
  let s1 := modPlacement s pl.origin pl.ctx fun p => { p with
    stopped := false, draining := false, drainOwn := false, markersOut := [], quiet := false, lastMove := leadCyc s pl }
  pl.sites.foldl (fun u x => modSite u x fun k => { k with
    node := if (ctxAt s x pl.ctx).any (fun cx => holdsOp cx fun i => match i with | .gen _ _ _ _ => true | _ => false)
      then { k.node with turnB := false } else k.node }) s1

/-- The boundary port has admitted a multiple of the boundary count (R255). -/
def atBoundary (pl : Placement) : Bool :=
  let n := (tblGet pl.admitted pl.bport).getD 0
  pl.bport != 0xFF && decide (0 < pl.bcount) && decide (0 < n) && n % pl.bcount == 0

/-- LAYER_BOUNDARY_DRAIN (R257): at the boundary, or where the pattern declares none when the block scheduler would leave
it; not while a wavefront is in flight, nor in split mode (R256). -/
def execLayerBoundaryDrain (origin : SiteId) (st : State) : Out :=
  match activeRegion st origin with
  | none => .next st
  | some pl =>
    let due := if pl.bport = 0xFF then waiting st pl == 0 || decide (pl.activeSince + 4096 ≤ leadCyc st pl) else atBoundary pl
    if pl.preempt.isNone || pl.draining || pl.frozen || pl.armed.isSome || (dieOf st (siteDie pl.origin)).docent.split || !due then
      .next st
    else .next (startDrain st pl false)

/-! ### The block scheduler (R61, R62) -/

/-- The owner of a pattern is there and does not retire. -/
def ownerStays (s : State) (p : Placement) : Bool := (findSlice s p.owner).any fun l => liveSlice l && l.state != .retiring

/-- The bound patterns of a region that have shuttles waiting: those of the rectangle whose owners live and do not retire. -/
def boundHere (s : State) (pl : Placement) : List Placement :=
  s.placements.filter fun p => p.origin == pl.origin && p.rows == pl.rows && p.cols == pl.cols && p.bound && !p.frozen && ownerStays s p &&
    ((findSlice s p.owner).any fun l => l.state != .swapped) && (decide (0 < waiting s p) || p.saved)

/-- The pattern with the most shuttles waiting; ties go to the lower catalogue identifier. -/
def bestPattern (s : State) (ps : List Placement) : Option Placement :=
  ps.foldl (fun b p =>
    match b with
    | none => some p
    | some q =>
      if waiting s q < waiting s p || (waiting s q == waiting s p && decide (p.catid.toNat < q.catid.toNat)) then some p
      else some q) none

/-- The block scheduler stops admission to leave the pattern. -/
def leavePattern (s : State) (pl : Placement) : State :=
  modPlacement s pl.origin pl.ctx fun p => { p with stopped := true, quiet := false }

/-- The block scheduler acts on this region: nothing else holds it, and its owner does not retire. -/
def schedulerFree (s : State) (pl : Placement) : Bool :=
  !pl.draining && !pl.frozen && pl.preempt.isNone && pl.armed.isNone && pl.bound && ownerStays s pl

/-- BLOCK_SCHEDULER_CHOICE (R61, R62): it leaves a pattern whose entry count has come to zero; once quiet, a pattern it left and
now chooses again goes on. Log entry 20. -/
def execBlockSchedulerChoice (origin : SiteId) (st : State) : Out :=
  match activeRegion st origin with
  | none => .next st
  | some pl =>
    if !schedulerFree st pl then .next st
    else if pl.stopped then
      if reportedQuiet st pl && (bestPattern st (boundHere st pl)).any fun b => b.ctx == pl.ctx then
        .next (modPlacement (resumeAdmission st pl) origin pl.ctx fun p => { p with activeSince := leadCyc st pl })
      else .next st
    else if waiting st pl = 0 && !pl.admitted.isEmpty then .next (leavePattern st pl)
    else .next st

/-- QUANTUM_EXPIRY (R62): a pattern is left after 4,096 cycles. -/
def execQuantumExpiry (origin : SiteId) (st : State) : Out :=
  match activeRegion st origin with
  | none => .next st
  | some pl =>
    if schedulerFree st pl && !pl.stopped && decide (pl.activeSince + 4096 ≤ leadCyc st pl) then .next (leavePattern st pl)
    else .next st

/-! ### Wavefronts (R63 to R65) -/

/-- A configuration token that names a context number. -/
def configTok (k : BitVec 2) : Token := { kind := 3, seq := 0, eos := true, valid := 0, lanes := [k.zeroExtend 32] }

/-- WAVEFRONT_INJECT (R63, R419): an armed port whose source has closed and whose last bundle has passed. -/
def execWavefrontInject (origin : SiteId) (port : BitVec 8) (st : State) : Out :=
  match activeRegion st origin with
  | none => .next st
  | some pl =>
    match pl.armed, pl.ports[port.toNat]? with
    | some k, some q =>
      if q.exit || pl.frozen || pl.injected.contains port.toNat || !pl.closed.contains port.toNat ||
          !((entryQueues st pl q).all (·.isEmpty)) then .next st
      else
        .next (modPlacement (injectPort st q (configTok k)) origin pl.ctx fun p => { p with
          injected := setInsert p.injected port.toNat, quiet := false })
    | _, _ => .next st

/-- Every entry port has injected its configuration token. -/
def allInjected (pl : Placement) : Bool := (entryPorts pl).all fun e => pl.injected.contains e.1

/-- A context matches its inputs token for token: a lone operand beside a configuration token or marker is stranded. -/
def matchesInputs (cx : Ctx) : Bool := cx.kind != 2 && (mergeOf cx).isNone

/-- The tracks a context writes. -/
def outTracks (cx : Ctx) : List (Nat × Nat) :=
  ((outSels cx).flatMap (selTracks cx)) ++ (if (carryOf cx).1 then [(1, 3)] else [])

/-- The wavefront's last site has switched: the new pattern is the region's active one, and a pre-emption mark goes on to it
(R257). -/
def finishWave (s : State) (pl : Placement) (k : BitVec 2) : State :=
  if pl.sites.all fun x => (siteOf s x).act == k then
    { s with placements := s.placements.map fun p =>
        if p.origin = pl.origin && p.ctx = pl.ctx then
          { p with active := false, armed := none, injected := [], lastUsed := leadCyc s p }
        else if p.origin = pl.origin && p.ctx = k then { freshPlacement s p with preempt := pl.preempt } else p }
  else s

/-- A site takes the new context of a wavefront. -/
def waveSite (s : State) (pl t : Placement) (x : SiteId) : State :=
  let s0 := enterSite (flushStats s pl) t x
  let s1 := if siteKind x = 2 then enterSite s0 t (x + 128) else s0
  let s2 := putPrimes s1 ((primeSlots s1 t).filter fun q => anchorOf q.1 == x)
  finishWave (noteMove s2 x) pl t.ctx

/-- The head of an input is a configuration token; of those that name context k. -/
def configAt (s : State) (x : SiteId) (k : Option (BitVec 2)) (i : Nat × Nat) : Bool :=
  (headTok s x i.1 i.2).any fun h => h.kind == 3 && k.all fun n => laneOf h.lanes 0 == n.zeroExtend 32

/-- Everything before a configuration token has left a site (R64, R258). -/
def siteIdle (s : State) (pl : Placement) (x : SiteId) (cx : Ctx) : Bool :=
  let n := siteOf s x
  n.arcs.toList.all (·.isNone) && n.node.pend.isEmpty && n.node.part.isEmpty && n.node.emit.isEmpty && n.node.side2.isNone &&
    n.win.isEmpty && n.fifo.isEmpty && n.tile.shadowState != .loading && n.tile.drain.isNone &&
    (loopMerge cx).all fun _ => n.node.primed + n.node.credits == primeCredits s pl x

/-- WAVEFRONT_SITE_SWITCH (R64, R65): the whole site switches once its stages are empty. A loop-mode MERGE switches on the token at
its entry, as R258 says for drain markers, and does not wait for its back edge, which the token reaches only through it; a token
that comes round to a site that has switched is consumed without effect. Log entry 21. -/
def execWavefrontSiteSwitch (site : SiteId) (st : State) : Out :=
  match activeAt st site with
  | none => .next st
  | some pl =>
    let n := siteOf st site
    let due := pl.armed.filter fun k => n.act != k
    let ins := ((ctxAt st site n.act).map inputsOf).getD []
    let stray (i : Nat × Nat) : Bool := configAt st site none i && !(due.isSome && configAt st site due i)
    if lowerRow site || n.frozen then .next st
    else
      match ins.find? stray, due.bind fun k => placementAt st pl.origin k, due with
      | some i, _, _ => .next (noteMove (consumeTok st site i.1 i.2) site)
      | none, some t, some k =>
        match ctxAt st site n.act with
        | none => if allInjected pl then .next (waveSite st pl t site) else .next st
        | some cx =>
          let entry : List (Nat × Nat) := match loopMerge cx with
            | some m => ins.filter fun i => i.1 != m.1
            | none => ins
          let lone (i : Nat × Nat) : Bool := (headTok st site i.1 i.2).any fun h => h.kind != 3
          match (if matchesInputs cx && ins.any (configAt st site due) then ins.find? lone else none) with
          | some i =>
            .next (noteMove (nodeFault st site 2 0 i.1 i.2 (((headTok st site i.1 i.2).map (·.seq.toNat)).getD 0)) site)
          | none =>
            let outs := outTracks cx
            if !(entry.all (configAt st site due)) || (ins.isEmpty && !allInjected pl) || !siteIdle st pl site cx ||
                !outs.all (nodeOutFree st site) then .next st
            else
              let s1 := entry.foldl (fun u i => consumeTok u site i.1 i.2) st
              let s2 := emitAll s1 site (outs.map fun o => (o.1, o.2, configTok k))
              .next (waveSite s2 pl t site)
      | none, _, _ => .next st

end Sys2Proof.Machine
end

