-- ==== Sys2Proof/Machine/Score.lean ====
section
/-!
DEFINITION. Stream records, KV structures and score adds (R168 to R170, R175, R182, R183, R309, R310, R583, Tables 5.5 and 9.5):
the fields of a record, the pages of a cache, the lane of a score add, and the record of a command's fault.
-/
namespace Sys2Proof.Machine

/-! ### Stream records (R168 to R170, Table 5.5) -/

/-- A field of a stream record: word, lowest bit, width. -/
def Cmd.field (c : Cmd) (w lo n : Nat) : Nat := bitsAt lo n (recWord c.payload w)

/-- BASE. -/
def Cmd.base (c : Cmd) : Nat := c.field 0 0 56
/-- KIND: 0 affine read, 1 affine write, 2 gather, 3 chase, 4 score add. -/
def Cmd.kind (c : Cmd) : Nat := c.field 0 56 4
/-- COUNT0 to COUNT3. -/
def Cmd.count (c : Cmd) (i : Nat) : Nat := c.field 1 (16 * i) 16
/-- STRIDE0 to STRIDE3. -/
def Cmd.stride (c : Cmd) (i : Nat) : Int := (BitVec.ofNat 32 (c.field (2 + i / 2) (32 * (i % 2)) 32)).toInt
/-- LANEFORM. -/
def Cmd.form (c : Cmd) : Nat := c.field 4 0 4
/-- WIDTH. -/
def Cmd.width (c : Cmd) : Nat := c.field 4 4 2
/-- PORT. -/
def Cmd.portNo (c : Cmd) : Nat := c.field 4 8 8
/-- SEQ0. -/
def Cmd.seq0 (c : Cmd) : Nat := c.field 4 16 12
/-- INDEX. -/
def Cmd.index (c : Cmd) : Nat := c.field 5 0 56
/-- LIMIT. -/
def Cmd.limit (c : Cmd) : Nat := c.field 6 0 32
/-- The sync word of a stream record, if it has one. -/
def Cmd.sync (c : Cmd) : Option Nat := if c.field 4 28 1 = 1 then some (tagPa (c.field 4 32 24)) else none
/-- A kind that takes bundles from an exit port. -/
def Cmd.takes (c : Cmd) : Bool := c.kind == 1 || c.kind == 4

/-- Elements an affine stream visits. -/
def Cmd.total (c : Cmd) : Nat := c.count 0 * c.count 1 * c.count 2 * c.count 3

/-- The element number, counted from BASE, of visit k of an affine stream (R170). -/
def Cmd.visit (c : Cmd) (k : Nat) : Int :=
  let i0 := k % c.count 0
  let i1 := k / c.count 0 % c.count 1
  let i2 := k / (c.count 0 * c.count 1) % c.count 2
  let i3 := k / (c.count 0 * c.count 1 * c.count 2) % c.count 3
  i0 * c.stride 0 + i1 * c.stride 1 + i2 * c.stride 2 + i3 * c.stride 3

/-- The address of element i from a base, in elements of e bytes. -/
def elemVa (base e : Nat) (i : Int) : Nat := ((base + e * i) % 2 ^ 64).toNat

/-- The ranges an affine stream visits: its runs where STRIDE0 is 1, else its elements. -/
def Cmd.visited (c : Cmd) : List (Nat × Nat) :=
  if c.stride 0 = 1 then
    (List.range (c.count 1 * c.count 2 * c.count 3)).map fun j => (elemVa c.base c.esize (c.visit (j * c.count 0)), c.esize * c.count 0)
  else (List.range c.total).map fun k => (elemVa c.base c.esize (c.visit k), c.esize)

/-- Index idx of a gather, read once (R172): its value, none where it visits nothing: negative, at or above LIMIT, poisoned, or on an
annex page that is not written. -/
def gatherIndex (s : State) (w : Who) (c : Cmd) (idx : Nat) : Except Flt (State × Option Nat) :=
  let va := c.index + 4 * idx
  match engReadNat s w { acc := .engRead, annex := true } va 4 with
  | .error f => .error f
  | .ok (s1, x, bad) =>
    if bad && c.strict then .error { cause := 0x13, addr := BitVec.ofNat 64 va }
    else .ok (s1, if bad || 2 ^ 31 ≤ x || c.limit ≤ x || annexBlank s1 w va false then none else some x)

/-! ### KV descriptors (R309, R583, Table 9.5) -/

/-- A KV descriptor. -/
structure KvDesc where
  head : Nat
  tail : Nat
  free : Nat
  next : Nat
  entry : Nat
  sink : Nat
  window : Nat
deriving DecidableEq, Repr

/-- The descriptor of 64 bytes. -/
def kvDesc (bs : List Byte) : KvDesc :=
  let f (o lo n : Nat) : Nat := bitsAt lo n (recWord bs o)
  { head := f 0 0 56, tail := f 1 0 56, free := f 2 0 56, next := f 3 0 48, entry := f 4 0 16, sink := f 4 16 16, window := f 5 0 48 }

/-- A descriptor is not malformed (R583). -/
def kvOk (bs : List Byte) : Bool :=
  let w := recWord bs
  let e := (kvDesc bs).entry
  zeroAt 56 8 (w 0) && zeroAt 56 8 (w 1) && zeroAt 56 8 (w 2) && zeroAt 48 16 (w 3) && zeroAt 32 32 (w 4) && zeroAt 48 16 (w 5) &&
    w 6 == 0 && w 7 == 0 && e % 64 == 0 && decide (64 ≤ e) && decide (e ≤ 8192)

/-! ### Score adds (R175) -/

/-- A KV page's header, read by an engine (R310). -/
structure KvPage where
  next : Nat
  first : Nat
  vcount : Nat
  pvalid : Nat
  score : Nat
deriving DecidableEq, Repr

/-- The header of 64 bytes. -/
def kvPage (bs : List Byte) : KvPage :=
  let f (o lo n : Nat) : Nat := bitsAt lo n (recWord bs o)
  { next := f 0 0 56, first := f 1 0 48, vcount := f 1 48 7, pvalid := f 2 0 64, score := f 3 0 56 }

/-- Bytes of a KV structure read, by a stream engine from the annex too (R182); in strict mode poison is a fault. -/
def kvRead (s : State) (w : Who) (strict : Bool) (a : Acc) (va n : Nat) : Except Flt (State × List Byte) :=
  match engRead s w { acc := a, setD := false, annex := w.readsAnnex } va n with
  | .error f => .error f
  | .ok (s1, bs, bad) => if strict && bad.any id then .error { cause := 0x13, addr := BitVec.ofNat 64 va } else .ok (s1, bs)

/-- Fuel of a walk along a chain: more pages than there are addresses for them, so only a chain that runs in a circle uses it up. The
walk of such a chain does not end: the turn waits. -/
def chainFuel : Nat := 2 ^ 57

/-- The page from va on that a position reaches, with its header: the first whose positions end beyond it; none at the end of the
chain, or where it leads into an annex page that is not written (R183). -/
def seekPage (w : Who) (strict : Bool) (p : Nat) : Nat → State → Nat → Except Flt (State × Option (Nat × KvPage))
  | 0, s, _ => .ok ({ s with stall := true }, none)
  | f + 1, s, va =>
    if va = 0 then .ok (s, none)
    else
      match kvRead s w strict .engRead va 64 with
      | .error e => .error e
      | .ok (s1, bs) =>
        let h := kvPage bs
        if annexBlank s1 w va false then .ok (s1, none)
        else if h.first + 64 ≤ p then seekPage w strict p f s1 h.next else .ok (s1, some (va, h))

/-- The pages of a chain from one on, with their headers, as far as they can be read; nothing is changed. -/
def peekChain (w : Who) : Nat → State → Nat → List (Nat × KvPage)
  | 0, _, _ => []
  | f + 1, s, va =>
    if va = 0 then []
    else
      match kvRead s { w with checked := false } false .engRead va 64 with
      | .error _ => []
      | .ok (_, bs) => (va, kvPage bs) :: peekChain w f s (kvPage bs).next

/-- The score arrays of a cache: where a score add writes (R228, R229). -/
def scorePlaces (s : State) (w : Who) (va : Nat) : List (Nat × Nat) :=
  match kvRead s { w with checked := false } false .engRead va 64 with
  | .error _ => []
  | .ok (_, bs) => (peekChain w chainFuel s (kvDesc bs).head).filterMap fun q => if q.2.score = 0 then none else some (q.2.score, 256)

/-- The ranges a stream writes. -/
def streamDest (s : State) (c : Cmd) (e : EngineId) : List (Nat × Nat) :=
  match c.kind with
  | 1 => c.visited
  | 4 => scorePlaces s (whoEngine c e) c.base
  | _ => []

/-- Where the search for a position begins: the page of the lane before, or HEAD, also where the lane before has run off the chain. Log
entry 57. -/
def scoreStart (s : State) (w : Who) (c : Cmd) (head last p : Nat) : Except Flt (State × Nat) :=
  if last = 0 then .ok (s, head)
  else
    match kvRead s w c.strict .engRead last 64 with
    | .error e => .error e
    | .ok (s1, bs) => .ok (s1, if p < (kvPage bs).first then head else last)

/-- One weight added; a NaN gives the canonical NaN. -/
def addScore (old w : Nat) : Nat := (rne32 (addNum .rne (decodeIeee fp32 old) (decodeIeee fp32 w))).toNat

/-- One lane of a score add, with its arrival where the record names a sync word (R166); the add waits while a command is bound to the
backing of its word (R228). -/
def scoreLane (s : State) (t : Stream) (p : Nat) (wt : W32) : Except Flt (State × Stream) :=
  let c := t.cmd
  let w := whoEngine c t.eng
  let drop (u : State) (page : Nat) : Except Flt (State × Stream) :=
    .ok (u, { t with page := page, stats := addCount t.stats 5 1 })
  match kvRead s w c.strict .engRead c.base 64 with
  | .error e => .error e
  | .ok (s1, ds) =>
    match (if annexBlank s1 w c.base false then .ok (s1, 0) else scoreStart s1 w c (kvDesc ds).head t.page p) with
    | .error e => .error e
    | .ok (s2, va) =>
      match seekPage w c.strict p chainFuel s2 va with
      | .error e => .error e
      | .ok (s3, none) => drop s3 0
      | .ok (s3, some (page, h)) =>
        if p < h.first || !bitOf (p - h.first) h.pvalid || h.score = 0 then drop s3 page
        else
          let a := h.score + 4 * (p - h.first)
          let s4 := if backingHeld s3 w (some c.order) a 4 then { s3 with stall := true } else s3
          match engAtomic s4 w { acc := .engWrite, hidden := true, fmt := fun f => f == 0 || f == 1 } a 4 (fun old => addScore old wt.toNat) c.sync with
          | .error e => .error e
          | .ok (_, _, true) => .error { cause := 0x13, addr := BitVec.ofNat 64 a }
          | .ok (s5, _, false) => .ok (s5, { t with page := page })

/-! ### Records of faults (R272, R273) -/

/-- A record of a command leaves its engine for its slice's core, or stays held (R273). -/
def postRecord (s : State) (e : EngineId) (r : DeferRec) : State :=
  match sendRecord s r with
  | some s1 => s1
  | none => modEngine s e fun k => { k with held := some r }

/-- The state with a stream replaced, and last in line. -/
def putStream (s : State) (t : Stream) : State :=
  { s with streams := (s.streams.filter fun u => u.cmd.order != t.cmd.order) ++ [t] }

/-- A stream stops at a fault and holds its port: its record is posted, its counts go to the root, and what it writes is not to be
published (R176, R203). -/
def stopStream (s : State) (t : Stream) (f : Flt) (progress : Nat) : State :=
  let r := cmdRecord t.cmd progress f
  let s1 := postRecord (putStream s { t with faulted := some r, started := true }) t.eng r
  let s2 := match placementAt s1 t.origin t.ctx with | some pl => reportStream s1 t pl | none => s1
  modSlice s2 t.cmd.slice fun l => { l with faulted := l.faulted ++ streamDest s t.cmd t.eng }

/-- The lanes a score add has taken are added one after another (R260). -/
def finishLanes (s : State) (t : Stream) : List (W32 × W32) → State
  | [] => putStream s { t with lanes := [] }
  | (p, wt) :: ls =>
    match scoreLane s t p.toNat wt with
    | .error f => stopStream s { t with lanes := [] } f t.done
    | .ok (s1, t1) => finishLanes s1 { t1 with done := t.done + 1 } ls

/-- The stream engines finish what they have taken from a region (R242, R260): the adds of lanes in hand. Codes of an F8C block that
is not whole stay with their stream. Log entry 95. -/
def finishStreams (s : State) (pl : Placement) : State :=
  (s.streams.filter fun t => t.origin == pl.origin && t.ctx == pl.ctx && t.faulted.isNone && !t.lanes.isEmpty).foldl
    (fun u t => finishLanes u t t.lanes) s

end Sys2Proof.Machine
end

