-- ==== Sys2Proof/Machine/Scratch.lean ====
section
/-!
DEFINITION. Memory elements (R154, R157 to R164, R455, R456, R497, R498, R500, R501, R503): accepting tokens, bank grants and
responses, lock tokens, SPFIFO and SPSYNC, with the steps ME_TOKEN_ACCEPT, BANK_GRANT, ME_RESPONSE and LOCK_TIMEOUT.
-/
namespace Sys2Proof.Machine

/-- The number of the memory element at a site. -/
def elementOf (x : SiteId) : Nat := siteRow x % 8

/-- The scratchpad address of element offset o of memory element n of a core (R154). -/
def elementPa (c : CoreId) (n o : Nat) : Nat := scratchPa c (n * 0x80000 + o)

/-- An element offset the fabric may use (R157). -/
def offsetOk (o : Nat) : Bool := decide (o < 0x80000) && o % 4 == 0

/-- The output selection of a number, if it is enabled. -/
def selOf (cx : Ctx) (i : Nat) : List OutSel := ((cx.outs[i]?).map outSel).toList.filter (·.en)

/-- The tokens that selection i writes for an invocation. -/
def selWrites (cx : Ctx) (i : Nat) (v : Inv) : List (Nat × Nat × Token) :=
  withCopies cx ((selOf cx i).flatMap fun o => selTokens o (invHead v) v.p)

/-- A bundle kept as four tokens of one head. -/
def invTokens (v : Inv) : List Token := (List.range 4).map fun j => { invHead v with lanes := v.p[j]?.getD [] }

/-- The invocation of four tokens. -/
def tokensInv (ts : List Token) : Inv :=
  match ts with
  | [] => { kind := 0, seq := 0, eos := false, valid := 0, p := [] }
  | h :: _ => { kind := h.kind, seq := h.seq, eos := h.eos, valid := h.valid, p := ts.map (·.lanes) }

/-- A marker that waits at the element's input leaves by every enabled output once every earlier response has left (R258). -/
def passMarker (st s1 : State) (x : SiteId) (cx : Ctx) (v : Inv) : Out :=
  let k := siteOf st x
  let ts := selWrites cx 0 v ++ selWrites cx 1 v
  if k.win.isEmpty && k.fifo.isEmpty && canEmit st x ts then .next (noteMove (emitAll s1 x ts) x) else .next st

/-- A token is accepted at the focus (R158, R498): the accesses of its lanes are entered, dropped lanes cleared and counted,
and the request forwarded on selection 1. A control token waits until every access before it has performed (R231). `acc` tells
whether the operation accesses lanes; without a word to read or write it holds the bundle only. -/
def meAccept (st : State) (srcs : List Src) (acc : Bool) (a b : Src) : Out :=
  let x := st.focus
  if !siteOk x then .fault .noSuchSite
  else
    match activeCtx st x with
    | none => .next st
    | some cx =>
      if !mayFire st x || 32 ≤ (siteOf st x).win.length then .next st
      else
        match takeFirst st x cx srcs false with
        | .wait => .next st
        | .strand p t q => .next (noteMove (nodeFault st x 2 0 p t q) x)
        | .take s1 v ports =>
          if v.kind = 2 then passMarker st s1 x cx v
          else if v.kind = 5 && (siteOf st x).win.any fun e => e.accs.any fun g => !g.granted then .next st
          else
            let fwd := selWrites cx 1 v
            if !canEmit st x fwd then .next st
            else
              let e : StageEnv := { site := x, cx := cx, inv := v, ports := ports }
              let off (l : Nat) : Nat := (srcLane s1 e a l).toNat
              let lanes := if v.kind = 6 || !acc then [] else validLanes v.valid
              let good := lanes.filter fun l => offsetOk (off l)
              let valid := if acc && v.kind != 6 then v.valid &&& laneMask fun l => offsetOk (off l) else v.valid
              let entry : MeEntry :=
                { bundle := invTokens v
                  accs := good.map fun l => { lane := l, offset := off l, operand := srcLane s1 e b l }
                  words := [], valid := valid, serial := s1.serial
                  done := if good.isEmpty then some s1.serial else none }
              let s2 := countAt (emitAll s1 x fwd) x 1 5 (lanes.length - good.length)
              .next (noteMove { (modSite s2 x fun k => { k with win := k.win ++ [entry] }) with serial := s1.serial + 1 } x)

/-- SPLD (R497): the lanes are read as banks grant them. -/
def execSpld (_d : BitVec 2) (a : Src) (_t : Bool) (st : State) : Out := meAccept st [a] true a a

/-- SPST (R497). -/
def execSpst (_d : BitVec 2) (a b : Src) (_t : Bool) (st : State) : Out := meAccept st [a, b] true a b

/-- SPAMO (R497). -/
def execSpamo (_d : BitVec 2) (a b : Src) (_t : Bool) (_p : BitVec 3) (st : State) : Out := meAccept st [a, b] true a b

/-- SPSYNC (R503): the bundle is held. -/
def execSpsync (_s : BitVec 3) (st : State) : Out := meAccept st [] false 0 0

/-! ### SPFIFO (R500, R501) -/

/-- The scratchpad address of token k of ring place i. -/
def fifoPa (x : SiteId) (cx : Ctx) (i k : Nat) : Nat :=
  elementPa (siteCore x) (elementOf x) (((cx.ks[0]?).getD 0).toNat + (i * (primaryWidth cx + 1) + k) * 64)

/-- The lanes of a token as bytes. -/
def laneBytes (w : Lanes) : List Byte := (laneList (laneOf w)).flatMap fun v => leBytes 4 v.toNat

/-- Lanes read from bytes. -/
def bytesLanes (bs : List Byte) : Lanes := laneList fun l => BitVec.ofNat 32 (leNat ((bs.drop (4 * l)).take 4))

/-- SPFIFO (R501): a bundle of any kind is taken while fewer than D are held; its lanes go to the store, in whole
lines. -/
def execSpfifo (st : State) : Out :=
  let x := st.focus
  if !siteOk x then .fault .noSuchSite
  else
    match activeCtx st x with
    | none => .next st
    | some cx =>
      let depth := ((cx.ks[1]?).getD 0).toNat
      let k := siteOf st x
      match headBundle st x (primaryPort cx) (primaryTrack cx) (primaryWidth cx) with
      | none => .next st
      | some ts =>
        if !mayFire st x || depth ≤ k.fifo.length || (ts.any fun q => q.kind == 3) then .next st
        else
          let s1 := consumeBundle st x (primaryPort cx) (primaryTrack cx) (primaryWidth cx)
          let i := k.node.j % depth
          let s2 := (List.range ts.length).foldl (fun u j =>
            { u with
              mem := memWrite u.mem (fifoPa x cx i j) (laneBytes ((ts[j]?.map (·.lanes)).getD []))
              poison := u.poison.erase (lineOf (fifoPa x cx i j)) }) s1
          .next (noteMove (modSite s2 x fun n => { n with
            fifo := n.fifo ++ [ts], node := { n.node with j := n.node.j + 1 } }) x)

/-- The lines of an SPFIFO's place that are poisoned. -/
def fifoPoison (s : State) (x : SiteId) (cx : Ctx) (i n : Nat) : List Nat :=
  ((List.range n).map (fifoPa x cx i)).filter fun pa => s.poison.contains (lineOf pa)

/-- The oldest bundle of an SPFIFO leaves, its lanes read from the store; a poisoned line drops every lane of its bundle, whose
words share one VALID (R27, R278), and leaves free values in them (R26). -/
def fifoLeave (st : State) (x : SiteId) (cx : Ctx) : State :=
  let k := siteOf st x
  let depth := ((cx.ks[1]?).getD 0).toNat
  match k.fifo with
  | [] => st
  | ts :: rest =>
    let i := (k.node.j - k.fifo.length) % depth
    let head := (ts[0]?).getD { kind := 0, seq := 0, eos := false, valid := 0, lanes := [] }
    let bad := if head.kind = 0 || head.kind = 5 then fifoPoison st x cx i ts.length else []
    let now := (List.range ts.length).map fun j =>
      let h := (ts[j]?).getD head
      let w := bytesLanes (memBytes st.mem (fifoPa x cx i j) 64)
      { h with
        valid := if bad.isEmpty then h.valid else 0
        lanes := if h.kind = 0 || h.kind = 5 then (if bad.isEmpty then w else freeInvalid st.draws j 0 w) else [] }
    let v := tokensInv (now ++ List.replicate (4 - now.length)
      { kind := 0, seq := 0, eos := false, valid := 0, lanes := [] })
    let out := (selWrites cx 0 v).map fun q => (q.1, q.2.1,
      if v.kind = 0 || v.kind = 5 then q.2.2 else { q.2.2 with kind := v.kind })
    let s1 := bad.foldl (fun u pa => countUe u (siteDie x) pa) { st with draws := st.draws + 1 }
    let s2 := if bad.isEmpty then s1 else countAt s1 x 1 5 (validLanes head.valid).length
    if mayFire st x && canEmit st x out then
      noteMove (endTile (modSite (emitAll s2 x out) x fun n => { n with fifo := rest }) x 1 v.eos v.seq) x
    else st

/-! ### Banks -/

/-- The first access that waits for a bank, as place in the window and the access: the older token first, then the lower
lane (R158). -/
def nextAccess (win : List MeEntry) (bank : Nat) : Option (Nat × LaneAcc) :=
  (List.range win.length).findSome? fun i =>
    (win[i]?).bind fun e => (e.accs.find? fun a => !a.granted && a.offset / 64 % 16 == bank).map fun a => (i, a)

/-- A window entry after a lane's access has been granted: its word, or the lane dropped. -/
def grantLane (e : MeEntry) (a : LaneAcc) (v : Option W32) (serial : Nat) : MeEntry :=
  let accs := e.accs.map fun b => if b.lane = a.lane then { b with granted := true } else b
  { e with
    accs := accs
    words := match v with | some w => e.words ++ [(a.lane, w)] | none => e.words
    valid := if v.isNone then e.valid &&& ~~~ BitVec.ofNat 16 (2 ^ a.lane) else e.valid
    done := if accs.all (·.granted) then some serial else e.done }

/-- What a granted access does: the word read and the word written. -/
def laneEffect (op : Instr) (old operand : W32) : Option (Option W32) :=
  match op with
  | .spld _ _ _ => some none
  | .spst _ _ _ _ => some (some operand)
  | .spamo _ _ _ _ p => some (some (BitVec.ofNat 32 (amoOp 4 p.toNat old.toNat operand.toNat)))
  | _ => none

/-- BANK_GRANT (R158, R159, R278): one lane access performs; a poisoned word read drops its lane. -/
def execBankGrant (site : SiteId) (bank : BitVec 4) (st : State) : Out :=
  match activeCtx st site with
  | none => .next st
  | some cx =>
    match (stageOps cx).head?, nextAccess (siteOf st site).win bank.toNat with
    | some op, some (i, a) =>
      if siteKind site != 1 || dieGone st (siteDie site) then .next st
      else
        let pa := elementPa (siteCore site) (elementOf site) a.offset
        let old : W32 := BitVec.ofNat 32 (memNat st.mem pa 4)
        let reads := match op with | .spst _ _ _ _ => false | _ => true
        let bad := reads && st.poison.contains (lineOf pa)
        let s1 := if bad then countAt (countUe st (siteDie site) pa) site 1 5 1
          else
            match laneEffect op old a.operand with
            | some (some new) => wakeSync { st with mem := memWrite st.mem pa (leBytes 4 new.toNat) } (pa / 16 * 16)
            | _ => st
        .next (noteMove { (modSite s1 site fun k => { k with
          win := (List.range k.win.length).filterMap fun j => (k.win[j]?).map fun e =>
            if j = i then grantLane e a (if bad then none else some old) s1.serial else e }) with serial := s1.serial + 1 } site)
    | _, _ => .next st

/-- Every access a memory element has accepted performs (R260): at most 32 tokens of 16 lanes. -/
def finishElement (s : State) (x : SiteId) : State :=
  if siteKind x != 1 then s
  else
    (List.range 512).foldl (fun u _ =>
      match (List.range 16).find? fun b => (nextAccess (siteOf u x).win b).isSome with
      | none => u
      | some b => match execBankGrant x (BitVec.ofNat 4 b) u with | .next v => v | _ => u) s

/-! ### Responses -/

/-- The sites of a placement that lie in scope level k (R221). -/
def levelSites (s : State) (pl : Placement) (k : Nat) : List SiteId :=
  pl.sites.filter fun y => (ctxAt s y pl.ctx).any fun cx => bitOf (k - 1) cx.scope.toNat

/-- A memory element lies in the scope of a code, as SPSYNC at site x sees it (R503); an undeclared level acts as code 4. -/
def inScope (s : State) (x : SiteId) (code : Nat) (y : SiteId) : Bool :=
  let core := siteCore y == siteCore x
  match code with
  | 0 => y == x
  | 4 => core
  | 5 => siteDie y == siteDie x
  | 6 => true
  | 7 => true
  | k =>
    match activeAt s x with
    | none => core
    | some pl =>
      if pl.scopes.contains k then (levelSites s pl k).contains y else core

/-- Every access accepted in the scope before a number has performed. -/
def scopeDone (s : State) (x : SiteId) (code n : Nat) : Bool :=
  s.sites.all fun e =>
    !inScope s x code (BitVec.ofNat 14 e.1) || e.2.win.all fun w => decide (n ≤ w.serial) || w.accs.all (·.granted)

/-- The operation answers in completion order. -/
def tagged (op : Instr) : Bool :=
  match op with | .spld _ _ t => t | .spst _ _ _ t => t | .spamo _ _ _ t _ => t | _ => false

/-- The entry whose response leaves next, if it is complete (R160). -/
def nextResponse (s : State) (x : SiteId) (op : Instr) : Option MeEntry :=
  let win := (siteOf s x).win
  if tagged op then
    win.foldl (fun b e =>
      match e.done, b with
      | none, _ => b
      | some _, none => some e
      | some n, some m => if n < m.done.getD 0 then some e else b) none
  else
    match win with
    | [] => none
    | e :: _ =>
      match op with
      | .spsync c => if scopeDone s x c.toNat e.serial then some e else none
      | _ => if e.done.isSome then some e else none

/-- The response of an entry: the request with the word read in its register, and VALID less the dropped lanes (R498); a lane without
a word read holds a free value (R26). -/
def responseInv (draw : Nat) (op : Instr) (e : MeEntry) : Inv :=
  let v := { tokensInv e.bundle with valid := e.valid }
  let word (d : BitVec 2) : Inv :=
    if v.kind = 6 then v
    else
      putP v d (freeInvalid draw 0 v.valid
        (laneList fun l => ((e.words.find? fun q => q.1 == l).map (·.2)).getD (laneOf (v.p[d.toNat]?.getD []) l)))
  match op with
  | .spld d _ _ => word d
  | .spamo d _ _ _ _ => word d
  | _ => v

/-- ME_RESPONSE (R160, R498, R501, R503). -/
def execMeResponse (site : SiteId) (st : State) : Out :=
  match activeCtx st site with
  | none => .next st
  | some cx =>
    match (stageOps cx).head? with
    | none => .next st
    | some op =>
      if siteKind site != 1 || dieGone st (siteDie site) then .next st
      else if op = .spfifo then .next (fifoLeave st site cx)
      else
        match nextResponse st site op with
        | none => .next st
        | some e =>
          let v := responseInv st.draws op e
          let ts := selWrites cx 0 v
          if !mayFire st site || !canEmit st site ts then .next st
          else
            .next (noteMove (endTile (modSite (emitAll { st with draws := st.draws + 1 } site ts) site fun k => { k with win := k.win.erase e })
              site 1 v.eos v.seq) site)

/-! ### Lock tokens (R161 to R164, R455, R456) -/

/-- Bank and lock token of an element offset (R161). -/
def lockOf (o : Nat) : BitVec 4 × BitVec 6 :=
  let l := o / 64
  (BitVec.ofNat 4 l, BitVec.ofNat 6 (l / 16) ^^^ BitVec.ofNat 6 (l / 1024 % 8))

/-- A lock is that of an element and lock token. -/
def isLock (k : Lock) (c : CoreId) (n : BitVec 3) (bt : BitVec 4 × BitVec 6) : Bool :=
  k.core == c && k.me == n && k.bank == bt.1 && k.tok == bt.2

/-- The token of a lock node with P[d] written from a, and lanes of bad offsets dropped; its good lanes with their lock
tokens. -/
def lockLanes (s : State) (e : StageEnv) (d : BitVec 2) (a : Src) : Inv × List (Nat × BitVec 4 × BitVec 6) × Nat :=
  if e.inv.kind = 6 then (e.inv, [], 0)
  else
    let off (l : Nat) : Nat := (srcLane s e a l).toNat
    let lanes := validLanes e.inv.valid
    let good := lanes.filter fun l => offsetOk (off l)
    let v := putP e.inv d (srcWord s e a)
    ({ v with valid := v.valid &&& laneMask fun l => offsetOk (off l) },
      good.map fun l => (l, lockOf (off l)), lanes.length - good.length)

/-- A lock node's token is taken and written on selection 0 in one firing; f gives the locks after it, none when it waits,
and bad tells a fault; both see the token as it was received. -/
def lockNode (st : State) (d : BitVec 2) (a : Src)
    (f : State → SiteId → Inv → List (Nat × BitVec 4 × BitVec 6) → Option (List Lock))
    (bad : State → SiteId → Inv → List (Nat × BitVec 4 × BitVec 6) → Bool) : Out :=
  let x := st.focus
  if !siteOk x then .fault .noSuchSite
  else
    match activeCtx st x with
    | none => .next st
    | some cx =>
      if !mayFire st x then .next st
      else
        match takeFirst st x cx [a] false with
        | .wait => .next st
        | .strand p t q => .next (noteMove (nodeFault st x 2 0 p t q) x)
        | .take s1 v ports =>
          if v.kind = 2 then passMarker st s1 x cx v
          else
            let e : StageEnv := { site := x, cx := cx, inv := v, ports := ports }
            let (w, ls, drops) := lockLanes s1 e d a
            let ts := selWrites cx 0 w
            if bad st x v ls then
              .next (noteMove (nodeFault st x 3 0 (primaryPort cx) (primaryTrack cx) v.seq.toNat) x)
            else
              match f st x v ls with
              | none => .next st
              | some locks =>
                if !canEmit st x ts then .next st
                else
                  let s2 := countAt { (emitAll s1 x ts) with locks := locks } x 1 5 drops
                  .next (noteMove (endTile s2 x 1 w.eos w.seq) x)

/-- The locks with those of the lanes taken for a SEQ, or none when one is held by another (R162, R456). -/
def takeLocks (s : State) (x : SiteId) (n : BitVec 3) (v : Inv) (ls : List (Nat × BitVec 4 × BitVec 6)) :
    Option (List Lock) :=
  let c := siteCore x
  if ls.any fun l => s.locks.any fun k => isLock k c n l.2 && k.seq != v.seq then none
  else
    some (ls.foldl (fun locks l =>
      if locks.any fun k => isLock k c n l.2 then
        locks.map fun k => if isLock k c n l.2 then { k with lanes := k.lanes ||| BitVec.ofNat 16 (2 ^ l.1) } else k
      else locks ++ [{ core := c, me := n, bank := l.2.1, tok := l.2.2, seq := v.seq, since := s.ticks,
                       lanes := BitVec.ofNat 16 (2 ^ l.1) }]) s.locks)

/-- LTAKE (R162, R456). -/
def execLtake (d : BitVec 2) (a : Src) (n : BitVec 3) (st : State) : Out :=
  lockNode st d a (fun s x v ls => takeLocks s x n v ls) fun _ _ _ _ => false

/-- The locks of a SEQ after the lanes of a token have passed: those valid in it as received, and all of them at its EOS (R163, R456). -/
def giveLocks (s : State) (x : SiteId) (n : BitVec 3) (v : Inv) : List Lock :=
  let c := siteCore x
  let left (k : Lock) : BitVec 16 := if v.eos then 0 else if v.kind = 6 then k.lanes else k.lanes &&& ~~~ v.valid
  (s.locks.map fun k => if k.core = c && k.me = n && k.seq = v.seq then { k with lanes := left k } else k).filter
    fun k => k.lanes != 0

/-- LGIVE (R163, R456): a lane whose lock token its SEQ does not hold is a fault, and so is any token, a HOLE too, of a SEQ that holds
nothing at the element. Log entry 22. -/
def execLgive (d : BitVec 2) (a : Src) (n : BitVec 3) (st : State) : Out :=
  lockNode st d a (fun s x v _ => some (giveLocks s x n v)) fun s x v ls =>
    (ls.any fun l => !(s.locks.any fun k => isLock k (siteCore x) n l.2 && k.seq == v.seq)) ||
      !(s.locks.any fun k => k.core == siteCore x && k.me == n && k.seq == v.seq)

/-- LOCK_TIMEOUT (R164): held for more than 16,384 ticks. -/
def execLockTimeout (site : SiteId) (st : State) : Out :=
  let late := st.locks.find? fun k =>
    k.core == siteCore site && k.me.toNat == elementOf site && decide (k.since + 16384 < st.ticks)
  match late with
  | some k =>
    if siteKind site = 1 && (siteOf st site).on && !(siteOf st site).frozen then .next (nodeFault st site 4 0 0 0 k.seq.toNat)
    else .next st
  | none => .next st

/-- ME_TOKEN_ACCEPT (R158): the firing of the element's operation on the token at its input. -/
def execMeTokenAccept (site : SiteId) (st0 : State) : Out :=
  let st := { st0 with focus := site, focusStage := 1 }
  match activeCtx st site with
  | none => .next st0
  | some cx =>
    if siteKind site != 1 then .next st0
    else
      match (stageOps cx).head? with
      | some (.spld d a t) => execSpld d a t st
      | some (.spst d a b t) => execSpst d a b t st
      | some (.spamo d a b t p) => execSpamo d a b t p st
      | some .spfifo => execSpfifo st
      | some (.ltake d a n) => execLtake d a n st
      | some (.lgive d a n) => execLgive d a n st
      | some (.spsync c) => execSpsync c st
      | some (.vnop d a) => execVnop d a st
      | _ => .next st0

end Sys2Proof.Machine
end

