-- ==== Sys2Proof/Machine/Firing.lean ====
section
/-!
DEFINITION. Firings (R95 to R97, R235, R236, R242, R268, R273, R274, R432 to R434, R486): leaving and starting one, which
firing is ready, waiting in place, and how a slice begins to retire.
-/
namespace Sys2Proof.Machine

/-! ### Leaving a firing -/

/-- REP_STATE of a firing that stops within a repeat or outside one. -/
def keepRepeat (c : Core) : Word :=
  match c.rep with | some p => repWord p | none => c.regs.repState &&& 0x7FFFFFFFFFFFFFFF

/-- The core without a firing: supervisor mode, nothing to run. -/
def idleCore (c : Core) : Core :=
  { c with sup := true, running := false, idle := false, handling := false, slice := none, rep := none, wait := none, sx := none,
           pendBudget := false }

/-- The firing of the step's core stops: its registers stay with its slice, changed by f. With none the handler ends. -/
def leaveFiring (s : State) (f : Slice → Slice) : State :=
  let c := curCore s
  let s1 := modCore s idleCore
  match curSlice s with
  | none => s1
  | some l => setSlice s1 (f { l with regs := { c.regs with repState := keepRepeat c } })

/-- The firing ends and its pc is discarded (R97). -/
def endFiring (s : State) : State := leaveFiring s fun l => { l with suspended := false, watch := none, woken := false }

/-- The firing is suspended at its pc (R97). -/
def suspendFiring (s : State) : State := leaveFiring s fun l => { l with suspended := true, watch := none, woken := false }

/-- A wait whose condition does not hold (R486): 64 polls in place, then the firing is suspended until what it watches changes.
What it watches is noted from the first poll on, for a swap-out that comes in between (R252, R261). Supervisor code goes on polling. -/
def pollWait (s : State) (w : Watch) : Out :=
  let k := ((curCore s).wait.map (·.polls)).getD 0
  if k < 64 || (curCore s).sup || (curSlice s).isNone then
    .next (modSlice (modCore s fun c => { c with wait := some { polls := k + 1 } }) (curSliceId s) fun l =>
      { l with watch := some w, woken := false })
  else .next (leaveFiring s fun l => { l with suspended := true, watch := some w, woken := false })

/-- The running firing is taken for a swap-out (R250): one that polls goes on waiting for what it watches. -/
def takeFiring (s : State) : State :=
  if (curCore s).wait.any fun w => decide (0 < w.polls) then leaveFiring s fun l => { l with suspended := true } else suspendFiring s

/-- A wait in place that never suspends: the instruction is taken again. -/
def waitHere (s : State) : Out := .next s

/-! ### Which firing is ready (R95, R235, R236) -/

/-- A queue in a core's queue RAM. -/
def queueIn (c : Core) (q : BitVec 24) : Option QueueRam := c.queues.find? fun r => r.qid == q

/-- An actor other than by its entry firing is ready (R95). -/
def actorReady (c : Core) (a : Actor) : Bool :=
  !a.ins.isEmpty && (a.ins.all fun q => (queueIn c q.1).any fun r => decide (q.2 ≤ r.entries.length)) &&
    a.outs.all fun q => (queueIn c q.1).all fun r => decide (q.2 + r.entries.length ≤ r.cap)

/-- The first ready actor of a slice on its core. -/
def readyActor (c : Core) (l : Slice) : Option Actor :=
  if !l.entryFired then l.actors.head? else l.actors.find? (actorReady c)

/-- A deferred record waits for the slice on its core. -/
def recordWaits (c : Core) (l : Slice) : Bool := c.deferred.any fun r => r.slice == l.id

/-- The slice is ready: a suspended firing that is not watching, an actor, or a deferred record (R235, R273, R486); its entry
firing waits for copies into the scratchpad (R210). -/
def sliceReady (c : Core) (l : Slice) : Bool :=
  l.state == .resident && l.notices.all (fun n => !n.region.fwdsp) &&
    (recordWaits c l || (if l.suspended then l.watch.isNone || l.woken else (readyActor c l).isSome))

/-- Slice a comes before slice b in the key of R236. -/
def schedulesBefore (a b : Slice) : Bool :=
  let d := signed48 (a.deadline.toNat + 2 ^ 48 - b.deadline.toNat)
  decide (d < 0) || (decide (d = 0) && (decide (b.cls.toNat < a.cls.toNat) || (a.cls == b.cls && decide (a.slot.toNat < b.slot.toNat))))

/-- The best of a list of slices under a comparison. -/
def bestSlice (before : Slice → Slice → Bool) : List Slice → Option Slice
  | [] => none
  | l :: t =>
    match bestSlice before t with
    | none => some l
    | some k => if before k l then some k else some l

/-- The candidate the scheduler of a core would choose. -/
def candidate (s : State) (k : CoreId) : Option Slice :=
  bestSlice schedulesBefore (s.slices.filter fun l => l.core == k && sliceReady (coreOf s k) l)

/-! ### Starting a firing (R96, R97, R273) -/

/-- The registers of a firing that starts at an entry: X and Q as they were, Y zero, outside any repeat. -/
def entryRegs (g : SeqRegs) (pc : Word) : SeqRegs :=
  { g with pc := pc, y := Vector.replicate 4 0, repState := g.repState &&& 0x7FFFFFFFFFFFFFFF }

/-- The core runs a slice with registers, within a repeat if REP_STATE says so and the firing was suspended; its first cycle is
the die's next (R239). -/
def runSlice (s : State) (l : Slice) (g : SeqRegs) (resumed : Bool) : State :=
  let c := coreOf s l.core
  let s1 := setCore s l.core { c with
    busy := max c.busy (dieOf s (dieOfCore l.core)).cyc
    regs := g, sup := false, running := true, idle := false, handling := false, slice := some l.id, wait := none
    rep := if resumed && bitOf 63 g.repState.toNat then some (repOfWord g.repState) else none
    pendBudget := l.budget == some 0 }
  modSlice s1 l.id fun k => { k with suspended := false, watch := none, woken := false }

/-- The chosen slice's firing starts: its suspended one, its first ready actor, or, for a deferred record alone, one at the
entry actor, which takes the trap before its first instruction (R273). -/
def startFiring (s : State) (l : Slice) : State :=
  if l.suspended then runSlice s l l.regs true
  else
    match readyActor (coreOf s l.core) l with
    | some a => modSlice (runSlice s l (entryRegs l.regs a.entry) false) l.id fun k => { k with entryFired := true }
    | none =>
      let pc := ((l.actors.head?).map (·.entry)).getD 0
      let s1 := { runSlice s l (entryRegs l.regs pc) false with cur := l.core }
      match (coreOf s l.core).deferred.find? fun r => r.slice == l.id with
      | none => s1
      | some r => takeDeferred (modCore s1 fun c => { c with deferred := c.deferred.erase r }) r pc true

/-! ### Ending (R242, R432 to R434) -/

/-- Admission stops at the regions whose active context a slice owns (step 1 of R433); its bindings end with its contexts, as they are
discarded. -/
def stopAdmissions (s : State) (i : BitVec 32) : State :=
  { s with placements := s.placements.map fun p => if p.owner = i then { p with stopped := p.stopped || p.active } else p }

/-- A slice begins to retire after END.DONE. -/
def beginRetire (s : State) (i : BitVec 32) : State :=
  stopAdmissions (modSlice s i fun l => { l with state := .retiring, suspended := false, watch := none }) i

/-- The placements of a slice are discarded. -/
def discardOwned (s : State) (i : BitVec 32) : State :=
  (s.placements.filter fun p => p.owner == i).foldl discardPlacement s

/-- The core gives up the firing of a slice; a handler that interrupted it goes on. -/
def dropFiring (s : State) (l : Slice) : State :=
  let c := coreOf s l.core
  if c.slice = some l.id then
    setCore s l.core (if c.sup then { c with slice := none, pendBudget := false } else idleCore c)
  else s

/-- The memory elements and stream engines of a slice's active regions finish what they have accepted, as a freeze does (R260). -/
def finishOwned (s : State) (i : BitVec 32) : State :=
  (s.placements.filter fun p => p.owner == i && p.active).foldl (fun u p => finishStreams (p.sites.foldl finishElement u) p) s

/-- A slice is killed (R242): its firing ends, its regions are frozen, with every store and atomic performed, and discarded, and it
retires without edge actions. -/
def killSlice (s : State) (i : BitVec 32) : State :=
  match findSlice s i with
  | none => s
  | some l =>
    if !liveSlice l then s
    else
      let s1 := dropFiring s l
      let s2 := modSlice s1 i fun k => { k with
        state := .retiring, killed := true, suspended := false, watch := none, regs := sliceRegsOf s l }
      discardOwned (finishOwned s2 i) i
where
  /-- The registers of a slice: those of its core while its firing is there. -/
  sliceRegsOf (s : State) (l : Slice) : SeqRegs :=
    if (coreOf s l.core).slice = some l.id then (coreOf s l.core).regs else l.regs

/-- TRAP_INFO.COH. -/
def cohTrap (c : Core) : Bool := bitOf 63 c.trap.info.toNat

/-- TRAP_INFO.SLICE. -/
def trapSlice (c : Core) : BitVec 32 := fieldOf 32 24 c.trap.info.toNat

/-- Streams whose faults the handler has taken close their ports (R274). -/
def closeFaulted (s : State) : State :=
  let tag := (curCore s).trap.deferTag
  let mine (t : Stream) : Bool := t.cmd.core == s.cur && t.faulted.any fun r => deferTagWord r == tag
  (s.streams.filter mine).foldl (fun u t =>
    match placementAt u t.origin t.ctx with
    | some pl => closePort u pl t.port
    | none => u) { s with streams := s.streams.filter fun t => !mine t }

/-- The state after ERET to an aligned TRAP_PC (R434): a DEFERRED trap without a firing ends as END does (R268). -/
def eretState (s : State) : State :=
  let c := curCore s
  let deferred := c.trap.cause.toNat % 256 == 0x0E
  let s1 := if deferred then closeFaulted s else s
  if deferred && bitOf 8 c.trap.info.toNat then endFiring s1 else modCore s1 eretCore

/-- ERET, or its fault at a TRAP_PC that is no word address (R434). -/
def doEret (s : State) : Out :=
  let pc := (curCore s).trap.pc
  if pc.toNat % 4 ≠ 0 then trapHere s 0x02 pc else .next (eretState s)

end Sys2Proof.Machine
end

