-- ==== Sys2Proof/Machine/Load.lean ====
section
/-!
DEFINITION. The configuration loader (R29 to R31, R41, R66, R75, R292, R373 to R378, R390, R413 to R416, R581): reading the
run-time catalogue and pattern images, the load rules, and placing a pattern. What the model rejects beside the listed
rules is in log entry 25.
-/
namespace Sys2Proof.Machine

/-! ### Images (R390, R414) -/

/-- A site record (Table 12.18). -/
structure SiteRec where
  row : Nat
  col : Nat
  kind : Nat
  scope : BitVec 8
  input : W32
  ewords : List W32
  outs : List (BitVec 16)
  ks : List W32
  cs : List W32
  sw : List (BitVec 16)
deriving DecidableEq, Repr

/-- A pattern image: its size, records, port, prime and scope entries, and boundary, and whether the bytes of its header that are to be
zero are (Table 12.17). -/
structure Image where
  catid : Nat
  rows : Nat
  cols : Nat
  recs : List SiteRec
  ports : List (List Byte)
  primes : List (List Byte)
  scopes : List (List Byte)
  zeroed : Bool
  bport : Nat
  bcount : Nat
deriving DecidableEq, Repr

/-- n bytes of bs from o on. -/
def bytesAt (bs : List Byte) (o n : Nat) : Nat := leNat ((bs.drop o).take n)

/-- n 32-bit words of bs from o on. -/
def wordsAt (bs : List Byte) (o n : Nat) : List W32 := (List.range n).map fun i => BitVec.ofNat 32 (bytesAt bs (o + 4 * i) 4)

/-- n 16-bit words of bs from o on. -/
def halvesAt (bs : List Byte) (o n : Nat) : List (BitVec 16) :=
  (List.range n).map fun i => BitVec.ofNat 16 (bytesAt bs (o + 2 * i) 2)

/-- Bytes cut into n entries of k bytes. -/
def entriesAt (bs : List Byte) (k n : Nat) : List (List Byte) := (List.range n).map fun i => (bs.drop (k * i)).take k

/-- The fields of a site record. -/
def siteRec (bs : List Byte) : SiteRec :=
  { row := bytesAt bs 0 1, col := bytesAt bs 1 1, kind := bytesAt bs 2 1, scope := BitVec.ofNat 8 (bytesAt bs 3 1)
    input := BitVec.ofNat 32 (bytesAt bs 4 4), ewords := wordsAt bs 8 6, outs := halvesAt bs 0x20 4
    ks := wordsAt bs 0x28 8, cs := wordsAt bs 0x48 4, sw := halvesAt bs 0x58 20 }

/-- A curator's read through the issuing core's L1 of a readable RAW page, unchecked against manifests (R414, R416); none
where a byte cannot be read. -/
def curatorPiece (s : State) (w : Who) (va n : Nat) : Option (State × List Byte) :=
  match checkAccess s w va n .load false fun l pa =>
      fmtOk l && l.fmt == 0 && !l.bit 8 &&
        (match paKind pa with | .scratch _ => false | .annex _ => false | .device => false | _ => true) with
  | .ok (s1, .phys pa _) => if poisoned s1 w.die pa then none else some (cachedRead s1 w.core pa n)
  | _ => none

/-- A range read by a curator. -/
def curatorRead (s : State) (w : Who) (va n : Nat) : Option (State × List Byte) :=
  (piecesOf va n).foldl (fun acc p =>
    match acc with
    | none => none
    | some (u, bs) => (curatorPiece u w p.1 p.2).map fun q => (q.1, bs ++ q.2)) (some (s, []))

/-- Where the run-time catalogue lies. -/
def catalogueVa : Nat := 0xFF0000000000

/-- The first entry from i on whose CATID matches, among the n left: rows, columns and image address. -/
def findEntry (w : Who) (catid : Nat) : Nat → Nat → State → Option (State × Nat × Nat × Nat)
  | 0, _, _ => none
  | n + 1, i, s =>
    match curatorRead s w (catalogueVa + 0x40 + 16 * i) 16 with
    | none => none
    | some (s1, e) =>
      if bytesAt e 0 2 ≠ catid then findEntry w catid n (i + 1) s1
      else if bytesAt e 4 4 ≠ 0 || bytesAt e 15 1 ≠ 0 || bytesAt e 8 8 % 64 ≠ 0 then none
      else some (s1, bytesAt e 2 1, bytesAt e 3 1, bytesAt e 8 8)

/-- The image of a catalogue identifier: the entry, the header that agrees with it, and the parts. -/
def readImage (s : State) (w : Who) (catid : Nat) : Option (State × Image) := do
  let (s1, h) ← curatorRead s w catalogueVa 8
  if bytesAt h 0 4 ≠ 0x4B524341 then none
  else
    let (s2, rows, cols, va) ← findEntry w catid (bytesAt h 4 4) 0 s1
    let (s3, g) ← curatorRead s2 w va 64
    if bytesAt g 0 2 ≠ catid || bytesAt g 2 1 ≠ rows || bytesAt g 3 1 ≠ cols || rows = 0 || cols = 0 then none
    else
      let ns := bytesAt g 4 2
      let np := bytesAt g 6 1
      let nr := bytesAt g 8 2
      let (s4, a) ← curatorRead s3 w (va + bytesAt g 0x10 4) (128 * ns)
      let (s5, b) ← curatorRead s4 w (va + bytesAt g 0x14 4) (8 * np)
      let (s6, c) ← curatorRead s5 w (va + bytesAt g 0x18 4) (4 * nr)
      let (s7, d) ← curatorRead s6 w (va + bytesAt g 0x1C 4) (8 * bytesAt g 7 1)
      some (s7, { catid := catid, rows := rows, cols := cols, recs := (entriesAt a 128 ns).map siteRec
                  ports := entriesAt b 8 np, primes := entriesAt c 4 nr, scopes := entriesAt d 8 (bytesAt g 7 1)
                  zeroed := bytesAt g 0xB 1 == 0 && bytesAt g 0x20 32 == 0, bport := bytesAt g 0xA 1, bcount := bytesAt g 0xC 4 })

/-! ### Load rules -/

/-- The context of a record, for the running slice. -/
def recCtx (r : SiteRec) (catid : Nat) (owner : BitVec 32) (origin : SiteId) (lower : List (BitVec 16)) : Ctx :=
  { catid := BitVec.ofNat 16 catid, kind := BitVec.ofNat 2 r.kind, owner := owner, origin := origin, input := r.input
    ewords := r.ewords, outs := r.outs, ks := r.ks, cs := r.cs, sw := r.sw ++ lower, scope := r.scope }

/-- The context of a site without a record: no operation and no route. -/
def emptyCtx (catid kind : Nat) (owner : BitVec 32) (origin : SiteId) : Ctx :=
  { catid := BitVec.ofNat 16 catid, kind := BitVec.ofNat 2 kind, owner := owner, origin := origin
    input := if kind = 2 then 0xE0E0E0E0 else 0xE0000000 }

/-- A route out of a site's port and track has nowhere to go: no neighbour (R21, R41), or track 2 or 3 of a die edge
(R75). -/
def edgeBad (x : SiteId) (p t : Nat) : Bool :=
  decide (p < 4) &&
    (match neighbour x p with
     | none => true
     | some y => siteDie y != siteDie x && decide (2 ≤ t))

/-- A switch word's input on port p, track t names track 2 or 3 of a die edge, which R75 excludes. -/
def inputBad (x : SiteId) (p t : Nat) : Bool := decide (p < 4) && (neighbour x p).isSome && edgeBad x p t

/-- An input word keeps Table 2.3. -/
def inputOk (cx : Ctx) : Bool :=
  inField cx 15 10 == 0 && primaryPort cx != 5 && primaryPort cx != 6 && decide (primaryTrack cx + primaryWidth cx ≤ 3)

/-- An output selection, enabled or not, keeps Table 2.4 (R29), and an enabled one leads to a neighbour; `tile` allows TGRP on link
ports. -/
def outOk (x : SiteId) (tile : Bool) (w : BitVec 16) : Bool :=
  let o := outSel w
  zeroAt 0 3 w.toNat && o.side != 3 && decide (o.port ≤ 4) && (bitsAt 3 1 w.toNat == 0 || (tile && decide (o.port < 4))) &&
    decide (o.preg + o.width ≤ 3) && decide (o.track % 4 + o.width ≤ 3) &&
    (!o.en || (List.range (o.width + 1)).all fun j =>
      let q := trackAt x (o.track + j)
      !edgeBad q.1 o.port q.2)

/-- The tracks the enabled selections of a context write, without copies. -/
def writtenTracks (cx : Ctx) : List (Nat × Nat) :=
  (outSels cx).flatMap fun o => (List.range (o.width + 1)).map fun j => (o.port, o.track + j)

/-- No two selections cover one track (R30). -/
def outsApart (cx : Ctx) : Bool := decide (writtenTracks cx).Nodup

/-- How many operations satisfy f. -/
def countOps (ops : List Instr) (f : Instr → Bool) : Nat := (ops.filter f).length

/-- An operation stands in stage 1 and nowhere else. -/
def onlyFirst (ops : List Instr) (f : Instr → Bool) : Bool := !((ops.drop 1).any f)

/-- A port source (R373). -/
def portCode (c : Src) : Bool := decide (4 ≤ c.toNat) && decide (c.toNat ≤ 8)

/-- A stage operation of a carry chain: whether it has CIN. -/
def carryIn : Instr → Option Bool
  | .vaddc _ _ _ _ i => some i
  | .vsubc _ _ _ _ i => some i
  | .vmulc _ _ _ _ _ i => some i
  | _ => none

/-- The domains on both sides of a link of a site agree. -/
def sameDomain (s : State) (x : SiteId) (p : Nat) : Bool :=
  match neighbour x p with | none => true | some y => domainOf s y == domainOf s x

/-- The carry rules of R519. -/
def carryOk (s : State) (x : SiteId) (cx : Ctx) (ops : List Instr) : Bool :=
  let cs := ops.filterMap carryIn
  let named (p : Nat) : Bool := ops.any fun i => (usedSources i).any fun c => c.toNat == p + 4
  let free (p : Nat) : Bool :=
    !(named p && portTrack cx p == 3) && !(writtenTracks cx).contains (p, 3) &&
      !(primaryPort cx == p && primaryTrack cx + primaryWidth cx == 3)
  cs.isEmpty ||
    (cs.length == 1 && (!cs.contains true || ((ops.head?).bind carryIn) == some true) && free 1 && free 3 &&
      (!(carryOf cx).1 || (!edgeBad x 1 3 && sameDomain s x 1)) && (!(carryOf cx).2 || sameDomain s x 3))

/-- The rules of the flow operations and of the nodes with a first stage of their own (R401, R421, R440, R443, R444, R461, R472,
R475, R506, R509, R512, R514, R532). -/
def flowOk (cx : Ctx) (ops : List Instr) : Bool :=
  let n (f : Instr → Bool) : Nat := countOps ops f
  let side (k : Nat) : Bool := (outSels cx).any fun o => o.side == k
  let sided := cx.outs.any fun w => (outSel w).side == 1 || (outSel w).side == 2
  let prim := decide (primaryPort cx < 7)
  let tail := (ops.drop 1).all fun i => match i with | .vnop _ _ => true | _ => false
  let isFork := fun i => match i with | Instr.fork _ _ => true | _ => false
  let isSteer := fun i => match i with | Instr.steer _ _ _ _ _ => true | _ => false
  let isFilt := fun i => match i with | Instr.filt _ _ _ _ => true | _ => false
  let isCntl := fun i => match i with | Instr.cntl _ _ _ _ => true | _ => false
  let isTag := fun i => match i with | Instr.tagseq _ _ => true | _ => false
  let isGen := fun i => match i with | Instr.gen _ _ _ _ => true | _ => false
  let isMerge := fun i => match i with | Instr.merge _ _ _ _ => true | _ => false
  let isTopk := fun i => match i with | Instr.topk _ _ _ _ => true | _ => false
  let isBarn := fun i => match i with | Instr.barn _ _ _ _ _ => true | _ => false
  let isStat := fun i => match i with | Instr.stat _ => true | _ => false
  let isRed := fun i => match i with | Instr.vred _ _ _ m _ _ => decide (m.toNat < 4) | _ => false
  let k0 := ((cx.ks[0]?).getD 0).toNat
  let gens := ops.filterMap fun i => match i with | .gen _ s _ k => some (s, k) | _ => none
  decide (n isFork + n isSteer ≤ 1) && (n isFork == 0 || side 2) && (n isSteer == 0 || (side 1 && side 2)) &&
    (n isFork + n isSteer == 1 || !sided) &&
    decide (n isFilt ≤ 1) && decide (n isCntl ≤ 1) &&
    decide (n isTag ≤ 1) && (n isTag == 0 || decide (((cx.cs[3]?).getD 0).toNat ≤ 4095)) &&
    (gens.isEmpty ||
      ((ops.head?).any isGen && !prim && decide (gens.length ≤ 2) && gens.all fun g => some g == gens.head? && g.2 != 7)) &&
    onlyFirst ops isMerge &&
    ((ops.head?).all fun i => match i with
      | .merge a b w _ =>
        !prim && a != b && portCode a && portCode b && decide (portTrack cx (a.toNat - 4) + w.toNat ≤ 3) &&
          decide (portTrack cx (b.toNat - 4) + w.toNat ≤ 3)
      | _ => true) &&
    onlyFirst ops (· == .ordr) && (n (· == .ordr) == 0 || prim) &&
    onlyFirst ops (· == .pack) && (n (· == .pack) == 0 || prim) &&
    onlyFirst ops isTopk && (n isTopk == 0 || (prim && decide (1 ≤ k0) && decide (k0 ≤ 64))) &&
    onlyFirst ops isBarn && (n isBarn == 0 || (!prim && tail)) &&
    onlyFirst ops isStat && (n isStat == 0 || (!prim && tail && (outSels cx).isEmpty)) &&
    decide (n isRed ≤ 1) && !((ops.take 5).any isRed)

/-- An E-word of the opcodes from lo to hi. -/
def opFrom (w : W32) (lo hi : Nat) : Bool := decide (lo ≤ w.toNat / 2 ^ 25) && decide (w.toNat / 2 ^ 25 ≤ hi)

/-- The words of a context decode, each. -/
def wordsDecode (ws : List W32) : Bool := ws.all fun w => match decodeE w.toNat with | .ok _ => true | .error _ => false

/-- The sources of the operations keep R31 and R373: port sources in stage 1 only, and words of a primary bundle only where
there is one. -/
def sourcesOk (cx : Ctx) (ops : List Instr) : Bool :=
  ((ops.drop 1).all fun i => !((usedSources i).any portCode)) &&
    (decide (primaryPort cx < 7) || (cx.ewords[0]?).getD 0 == 0 ||
      (ops.head?).all fun i => !((usedSources i).any fun c => decide (c.toNat < 4)))

/-- A processing-element context keeps the load rules. -/
def peCtxOk (s : State) (x : SiteId) (cx : Ctx) : Bool :=
  let ops := stageOps cx
  inputOk cx && cx.outs.all (outOk x false) && outsApart cx && wordsDecode cx.ewords &&
    cx.ewords.all (fun w => opFrom w 0 0x26 || opFrom w 0x30 0x3C || opFrom w 0x60 0x62) && sourcesOk cx ops &&
    carryOk s x cx ops && flowOk cx ops

/-- The operation of a memory element keeps the rules of its entry (R455, R456, R500, R503). -/
def meOpOk (cx : Ctx) : Bool :=
  let k (i : Nat) : Nat := ((cx.ks[i]?).getD 0).toNat
  let one := (selOf1 cx).isEmpty
  match (stageOps cx).head? with
  | some .spfifo => one && k 0 % 64 == 0 && decide (1 ≤ k 1) && decide (k 0 + k 1 * 64 * (primaryWidth cx + 1) ≤ 0x80000)
  | some (.ltake _ _ _) => one
  | some (.lgive _ _ _) => one
  | some (.spsync _) => one
  | _ => true
where
  /-- The enabled selection 1. -/
  selOf1 (cx : Ctx) : List OutSel := ((cx.outs[1]?).map outSel).toList.filter (·.en)

/-- A memory-element context keeps the load rules (R376). -/
def meCtxOk (x : SiteId) (cx : Ctx) : Bool :=
  inputOk cx && cx.outs.all (fun w => outOk x false w && (outSel w).side == 0) && outsApart cx &&
    (cx.outs.drop 2).all (· == 0) && (cx.ewords.drop 1).all (· == 0) && cx.cs.all (· == 0) && wordsDecode cx.ewords &&
    (cx.ewords.take 1).all (fun w => opFrom w 0 0 || opFrom w 0x48 0x4E) && sourcesOk cx (stageOps cx) && meOpOk cx

/-- A role input keeps Table 9.1: a port that exists, and tracks within their group of four. -/
def roleInOk (cx : Ctx) (r : Nat) : Bool :=
  let q := roleIn cx r
  q.1 != 5 && q.1 != 6 &&
    (q.1 == 7 ||
      (decide (q.2.1 + q.2.2 ≤ if q.1 = 4 then 3 else 7) && (decide (q.2.2 < 2) || decide (q.2.1 % 4 + q.2.2 ≤ 3))))

/-- A matrix-tile context keeps the load rules (R292, R301, R303, R465). -/
def mtCtxOk (x : SiteId) (cx : Ctx) : Bool :=
  let e (r : Nat) : W32 := (cx.ewords[r]?).getD 0
  let k (i : Nat) : Nat := ((cx.ks[i]?).getD 0).toNat
  let op (r : Nat) : Option Instr := (decodeE (e r).toNat).toOption
  let int := match op 0 with | some (.mrow p) => p == 2 | _ => false
  let role (r lo hi : Nat) : Bool := opFrom (e r) 0 0 || opFrom (e r) lo hi
  wordsDecode cx.ewords && role 0 0x5A 0x5A && role 1 0x58 0x58 && role 2 0x59 0x59 && role 3 0x5B 0x5C &&
    (cx.ewords.drop 4).all (· == 0) &&
    (List.range 4).all (roleInOk cx) && cx.outs.all (fun w => outOk x true w && (outSel w).side == 0) && outsApart cx &&
    (cx.outs.drop 2).all (· == 0) && (cx.ks.drop 2).all (· == 0) && (cx.cs.drop 2).all (· == 0) &&
    decide (1 ≤ k 0) && decide (k 0 ≤ 512) && decide (k 1 < 2 ^ 16) && decide (((cx.cs[0]?).getD 0).toNat < k 0) &&
    (match op 2 with | some (.mswap p) => p == ((roleIn cx 2).1 == 7) | _ => true) &&
    (match op 3 with | some (.mdrain _ f) => !(int && f == 1) | _ => true)

/-! ### Switch boxes (R41, R378, R581) -/

/-- The ports of a switch word's OUT. -/
def swPorts (w : BitVec 16) : List Nat := [0, 1, 2, 3, 4].filter fun p => bitOf (6 + p) w.toNat

/-- INPUT, TRACK, KIND and MODE of a switch word. -/
def swInput (w : BitVec 16) : Nat := bitsAt 11 3 w.toNat
/-- TRACK. -/
def swTrack (w : BitVec 16) : Nat := bitsAt 3 3 w.toNat
/-- KIND. -/
def swKind (w : BitVec 16) : Nat := bitsAt 14 2 w.toNat
/-- MODE. -/
def swMode (w : BitVec 16) : Nat := bitsAt 0 3 w.toNat

/-- The output ports a word drives on its track: those of OUT, but for the source port of an INPUT-4 word, on which a selection of
the context writes. -/
def swDrives (selected : List (Nat × Nat)) (w : BitVec 16) : List Nat :=
  if swInput w = 4 then (swPorts w).filter fun p => !selected.contains (p, swTrack w) else swPorts w

/-- A word by itself keeps the rules; beside what the selections write, the node may write a carry. -/
def swWordOk (x : SiteId) (selected carry : List (Nat × Nat)) (w : BitVec 16) : Bool :=
  (match decodeSw w.toNat with | .ok _ => true | .error _ => false) &&
    (swPorts w).all (fun p => !edgeBad x p (swTrack w)) && !inputBad x (swInput w) (swTrack w) &&
    (swInput w != 4 || (swKind w != 3 && ((swPorts w).filter fun p => selected.contains (p, swTrack w)).length == 1)) &&
    (swDrives selected w).all fun p => !(selected ++ carry).contains (p, swTrack w)

/-- Two words drive no track both, but as SWG words of one merge. -/
def swPairOk (selected : List (Nat × Nat)) (v w : BitVec 16) : Bool :=
  swTrack v != swTrack w || ((swDrives selected v).all fun p => !(swDrives selected w).contains p) ||
    (swKind v == 2 && swKind w == 2 && swMode v == swMode w)

/-- A box keeps the rules, beside the tracks that its node's own outputs write. -/
def boxOk (x : SiteId) (selected carry : List (Nat × Nat)) (sw : List (BitVec 16)) : Bool :=
  let ws := sw.filter (· ≠ 0)
  ws.all (swWordOk x selected carry) &&
    (List.range ws.length).all fun i => (List.range i).all fun j =>
      swPairOk selected ((ws[i]?).getD 0) ((ws[j]?).getD 0)

/-! ### A pattern at its place -/

/-- A row-major index of a pattern as row and column. -/
def indexAt (im : Image) (i : Nat) : Nat × Nat := (i / im.cols, i % im.cols)

/-- The site of index i of a placement at an origin. -/
def siteAt (im : Image) (o : SiteId) (i : Nat) : SiteId :=
  ofModule ((moduleAt o).1 + i / im.cols) ((moduleAt o).2 + i % im.cols)

/-- The index of a record. -/
def recIndex (im : Image) (r : SiteRec) : Nat := r.row * im.cols + r.col

/-- The record of index i. -/
def recAt (im : Image) (i : Nat) : Option SiteRec :=
  im.recs.find? fun r => decide (r.row < im.rows) && decide (r.col < im.cols) && recIndex im r == i

/-- The context of index i: a tile's takes the lower row's box with it. -/
def imageCtx (im : Image) (o : SiteId) (owner : BitVec 32) (i : Nat) : Ctx :=
  let k := siteKind (siteAt im o i)
  match recAt im i with
  | none => emptyCtx im.catid k owner o
  | some r =>
    let below := if k = 2 && !lowerRow (siteAt im o i) then ((recAt im (i + im.cols)).map (·.sw)).getD [] else []
    recCtx r im.catid owner o below

/-- The track a node's carry is written on at the site of index i (R519). -/
def siteCarry (im : Image) (o : SiteId) (i : Nat) : List (Nat × Nat) :=
  if siteKind (siteAt im o i) ≠ 2 && (carryOf (imageCtx im o 0 i)).1 then [(1, 3)] else []

/-- The tracks that a node's output selections write at the single site of index i. -/
def siteWritten (im : Image) (o : SiteId) (i : Nat) : List (Nat × Nat) :=
  let x := siteAt im o i
  let up (j : Nat) : List (Nat × Nat) := writtenTracks (imageCtx im o 0 j)
  if siteKind x ≠ 2 then up i
  else if lowerRow x then
    (if im.cols ≤ i then (up (i - im.cols)).filterMap fun q => if 4 ≤ q.2 then some (q.1, q.2 - 4) else none else [])
  else (up i).filter fun q => decide (q.2 < 4)

/-- Index i keeps the load rules. -/
def indexOk (s : State) (im : Image) (o : SiteId) (i : Nat) : Bool :=
  let x := siteAt im o i
  match recAt im i with
  | none => true
  | some r =>
    let cx := imageCtx im o 0 i
    r.kind == siteKind x && boxOk x (siteWritten im o i) (siteCarry im o i) r.sw && zeroAt 3 5 r.scope.toNat &&
      (if lowerRow x then
        r.input == 0 && r.ewords.all (· == 0) && r.outs.all (· == 0) && r.ks.all (· == 0) && r.cs.all (· == 0)
      else if siteKind x = 2 then mtCtxOk x cx
      else if siteKind x = 1 then meCtxOk x cx
      else peCtxOk s x cx)

/-- Indexes of records that lie outside the pattern or name a site twice. -/
def strayRecs (im : Image) : List Nat :=
  (List.range im.recs.length).filterMap fun j =>
    match im.recs[j]? with
    | none => none
    | some r =>
      if im.rows ≤ r.row || im.cols ≤ r.col || (im.recs.take j).any fun q => recIndex im q == recIndex im r then
        some (recIndex im r) else none

/-- A port entry's fields and whether they are in range (Table 12.19). -/
def portEntry (im : Image) (o : SiteId) (e : List Byte) : Nat × Port × Bool :=
  let i := bytesAt e 0 2
  let b := bytesAt e 2 1
  let c := bytesAt e 3 1
  let x := siteAt im o i
  let q : Port := { site := x, port := fieldOf 3 0 b, exit := bitOf 7 b, track := fieldOf 3 0 c, width := fieldOf 2 3 c }
  let most := if siteKind x = 2 && !lowerRow x && q.port.toNat < 4 then 7 else 3
  (i, q, decide (i < im.rows * im.cols) && zeroAt 3 4 b && zeroAt 5 3 c && decide (q.port.toNat ≤ 4) &&
    decide (q.track.toNat + q.width.toNat ≤ most))

/-- A prime entry's fields and whether they are in range (Table 12.20, R53, R462). -/
def primeEntry (im : Image) (o : SiteId) (e : List Byte) : Nat × (SiteId × BitVec 3 × BitVec 3 × Nat) × Bool :=
  let i := bytesAt e 0 2
  let b := bytesAt e 2 1
  let n := bytesAt e 3 1
  let p := bitsAt 4 3 b
  let t := bitsAt 0 3 b
  let cx := imageCtx im o 0 i
  let back := ((loopMerge cx).any fun m => m.1 == p && portTrack cx p == t)
  (i, (siteAt im o i, BitVec.ofNat 3 p, BitVec.ofNat 3 t, n),
    decide (i < im.rows * im.cols) && zeroAt 3 1 b && zeroAt 7 1 b && decide (p ≤ 4) && decide (1 ≤ n) &&
      decide (n ≤ if back then 15 else 4))

/-- STAT nodes of one level, or roots, of which a pattern holds at most one (R506): the indexes of the others, and of roots
within a level. -/
def strayStats (im : Image) (o : SiteId) : List Nat :=
  let stats := (List.range (im.rows * im.cols)).filterMap fun i =>
    let cx := imageCtx im o 0 i
    ((stageOps cx).findSome? fun q => match q with | .stat r => some r | _ => none).map fun r => (i, r, innerMost cx.scope)
  stats.filterMap fun a =>
    if (a.2.1 && a.2.2 != 0) || stats.any fun b => decide (b.1 < a.1) && b.2 == a.2 then some a.1 else none
where
  /-- The innermost level of a scope mask. -/
  innerMost (m : BitVec 8) : Nat := if bitOf 2 m.toNat then 3 else if bitOf 1 m.toNat then 2 else if bitOf 0 m.toNat then 1 else 0

/-- A scope entry names a level, and its zero bytes are zero (Table 12.21). -/
def scopeOk (e : List Byte) : Bool := decide (1 ≤ bytesAt e 0 1) && decide (bytesAt e 0 1 ≤ 3) && bytesAt e 1 3 == 0

/-- The rejected indexes of a pattern at its place; an image whose header or scope part is not laid out as it is to be is rejected at its
corner. -/
def rejected (s : State) (im : Image) (o : SiteId) : List Nat :=
  (if im.zeroed && im.scopes.all scopeOk then [] else [0]) ++ strayRecs im ++ ((List.range (im.rows * im.cols)).filter fun i => !indexOk s im o i) ++
    (im.ports.filterMap fun e => let q := portEntry im o e; if q.2.2 then none else some q.1) ++
    (im.primes.filterMap fun e => let q := primeEntry im o e; if q.2.2 then none else some q.1) ++ strayStats im o

/-- The least number of a list. -/
def leastOf : List Nat → Option Nat
  | [] => none
  | a :: t => match leastOf t with | none => some a | some b => some (Nat.min a b)

/-- The placements that share a context number and a site with a rectangle (R416 step 4). -/
def displaced (s : State) (k : BitVec 2) (xs : List SiteId) : List Placement :=
  s.placements.filter fun p => p.ctx == k && p.sites.any xs.contains

/-- The placement of an image. -/
def imagePlacement (im : Image) (o : SiteId) (k : BitVec 2) (owner : BitVec 32) : Placement :=
  { origin := o, rows := im.rows, cols := im.cols, ctx := k, catid := BitVec.ofNat 16 im.catid, owner := owner
    ports := im.ports.map fun e => (portEntry im o e).2.1, primes := im.primes.map fun e => (primeEntry im o e).2.1
    scopes := im.scopes.map fun e => bytesAt e 0 1, bport := im.bport, bcount := im.bcount }

/-- The image is written into a context number: earlier placements go, gated and drowsy sites wake (R283,
R284), and the owner is set. -/
def writeImage (s : State) (im : Image) (o : SiteId) (k : BitVec 2) (owner : BitVec 32) : State :=
  let pl := imagePlacement im o k owner
  let s1 := (displaced s k pl.sites).foldl discardPlacement s
  let s2 := (List.range (im.rows * im.cols)).foldl (fun u i =>
    modSite u (siteAt im o i) fun n => { n with
      ctxs := n.ctxs.setIfInBounds k.toNat (some (imageCtx im o owner i)), gated := false, drowsy := false }) s1
  { s2 with placements := s2.placements ++ [pl] }

/-! ### CFLD (R416) -/

/-- A configuration status word (R415). -/
def cfgStatus (code index : Nat) : Word := BitVec.ofNat 64 (code + index % 2 ^ 16 * 2 ^ 16)

/-- An origin operand (R413). -/
def originOf (v : Word) : Option SiteId :=
  let x : SiteId := BitVec.ofNat 14 v.toNat
  if v.toNat < 2 ^ 14 && siteOk x then some x else none

/-- Every site of a list is in the issuing core's domain. -/
def inDomain (s : State) (xs : List SiteId) : Bool := xs.all fun x => domainOf s x == coreDomain s s.cur

/-- A die that is not in the module (R348): held in reset, and not declared lost. -/
def dieMissing (s : State) (d : DieId) : Bool := !(dieOf s d).lost && !(dieOf s d).firmware

/-- What a load would come to: a status, or the image to write. A region that would span a missing die is ILLCFG (R348); one on a
lost or parked die is PLACE (Table 13.18). -/
def loadCheck (s : State) (im : Image) (o : SiteId) (k : BitVec 2) : Option Word :=
  let xs := rectSites o im.rows im.cols
  let missing := (List.range (im.rows * im.cols)).filter fun i => dieMissing s (siteDie (siteAt im o i))
  if !rectOk o im.rows im.cols then some (cfgStatus 3 0)
  else if !missing.isEmpty then some (cfgStatus 4 ((leastOf missing).getD 0))
  else if (xs.any fun x => dieGone s (siteDie x)) || !inDomain s xs then some (cfgStatus 3 0)
  else if xs.any fun x => (siteOf s x).on && (siteOf s x).act == k then some (cfgStatus 1 0)
  else
    match leastOf (rejected s im o) with
    | some i => some (cfgStatus 4 i)
    | none => if (displaced s k xs).all fun p => inDomain s p.sites then none else some (cfgStatus 3 0)

/-- The issuing core's domain has class-2 slots on every die of a rectangle, and the present one on the die of its origin, where the
writing begins (R71, R416 step 3). -/
def configSlots (s : State) (xs : List SiteId) : Bool :=
  xs.all (fun x => ownsSlot s (siteDie x) 2 (coreDomain s s.cur)) &&
    ((xs.head?).all fun x => slotNow s (siteDie x) 2 (coreDomain s s.cur))

/-- CFLD and CFWV up to the write: the catalogue, the placement and the rules. `go` goes on with the image. -/
def withImage (st : State) (d a b : Reg) (k : BitVec 2) (go : State → Slice → Image → SiteId → Out) : Out :=
  match curSlice st with
  | none => finish st d (cfgStatus 2 0)
  | some l =>
    if 2 ^ 16 ≤ (readReg st a).toNat then finish st d (cfgStatus 2 0)
    else
      match readImage st { whoSeq st with checked := false } (readReg st a).toNat with
      | none => finish st d (cfgStatus 2 0)
      | some (s1, im) =>
        match originOf (readReg st b) with
        | none => finish s1 d (cfgStatus 3 0)
        | some o =>
          match loadCheck s1 im o k with
          | some w => finish s1 d w
          | none => if configSlots s1 (rectSites o im.rows im.cols) then go s1 l im o else .next st

/-- CFLD (R416). -/
def execCfld (d a b : Reg) (c : BitVec 2) (st : State) : Out :=
  withImage st d a b c fun s l im o => finish (writeImage s im o c l.id) d (cfgStatus 0 0)

end Sys2Proof.Machine
end

