-- ==== Sys2Proof/Machine/Switch.lean ====
section
/-!
DEFINITION. Switch words (R39 to R41, R70, R378, R511, R581) and the movement of tokens on tracks (R25, R36 to R38, R68, R69,
R75 to R77): TOKEN_TRANSFER, SLOT_FREED, BOUNDARY_TRACK_TRANSFER, SELVAGE_DROP, with admission at entry ports (R255).
-/
namespace Sys2Proof.Machine

/-! ### Selvages -/

/-- A token in flight from src to port q, track t of a site still comes through (R68, R70). -/
def crosses (s : State) (x : SiteId) (q t : Nat) (src : SiteId) (gate : Bool) : Bool :=
  comesThrough s src (facing q) t x gate

/-! ### Switch words -/

/-- The ports of an OUT mask. -/
def outPorts (o : BitVec 5) : List Nat := [0, 1, 2, 3, 4].filter fun p => bitOf p o.toNat

/-- The token a word of input i and track t may move at the focus, if its box is in use. -/
def switchHead (s : State) (i : BitVec 3) (t : BitVec 3) : Option Token :=
  let x := s.focus
  if i.toNat < 4 && mayFire s x && (activeCtx s x).isSome then (chanOf s (chanKey x i.toNat t.toNat)).slots.head? else none

/-- The token at input i, track t of the focus moves to the ports of OUT. -/
def switchMove (s : State) (i o : Nat) (t : Nat) (k : Token) (gate : Bool) : State :=
  let x := s.focus
  let s1 := modChan s (chanKey x i t) fun c => { c with slots := c.slots.drop 1, freed := c.freed + 1 }
  noteMove ((outPorts (BitVec.ofNat 5 o)).foldl (fun u p => emitTok u x p t k gate) s1) x

/-- A word that moves a token when every output it waits for has a free slot; INPUT 4 describes the node's own write. -/
def switchWord (i : BitVec 3) (o : BitVec 5) (t : BitVec 3) (gate : Bool) (st : State) : Out :=
  if !siteOk st.focus then .fault .noSuchSite
  else
    match switchHead st i t with
    | none => .next st
    | some k =>
      if (outPorts o).all fun p => outFree st st.focus p t.toNat gate then .next (switchMove st i.toNat o.toNat t.toNat k gate) else .next st

/-- SWP (R511). -/
def execSwp (i : BitVec 3) (o : BitVec 5) (t : BitVec 3) (st : State) : Out := switchWord i o t false st

/-- SWM (R511): a branch at a closed selvage is not waited for, since nothing beyond it is (outFree). -/
def execSwm (i : BitVec 3) (o : BitVec 5) (t : BitVec 3) (st : State) : Out := switchWord i o t false st

/-- SWB (R511). -/
def execSwb (i : BitVec 3) (o : BitVec 5) (t : BitVec 3) (st : State) : Out := switchWord i o t true st

/-- The inputs of the merge an SWG word belongs to, lowest code first (R378). -/
def mergeInputs (cx : Ctx) (o : BitVec 5) (t m : BitVec 3) : List Nat :=
  [0, 1, 2, 3].filter fun i => (cx.sw.take 20).any fun w =>
    w != 0 && bitsAt 14 2 w.toNat == 2 && bitsAt 11 3 w.toNat == i && bitsAt 6 5 w.toNat == o.toNat &&
      bitsAt 3 3 w.toNat == t.toNat && bitsAt 0 3 w.toNat == m.toNat

/-- The first present input after the last one granted, in rising order and round again. -/
def roundRobin (ins : List Nat) (last : Option Nat) (present : Nat → Bool) : Option Nat :=
  match last with
  | none => ins.find? present
  | some l => ((ins.filter fun i => decide (l < i)) ++ ins.filter fun i => decide (i ≤ l)).find? present

/-- SWG (R378, R511). -/
def execSwg (i : BitVec 3) (o : BitVec 5) (t m : BitVec 3) (st : State) : Out :=
  if !siteOk st.focus then .fault .noSuchSite
  else
    let x := st.focus
    match switchHead st i t, activeCtx st x with
    | some k, some cx =>
      let key := o.toNat * 8 + t.toNat
      let ins := mergeInputs cx o t m
      let present (j : Nat) : Bool := !(chanOf st (chanKey x j t.toNat)).slots.isEmpty
      let n := siteOf st x
      let pick := match tblGet n.swgHold key with
        | some h => some h
        | none => if m = 1 then ins.find? present else roundRobin ins (tblGet n.swgLast key) present
      if pick = some i.toNat && (outPorts o).all fun p => outFree st x p t.toNat then
        .next (modSite (switchMove st i.toNat o.toNat t.toNat k false) x fun q => { q with
          swgLast := tblSet q.swgLast key i.toNat
          swgHold := if m = 2 && !k.eos then tblSet q.swgHold key i.toNat else tblErase q.swgHold key })
      else .next st
    | _, _ => .next st

/-! ### Admission -/

/-- A port of the active pattern at the same input has injected its configuration token: the new pattern's port is open (R419). -/
def openedBehind (p pl : Placement) (i : Nat) : Bool :=
  match pl.ports[i]? with
  | none => false
  | some q => (entryPorts p).any fun e =>
      p.injected.contains e.1 && e.2.port == q.port && (portTracks e.2).any fun xt => (portTracks q).contains xt

/-- An entry port admits now: its context is active, or takes the region over behind a wavefront; admission has not
stopped, and no layer boundary waits for a drain, which none does while a wavefront is in flight (R63, R255 to R257, R419, R426). A
port of the new pattern where the old one has none opens when every port has injected. -/
def portAdmits (s : State) (pl : Placement) (i : Nat) : Bool :=
  (pl.active && !pl.stopped && !pl.frozen && !pl.injected.contains i &&
      !(pl.preempt.isSome && pl.armed.isNone && atBoundary pl)) ||
    (s.placements.any fun p => p.active && p.origin == pl.origin && p.armed == some pl.ctx && !p.frozen &&
      (openedBehind p pl i || (allInjected p && !(entryPorts p).isEmpty)))

/-- The placement and entry port whose first track is at this input, with a whole bundle in its queue. -/
def queuedAt (s : State) (x : SiteId) (p t : Nat) : Option (Placement × Nat × Port) :=
  s.placements.findSome? fun pl => (entryPorts pl).findSome? fun e =>
    if e.2.port.toNat == p && (portTracks e.2).head? == some (x, t) && (entryQueues s pl e.2).all (fun q => !q.isEmpty) &&
        portAdmits s pl e.1 then some (pl, e.1, e.2) else none

/-- A token becomes present at port p, track t of a site; one of KIND 7, or a statistics token, is PORT_PROTOCOL there (R25). -/
def present (s : State) (x : SiteId) (p t : Nat) (k : Token) : State :=
  let s1 := noteMove (modChan s (chanKey x p t) fun c => { c with slots := c.slots ++ [k] }) x
  if p < 5 && (k.kind = 4 || k.kind = 7) then nodeFault s1 x 3 0 p t k.seq.toNat else s1

/-- An entry port admits the bundle at the head of its queue: it is counted and becomes present at the input (R255). -/
def admitBundle (s : State) (pl : Placement) (i : Nat) (q : Port) : State :=
  let s1 := (portTracks q).foldl (fun u xt =>
    let ek := entryKey pl.ctx q.port.toNat xt
    match (chanOf u ek).slots with
    | [] => u
    | k :: rest => present (modChan u ek fun c => { c with slots := rest }) xt.1 q.port.toNat xt.2 k) s
  modPlacement s1 pl.origin pl.ctx fun p => { p with admitted := tblSet p.admitted i ((tblGet p.admitted i).getD 0 + 1) }

/-- Every track of a port has room at the input, and no marker or configuration token is on its way there. -/
def portRoom (s : State) (q : Port) : Bool :=
  (portTracks q).all fun xt =>
    let c := chanOf s (chanKey xt.1 q.port.toNat xt.2)
    decide (c.slots.length + c.flight.length < 4) && c.flight.all fun f => !(f.1.kind == 2 || f.1.kind == 3)

/-! ### Tokens on their way -/

/-- The channel with its oldest token in flight taken out. -/
def dropFlight (s : State) (k : Nat) : State := modChan s k fun c => { c with flight := c.flight.drop 1 }

/-- A marker that a region sends out by an exit is consumed there (R258, R426): the exit of port p, track t of site y. -/
def noteMarker (s : State) (y : SiteId) (p t : Nat) (k : Token) : State :=
  match portAt s true y p t with
  | some (pl, j) => if k.kind = 2 then modPlacement s pl.origin pl.ctx fun q => { q with markersOut := setInsert q.markersOut j } else s
  | none => s

/-- Markers and configuration tokens. -/
def steering (k : Token) : Bool := k.kind == 2 || k.kind == 3

/-- The oldest token in flight becomes present at port p, track t of site x (R25, R37). A marker or configuration token that
another region sends is consumed at the entry port it reaches; an entry port that admits nothing holds the others back. -/
def land (s : State) (x : SiteId) (p t : Nat) (k : Token) (src : SiteId) : State :=
  let key := chanKey x p t
  let room := decide ((chanOf s key).slots.length < 4)
  let put : State := present (dropFlight s key) x p t k
  if 5 ≤ p then
    if steering k then noteMove (noteMarker (dropFlight s key) x (if p = 9 then 4 else p - 5) t k) x
    else if !room then s
    else if p = 9 then wakeOutput put x t
    else put
  else
    match portAt s false x p t with
    | some (pl, i) =>
      if pl.sites.contains src then (if room then put else s)
      else if steering k then noteMove (noteMarker (dropFlight s key) src (facing p) t k) x
      else if !portAdmits s pl i || !room then s
      else
        let first := (pl.ports[i]?).any fun q => (portTracks q).head? == some (x, t)
        modPlacement put pl.origin pl.ctx fun q => { q with
          admitted := if first then tblSet q.admitted i ((tblGet q.admitted i).getD 0 + 1) else q.admitted }
    | none => if room then put else s

/-- TOKEN_TRANSFER (R37, R255): a token in flight on its die lands; where none can, an entry port admits a bundle. -/
def execTokenTransfer (site : SiteId) (port : BitVec 4) (track : BitVec 3) (st : State) : Out :=
  let p := port.toNat
  let t := track.toNat
  if !siteOk site || 9 < p || dieGone st (siteDie site) then .next st
  else
    match (chanOf st (chanKey site p t)).flight with
    | (k, src, gate) :: _ =>
      if siteDie src != siteDie site || (p < 4 && src != site && !crosses st site p t src gate) then .next st
      else .next (land st site p t k src)
    | [] =>
      match queuedAt st site p t with
      | some (pl, i, q) => if portRoom st q then .next (noteMove (admitBundle st pl i q) site) else .next st
      | none => .next st

/-- SLOT_FREED (R38): the producer sees a slot its consumer has freed. -/
def execSlotFreed (site : SiteId) (port : BitVec 4) (track : BitVec 3) (st : State) : Out :=
  .next (modChan st (chanKey site port.toNat track.toNat) fun c => { c with freed := c.freed - 1 })

/-- BOUNDARY_TRACK_TRANSFER (R75 to R77): a token crosses a die edge in a slot of class 4 of the sender's domain, one a slot on a
track. -/
def execBoundaryTrackTransfer (site : SiteId) (port : BitVec 4) (track : BitVec 3) (st : State) : Out :=
  let p := port.toNat
  let t := track.toNat
  if !siteOk site || 3 < p || dieGone st (siteDie site) then .next st
  else
    match (chanOf st (chanKey site p t)).flight with
    | (k, src, gate) :: _ =>
      let now := (dieOf st (siteDie src)).cyc
      let key := chanKey site p t
      if siteDie src == siteDie site || dieGone st (siteDie src) || !slotNow st (siteDie src) 4 (domainOf st src) ||
          (chanOf st key).crossed == some now || !crosses st site p t src gate then .next st
      else
        let s1 := land st site p t k src
        .next (if (chanOf s1 key).flight.length < (chanOf st key).flight.length then
          modChan s1 key fun c => { c with crossed := some now } else s1)
    | [] => .next st

/-- The link a token that is dropped was on: the site and output it left by, and whether both its ends are there (R77). -/
def selvageLink (s : State) (x : SiteId) (p : Nat) (src : SiteId) : Nat × Bool :=
  let out := if 10 ≤ p then p - 10 else facing p
  (out, !dieGone s (siteDie src) && !dieGone s (siteDie (if 10 ≤ p then (neighbour x out).getD x else x)))

/-- SELVAGE_DROP (R68, R69): a token without a gateway is dropped and counted in its sender's domain; the first drop of a
configuration period is a node fault at the sender. One at the edge of a die that is parked or lost is held (R77). -/
def execSelvageDrop (site : SiteId) (port : BitVec 4) (track : BitVec 3) (st : State) : Out :=
  let p := port.toNat
  let t := track.toNat
  if !siteOk site || (3 < p && p < 10) then .next st
  else
    match (chanOf st (chanKey site p t)).flight with
    | (k, src, gate) :: _ =>
      let l := selvageLink st site p src
      if (p < 4 && (src == site || crosses st site p t src gate)) || !l.2 then .next st
      else
        let d := (domainOf st src).toNat
        let s1 := modDie (dropFlight st (chanKey site p t)) (siteDie src) fun e => { e with
          selvDrops := tblSet e.selvDrops d ((tblGet e.selvDrops d).getD 0 + 1) }
        match activeAt s1 src with
        | some pl =>
          if pl.dropReported then .next (noteMove s1 src)
          else
            .next (modPlacement (nodeFault (noteMove s1 src) src 3 0 l.1 t k.seq.toNat) pl.origin pl.ctx fun q => { q with
              dropReported := true })
        | none => .next s1
    | [] => .next st

end Sys2Proof.Machine
end

