-- ==== Sys2Proof/Machine/Place.lean ====
section
/-!
DEFINITION. The configuration S-words beside CFLD (R413 to R419, R423 to R429, R449, R450, R485, R492): CFSW, CFWV, DRAIN,
QWAIT, INJ, DRAW, SELV and CURD.
-/
namespace Sys2Proof.Machine

/-- The slice is another live one. -/
def otherLive (s : State) (me owner : BitVec 32) : Bool := owner != me && (findSlice s owner).any liveSlice

/-- The active placements that share a site with a rectangle. -/
def activeOver (s : State) (xs : List SiteId) : List Placement := s.placements.filter fun p => p.active && p.sites.any xs.contains

/-! ### CFSW and CFWV -/

/-- The first status of EMPTY, ACTIVE, OWNED, SPAN and ARMED that holds against a switch (R417). -/
def switchBar (s : State) (me : BitVec 32) (p : Placement) : Option Nat :=
  let there := activeOver s p.sites
  if p.owner != me then some 5
  else if p.active then some 1
  else if there.any fun q => otherLive s me q.owner then some 6
  else if there.any fun q => !(q.sites.all p.sites.contains) then some 7
  else if there.any fun q => q.armed.isSome then some 8
  else none

/-- Every site and channel of a region is quiet, and the quiescence trees of its active patterns have reported it. -/
def readyToSwitch (s : State) (p : Placement) : Bool :=
  ((activeOver s p.sites).all (reportedQuiet s)) && p.sites.all fun x => (activeAt s x).isSome || siteQuiet s x

/-- CFSW (R417, R418). -/
def execCfsw (d a : Reg) (c : BitVec 2) (st : State) : Out :=
  match originOf (readReg st a) with
  | none => finish st d (cfgStatus 3 0)
  | some o =>
    match curSlice st, placementAt st o c with
    | some l, some p =>
      if p.owner == l.id && p.active && p.drainOwn then
        finish (resumeAdmission st p) d (cfgStatus 0 0)
      else
        match switchBar st l.id p with
        | some n => finish st d (cfgStatus n 0)
        | none => if readyToSwitch st p then finish (activate st p) d (cfgStatus 0 0) else waitHere st
    | _, _ => finish st d (cfgStatus 5 0)

/-- CFWV (R419): the region must be one of the running slice, of the new pattern's size, without a wavefront. -/
def execCfwv (d a b : Reg) (c : BitVec 2) (st : State) : Out :=
  match originOf (readReg st b), curSlice st with
  | none, _ => finish st d (cfgStatus 3 0)
  | _, none => finish st d (cfgStatus 5 0)
  | some o, some l =>
    match (activeRegion st o).filter fun p => p.owner == l.id with
    | none => finish st d (cfgStatus 5 0)
    | some pl =>
      let size : Option (Nat × Nat) :=
        if 2 ^ 16 ≤ (readReg st a).toNat then none
        else (readImage st { whoSeq st with checked := false } (readReg st a).toNat).map fun q => (q.2.rows, q.2.cols)
      match size with
      | none => finish st d (cfgStatus 2 0)
      | some z =>
        if z ≠ (pl.rows, pl.cols) then finish st d (cfgStatus 7 0)
        else if pl.armed.isSome then finish st d (cfgStatus 8 0)
        else
          withImage st d a b c fun s l im o =>
            finish (modPlacement (writeImage s im o c l.id) o pl.ctx fun p => { p with armed := some c, injected := [], quiet := false })
              d (cfgStatus 0 0)

/-! ### DRAIN and QWAIT -/

/-- The active region of the running slice at an origin operand, or the status that says why there is none. -/
def ownRegion (s : State) (v : Word) : Except Nat Placement :=
  match originOf v with
  | none => .error 3
  | some o =>
    match activeRegion s o with
    | none => .error 5
    | some pl =>
      let me := (curSlice s).map (·.id)
      if me == some pl.owner then .ok pl
      else if (findSlice s pl.owner).any liveSlice && me.isSome then .error 6 else .error 5

/-- DRAIN (R426, R427). -/
def execDrain (d a : Reg) (st : State) : Out :=
  match ownRegion st (readReg st a) with
  | .error n => finish st d (cfgStatus n 0)
  | .ok pl =>
    if pl.frozen then finish st d (cfgStatus 9 0)
    else if drained st pl then finish st d (cfgStatus 0 0)
    else waitHere (startDrain st pl true)

/-- QWAIT (R485). -/
def execQwait (d a b : Reg) (st : State) : Out :=
  match ownRegion st (readReg st a) with
  | .error n => finish st d (cfgStatus n 0)
  | .ok pl =>
    if pl.frozen then finish st d (cfgStatus 9 0)
    else if (if bitOf 0 (readReg st b).toNat then pl.complete else reportedQuiet st pl) then finish st d (cfgStatus 0 0)
    else pollWait st (.region pl.origin)

/-! ### INJ -/

/-- The descriptor of INJ (Table 14.15): site, track, token head. -/
def injSite (v : Word) : SiteId := BitVec.ofNat 14 v.toNat

/-- The token that INJ writes, without lanes. -/
def injHead (v : Word) : Token :=
  { kind := fieldOf 3 45 v.toNat, seq := fieldOf 12 32 v.toNat, eos := bitOf 44 v.toNat, valid := fieldOf 16 16 v.toNat
    lanes := [] }

/-- The sites of the panel row of a site. -/
def panelRow (x : SiteId) : List SiteId :=
  (List.range 18).map fun j => mkSite (siteDie x) (siteRow x) (siteCol x / 18 * 18 + j)

/-- The targets of INJ. -/
def injTargets (s : State) (x : SiteId) (row : Bool) : List SiteId :=
  if row then (panelRow x).filter fun y => !(siteOf s y).gated && domainOf s y == coreDomain s s.cur
  else if (siteOf s x).gated then [] else [x]

/-- A token for track t of port L finds a slot: in the entry queue of a port declared there, or on the track. -/
def injFree (s : State) (t : Nat) (x : SiteId) : Bool :=
  match portAt s false x 4 t with
  | some (pl, _) => decide ((chanOf s (entryKey pl.ctx 4 (x, t))).slots.length < entryCapacity)
  | none =>
    let c := chanOf s (chanKey x 4 t)
    decide (c.slots.length + c.flight.length + c.freed < 4)

/-- A token is written to track t of port L, where it is present once INJ has retired, behind what is still on its way (R449). -/
def injPut (t : Nat) (k : Token) (s : State) (x : SiteId) : State :=
  match portAt s false x 4 t with
  | some (pl, _) => modChan s (entryKey pl.ctx 4 (x, t)) fun c => { c with slots := c.slots ++ [k] }
  | none =>
    if (chanOf s (chanKey x 4 t)).flight.isEmpty then present s x 4 t k
    else modChan s (chanKey x 4 t) fun c => { c with flight := c.flight ++ [(k, x, false)] }

/-- The entry port declared at track t of port L closes, where there is one. -/
def injClose (t : Nat) (s : State) (x : SiteId) : State :=
  match portAt s false x 4 t with | some (pl, i) => closePort s pl i | none => s

/-- Lane l of 64 bytes. -/
def lanes64 (bs : List Byte) : Lanes := laneList fun l => BitVec.ofNat 32 (leNat ((bs.drop (4 * l)).take 4))

/-- INJ (R449, R450). -/
def execInj (d a b : Reg) (r c : Bool) (st : State) : Out :=
  let v := readReg st a
  let va := readReg st b
  let x := injSite v
  let k := injHead v
  let t := bitsAt 14 2 v.toNat
  let close (s : State) (ts : List SiteId) : State := if c then ts.foldl (injClose t) s else s
  if 2 ^ 48 ≤ v.toNat || (k.kind != 0 && k.kind != 5) || (va == 0 && !c) then finish st d 2
  else if !siteOk x || siteCore x != st.cur then finish st d 1
  else if !r && domainOf st x != coreDomain st st.cur then finish st d 1
  else
    let ts := injTargets st x r
    if ts.isEmpty then trapHere st 0x10 (x.zeroExtend 64)
    else if va == 0 then finish (close st ts) d 0
    else if va.toNat % 64 ≠ 0 then trapHere st 0x03 va
    else
      seqLoad st va 64 false fun s bs =>
        if ts.all (injFree s t) then finish (close (ts.foldl (injPut t { k with lanes := lanes64 bs }) s) ts) d 0
        else waitHere st

/-! ### DRAW -/

/-- The result of a DRAW that took a token (Table 13.29). -/
def drawResult (k : Token) : Word :=
  BitVec.ofNat 64 (k.kind.toNat * 2 ^ 45 + b2n k.eos * 2 ^ 44 + k.seq.toNat * 2 ^ 32 + k.valid.toNat * 2 ^ 16)

/-- The result of a DRAW that took none. -/
def drawStatus (n : Nat) : Word := BitVec.ofNat 64 (n * 2 ^ 56)

/-- The lanes of a token in memory: those of kinds without data are zero. -/
def tokenBytes (k : Token) : List Byte :=
  (laneList fun l => if k.kind = 0 || k.kind = 5 then (k.lanes[l]?).getD 0 else 0).flatMap fun w => leBytes 4 w.toNat

/-- NODE with GATED_ACCESS becomes pending at the running slice, for a gated site belongs to no region (R276, R284, R428). Log
entry 105. -/
def raiseGated (s : State) (x : SiteId) (t : Nat) : State :=
  let s1 := modSite s x fun k => { k with fault := if k.fault = 0 then faultWord 0xFFFF 0 0 4 t 5 else k.fault }
  match curSlice s with
  | none => s1
  | some l => modCore s1 fun c => { c with pendNode := c.pendNode ++ [{ site := x, catid := 0xFFFF, kind := 5, slice := l.id }] }

/-- DRAW (R428, R429). -/
def execDraw (d a b : Reg) (st : State) : Out :=
  let v := readReg st a
  let va := readReg st b
  let x := injSite v
  let t := bitsAt 14 2 v.toNat
  if 2 ^ 16 ≤ v.toNat then finish st d (drawStatus 2)
  else if !siteOk x || siteCore x != st.cur || domainOf st x != coreDomain st st.cur then finish st d (drawStatus 1)
  else if (siteOf st x).gated then finish (raiseGated st x t) d (drawStatus 4)
  else if va != 0 && va.toNat % 64 != 0 then trapHere st 0x03 va
  else
    match (if va = 0 then none else (match seqAccess st va 64 .store with | .error f => some f | .ok _ => none)) with
    | some f => trapFlt st f
    | none =>
      let key := chanKey x 9 t
      match (chanOf st key).slots with
      | k :: _ =>
        let took (s : State) : State := modChan s key fun c => { c with slots := c.slots.drop 1, freed := c.freed + 1 }
        if va = 0 then finish (took st) d (drawResult k)
        else seqStore st va (tokenBytes k) false fun s => finish (took s) d (drawResult k)
      | [] =>
        if (portAt st true x 4 t).any fun q => q.1.closed.contains q.2 then finish st d (drawStatus 3)
        else pollWait st (.output x (BitVec.ofNat 2 t))

/-! ### SELV -/

/-- A site holds a loaded context or a token. -/
def siteBusy (s : State) (x : SiteId) : Bool :=
  let k := siteOf s x
  k.ctxs.toList.any (·.isSome) || (chansAt s [x]).any (fun e => !e.2.2.2.slots.isEmpty || !e.2.2.2.flight.isEmpty) ||
    k.arcs.toList.any (·.isSome)

/-- The keys of the gateways on the links of a site, both ways. -/
def linkKeys (x : SiteId) : List Nat :=
  [0, 1, 2, 3].flatMap fun p => (List.range 4).flatMap fun t =>
    linkKey x p t :: (match neighbour x p with | some y => [linkKey y (facing p) t] | none => [])

/-- The sites of a rectangle get a domain, and the gateways on their links close (R492). -/
def assignDomain (s : State) (xs : List SiteId) (m : BitVec 4) : State :=
  let s1 := xs.foldl (fun u x => modSite u x fun k => { k with domain := m }) s
  let ks := xs.flatMap linkKeys
  { s1 with gateways := s1.gateways.filter fun g => !ks.contains g }

/-- SELV_ASSIGN (R492). -/
def execSelvAssign (d a b : Reg) (st : State) : Out :=
  let v := (readReg st a).toNat
  let rows := bitsAt 16 7 v
  let cols := bitsAt 24 7 v
  let x : SiteId := BitVec.ofNat 14 v
  let xs := (List.range rows).flatMap fun i => (List.range cols).map fun j => mkSite (siteDie x) (siteRow x + i) (siteCol x + j)
  if !(curCore st).sup then trapPriv st
  else if !zeroAt 31 33 v || !zeroAt 23 1 v || !zeroAt 14 2 v || 16 ≤ (readReg st b).toNat || rows = 0 || cols = 0 then
    finish st d 3
  else if 32 < siteRow x + rows || 72 < siteCol x + cols || dieGone st (siteDie x) then finish st d 1
  else if xs.any (siteBusy st) then finish st d 2
  else finish (assignDomain st xs ((readReg st b).truncate 4)) d 0

/-- SELV_OPEN and SELV_CLOSE up to the change of a gateway (R492). -/
def selvGate (st : State) (d a b : Reg) (f : Nat → State) : Out :=
  let v := (readReg st a).toNat
  let x : SiteId := BitVec.ofNat 14 v
  let p := bitsAt 16 2 v
  let t := bitsAt 18 3 v
  let far := (neighbour x p).any fun y => siteDie y != siteDie x
  if !(curCore st).sup then trapPriv st
  else if !zeroAt 31 33 v || !zeroAt 21 10 v || !zeroAt 14 2 v || 16 ≤ (readReg st b).toNat || 3 < t || (far && 1 < t) then
    finish st d 3
  else if !siteOk x then finish st d 1
  else finish (f (linkKey x p t)) d 0

/-- SELV_OPEN (R492). -/
def execSelvOpen (d a b : Reg) (st : State) : Out :=
  selvGate st d a b fun g => { st with gateways := setInsert st.gateways g }

/-- SELV_CLOSE (R492). -/
def execSelvClose (d a b : Reg) (st : State) : Out :=
  selvGate st d a b fun g => { st with gateways := st.gateways.erase g }

/-! ### CURD -/

/-- The blocked-node bitmap of a core (R58): bit row × 18 + column. -/
def blockedBits (s : State) (k : CoreId) : Nat :=
  let die : DieId := dieOfCore k
  let n := k.toNat % 16
  ((List.range 8).flatMap fun i => (List.range 18).map fun j =>
    if (siteOf s (mkSite die (n / 4 * 8 + i) (n % 4 * 18 + j))).blocked then 2 ^ (i * 18 + j) else 0).sum

/-- SITE_STATE (Table 13.25). -/
def siteState (s : State) (x : SiteId) : Word :=
  let k := siteOf s x
  let cat := ((activeCtx s x).map (·.catid.toNat)).getD 0xFFFF
  let loaded := ((List.range 4).map fun i => if ((k.ctxs[i]?).getD none).isSome then 2 ^ (4 + i) else 0).sum
  BitVec.ofNat 64 (cat * 2 ^ 48 + k.domain.toNat * 2 ^ 12 + b2n k.frozen * 2 ^ 11 + b2n (siteQuiet s x) * 2 ^ 10 +
    b2n k.drowsy * 2 ^ 9 + b2n k.gated * 2 ^ 8 + loaded + k.act.toNat)

/-- An item of curator state (R423). -/
def curdItem (s : State) (x : SiteId) (n : Nat) : Word :=
  match n with
  | 0 => (siteOf s x).fault
  | 1 => BitVec.ofNat 64 (blockedBits s (siteCore x))
  | 2 => BitVec.ofNat 64 (blockedBits s (siteCore x) / 2 ^ 64)
  | 3 => BitVec.ofNat 64 (blockedBits s (siteCore x) / 2 ^ 128)
  | 4 => (tblGet (dieOf s (siteDie x)).selvDrops (domainOf s x).toNat).getD 0
  | _ => siteState s x

/-- CURD (R423, R424). -/
def execCurd (d a b : Reg) (st : State) : Out :=
  let v := (readReg st a).toNat
  let n := (readReg st b).toNat
  let x : SiteId := BitVec.ofNat 14 v
  let k := siteOf st x
  if 5 < n || 2 ^ 14 ≤ v || !siteOk x || dieGone st (siteDie x) then finish st d 0xFFFFFFFFFFFFFFFF
  else if !(curCore st).sup && domainOf st x != coreDomain st st.cur then trapPriv st
  else if !(curCore st).sup && k.gated then trapHere st 0x10 (x.zeroExtend 64)
  else
    let w := if k.gated && n ≠ 5 then 0 else curdItem st x n
    finish (modSite st x fun q => { q with drowsy := false }) d w

end Sys2Proof.Machine
end

