-- ==== Sys2Proof/Machine/Atomics.lean ====
section
/-!
DEFINITION. Atomics and synchronisation of the sequencer (R166, R167, R217 to R222, R232, R343 to R345, R397, R398, R403 to
R405, R412, R486, R487, R490): AMO, AMOW, CAS, CASW, SARM, SWAIT, FENCE, BARR and RCSNAP.
-/
namespace Sys2Proof.Machine

/-! ### AMO and CAS -/

/-- The old value of an atomic as a result: 8 bytes, or 4 sign-extended. -/
def oldResult (n old : Nat) : Word := if n = 4 then sext32 (BitVec.ofNat 32 old) else BitVec.ofNat 64 old

/-- AMO and AMOW on n bytes (R397). -/
def amoAt (n : Nat) (d a b : Reg) (p : BitVec 3) (st : State) : Out :=
  let va := readReg st a
  let x := (readReg st b).toNat % 2 ^ (8 * n)
  if va.toNat % n ≠ 0 then trapHere st 0x03 va
  else seqRmw st va n (fun old => some (amoOp n p.toNat old x)) true fun s old => finish s d (oldResult n old)

/-- AMO (R397). -/
def execAmo (d a b : Reg) (p : BitVec 3) (st : State) : Out := amoAt 8 d a b p st

/-- AMOW (R397). -/
def execAmow (d a b : Reg) (p : BitVec 3) (st : State) : Out := amoAt 4 d a b p st

/-- CAS and CASW on n bytes (R412, R219): the checks of a write come first; D is set only by one that writes. -/
def casAt (n : Nat) (d a b : Reg) (st : State) : Out :=
  let va := readReg st a
  let want := (readReg st d).toNat % 2 ^ (8 * n)
  let new := (readReg st b).toNat % 2 ^ (8 * n)
  if va.toNat % n ≠ 0 then trapHere st 0x03 va
  else
    seqRmw st va n (fun _ => none) false fun s old =>
      if old = want then seqRmw st va n (fun _ => some new) true fun u _ => finish u d (oldResult n old)
      else finish s d (oldResult n old)

/-- CAS (R412). -/
def execCas (d a b : Reg) (st : State) : Out := casAt 8 d a b st

/-- CASW (R412). -/
def execCasw (d a b : Reg) (st : State) : Out := casAt 4 d a b st

/-! ### Sync words -/

/-- SARM with a target at the sync word at pa: the word after it (R167). -/
def armWord (s : State) (pa t : Nat) : State :=
  let f := memNat s.mem (pa + 12) 4
  if t = 0 then { s with mem := memWrite s.mem (pa + 12) (leBytes 4 (f / 2 * 2)) }
  else
    let f1 := f / 2 * 2 + 1
    let (c, g) := syncAdvance f1 t (memNat s.mem (pa + 4) 4) (memNat s.mem (pa + 8) 4)
    { s with mem := memWrite s.mem pa (leBytes 4 t ++ leBytes 4 c ++ leBytes 4 g ++ leBytes 4 f1) }

/-- The checks of SARM and SWAIT on their sync word, handing its offset on (R490). A poisoned scratchpad line is used as it stands.
Log entry 101. -/
def atSyncWord (st : State) (va : Word) (go : Nat → Out) : Out :=
  if va.toNat % 16 ≠ 0 then trapHere st 0x03 va
  else if va.toNat / 2 ^ 48 = 0xF0 then
    match seqAccess st va 16 .atomic with
    | .error f => trapFlt st f
    | .ok (_, .window o) => if fifoTaken st (scratchPa st.cur o) then .next st else go o
    | .ok _ => trapHere st 0x08 va
  else if va.toNat / 2 ^ 48 ≠ 0 then trapHere st 0x04 va 4
  else
    match checkManifest (whoSeq st) va.toNat 16 .atomic with
    | some f => trapFlt st f
    | none => trapHere st 0x08 va

/-- SARM (R490). -/
def execSarm (d a b : Reg) (st : State) : Out :=
  atSyncWord st (readReg st a) fun o =>
    let pa := scratchPa st.cur o
    finish (wakeSync (armWord st pa (bitsAt 0 32 (readReg st b).toNat)) pa) d (BitVec.ofNat 64 (memNat st.mem (pa + 8) 4))

/-- SWAIT (R490, R486). -/
def execSwait (d a b : Reg) (st : State) : Out :=
  atSyncWord st (readReg st a) fun o =>
    let g := memNat st.mem (scratchPa st.cur o + 8) 4
    if g ≠ bitsAt 0 32 (readReg st b).toNat then finish st d (BitVec.ofNat 64 g) else pollWait st (.sync o)

/-! ### FENCE -/

/-- The regions of the running slice. -/
def curRegions (s : State) : List Region := ((curSlice s).map (·.regions)).getD []

/-- The page-table root in use. -/
def curRoot (s : State) : Word := (curCore s).regs.ptBase

/-- WB of a FENCE: the dirty lines of W and RW regions are written back. -/
def fenceWb (s : State) : State := cleanRegions s s.cur (curRoot s) (curRegions s) writable

/-- INV of a FENCE: the lines of R and RW regions are written back and dropped. -/
def fenceInv (s : State) : State := dropRegions s s.cur (curRoot s) (curRegions s) readable

/-- No write-back of a core is on its way over another die (R226). -/
def writesDone (s : State) (k : CoreId) : Bool := s.dies.all fun d => d.2.forwards.all fun w => w.core != k

/-- What the core sent has performed for the agents of a scope: tokens it injected from the subgraph levels on, write-backs
on their way over another die from the module on. -/
def fenceDone (s : State) (scope : Nat) : Bool :=
  (decide (scope < 6) || writesDone s s.cur) &&
    (scope == 0 || s.chans.all fun e =>
      !(e.1 / 8 % 16 == 4 && decide (e.1 / 128 < 2 ^ 14) && siteCore (BitVec.ofNat 14 (e.1 / 128)) == s.cur &&
        !e.2.flight.isEmpty))

/-- The core waits and takes no asynchronous cause meanwhile. -/
def holdOn (s : State) (w : WaitSt) : Out := .next (modCore s fun c => { c with wait := some w })

/-- FENCE (R222). -/
def execFence (w i b : Bool) (sc : BitVec 3) (st : State) : Out :=
  let s1 := if b then fenceWb st else st
  if w && !fenceDone s1 sc.toNat then holdOn s1 { arrived := true }
  else finishQuiet (if i then fenceInv s1 else s1)

/-! ### BARR -/

/-- The barrier word after an arrival (R404). -/
def barrierStep (n old : Nat) : Nat :=
  if n ≤ old % 2 ^ 32 + 1 then (old / 2 ^ 32 + 1) % 2 ^ 32 * 2 ^ 32 else old + 1

/-- A BARR that has been released: step 4 and the result. -/
def barrDone (s : State) (d : Reg) (r : Word) : Out := finish (fenceInv s) d r

/-- A memory barrier after its arrival polls its word, and gives the line up between polls. A poll that cannot be made is made
again. -/
def barrPoll (st : State) (d : Reg) (va : Word) (w : WaitSt) : Out :=
  match seqAccess st va 8 .atomic false false with
  | .error _ => .next st
  | .ok (s1, t) =>
    if targetHeld st t .atomic then .next (holdRequest st t .atomic)
    else if targetPoisoned s1 t .atomic then .next st
    else
      let (s2, old) := seqAtomic s1 t 8 fun _ => none
      if old / 2 ^ 32 ≠ w.gen.toNat then barrDone s2 d w.result
      else .next (l1Drop s2 s2.cur (lineOf (t.pa s2.cur)))

/-- The memory form of BARR up to its arrival; the last arrival does not wait. -/
def barrMemory (st : State) (d : Reg) (va : Word) (n : Nat) : Out :=
  if va.toNat % 8 ≠ 0 then trapHere st 0x03 va
  else
    match seqAccess st va 8 .atomic with
    | .error f => trapFlt st f
    | .ok (s0, t0) =>
      if targetPoisoned s0 t0 .atomic then trapHere st 0x13 va
      else
        let s1 := fenceWb st
        if !fenceDone s1 6 then .next s1
        else
          seqRmw s1 va 8 (fun old => some (barrierStep n old)) true fun s old =>
            let r : Word := BitVec.ofNat 64 (old % 2 ^ 32)
            if n ≤ old % 2 ^ 32 + 1 then barrDone s d r
            else holdOn s { arrived := true, result := r, gen := BitVec.ofNat 32 (old / 2 ^ 32) }

/-- The track of port L on which a site puts out a control token, lowest first. -/
def controlOut (s : State) (x : SiteId) : Option Nat :=
  [0, 1, 2, 3].find? fun t => (chanOf s (chanKey x 9 t)).slots.any fun k => k.kind == 5

/-- The first control token of a list goes; the tokens before it stay. -/
def dropControl : List Token → List Token
  | [] => []
  | k :: t => if k.kind = 5 then t else k :: dropControl t

/-- The fabric form of BARR after its arrival: a control token at any track of the site's port L releases it. Log entry 27. -/
def barrRelease (st : State) (d : Reg) (x : SiteId) (w : WaitSt) : Out :=
  match controlOut st x with
  | none => .next st
  | some t =>
    barrDone (modChan st (chanKey x 9 t) fun c => { c with slots := dropControl c.slots, freed := c.freed + 1 }) d w.result

/-- The fabric form of BARR up to its arrival. -/
def barrFabric (st : State) (d : Reg) (v : Word) : Out :=
  let x := injSite v
  let t := bitsAt 14 2 v.toNat
  if (siteOf st x).gated then trapHere st 0x10 (x.zeroExtend 64)
  else
    let s1 := fenceWb st
    if !fenceDone s1 6 then .next s1
    else if 2 ^ 16 ≤ v.toNat || !siteOk x || siteCore x != st.cur then barrDone s1 d 1
    else if !injFree s1 t x then .next s1
    else holdOn (injPut t { kind := 5, seq := 0, eos := true, valid := 0, lanes := [] } s1 x) { arrived := true, fabric := true }

/-- BARR (R403 to R405). -/
def execBarr (d a b : Reg) (st : State) : Out :=
  let v := readReg st a
  let n := bitsAt 0 32 (readReg st b).toNat
  match ((curCore st).wait).filter (·.arrived) with
  | some w => if w.fabric then barrRelease st d (injSite v) w else barrPoll st d v w
  | none => if n = 0 then barrFabric st d v else barrMemory st d v n

/-! ### RCSNAP -/

/-- The addresses of n lines from va on. -/
def lineAddrs (va : Word) (n : Nat) : List Word := (List.range n).map fun i => va + BitVec.ofNat 64 (64 * i)

/-- The fault of one access of n lines from va on, none if there is none: the steps of R189 are taken for the whole of it, and the
faults of the later steps come in the order of their causes (XLATE, PERM, COW, MODE). -/
def linesFault (st : State) (va : Word) (n : Nat) : Option Flt :=
  match (lineAddrs va n).find? fun a => formBad a.toNat .atomic with
  | some a => some { cause := 0x04, addr := a, detail := 4 }
  | none =>
    match checkManifest (whoSeq st) va.toNat (64 * n) .atomic with
    | some f => some f
    | none =>
      let fs := (lineAddrs va n).filterMap fun a => match seqAccess st a 64 .atomic with | .error f => some f | .ok _ => none
      ([0x04, 0x05, 0x06] : List (BitVec 8)).findSome? (fun c => fs.find? fun f => f.cause == c) |>.or fs.head?

/-- One line of an atomic that no check stops is held or poisoned. -/
def lineBar (st : State) (a : Word) : Option Out :=
  match seqAccess st a 64 .atomic with
  | .error f => some (trapFlt st f)
  | .ok (s1, t) =>
    if targetHeld st t .atomic then some (.next (holdRequest st t .atomic))
    else if targetPoisoned (settle s1 t .atomic) t .atomic then some (trapHere st 0x13 a)
    else none

/-- An atomic on n lines from va on is stopped by a fault, or by a line that is held or poisoned: none when it may go ahead. -/
def linesBar (st : State) (va : Word) (n : Nat) : Option Out :=
  match linesFault st va n with
  | some f => some (trapFlt st f)
  | none => (lineAddrs va n).findSome? (lineBar st)

/-- Bytes of whole lines written as atomics from va on. -/
def atomicLines (s : State) (va : Word) (bs : List Byte) : Nat → State
  | 0 => s
  | n + 1 =>
    let u := atomicLines s va bs n
    match seqAccess u (va + BitVec.ofNat 64 (64 * n)) 64 .atomic with
    | .error _ => u
    | .ok (u1, t) => (seqAtomic u1 t 64 fun _ => some (leNat ((bs.drop (64 * n)).take 64))).1

/-- RCSNAP (R487, R344, R345). -/
def execRcsnap (d a : Reg) (st : State) : Out :=
  let va := readReg st a
  let c := curCore st
  let me := (curSlice st).map (·.id)
  if va.toNat % 64 ≠ 0 then trapHere st 0x03 va
  else
    match linesBar st va 4 with
    | some o => o
    | none =>
      if c.counterOwner.isSome && c.counterOwner != me then finish st d 0xFFFFFFFFFFFFFFFF
      else
        let bs := c.counters.toList.flatMap fun w => leBytes 4 w.toNat
        let sum := (c.counters.toList.map (·.toNat)).sum
        let s1 := modCore (atomicLines st va bs 4) fun k => { k with
          counters := Vector.replicate 64 0, counterOwner := if c.counterOwner.isSome then c.counterOwner else me }
        finish s1 d (BitVec.ofNat 64 sum)

end Sys2Proof.Machine
end

