-- ==== Sys2Proof/Machine/Rings.lean ====
section
/-!
DEFINITION. Queue descriptors and the residency of queues (R243, R244, R248): a queue in its ring, in the queue RAM of its core,
and the way between them.
-/
namespace Sys2Proof.Machine

/-! ### Queue descriptors (R243, Table 7.1) -/

/-- The home die of a queue. -/
def queueDie (q : BitVec 24) : DieId := fieldOf 2 22 q.toNat

/-- A queue descriptor as it stands in memory. -/
structure QueueDesc where
  pa : Nat
  ring : Nat
  head : BitVec 32
  tail : BitVec 32
  cohort : BitVec 16
  core : CoreId
  log2 : Nat
  closed : Bool
  res : Bool
deriving DecidableEq, Repr

/-- The descriptor of a queue, if there is such a queue; one on a poisoned line counts as EN = 0. Log entry 90. -/
def queueDesc (s : State) (q : BitVec 24) : Option QueueDesc :=
  let d := queueDie q
  let qdir := (dieOf s d).docent.qdir.toNat
  let i := q.toNat % 2 ^ 22
  let pa := bitsAt 12 40 qdir * 4096 + 32 * i
  let w (k : Nat) : Nat := walkerRead s (pa + 8 * k)
  if 2 ^ (qdir % 32) ≤ i || poisoned s d pa then none
  else if bitOf 26 (w 2) && zeroAt 52 12 (w 0) && zeroAt 0 6 (w 0) && zeroAt 29 35 (w 2) && w 3 == 0 &&
      decide (4 ≤ bitsAt 22 4 (w 2)) && decide (bitsAt 22 4 (w 2) ≤ 12) then
    some { pa := pa, ring := bitsAt 6 46 (w 0) * 64, head := fieldOf 32 0 (w 1), tail := fieldOf 32 32 (w 1)
           cohort := fieldOf 16 0 (w 2), core := fieldOf 6 16 (w 2), log2 := bitsAt 22 4 (w 2), closed := bitOf 27 (w 2)
           res := bitOf 28 (w 2) }
  else none

/-- Bit i of the third word of a descriptor is set or cleared. -/
def queueBit (s : State) (d : DieId) (q : QueueDesc) (i : Nat) (on : Bool) : State :=
  let w := walkerRead s (q.pa + 0x10)
  homeWrite s d (q.pa + 0x10) (leBytes 8 (w - b2n (bitOf i w) * 2 ^ i + b2n on * 2 ^ i))

/-- HEAD and TAIL of a descriptor. -/
def queueEnds (s : State) (d : DieId) (q : QueueDesc) (head tail : BitVec 32) : State :=
  homeWrite s d (q.pa + 8) (leBytes 4 head.toNat ++ leBytes 4 tail.toNat)

/-- The state with the queue RAM of a core changed at a queue. -/
def modQueue (s : State) (k : CoreId) (q : BitVec 24) (f : QueueRam → QueueRam) : State :=
  let c := coreOf s k
  setCore s k { c with queues := c.queues.map fun r => if r.qid = q then f r else r }

/-- The queue RAM that holds a queue which is resident. -/
def residentQueue (s : State) (q : BitVec 24) (k : QueueDesc) : Option QueueRam :=
  if k.res then queueIn (coreOf s k.core) q else none

/-! ### Queues (R248) -/

/-- A queue of a core's RAM goes to its ring, with HEAD and TAIL, and is no longer resident. -/
def ringOut (s : State) (r : QueueRam) : State :=
  match queueDesc s r.qid with
  | none => s
  | some k =>
    let d := queueDie r.qid
    let s1 := (List.range r.entries.length).foldl (fun u i =>
      homeWrite u d (k.ring + 8 * ((r.popped.toNat + i) % r.cap)) (leBytes 8 ((r.entries[i]?).getD 0).toNat)) s
    queueBit (queueEnds s1 d k r.popped (r.popped + BitVec.ofNat 32 r.entries.length)) d k 28 false

/-- The queues of a cohort leave every queue RAM. -/
def queuesOut (s : State) (cohort : BitVec 16) : State :=
  s.cores.foldl (fun u e =>
    let k : CoreId := BitVec.ofNat 6 e.1
    let mine := e.2.queues.filter fun r => r.cohort == cohort
    let u1 := mine.foldl ringOut u
    setCore u1 k { coreOf u1 k with queues := (coreOf u1 k).queues.filter fun r => r.cohort != cohort }) s

/-- The queues of every directory. -/
def allQueues (s : State) : List (BitVec 24 × QueueDesc) :=
  [(0 : DieId), 1, 2, 3].flatMap fun d =>
    (List.range (2 ^ ((dieOf s d).docent.qdir.toNat % 32))).filterMap fun i =>
      let q : BitVec 24 := BitVec.ofNat 24 (d.toNat * 2 ^ 22 + i)
      (queueDesc s q).map fun k => (q, k)

/-- The queues of a cohort that are not resident. -/
def queuesOf (s : State) (cohort : BitVec 16) : List (BitVec 24 × QueueDesc) :=
  (allQueues s).filter fun e => e.2.cohort == cohort && !e.2.res

/-- Queue-RAM entries a core has given out: to each queue its capacity. -/
def queueRamUsed (s : State) (k : CoreId) : Nat := ((coreOf s k).queues.map (·.cap)).sum

/-- Every core has room for the queues of a list (R244). -/
def queueRoom (s : State) (qs : List (BitVec 24 × QueueDesc)) : Bool :=
  qs.all fun e =>
    let k := e.2.core
    let mine := qs.filter fun f => f.2.core == k
    decide (queueRamUsed s k + (mine.map fun f => 2 ^ f.2.log2).sum ≤ 4096) && decide ((coreOf s k).queues.length + mine.length ≤ 64)

/-- A queue's ring is loaded into its core's RAM, and it is resident. -/
def ringIn (s : State) (e : BitVec 24 × QueueDesc) : State :=
  let k := e.2
  let n := min (k.tail - k.head).toNat (2 ^ k.log2)
  let es : List Word := (List.range n).map fun i =>
    BitVec.ofNat 64 (walkerRead s (k.ring + 8 * ((k.head.toNat + i) % 2 ^ k.log2)))
  let s1 := setCore s k.core { coreOf s k.core with
    queues := (coreOf s k.core).queues ++ [{ qid := e.1, entries := es, cap := 2 ^ k.log2, cohort := k.cohort, popped := k.head }] }
  queueBit s1 (queueDie e.1) k 28 true

/-- The queues of a cohort are in the queue RAM of their cores (R244). -/
def queuesIn (s : State) (cohort : BitVec 16) : State := (queuesOf s cohort).foldl ringIn s

/-- The cores a cohort's queues live on have room for all of them (R244). -/
def queuesFit (s : State) (cohort : BitVec 16) : Bool := queueRoom s (queuesOf s cohort)

end Sys2Proof.Machine
end

