-- ==== Sys2Proof/Machine/Slices.lean ====
section
/-!
DEFINITION. The life of a slice (R94 to R108, R196 to R212, R242, R249, R433, R468 to R470, R499): task records, cohort
records, placement, admission, pending tables and releases, forward notices and retirement, with SPAWN and NOTIFY.
-/
namespace Sys2Proof.Machine

/-! ### Task records (R98, R99, Table 3.7) -/

/-- The record is well formed (R99). -/
def recordOk (r : List Byte) : Bool :=
  let w := recWord r
  eqAt 56 8 1 (w 0) && zeroAt 52 4 (w 0) && zeroAt 48 16 (w 1) && zeroAt 24 40 (w 2) && zeroAt 0 6 (w 3) && zeroAt 56 8 (w 3) &&
    zeroAt 0 4 (w 4) && zeroAt 56 8 (w 4) && zeroAt 36 28 (w 6) && zeroAt 0 3 (w 7) && zeroAt 60 4 (w 7) &&
    decide (bitsAt 56 4 (w 7) ≤ 8) && decide (shapeOffset (BitVec.ofNat 64 (w 6)) 6 ≤ 64)

/-- A record with what its creation takes beside it: its address, translation, notices, spawner, and what SPAWN read. -/
structure Birth where
  record : List Byte
  addr : Word
  asid : Word
  ptBase : Word
  notices : List Notice := []
  spawner : Option (BitVec 32) := none
  sent : Option (List Byte × List Byte) := none
deriving DecidableEq, Repr

/-! ### Cohort records (R249, Table 7.4) -/

/-- The address of a cohort's record as a die finds it: none where CDIR is zero or the cohort is not below its records. -/
def cohortAt (s : State) (die : DieId) (cohort : BitVec 16) : Option Nat :=
  let cdir := (dieOf s die).docent.cdir.toNat
  if cdir / 2 ^ 12 % 2 ^ 40 = 0 || decide (2 ^ (cdir % 32) ≤ cohort.toNat) then none
  else some (cdir / 2 ^ 12 % 2 ^ 40 * 2 ^ 12 + 32 * cohort.toNat)

/-- A slice that lives in a cohort: every one from its creation to its retirement. -/
def memberOf (cohort : BitVec 16) (l : Slice) : Bool := liveSlice l && l.cohort == cohort

/-- Deadline a is earlier than b, as R236 compares them. -/
def earlier (a b : BitVec 48) : Bool := decide (signed48 (a.toNat + 2 ^ 48 - b.toNat) < 0)

/-- The earliest of a list of deadlines. -/
def earliest : List (BitVec 48) → Option (BitVec 48)
  | [] => none
  | a :: t =>
    match earliest t with
    | none => some a
    | some b => if earlier b a then some b else some a

/-- EARLIEST of a cohort's record follows its members' deadlines. -/
def syncEarliest (s : State) (die : DieId) (cohort : BitVec 16) : State :=
  match cohortAt s die cohort, earliest ((s.slices.filter (memberOf cohort)).map (·.deadline)) with
  | some pa, some e => homeWrite s die (pa + 0x10) (leBytes 6 e.toNat)
  | _, _ => s

/-- MEMBERS of a cohort, 0 without a record. -/
def membersOf (s : State) (die : DieId) (cohort : BitVec 16) : Nat :=
  match cohortAt s die cohort with | some pa => memNat s.mem (pa + 0x18) 8 | none => 0

/-- The lowest clear bit of MEMBERS. -/
def lowestClear (m : Nat) : Nat := ((List.range 64).find? fun j => !bitOf j m).getD 0

/-- MEMBERS with bit j set or clear. -/
def setMember (s : State) (die : DieId) (cohort : BitVec 16) (j : Nat) (on : Bool) : State :=
  match cohortAt s die cohort with
  | none => s
  | some pa =>
    let m := memNat s.mem (pa + 0x18) 8
    let m1 := m - b2n (bitOf j m) * 2 ^ j + b2n on * 2 ^ j
    homeWrite s die (pa + 0x18) (leBytes 8 m1)

/-- STATE of a cohort record. -/
def cohortState (s : State) (die : DieId) (cohort : BitVec 16) : Nat :=
  match cohortAt s die cohort with | some pa => bitsAt 16 3 (walkerRead s (pa + 8)) | none => 0

/-- A cohort record with STATE written. -/
def setCohortState (s : State) (die : DieId) (cohort : BitVec 16) (v : Nat) : State :=
  match cohortAt s die cohort with
  | none => s
  | some pa =>
    let w := walkerRead s (pa + 8)
    homeWrite s die (pa + 8) (leBytes 8 (w - bitsAt 16 3 w * 2 ^ 16 + v * 2 ^ 16))

/-! ### Creation (R101, R105, R107) -/

/-- A slice holds its slot on its core: one that lives and is not swapped out. -/
def holdsSlot (l : Slice) : Bool := liveSlice l && l.state != .swapped

/-- The slots of a core in use. -/
def slotsUsed (s : State) (k : CoreId) : List (BitVec 5) :=
  (s.slices.filter fun l => l.core == k && holdsSlot l).map (·.slot)

/-- The lowest free slot of a core. -/
def freeSlot (s : State) (k : CoreId) : Option (BitVec 5) :=
  ((List.range 32).map (BitVec.ofNat 5)).find? fun i => !(slotsUsed s k).contains i

/-- The core ANY gives on a die: the one that holds the fewest resident slices, the lowest of equals. Every slice that holds a slot
counts as resident here, waiting or retiring ones too. Log entry 86. -/
def anyCore (s : State) (die : DieId) : CoreId :=
  ((List.range 16).map fun i => (BitVec.ofNat 6 (die.toNat * 16 + i) : CoreId)).foldl (fun b k =>
    if (slotsUsed s k).length < (slotsUsed s b).length then k else b) (BitVec.ofNat 6 (die.toNat * 16))

/-- The core a placement names. -/
def placeCore (s : State) (place : Word) (spawnDie : DieId) : CoreId :=
  if bitOf 6 place.toNat then anyCore s spawnDie else place.truncate 6

/-- The registers of a slice before its first firing (R96). -/
def birthRegs (b : Birth) : SeqRegs :=
  { x := (Vector.replicate 64 (0 : Word)).setIfInBounds 1 b.addr, asid := b.asid, ptBase := b.ptBase }

/-- The slice of a record in a slot of a core. -/
def newSlice (b : Birth) (k : CoreId) (slot : BitVec 5) (inc : BitVec 16) (member order : Nat) : Slice :=
  let w := recWord b.record
  { id := BitVec.ofNat 32 (inc.toNat * 2 ^ 16 + k.toNat * 32 + slot.toNat)
    core := k, slot := slot, state := .created, record := b.addr
    deadline := fieldOf 48 0 (w 0), cls := fieldOf 3 48 (w 0), strict := bitOf 51 (w 0)
    budget := if bitsAt 0 48 (w 1) = 0 then none else some (fieldOf 48 0 (w 1))
    cohort := fieldOf 16 0 (w 2), member := member
    entryDesc := BitVec.ofNat 64 (bitsAt 0 56 (w 3)), manifest := BitVec.ofNat 64 (bitsAt 0 56 (w 4))
    wid := BitVec.ofNat 64 (w 5), widShape := BitVec.ofNat 64 (bitsAt 0 36 (w 6))
    succ := BitVec.ofNat 64 (bitsAt 0 56 (w 7)), nsucc := bitsAt 56 4 (w 7)
    regs := birthRegs b, notices := b.notices, order := order, spawner := b.spawner, sent := b.sent }

/-- A slice is created in a slot of a core: the slot's incarnation steps, and the cohort's record has a new member. -/
def createIn (s : State) (b : Birth) (k : CoreId) (slot : BitVec 5) : State :=
  let die := dieOfCore k
  let cohort : BitVec 16 := fieldOf 16 0 (recWord b.record 2)
  let c := coreOf s k
  let inc : BitVec 16 := (tblGet c.incarnation slot.toNat).getD 0 + 1
  let j := lowestClear (membersOf s die cohort)
  let l := newSlice b k slot inc j s.serial
  let s1 := setCore s k { c with incarnation := tblSet c.incarnation slot.toNat inc }
  let s2 := { s1 with slices := s1.slices.filter (fun m => m.id != l.id) ++ [l], serial := s1.serial + 1 }
  syncEarliest (setMember s2 die cohort j true) die cohort

/-- A creation sent from a die: the slice, or status 2 (FULL) or 5 (NODIE) of Table 3.10; a die that cannot be reached counts as lost
(R346, R348). -/
def tryCreate (s : State) (src : DieId) (place : Word) (spawnDie : DieId) (b : Birth) : Except Nat State :=
  let k := placeCore s place spawnDie
  let cohort : BitVec 16 := fieldOf 16 0 (recWord b.record 2)
  if dieGone s (dieOfCore k) || cutOff s src (dieOfCore k) then .error 5
  else if 64 ≤ (s.slices.filter (memberOf cohort)).length then .error 2
  else
    match freeSlot s k with
    | none => .error 2
    | some i => .ok (createIn s b k i)

/-! ### Pending tables (R107, R210) -/

/-- The die that holds a key. -/
def keyDie (v : Nat) : DieId := fieldOf 2 6 v

/-- Entries a pending table holds. -/
def pendingCapacity : Nat := 4096

/-- The entry of a key. -/
def pendFind (s : State) (v : Nat) : Option PendEntry := (dieOf s (keyDie v)).pending.find? fun e => e.key == v

/-- The state with the entry of a key replaced, added or removed. -/
def pendPut (s : State) (v : Nat) (e : Option PendEntry) : State :=
  modDie s (keyDie v) fun k => { k with
    pending := match e with
      | none => k.pending.filter fun x => x.key != v
      | some n => if k.pending.any (fun x => x.key == v) then k.pending.map fun x => if x.key = v then n else x else k.pending ++ [n] }

/-- The creation of an entry whose balance has reached zero: it leaves the table, or stays with balance zero when no slot is
free. -/
def createEntry (s : State) (e : PendEntry) (b : Birth) : State × Nat :=
  match tryCreate s (keyDie e.key) e.place e.spawnDie b with
  | .ok s1 => (pendPut s1 e.key none, 0)
  | .error 2 => ({ pendPut s e.key (some { e with balance := 0, order := s.serial }) with serial := s.serial + 1 }, 1)
  | .error n => (pendPut s e.key none, n)

/-- The birth of an entry: the slice whose SPAWN named the key is its spawner (R206, R207). -/
def entryBirth (e : PendEntry) (r : List Byte) : Birth :=
  { record := r, addr := BitVec.ofNat 64 e.key, asid := e.asid, ptBase := e.ptBase, notices := e.notices, spawner := e.spawner }

/-- A release with its notices arrives at the table of its key, or none when it must wait (R107, R210). -/
def release (s : State) (v : Nat) (notices : List Notice) : Option State :=
  match pendFind s v with
  | none =>
    if pendingCapacity ≤ (dieOf s (keyDie v)).pending.length then none
    else some (pendPut s v (some { key := v, balance := -1, notices := notices }))
  | some e =>
    if 8 < e.notices.length + notices.length then none
    else
      let e1 := { e with balance := e.balance - 1, notices := e.notices ++ notices }
      match e1.record with
      | none => some (pendPut s v (some e1))
      | some r => if e1.balance = 0 then some (createEntry s e1 (entryBirth e1 r)).1 else some (pendPut s v (some e1))

/-- RELEASE (R107): one release arrives; one that finds no room waits. -/
def execRelease (die : DieId) (key : Word) (st : State) : Out :=
  if keyDie key.toNat != die || (dieOf st die).lost then .next st else .next ((release st key.toNat []).getD st)

/-- The entries of a table whose creation waits for a slot, in the order in which their balances reached zero. -/
def dueEntries (s : State) (die : DieId) : List PendEntry :=
  ((dieOf s die).pending.filter fun e => e.record.isSome && decide (e.balance ≤ 0)).mergeSort fun a b => decide (a.order ≤ b.order)

/-- An entry is tried again; it keeps its place in the order. -/
def retryEntry (s : State) (e : PendEntry) : State :=
  match e.record with
  | none => s
  | some r =>
    match tryCreate s (keyDie e.key) e.place e.spawnDie (entryBirth e r) with
    | .ok s1 => pendPut s1 e.key none
    | .error 2 => s
    | .error _ => pendPut s e.key none

/-- PENDING_RETRY (R107). -/
def execPendingRetry (die : DieId) (st : State) : Out := .next ((dueEntries st die).foldl retryEntry st)

/-! ### Manifests and actor chains (R94, R196, R197) -/

/-- A reader of n bytes within a line at a virtual address. -/
abbrev Reader := State → Nat → Nat → Except Flt (State × List Byte)

/-- The maker of a core's own reads for a slice, which no manifest checks (R201). -/
def whoReads (k : CoreId) (asid root : Word) : Who :=
  { core := k, die := dieOfCore k, asid := asid, root := root, checked := false, regions := [] }

/-- A read of a core for a slice: its checks, and its walk; fields of device registers marked SV are for supervisor code alone
(R6). Log entry 35. -/
def readerTarget (w : Who) (sup : Bool) (s : State) (va n : Nat) : Except Flt (State × Target) :=
  match checkAccess s w va n .load false fun l pa => seqPage l pa .load false with
  | .error f => .error f
  | .ok (s1, t) =>
    let dev := match t with | .window _ => false | .phys pa _ => paKind pa == .device && devSvRange pa n
    if dev && !sup then .error { cause := 0x0D, addr := 0 } else .ok (walkClaim s s1 w va false, t)

/-- Reads of a core through its L1, without a manifest check (R105, R201, R209). -/
def l1Reader (k : CoreId) (sup : Bool) (asid root : Word) : Reader := fun s va n =>
  let w := whoReads k asid root
  match readerTarget w sup s va n with
  | .error f => .error f
  | .ok (s1, t) =>
    let pa := t.pa k
    if poisoned s1 w.die pa then .error { cause := 0x13, addr := BitVec.ofNat 64 va }
    else
      match t with
      | .window _ => .ok (s1, memBytes s1.mem pa n)
      | .phys _ _ => .ok (match paKind pa with | .device => (s1, devReadAll s1 pa n) | _ => cachedRead s1 k pa n)

/-- Reads of the placement logic through the die cache (R94, R108, R201). -/
def homeReader (k : CoreId) (asid root : Word) : Reader := fun s va n =>
  let w := whoReads k asid root
  match readerTarget w false s va n with
  | .error f => .error f
  | .ok (s1, t) =>
    let pa := t.pa k
    if poisoned s1 w.die pa then .error { cause := 0x13, addr := BitVec.ofNat 64 va }
    else
      match t with
      | .window _ => .ok (s1, memBytes s1.mem pa n)
      | .phys _ _ => .ok (homeRead (coreRequest s1 k (lineOf pa)) w.die pa n)

/-- EXTENT of a region record. -/
def recExtent (r : List Byte) : Nat := bitsAt 0 40 (recWord r 1)

/-- The records of a manifest from an address on, up to n of them and the one that ends the list. -/
def manifestBytes (rd : Reader) : Nat → State → Nat → Except Flt (State × List Byte)
  | 0, s, _ => .ok (s, [])
  | n + 1, s, va =>
    match rd s va 16 with
    | .error f => .error f
    | .ok (s1, r) =>
      if recExtent r = 0 then .ok (s1, [])
      else
        match manifestBytes rd n s1 (va + 16) with
        | .error f => .error f
        | .ok (s2, t) => .ok (s2, r ++ t)

/-- The region of a record (Table 6.1). -/
def regionOf (r : List Byte) : Region :=
  let b := recWord r 0
  let m := recWord r 1
  { base := bitsAt 0 56 b, extent := bitsAt 0 40 m, mode := fieldOf 3 40 m, action := fieldOf 2 43 m, fwd := fieldOf 3 45 m
    fwdsp := bitOf 48 m, dstoff := fieldOf 10 49 m }

/-- A record has no fault of its own (R197). -/
def regionOk (r : List Byte) (nsucc : Nat) : Bool :=
  let g := regionOf r
  let window := g.base / 2 ^ 48 == 0xF0
  let last := g.base % 2 ^ 48 + g.extent - 1
  zeroAt 56 8 (recWord r 0) && zeroAt 59 5 (recWord r 1) && decide (g.mode.toNat ≤ 4) && g.action != 3 &&
    (window || g.base / 2 ^ 48 == 0) && decide (last < (if window then 0x400000 else 2 ^ 48)) &&
    (g.action == 0 || (writable g && !window)) &&
    (g.action == 2 || (g.fwd == 0 && !g.fwdsp && g.dstoff == 0)) &&
    (g.action != 2 || decide (g.fwd.toNat < nsucc)) &&
    (!g.fwdsp || decide (g.dstoff.toNat * 4096 + g.extent ≤ 0x400000))

/-- Two regions share an address. -/
def meetRegions (a b : Region) : Bool := decide (a.base < b.base + b.extent) && decide (b.base < a.base + a.extent)

/-- The regions of a manifest's records, or the number of the first record at fault. -/
def parseManifest (nsucc : Nat) : List (List Byte) → Nat → List Region → Except Nat (List Region)
  | [], _, acc => .ok acc
  | r :: t, i, acc =>
    if regionOk r nsucc && !(acc.any (meetRegions (regionOf r))) then parseManifest nsucc t (i + 1) (acc ++ [regionOf r])
    else .error i

/-- The records of a manifest's bytes. -/
def recordsOf (bs : List Byte) : List (List Byte) :=
  (List.range (bs.length / 16)).map fun i => (bs.drop (16 * i)).take 16

/-- An actor descriptor keeps to Table 3.6. -/
def descOk (d : List Byte) : Bool :=
  let w := recWord d
  let half (o i : Nat) : Nat := leNat ((d.drop (o + 4 * i)).take 4)
  zeroAt 0 6 (w 0) && zeroAt 56 8 (w 0) && decide (bitsAt 0 3 (w 1) ≤ 4) && decide (bitsAt 3 3 (w 1) ≤ 4) && zeroAt 6 58 (w 1) &&
    ((List.range (bitsAt 0 3 (w 1))).all fun i => bitsAt 24 8 (half 0x10 i) != 0) &&
    zeroAt 0 6 (w 6) && zeroAt 56 8 (w 6) && w 7 == 0

/-- The actor of a descriptor. -/
def actorOf (at_ : Nat) (d : List Byte) : Actor :=
  let w := recWord d
  let half (o i : Nat) : Nat := leNat ((d.drop (o + 4 * i)).take 4)
  let queue (o i : Nat) : BitVec 24 × Nat := (fieldOf 24 0 (half o i), bitsAt 24 8 (half o i))
  { desc := at_, entry := BitVec.ofNat 64 (bitsAt 0 56 (w 0))
    ins := (List.range (bitsAt 0 3 (w 1))).map (queue 0x10), outs := (List.range (bitsAt 3 3 (w 1))).map (queue 0x20) }

/-- Why a slice is refused: the address, and the cause of the read that faulted, or 0 (R94). -/
structure Refused where
  addr : Word
  inner : BitVec 8 := 0
deriving DecidableEq, Repr

/-- The actor chain from a descriptor on: n actors more may belong to it, and the core has room for room of them. -/
def readChain (rd : Reader) : Nat → Nat → State → Nat → Option (List Byte) → Except Refused (State × List Actor)
  | 0, _, _, va, _ => .error { addr := BitVec.ofNat 64 va }
  | n + 1, room, s, va, given =>
    let got : Except Flt (State × List Byte) := match given with | some d => .ok (s, d) | none => rd s va 64
    match got with
    | .error f => .error { addr := f.addr, inner := f.cause }
    | .ok (s1, d) =>
      if !descOk d || room = 0 then .error { addr := BitVec.ofNat 64 va }
      else
        let next := bitsAt 0 56 (recWord d 6)
        if next = 0 then .ok (s1, [actorOf va d])
        else
          match readChain rd n (room - 1) s1 next none with
          | .error r => .error r
          | .ok (s2, t) => .ok (s2, actorOf va d :: t)

/-- Actors the core of a slice still has room for (R94). -/
def actorRoom (s : State) (k : CoreId) : Nat :=
  128 - ((s.slices.filter fun l => l.core == k && holdsSlot l).map (·.actors.length)).sum

/-- What a core reads as it places a slice (R94): regions and actors, or why it refuses. Linked descriptors are read at their home for
every slice. Log entry 87. -/
def readPlacement (s : State) (l : Slice) : Except Refused (State × List Region × List Actor) :=
  let rd := homeReader l.core l.regs.asid l.regs.ptBase
  let man : Except Flt (State × List Byte) := match l.sent with
    | some m => .ok (s, m.1)
    | none => if l.manifest = 0 then .ok (s, []) else manifestBytes rd 8 s l.manifest.toNat
  match man with
  | .error f => .error { addr := f.addr, inner := f.cause }
  | .ok (s1, bs) =>
    match parseManifest l.nsucc (recordsOf bs) 0 [] with
    | .error i => .error { addr := l.manifest + BitVec.ofNat 64 (16 * i) }
    | .ok rs =>
      match readChain rd 8 (actorRoom s l.core) s1 l.entryDesc.toNat (l.sent.map (·.2)) with
      | .error r => .error r
      | .ok (s2, acts) => .ok (s2, rs, acts)

/-! ### The conflict table (R204 to R207) -/

/-- Table 6.5. -/
def modesMeet (a b : BitVec 3) : Bool :=
  let w (m : BitVec 3) : Bool := m == 1 || m == 2
  if w a || w b then true
  else if a == 3 || b == 3 then a != b
  else a == 4 && b == 4

/-- A region of a slice conflicts with a record of the table. -/
def conflicts (l : Slice) (r : Region) (c : ConflictRec) : Bool :=
  let window := r.base / 2 ^ 48 == 0xF0
  l.regs.asid.truncate 16 == (c.asid.truncate 16 : BitVec 16) && meetRegions r c.region && modesMeet r.mode c.region.mode &&
    (!window || c.core == l.core)

/-- A slice may be admitted to its die's table (R206); its cohort is resident, or can be made so, with room in queue RAM for all its
queues (R244). Log entry 92. -/
def mayAdmit (s : State) (l : Slice) : Bool :=
  let t := (dieOf s (dieOfCore l.core)).conflicts
  cohortState s (dieOfCore l.core) l.cohort == 0 && queuesFit s l.cohort && decide (t.length + l.regions.length ≤ 1024) &&
    l.regions.all fun r => t.all fun c => some c.slice == l.spawner || !conflicts l r c

/-- A slice is admitted: its records enter, its lines leave L1, and the queues of its cohort are resident (R206, R208, R244). -/
def admitSlice (s : State) (l : Slice) : State :=
  let s1 := modDie s (dieOfCore l.core) fun k => { k with
    conflicts := k.conflicts ++ l.regions.map fun r => { slice := l.id, asid := l.regs.asid, core := l.core, region := r } }
  queuesIn (setSlice (dropRegions s1 l.core l.regs.ptBase l.regions readable) { l with state := .resident }) l.cohort

/-- A slice is admitted or waits. -/
def admitOrWait (s : State) (l : Slice) : State :=
  if mayAdmit s l then admitSlice s l
  else { setSlice s { l with state := .waiting, order := s.serial } with serial := s.serial + 1 }

/-- Slice a is considered before slice b when records leave the table (R206). -/
def admittedBefore (a b : Slice) : Bool :=
  let d := signed48 (a.deadline.toNat + 2 ^ 48 - b.deadline.toNat)
  decide (d < 0) || (decide (d = 0) && (decide (b.cls.toNat < a.cls.toNat) || (a.cls == b.cls && decide (a.order ≤ b.order))))

/-- The waiting slices of a die in their order. -/
def waitingOn (s : State) (die : DieId) : List Slice :=
  (s.slices.filter fun l => l.state == .waiting && dieOfCore l.core == die).mergeSort admittedBefore

/-- The cohorts whose queues a die has to see to: those of its resident slices, and those with a queue that is not resident whose
core is on the die (R244). -/
def cohortsServed (s : State) (die : DieId) : List (BitVec 16) :=
  ((s.slices.filter fun l => l.state == .resident && dieOfCore l.core == die).map (·.cohort) ++
    ((allQueues s).filter fun e => !e.2.res && dieOfCore e.2.core == die).map (·.2.cohort)).dedup

/-- The queues of a cohort that is resident on a die and that have come into a directory since are made resident where they fit
(R244). -/
def queuesFollow (die : DieId) (s : State) (cohort : BitVec 16) : State :=
  if cohortState s die cohort == 0 && queuesFit s cohort then queuesIn s cohort else s

/-- SLICE_ADMISSION (R206, R244): each waiting slice in order, against the table as it stands, and the queues of the cohorts that
are resident. -/
def execSliceAdmission (die : DieId) (st : State) : Out :=
  let s1 := (waitingOn st die).foldl (fun s l => if mayAdmit s l then admitSlice s l else s) st
  .next ((cohortsServed s1 die).foldl (queuesFollow die) s1)

/-- A command of a slice is in progress at an engine; one that has faulted is not, though its record may wait (R204). -/
def commandsLeft (s : State) (i : BitVec 32) : Bool :=
  (s.engines.any fun e => (e.2.queue.any fun c => c.slice == i) || e.2.done.any fun c => c.1.slice == i) ||
    (s.streams.any fun t => t.cmd.slice == i && t.faulted.isNone) || s.prefetches.any fun p => p.cmd.slice == i

/-- The records of a retired slice leave the table once its engine commands are done (R204). -/
def leaveTable (s : State) (i : BitVec 32) : State :=
  if commandsLeft s i || (findSlice s i).any liveSlice then s
  else { s with dies := s.dies.map fun e => (e.1, { e.2 with conflicts := e.2.conflicts.filter fun c => c.slice != i }) }

/-! ### Retirement (R209, R242, R323, R344, R433) -/

/-- The trees and the counter bank of a slice are free, the counters clear (R323, R344). -/
def freeBanks (s : State) (l : Slice) : State :=
  let c := coreOf s l.core
  let c1 := { c with trees := c.trees.map fun t => if t.owner = some l.id then { t with owner := none } else t }
  setCore s l.core (if c.counterOwner = some l.id then
    { c1 with counters := Vector.replicate 64 0, counterOwner := none } else c1)

/-- A slice is retired: its slot is free, its cohort has a member less, and its records leave when they may. -/
def retireSlice (s : State) (l : Slice) : State :=
  let s1 := freeBanks s l
  let s2 := setMember (modSlice s1 l.id fun k => { k with state := .retired, actors := [], notices := [] })
    (dieOfCore l.core) l.cohort l.member false
  leaveTable (syncEarliest s2 (dieOfCore l.core) l.cohort) l.id

/-- A slice that is refused frees its slot and never runs; its cohort supervisor receives a trap, or the refusal waits for a
place in the supervisor's list (R94, R271). -/
def refuseSlice (s : State) (l : Slice) (t : SupTrap) : Option State :=
  (sendSuper s l.cohort (dieOfCore l.core) t).map fun s1 => retireSlice s1 l

/-- SLICE_PLACEMENT (R94, R197, R206, R208). -/
def execSlicePlacement (sid : BitVec 32) (st : State) : Out :=
  match (findSlice st sid).filter fun l => l.state == .created with
  | none => .next st
  | some l =>
    match readPlacement st l with
    | .error r => .next ((refuseSlice st l { cause := 0x01, addr := r.addr, slice := sid, inner := r.inner }).getD st)
    | .ok (s1, rs, acts) => .next (admitOrWait s1 { l with regions := rs, actors := acts, sent := none })

/-- The deferred records of a slice go to its cohort supervisor, as many as find a place; whether all did (R433). -/
def passRecords (s : State) (l : Slice) : List DeferRec → State × Bool
  | [] => (s, true)
  | r :: t =>
    match sendSuper s l.cohort (dieOfCore l.core) { cause := 0x0E, addr := r.addr, slice := l.id, inner := r.cause, record := some r } with
    | none => (s, false)
    | some s1 =>
      let c := coreOf s1 l.core
      passRecords (setCore s1 l.core { c with deferred := c.deferred.erase r }) l t

/-- A record of an edge action's fault (R209, R210). -/
def edgeRecord (l : Slice) (f : Flt) (progress : Nat) : DeferRec :=
  { pc := 0, cmd := 0, eng := 0, msgSeq := 0, slice := l.id, opA := 0, opB := 0, opC := 0, opD := 0, addr := f.addr
    progress := BitVec.ofNat 64 progress, cause := f.cause }

/-- The notices of a slice for successor i (R210). -/
def noticesFor (l : Slice) (i : Nat) : List Notice :=
  (l.regions.filter fun r => r.action == 2 && r.fwd.toNat == i).map fun r =>
    { region := r, asid := l.regs.asid, ptBase := l.regs.ptBase, strict := l.strict }

/-- Step 3 of R209 from the first successor not released on, n of them: the state, and whether the step is done. A release whose
key's die cannot be reached is dropped. Log entry 88. -/
def sendReleases (l : Slice) : Nat → State → Nat → State × Bool
  | 0, s, _ => (s, true)
  | n + 1, s, i =>
    let stay (u : State) : State := modSlice u l.id fun k => { k with released := i }
    match l1Reader l.core false l.regs.asid l.regs.ptBase s (l.succ.toNat + 8 * i) 8 with
    | .error f =>
      match sendSuper s l.cohort (dieOfCore l.core)
          { cause := 0x0E, addr := f.addr, slice := l.id, inner := f.cause, record := some (edgeRecord l f i) } with
      | none => (stay s, false)
      | some s1 => (s1, true)
    | .ok (s1, bs) =>
      let v := leNat bs
      if cutOff s1 (dieOfCore l.core) (keyDie v) then sendReleases l n s1 (i + 1)
      else
        match release s1 v (noticesFor l i) with
        | none => (stay s1, false)
        | some s2 => sendReleases l n s2 (i + 1)

/-- SLICE_RETIREMENT (R209, R433), or the end of a kill (R242): the releases wait until the write-backs have performed. A step that
must wait leaves what it has done. -/
def execSliceRetirement (sid : BitVec 32) (st : State) : Out :=
  match (findSlice st sid).filter fun l => l.state == .retiring with
  | none => .next st
  | some l =>
    let mine := st.placements.filter fun p => p.owner == sid && p.active
    if !l.killed && mine.any (fun p => !p.frozen && !reportedQuiet st p) then .next st
    else
      let s1 := freeBanks (discardOwned st sid) l
      let q := passRecords s1 l ((coreOf s1 l.core).deferred.filter fun r => r.slice == sid)
      if !q.2 then .next q.1
      else if l.killed then .next (retireSlice (cleanRegions q.1 l.core l.regs.ptBase l.regions writable) l)
      else
        let s3 := cleanRegions q.1 l.core l.regs.ptBase l.regions fun r => writable r && (r.action == 1 || r.action == 2)
        let z := sendReleases l (l.nsucc - l.released) s3 l.released
        .next (if !writesDone s3 l.core then s3 else if z.2 then retireSlice z.1 l else z.1)

/-! ### Forward notices (R210) -/

/-- The lines of a notice's region are prefetched into the slice's L1, but for poisoned ones, as by PREF (R480). -/
def prefetchRegion (s : State) (l : Slice) (n : Notice) : State :=
  let take (t : State) (i : Nat) : State :=
    match paKind (64 * i) with
    | .hbm _ => if poisoned t (dieOfCore l.core) (64 * i) then t else l1Fill t l.core i
    | .cxl => if poisoned t (dieOfCore l.core) (64 * i) then t else l1Fill t l.core i
    | _ => t
  (rangePas (walkerRead s) n.ptBase.toNat (n.region.extent / 4096 + 2) n.region.base (n.region.base + n.region.extent)).foldl
    (fun u p => ((List.range ((p.1 + p.2 - 1) / 64 + 1 - p.1 / 64)).map (p.1 / 64 + ·)).foldl take u) s

/-- A notice's region is copied into the slice's scratchpad; poisoned source lines leave poisoned ones, or with STRICT of the slice
that sent the notice refuse this one (R582). Log entry 89. -/
def copyRegion (s : State) (l : Slice) (n : Notice) : Except Flt State :=
  let w : Who := { core := l.core, die := dieOfCore l.core, asid := n.asid, root := n.ptBase, checked := false, regions := [] }
  match engRead s w { acc := .engRead } n.region.base n.region.extent with
  | .error f => .error f
  | .ok (s1, bs, bad) =>
    match (if n.strict then (List.range bad.length).find? fun i => (bad[i]?).getD false else none) with
    | some i => .error { cause := 0x13, addr := BitVec.ofNat 64 (n.region.base + i) }
    | none =>
    let pa := scratchPa l.core (n.region.dstoff.toNat * 4096)
    let lines := ((List.range bs.length).filter fun i => (bad[i]?).getD false).map fun i => lineOf (pa + i)
    .ok { s1 with
      mem := memWrite s1.mem pa bs
      poison := lines.foldl setInsert (s1.poison.filter fun x => !(decide (pa ≤ 64 * x) && decide (64 * x + 64 ≤ pa + bs.length))) }

/-- FORWARD_NOTICE (R210): the slice's core acts on its next notice. -/
def execForwardNotice (sid : BitVec 32) (st : State) : Out :=
  match (findSlice st sid).filter fun l => l.state == .resident with
  | none => .next st
  | some l =>
    match l.notices with
    | [] => .next st
    | n :: t =>
      let took (s : State) : State := modSlice s sid fun k => { k with notices := t }
      if n.region.fwdsp then
        match copyRegion st l n with
        | .ok s1 => .next (took s1)
        | .error f =>
          .next ((refuseSlice st l
            { cause := 0x0E, addr := f.addr, slice := sid, inner := f.cause, record := some (edgeRecord l f 0) }).getD st)
      else .next (took (prefetchRegion st l n))

/-! ### SPAWN and NOTIFY -/

/-- What SPAWN reads for the new slice through the spawner's L1: its manifest and entry descriptor. -/
def spawnReads (s : State) (r : List Byte) : Except Flt (State × List Byte × List Byte) :=
  let c := curCore s
  let rd := l1Reader s.cur c.sup c.regs.asid c.regs.ptBase
  let man := bitsAt 0 56 (recWord r 4)
  let got : Except Flt (State × List Byte) := if man = 0 then .ok (s, []) else manifestBytes rd 8 s man
  match got with
  | .error f => .error f
  | .ok (s1, m) =>
    match rd s1 (bitsAt 0 56 (recWord r 3)) 64 with
    | .error f => .error f
    | .ok (s2, d) => .ok (s2, m, d)

/-- A good record is submitted from a die, up to its status (R107): the table of the record's key, which a parked die keeps and one
that cannot be reached does not. Log entry 88. -/
def spawnRecord (s : State) (die : DieId) (b : Birth) (place : Word) : State × Nat :=
  let v := b.addr.toNat
  let dep : Int := bitsAt 16 8 (recWord b.record 2)
  let e0 : PendEntry := { key := v, balance := dep, record := some b.record, place := place, spawnDie := die
                          asid := b.asid, ptBase := b.ptBase, spawner := b.spawner }
  if cutOff s die (keyDie v) then (s, 5)
  else
  match pendFind s v with
  | none =>
    if dep = 0 then
      match tryCreate s die place die b with | .ok s1 => (s1, 0) | .error n => (s, n)
    else if pendingCapacity ≤ (dieOf s (keyDie v)).pending.length then (s, 3)
    else (pendPut s v (some e0), 1)
  | some e =>
    if e.record.isSome then (s, 4)
    else
      let e1 := { e0 with balance := e.balance + dep, notices := e.notices }
      if 0 < e1.balance then (pendPut s v (some e1), 1) else createEntry s e1 { b with notices := e.notices }

/-- SPAWN (R99, R105 to R107, R499); the write-backs of R106 perform before the record is sent. -/
def execSpawn (d a b : Reg) (st : State) : Out :=
  let va := readReg st a
  let place := readReg st b
  let c := curCore st
  if va.toNat % 64 ≠ 0 then trapHere st 0x03 va
  else
    seqLoad st va 64 false fun s r =>
      let cls := bitsAt 48 3 (recWord r 0)
      let own := ((curSlice s).map (·.cls.toNat)).getD 0
      let slice := !c.sup && (bitsAt 0 48 (recWord r 1) == 0 || decide (own < cls))
      if !recordOk r || 128 ≤ place.toNat || slice then finish s d 4
      else
        let birth : Birth := { record := r, addr := va, asid := c.regs.asid, ptBase := c.regs.ptBase
                               spawner := (curSlice s).map (·.id) }
        let send (u : State) (x : Birth) (rs : List Region) : Out :=
          let u1 := cleanRegions u u.cur c.regs.ptBase rs readable
          let q := spawnRecord u1 (curDie u1) x place
          if writesDone u1 u1.cur then finish q.1 d (BitVec.ofNat 64 q.2) else waitHere u1
        match spawnReads s r with
        | .error f => if f.cause = 0x13 && !strictSlice s then send s birth [] else trapFlt s f
        | .ok (s1, m, e) =>
          send s1 { birth with sent := some (m, e) }
            (match parseManifest 8 (recordsOf m) 0 [] with | .ok rs => rs | .error _ => [])

/-- NOTIFY (R468 to R470). -/
def execNotify (d a b : Reg) (st : State) : Out :=
  let v := readReg st a
  let k := readReg st b
  let die : DieId := k.truncate 2
  if 4 ≤ k.toNat || die != keyDie v.toNat then finish st d 4
  else if v.toNat % 64 ≠ 0 then trapHere st 0x03 v
  else if dieGone st die || cutOff st (curDie st) die then finish st d 5
  else
    let s1 := cleanRegions st st.cur (curRoot st) (curRegions st) fun r => writable r && (r.action == 1 || r.action == 2)
    if !fenceDone s1 6 then waitHere s1
    else
      match release s1 v.toNat [] with
      | none => waitHere s1
      | some s2 => finish s2 d 0

end Sys2Proof.Machine
end

