-- ==== Sys2Proof/Machine/Fetch.lean ====
section
/-!
DEFINITION. Fetching S-words through the instruction cache (R79, R371, R407) and the repeat prefix (R88 to R92).
-/
namespace Sys2Proof.Machine

/-- Blocks an instruction cache holds (R79). -/
def icacheCapacity : Nat := 1024

/-- The word at an address of a cached block. -/
def blockWord (data : List Byte) (pc : Nat) : Nat := leNat ((data.drop (pc % 64 / 4 * 4)).take 4)

/-- The block of the S-word at pc that the instruction cache holds. -/
def cachedBlock (s : State) (pc : Nat) : Option ILine :=
  (curCore s).icache.find? fun b => b.asid == (whoSeq s).asid16 && b.va == pc / 64 * 64

/-- The first address and the length of the leaf a target was reached through. -/
def Target.leafSpan (t : Target) : Nat × Nat := match t with | .window _ => (0, 0) | .phys _ l => (l.va, l.span)

/-- The 64 bytes of a block at an address, read at home; a device register as the core's mode reads it. -/
def fetchBlock (s : State) (d : DieId) (pa : Nat) : State × List Byte :=
  if paKind pa = .device && (curCore s).sup then (s, devReadAll s pa 64) else homeRead s d pa 64

/-- The S-word at pc: from the instruction cache, or its block is translated, checked for X and read at home (R201,
R407); a fault has TRAP_PC and TRAP_ADDR at the word. -/
def fetchWord (s : State) (pc : Nat) : Except Flt (State × Nat) :=
  let w := whoSeq s
  match cachedBlock s pc with
  | some b => .ok (s, blockWord b.data pc)
  | none =>
    match checkAccess s w pc 4 .fetch false fetchPage with
    | .error f => .error f
    | .ok (s1, t) =>
      let pa := t.pa s.cur / 64 * 64
      if paKind pa = .device && devSvRange pa 64 && !(curCore s).sup then .error { cause := 0x0D, addr := 0 }
      else if poisoned s1 w.die pa then .error { cause := 0x13, addr := BitVec.ofNat 64 pc }
      else
        let (s2, data) := fetchBlock (coreRequest s1 s.cur (lineOf pa)) w.die pa
        let s3 := modCore (dieFill s2 (coreDomain s s.cur) (lineOf pa)) fun c => { c with
          icache := (if icacheCapacity ≤ c.icache.length then
              c.icache.eraseIdx (Config.victim s2.draws pc % c.icache.length)
            else c.icache) ++
            [{ asid := w.asid16, va := pc / 64 * 64, data := data, base := t.leafSpan.1, span := t.leafSpan.2 }] }
        .ok (s3, blockWord data pc)

/-- The fetch of the word at pc waits for the walker (R193). -/
def fetchWaits (s : State) (pc : Nat) : Bool := (cachedBlock s pc).isNone && walkWaits s (whoSeq s) pc false

/-! ### The repeat prefix -/

/-- The register fields the format of an opcode has: d, a, b (Tables 12.1, 12.2, R90). NOP and SX words have none of them. -/
def formFields (op : Nat) : Bool × Bool × Bool :=
  if op = 0x38 || op = 0x39 then (true, false, false)
  else if (decide (0x30 ≤ op) && decide (op ≤ 0x37)) || (decide (0x40 ≤ op) && decide (op ≤ 0x42)) || op = 0x45 || op = 0x54
      || op = 0xF2 || op = 0xF3 then (true, true, false)
  else if op = 0x01 || (decide (0x90 ≤ op) && decide (op ≤ 0x9A)) then (false, false, false)
  else (true, true, true)

/-- Opcodes REP does not repeat: control instructions, ERET, TRAP, BRK and IDLE (R90). -/
def noRepeat (op : Nat) : Bool :=
  (decide (0x60 ≤ op) && decide (op ≤ 0x6C)) || op == 0xF0 || op == 0xF1 || op == 0xF5 || op == 0xF6

/-- A word with its fields d, a and b set where the repeat steps them (R89). -/
def repeatWord (w : Nat) (p : RepRun) : Nat :=
  let put (w lo : Nat) (st : BitVec 5) (r : Reg) : Nat :=
    if st = 0 then w else w - bitsAt lo 7 w * 2 ^ lo + r.toNat % 64 * 2 ^ lo
  put (put (put w 17 p.stepD p.d) 10 p.stepA p.a) 3 p.stepB p.b

/-- The repeat that REP starts on the word w (R88, R89). -/
def startRepeat (w n : Nat) (sd sa sb : BitVec 5) : RepRun :=
  { left := n, stepD := sd, stepA := sa, stepB := sb, d := fieldOf 7 17 w, a := fieldOf 7 10 w, b := fieldOf 7 3 w, ins := some w }

/-- Every repeat of w from p on decodes; the fuel is the number of repeats. -/
def repeatsDecode (w : Nat) : Nat → RepRun → Bool
  | 0, _ => true
  | n + 1, p =>
    (match decodeS (repeatWord w p) with | .ok _ => true | .error _ => false) &&
      (match nextRepeat p with | some q => repeatsDecode w n q | none => true)

/-- REP may repeat w (R90): steps only on fields the format has and whose codes are below 64, an instruction it does not
exclude, and no repeat that would raise ILLEGAL. -/
def repeatOk (w n : Nat) (sd sa sb : BitVec 5) : Bool :=
  let (hd, ha, hb) := formFields (w / 2 ^ 24)
  let stepOk (st : BitVec 5) (has : Bool) (lo : Nat) : Bool := st == 0 || (has && decide (bitsAt lo 7 w < 64))
  stepOk sd hd 17 && stepOk sa ha 10 && stepOk sb hb 3 && !noRepeat (w / 2 ^ 24) &&
    repeatsDecode w n (startRepeat w n sd sa sb)

end Sys2Proof.Machine
end

