-- ==== Sys2Proof/Machine/Control.lean ====
section
/-!
DEFINITION. The control S-words (R80, R88 to R92, R406, R410, R432, R433, R242, R451, R458, R554).
-/
namespace Sys2Proof.Machine

/-- The instruction at an address is next. -/
def jumpTo (s : State) (t : Word) : State := modCore (setPc s t) fun c => { c with wait := none }

/-- Block(PC) + 64, the link (R410). -/
def linkOf (s : State) : Word := blockOf (pcOf s) + 64

/-- A conditional branch (R406). -/
def branchIf (s : State) (c : Bool) (o : BitVec 10) : Out := .next (if c then jumpTo s (branchTarget s o) else advance s)

/-- BR (R410). -/
def execBr (o : BitVec 24) (st : State) : Out := .next (jumpTo st (branchTarget st o))

/-- CALL (R410). -/
def execCall (o : BitVec 24) (st : State) : Out := .next (jumpTo (writeReg st 63 (linkOf st)) (branchTarget st o))

/-- JR (R451, R80). -/
def execJr (a : Reg) (l : Bool) (st : State) : Out :=
  let t := readReg st a
  if t.toNat % 64 ≠ 0 then trapHere st 0x02 t
  else .next (jumpTo (if l then writeReg st 63 (linkOf st) else st) t)

/-- BEQ (R406). -/
def execBeq (a b : Reg) (o : BitVec 10) (st : State) : Out := branchIf st (readReg st a == readReg st b) o

/-- BNE (R406). -/
def execBne (a b : Reg) (o : BitVec 10) (st : State) : Out := branchIf st (readReg st a != readReg st b) o

/-- BLT (R406). -/
def execBlt (a b : Reg) (o : BitVec 10) (st : State) : Out := branchIf st ((readReg st a).slt (readReg st b)) o

/-- BGE (R406). -/
def execBge (a b : Reg) (o : BitVec 10) (st : State) : Out := branchIf st (!(readReg st a).slt (readReg st b)) o

/-- BLTN (R406). -/
def execBltn (a b : Reg) (o : BitVec 10) (st : State) : Out := branchIf st ((readReg st a).ult (readReg st b)) o

/-- BGEN (R406). -/
def execBgen (a b : Reg) (o : BitVec 10) (st : State) : Out := branchIf st (!(readReg st a).ult (readReg st b)) o

/-- LOOP (R458): nothing is pushed. -/
def execLoop (a : Reg) (o : BitVec 10) (st : State) : Out :=
  let v := readReg st a - 1
  branchIf (writeQuiet st a v) (v != 0) o

/-- REP (R88 to R90): the next word is fetched and checked, and its repeat begins; a fault of that fetch is taken at
the REP, which has then had no effect. Log entry 26. -/
def execRep (c : BitVec 6) (d a b : BitVec 5) (st : State) : Out :=
  let n := if c = 0 then 64 else c.toNat
  let at_ := pcOf st + 4
  if fetchWaits st at_.toNat then .next (joinWalk st (whoSeq st) at_.toNat false)
  else
  match fetchWord st at_.toNat with
  | .error f => trapFlt st f
  | .ok (s1, w) =>
    if repeatOk w n d a b then
      .next (modCore s1 fun k => { k with regs := { k.regs with pc := at_ }, rep := some (startRepeat w n d a b), wait := none })
    else trapHere s1 0x01 0

/-- END (R432). -/
def execEndFiring (st : State) : Out :=
  if (curCore st).sup && cohTrap (curCore st) then trapHere st 0x01 0 else .next (endFiring st)

/-- END.DONE (R432, R433). -/
def execEndDone (st : State) : Out :=
  if (curCore st).sup && cohTrap (curCore st) then trapHere st 0x01 0
  else
    match curSlice st with
    | none => .next (endFiring st)
    | some l => .next (beginRetire (endFiring st) l.id)

/-- END.KILL (R432, R242). -/
def execEndKill (st : State) : Out :=
  let c := curCore st
  if !c.sup then trapPriv st
  else if cohTrap c then doEret (killSlice st (trapSlice c))
  else
    match curSlice st with
    | none => .next (endFiring st)
    | some l => .next (killSlice (endFiring st) l.id)

/-- YIELD (R554). -/
def execYield (st : State) : Out :=
  if (curCore st).sup then trapHere st 0x01 0 else .next (suspendFiring (advance st))

end Sys2Proof.Machine
end

