-- ==== Sys2Proof/Machine/System.lean ====
section
/-!
DEFINITION. The system S-words (R72, R86, R195, R238, R241, R411, R434, R446, R448, R483, R484, R513, R516, Table 3.3): TRAP,
ERET, GETS, PUTS, TLBI, BRK and IDLE, and the slot map.
-/
namespace Sys2Proof.Machine

/-! ### The slot map (R72) -/

/-- The table at a physical address: its five rows, unless it cannot be read or has a reserved bit set. -/
def slotTable (s : State) (d : DieId) (pa : Nat) : Option (State × Vector (List Byte) 5) :=
  if !paThere s d pa || paKind pa == .device || poisonedRange s d pa 320 then none
  else
    let (s1, bs) := homeRead s d pa 320
    if bs.all fun b => bitsAt 4 3 b.toNat == 0 then
      some (s1, #v[bs.take 64, (bs.drop 64).take 64, (bs.drop 128).take 64, (bs.drop 192).take 64, (bs.drop 256).take 64])
    else none

/-- A die whose map in force is the one that the present frame runs under (R72). -/
def foldSlots (k : Die) : Die :=
  { k with slots := Vector.ofFn fun i => slotRow k i, slotsNext := Vector.replicate 5 none }

/-- The state with a map read and waiting for the first frame that begins after the read. -/
def putSlots (s : State) (d : DieId) (t : Vector (List Byte) 5) : State :=
  modDie s d fun k => { foldSlots k with slotsNext := t.map some, slotsFrame := k.cyc / 64 }

/-- The die of a core reads the map that SLOT_MAP names; the status goes to Y of the core (R484). -/
def loadSlotMap (s : State) (c : CoreId) : State :=
  let d := dieOfCore c
  let v := (dieOf s d).slotMap.toNat
  let answer (u : State) (w : Word) : State := setCore u c { coreOf u c with regs := pushFile (coreOf u c).regs w }
  if !bitOf 0 v then answer (putSlots s d (Vector.replicate 5 [])) 0
  else
    match slotTable s d (bitsAt 6 46 v * 64) with
    | none => answer s 1
    | some (s1, t) => answer (putSlots s1 d t) 0

/-- SLOT_MAP_UPDATE (R72, R484). -/
def execSlotMapUpdate (core : CoreId) (st : State) : Out := .next (loadSlotMap st core)

/-- SLOT_MAP_TAKE_EFFECT (R72): the first frame after the read has begun. -/
def execSlotMapTakeEffect (die : DieId) (st : State) : Out :=
  let k := dieOf st die
  .next (if k.cyc / 64 ≤ k.slotsFrame then st else setDie st die (foldSlots k))

/-! ### System registers (Table 3.3) -/

/-- Registers marked SV. -/
def sysSv (i : Nat) : Bool :=
  i == 0x0A || (decide (0x10 ≤ i) && decide (i ≤ 0x14)) || (decide (0x18 ≤ i) && decide (i ≤ 0x1F)) || i == 0x30 || i == 0x31 ||
    i == 0x40 || i == 0x41

/-- An index of Table 3.3. -/
def sysThere (i : Nat) : Bool :=
  sysSv i || decide (i ≤ 6) || i == 8 || i == 0x20 || i == 0x21 || i == 0x32

/-- A register of the running slice, 0 with none (R86). -/
def sliceWord (s : State) (f : Slice → Word) : Word := ((curSlice s).map f).getD 0

/-- BUDGET_LEFT as it reads (R239). -/
def budgetWord (l : Slice) : Word := match l.budget with | some b => b.zeroExtend 64 | none => 0xFFFFFFFFFFFF

/-- The value of a system register. -/
def sysRead (s : State) (i : Nat) : Word :=
  let c := curCore s
  let t := c.trap
  match i with
  | 0x000 => (curSliceId s).zeroExtend 64
  | 0x001 => sliceWord s fun l => l.cohort.zeroExtend 64
  | 0x002 => sliceWord s fun l => l.wid
  | 0x003 => sliceWord s fun l => l.widShape
  | 0x004 => sliceWord s fun l => l.deadline.zeroExtend 64
  | 0x005 => sliceWord s budgetWord
  | 0x006 => sliceWord s fun l => l.cls.zeroExtend 64
  | 0x008 => c.regs.flags
  | 0x00A => c.regs.repState
  | 0x010 => t.base
  | 0x011 => t.cause
  | 0x012 => t.pc
  | 0x013 => t.addr
  | 0x014 => t.info
  | 0x018 => t.deferPc
  | 0x019 => t.deferTag
  | 0x01A => t.deferOpA
  | 0x01B => t.deferOpB
  | 0x01C => t.deferOpC
  | 0x01D => t.deferOpD
  | 0x01E => t.deferAddr
  | 0x01F => t.deferProgress
  | 0x020 => sliceWord s fun l => l.cycles
  | 0x021 => BitVec.ofNat 64 s.ticks
  | 0x030 => c.regs.asid
  | 0x031 => c.regs.ptBase
  | 0x032 => boolWord c.sup
  | 0x040 => (dieOf s (curDie s)).slotMap
  | 0x041 => c.selvDomain
  | _ => 0

/-- The state with the running slice changed. -/
def putSlice (s : State) (f : Slice → Slice) : State :=
  match curSlice s with | none => s | some l => setSlice s (f l)

/-- The state with the DEADLINE of the running slice written, and EARLIEST of its cohort record with it (R249). -/
def putDeadline (s : State) (v : BitVec 48) : State :=
  match curSlice s with
  | none => s
  | some l => syncEarliest (setSlice s { l with deadline := v }) (dieOfCore l.core) l.cohort

/-- The state with a trap register changed. -/
def putTrap (s : State) (f : TrapRegs → TrapRegs) : State := modCore s fun c => { c with trap := f c.trap }

/-- The state with a register of the register files' side changed. -/
def putRegs (s : State) (f : SeqRegs → SeqRegs) : State := modCore s fun c => { c with regs := f c.regs }

/-- The widths of a WID_SHAPE sum to at most 64 (R104). -/
def shapeOk (v : Word) : Bool := decide (shapeOffset v 6 ≤ 64)

/-- A system register after a supervisor's write of v (R483): fields as their maps give, RES bits zero. -/
def sysWrite (s : State) (i : Nat) (v : Word) : State :=
  match i with
  | 0x002 => putSlice s fun l => { l with wid := v }
  | 0x003 => putSlice s fun l => if shapeOk v then { l with widShape := keepBits 0 36 v } else l
  | 0x004 => putDeadline s (v.truncate 48)
  | 0x005 => putSlice s fun l => { l with budget := l.budget.map fun _ => v.truncate 48 }
  | 0x006 => putSlice s fun l => { l with cls := v.truncate 3 }
  | 0x008 => putRegs s fun g => { g with flags := flagsPut g.flags v }
  | 0x00A => putRegs s fun g => { g with repState := keepBits 63 1 v ||| keepBits 19 22 v ||| keepBits 0 18 v }
  | 0x010 => putTrap s fun t => { t with base := keepBits 12 44 v }
  | 0x011 => putTrap s fun t => { t with cause := keepBits 0 9 v }
  | 0x012 => putTrap s fun t => { t with pc := v }
  | 0x013 => putTrap s fun t => { t with addr := v }
  | 0x014 => putTrap s fun t => { t with info := keepBits 63 1 v ||| keepBits 0 56 v }
  | 0x018 => putTrap s fun t => { t with deferPc := v }
  | 0x019 => putTrap s fun t => { t with deferTag := keepBits 0 58 v }
  | 0x01A => putTrap s fun t => { t with deferOpA := v }
  | 0x01B => putTrap s fun t => { t with deferOpB := v }
  | 0x01C => putTrap s fun t => { t with deferOpC := v }
  | 0x01D => putTrap s fun t => { t with deferOpD := v }
  | 0x01E => putTrap s fun t => { t with deferAddr := v }
  | 0x01F => putTrap s fun t => { t with deferProgress := v }
  | 0x030 => putRegs s fun g => { g with asid := keepBits 0 16 v }
  | 0x031 => putRegs s fun g => { g with ptBase := keepBits 12 40 v }
  | 0x040 => loadSlotMap (modDie s (curDie s) fun k => { k with slotMap := keepBits 6 46 v ||| keepBits 0 1 v }) s.cur
  | 0x041 => modCore s fun c => { c with selvDomain := keepBits 0 4 v }
  | _ => s

/-- GETS (R446, R86). -/
def execGets (d : Reg) (i : BitVec 10) (st : State) : Out :=
  if !sysThere i.toNat then trapHere st 0x01 0
  else if sysSv i.toNat && !(curCore st).sup then trapPriv st
  else finish st d (sysRead st i.toNat)

/-- PUTS (R483, R484): in slice mode FLAGS alone is written. -/
def execPuts (a : Reg) (i : BitVec 10) (st : State) : Out :=
  if !sysThere i.toNat then trapHere st 0x01 0
  else if !(curCore st).sup && sysSv i.toNat then trapPriv st
  else if !(curCore st).sup && i.toNat != 8 then finishQuiet st
  else finishQuiet (sysWrite st i.toNat (readReg st a))

/-! ### Traps -/

/-- TRAP (R516). -/
def execTrap (i : BitVec 16) (st : State) : Out :=
  .next (takeTrap st { cause := 0x0C, pc := pcOf st + 4, detail := i, slice := curSliceId st })

/-- ERET (R434). -/
def execEret (st : State) : Out := if (curCore st).sup then doEret st else trapPriv st

/-- BRK (R411). -/
def execBrk (_ : BitVec 17) (st : State) : Out := trapHere st 0x0B 0

/-- IDLE (R448): with a ready candidate and no interrupted firing it retires; else it stops issue. -/
def execIdle (st : State) : Out :=
  if !(curCore st).sup then trapPriv st
  else if (curCore st).slice.isNone && (candidate st st.cur).isSome then finishQuiet st
  else .next (modCore st fun c => { c with idle := true })

/-! ### TLBI (R195, R371, R513) -/

/-- Every TLB and instruction cache loses the entries and blocks that satisfy a condition. -/
def dropTranslations (s : State) (gone : TlbEntry → Bool) (goneLine : ILine → Bool) : State :=
  { s with
    cores := s.cores.map fun e => (e.1, { e.2 with
      tlb := e.2.tlb.filter fun t => !gone t, icache := e.2.icache.filter fun b => !goneLine b })
    dies := s.dies.map fun e => (e.1, { e.2 with tlb2 := e.2.tlb2.filter fun t => !gone t })
    engines := s.engines.map fun e => (e.1, { e.2 with tlb := e.2.tlb.filter fun t => !gone t }) }

/-- Every entry of every TLB of the module. -/
def allTranslations (s : State) : List TlbEntry :=
  (s.cores.flatMap fun e => e.2.tlb) ++ (s.dies.flatMap fun e => e.2.tlb2) ++ s.engines.flatMap fun e => e.2.tlb

/-- The accesses that have been translated and have not performed: the row operations the galleries hold, but for those of a die
that is gone (R195). -/
def translatedOps (s : State) : List RowOp :=
  s.engines.flatMap fun e =>
    if dieGone s (dieOfEngine (BitVec.ofNat 7 e.1)) then [] else e.2.rowWait ++ e.2.rowLocks ++ e.2.forward

/-- A TLB entry of an address space that contains an address. -/
def entryHolds (asid : BitVec 16) (va : Nat) (t : TlbEntry) : Bool :=
  t.asid == asid && decide (t.va ≤ va) && decide (va < t.va + t.span)

/-- Every entry that covers an address of a space goes, with the blocks of the page of the address, of the leaves that cover it and of
those entries. -/
def dropPage (s : State) (asid : BitVec 16) (va : Nat) : State :=
  let hits := (allTranslations s).filter (entryHolds asid va)
  dropTranslations s (entryHolds asid va) fun b =>
    b.asid == asid && (b.va / 4096 == va / 4096 || (decide (b.base ≤ va) && decide (va < b.base + b.span)) ||
      hits.any fun t => decide (t.va ≤ b.va) && decide (b.va < t.va + t.span))

/-- TLBI after it has dropped its entries: it retires once the accesses translated through them have performed, and takes no
asynchronous cause meanwhile (R195, R513). -/
def tlbiRetire (s : State) (waits : Bool) : Out := if waits then holdOn s { arrived := true } else finishQuiet s

/-- TLBI.ALL (R513). -/
def execTlbiAll (st : State) : Out :=
  if (curCore st).sup then tlbiRetire (dropTranslations st (fun _ => true) fun _ => true) !(translatedOps st).isEmpty else trapPriv st

/-- TLBI.ASID (R513). -/
def execTlbiAsid (a : Reg) (st : State) : Out :=
  let x : BitVec 16 := (readReg st a).truncate 16
  if (curCore st).sup then
    tlbiRetire (dropTranslations st (fun t => t.asid == x) fun _ => true)
      ((translatedOps st).any fun o => o.cmd.asid.truncate 16 == x)
  else trapPriv st

/-- TLBI.PAGE (R513). It waits for the accesses of the whole address space, which are no fewer than those of the page. -/
def execTlbiPage (a b : Reg) (st : State) : Out :=
  let asid : BitVec 16 := (readReg st a).truncate 16
  let va := (readReg st b).toNat
  if !(curCore st).sup then trapPriv st
  else if bitsAt 48 8 va ≠ 0 then finishQuiet st
  else tlbiRetire (dropPage st asid va) ((translatedOps st).any fun o => o.cmd.asid.truncate 16 == asid)

end Sys2Proof.Machine
end

