-- ==== Sys2Proof/Machine/Boundary.lean ====
section
/-!
DEFINITION. What happens at an instruction boundary (R95, R96, R235, R236, R240, R256, R266, R269 to R271, R273): the choice
of a firing, traps and asynchronous causes, deferred records, and the mark of a region for pre-emption.
-/
namespace Sys2Proof.Machine

/-- A core in its step. -/
def onCore (s : State) (k : CoreId) : State := { s with cur := k }

/-- TRAP_ENTRY (R266). -/
def execTrapEntry (core : CoreId) (cause : BitVec 8) (pc addr : Word) (detail : BitVec 16) (inner : BitVec 8) (st : State) : Out :=
  let s := onCore st core
  .next (takeTrap s { cause := cause, pc := pc, addr := addr, detail := detail, inner := inner, slice := curSliceId s })

/-- The core is at a boundary at which an asynchronous cause may be taken: BARR after its arrival and FENCE are left to
retire (R240, R405). -/
def atBoundaryOf (c : Core) : Bool := mayTakeAsync c && !(c.wait.any (·.arrived)) && c.sx.isNone

/-- The first trap of a core's supervisor list is taken (R271). -/
def takeSuper (s : State) : Option State :=
  let c := curCore s
  match c.supTraps with
  | [] => none
  | t :: rest =>
    let s1 := modCore s fun k => { k with
      supTraps := rest, trap := match t.record with | some r => putDefer k.trap r | none => k.trap }
    some (takeTrap s1 { cause := t.cause, pc := c.regs.pc + (if c.idle then 4 else 0), addr := t.addr, inner := t.inner
                        coh := true, slice := t.slice })

/-- What the step's core takes at its boundary before its next instruction, if anything. -/
def boundaryTrap (s : State) : Option State :=
  if !atBoundaryOf (curCore s) then none
  else match takeAsync s with | some s1 => some s1 | none => takeSuper s

/-- SLICE_SCHEDULER_CHOICE (R236, R96): a core without a firing takes what is pending (R269, R270), else starts the candidate's. -/
def execSliceSchedulerChoice (core : CoreId) (st : State) : Out :=
  if (coreOf st core).running then .next st
  else
    match boundaryTrap (onCore st core) with
    | some s1 => .next s1
    | none =>
      match candidate st core with
      | none => .next st
      | some l => .next (startFiring st l)

/-- ASYNC_CAUSE_TAKEN (R269, R270). -/
def execAsyncCauseTaken (core : CoreId) (st : State) : Out :=
  let s := onCore st core
  .next (if atBoundaryOf (curCore s) then (takeAsync s).getD st else st)

/-- BUDGET_EXPIRY (R240): the last of the causes of R270. -/
def execBudgetExpiry (core : CoreId) (st : State) : Out :=
  let s := onCore st core
  let c := curCore s
  if atBoundaryOf c && c.pendBudget && c.running && !c.sup && c.pendLost.isEmpty && c.pendLink.isEmpty && c.pendNode.isEmpty &&
      (dueRecord c).isNone then .next ((takeAsync s).getD st)
  else .next st

/-- SUPERVISOR_TRAP_DELIVERY (R271). -/
def execSupervisorTrapDelivery (core : CoreId) (st : State) : Out :=
  let s := onCore st core
  .next (if atBoundaryOf (curCore s) then (takeSuper s).getD st else st)

/-- DEFERRED_RECORD (R273): the record an engine holds enters the list once it has a place. -/
def execDeferredRecord (eng : EngineId) (st : State) : Out :=
  match (engineOf st eng).held with
  | none => .next st
  | some r =>
    match sendRecord st r with
    | none => .next st
    | some s1 => .next (modEngine s1 eng fun e => { e with held := none })

/-- A slice's patterns bound to the region of an active placement. -/
def boundOf (s : State) (pl : Placement) (sid : BitVec 32) : List Placement :=
  s.placements.filter fun p => p.origin == pl.origin && p.rows == pl.rows && p.cols == pl.cols && p.bound && p.owner == sid

/-- The slice may take the region of an active placement, in co-located mode (R256). A retiring owner keeps it until it has retired (R211). -/
def preempts (s : State) (pl : Placement) (l : Slice) : Bool :=
  match findSlice s pl.owner with
  | none => false
  | some o =>
    let mine := boundOf s pl l.id
    !(dieOf s (siteDie pl.origin)).docent.split && l.id != o.id && liveSlice l && l.state != .retiring && liveSlice o &&
      o.state != .retiring && !mine.isEmpty &&
      (sliceReady (coreOf s l.core) l || mine.any fun p => decide (0 < waiting s p)) &&
      decide (o.cls.toNat < l.cls.toNat) && earlier l.deadline o.deadline

/-- PREEMPT_MARK (R256): in co-located mode, for the slice that comes first by the key. -/
def execPreemptMark (origin : SiteId) (sid : BitVec 32) (st : State) : Out :=
  match activeRegion st origin, findSlice st sid with
  | some pl, some l =>
    let first := match pl.preempt.bind (findSlice st) with | none => true | some k => schedulesBefore l k
    let room := (findSlice st pl.owner).any fun o => (cohortAt st (dieOfCore o.core) o.cohort).isSome
    if pl.frozen || !room || !preempts st pl l || !first then .next st
    else .next (modPlacement st origin pl.ctx fun p => { p with preempt := some sid })
  | _, _ => .next st

end Sys2Proof.Machine
end

