-- ==== Sys2Proof/Machine/Matrix.lean ====
section
/-!
DEFINITION. Matrix tiles (R141 to R144, R290 to R308, R460, R463 to R465): MLOAD, MSWAP, MROW, MDRAIN and MCLR in their roles,
and the steps PLANE_READY, MLOAD_COLUMN_FAULT, AUTO_DRAIN, DRAIN_STEP and ACCUMULATOR_REFRESH.
-/
namespace Sys2Proof.Machine

/-- The tile context at the focus, where the site is a tile's node that may fire. -/
def tileReady (s : State) (x : SiteId) : Option Ctx :=
  if siteKind x = 2 && !lowerRow x && mayFire s x then activeCtx s x else none

/-- The E-word of a role: 0 ROW, 1 LOAD, 2 SWAP, 3 DRAIN. -/
def roleOp (cx : Ctx) (r : Nat) : Option Instr :=
  match decodeE ((cx.ewords[r]?).getD 0).toNat with | .ok i => some i | .error _ => none

/-- The bundle at a role's input, where its port is in use. -/
def roleHead (s : State) (x : SiteId) (cx : Ctx) (r : Nat) : Option (List Token) :=
  let q := roleIn cx r
  if q.1 = 7 then none else headBundle s x q.1 q.2.1 q.2.2

/-- A role's bundle, where it is one the role's operation fires on. -/
def roleToken (s : State) (x : SiteId) (cx : Ctx) (r : Nat) : Option (List Token) :=
  (roleHead s x cx r).filter fun ts => !(ts.any steeringTok)
where
  /-- Drain markers and configuration tokens trigger nothing. -/
  steeringTok (k : Token) : Bool := k.kind == 2 || k.kind == 3

/-- The role's bundle is consumed. -/
def roleTake (s : State) (x : SiteId) (cx : Ctx) (r : Nat) : State :=
  let q := roleIn cx r
  consumeBundle s x q.1 q.2.1 q.2.2

/-- The state with a tile changed. -/
def modTile (s : State) (x : SiteId) (f : Tile → Tile) : State := modSite s x fun k => { k with tile := f k.tile }

/-- A node fault of a role, at its input. -/
def roleFault (s : State) (x : SiteId) (cx : Ctx) (r : Nat) (seq : Nat) : State :=
  noteMove (nodeFault s x 3 0 (roleIn cx r).1 (roleIn cx r).2.1 seq) x

/-! ### Loading (R294 to R297) -/

/-- The operand token of MLOAD is well formed (Table 9.2, R294). -/
def loadTokenOk (k : Token) : Bool :=
  let l3 := (laneOf k.lanes 3).toNat
  k.valid == 0x000F && zeroAt 24 8 (laneOf k.lanes 1).toNat && zeroAt 12 20 l3 && decide (l3 % 256 ≤ 128) &&
    (l3 / 256 % 16 == 2 || l3 / 256 % 16 == 4 || l3 / 256 % 16 == 5)

/-- MLOAD (R294, R295): it takes its operand token, the first of its bundle, while the shadow plane is EMPTY; a HOLE waits its turn as
well. Log entry 104. -/
def execMload (st : State) : Out :=
  let x := st.focus
  if !siteOk x then .fault .noSuchSite
  else
    match tileReady st x with
    | none => .next st
    | some cx =>
      match roleToken st x cx 1 with
      | none => .next st
      | some ts =>
        let k := asData ((ts.head?).getD initialTok)
        if (siteOf st x).tile.shadowState ≠ .empty then .next st
        else if k.kind = 6 then .next (noteMove (roleTake st x cx 1) x)
        else if !loadTokenOk k then .next (roleFault st x cx 1 k.seq.toNat)
        else
          let ops := (List.range 4).map (laneOf k.lanes)
          .next (noteMove (modTile (roleTake st x cx 1) x fun t => { t with
            shadowState := .loading, loadCol := 0
            shadow := { ops := ops, form := (laneOf k.lanes 3).toNat / 256 % 16 } }) x)

/-- Columns a load reads: 0 means 128. -/
def loadColumns (p : Plane) : Nat :=
  let n := ((p.ops[3]?).getD 0).toNat % 256
  if n = 0 then 128 else n

/-- The address of column j. -/
def columnVa (p : Plane) (j : Nat) : Nat :=
  let l (i : Nat) : Nat := ((p.ops[i]?).getD 0).toNat
  (l 0 + l 1 % 2 ^ 24 * 2 ^ 32 + j * l 2) % 2 ^ 64

/-- The leaf of a virtual address as an engine sees it, without effect: format and GEOM; a window is RAW. -/
def peekFmt (s : State) (w : Who) (va : Nat) : Option (Nat × Nat) :=
  if va / 2 ^ 48 = 0xF0 then some (0, 0)
  else match findLeaf s w va false with | .ok f => some (f.leaf.fmt, f.leaf.geom) | .error _ => none

/-- Elements of a lane form joined into bytes. -/
def formByteList (form : Nat) (es : List Nat) : List Byte := es.flatMap fun e => leBytes (formBytes form) e

/-- Elements cut out of bytes. -/
def elemsOf (e : Nat) : Nat → List Byte → List Nat
  | 0, _ => []
  | n + 1, bs => leNat (bs.take e) :: elemsOf e n (bs.drop e)

/-- A column as it is read: its bytes in the plane's form and whether each is good, the lanes dropped, the counts of its decoding,
and whether a line of it was poisoned. -/
structure Column where
  bytes : List Byte := []
  good : List Bool := []
  drops : Nat := 0
  counts : List Nat := []
  bad : Bool := false

/-- The lanes of 4 bytes that hold a bad byte. -/
def badWords (good : List Bool) : List Nat := (List.range 48).filter fun l => !((good.drop (4 * l)).take 4).all id

/-- A column of elements, none where one is dropped; n lanes are counted as dropped. -/
def elemColumn (f0 form : Nat) (bad : Bool) (n : Option Nat) (es : List (Option Nat)) : Column :=
  let ds := es.map fun e => e.map (decodeElem f0 form)
  let good := ds.flatMap fun e => List.replicate (formBytes form) e.isSome
  { bytes := formByteList form (ds.map fun e => (e.map (·.1)).getD 0), good := good
    drops := n.getD (badWords good).length, counts := ds.flatMap fun e => (e.map (·.2)).getD [], bad := bad }

/-- Elements 0 to n - 1 of an F8C column, none where its block is corrupt or poisoned, and whether one was poisoned. -/
def f8cColumn (s : State) (w : Who) (r : EngRule) (va geom : Nat) : Nat → Except Flt (State × List (Option Nat) × Bool)
  | 0 => .ok (s, [], false)
  | n + 1 =>
    match f8cColumn s w r va geom n with
    | .error f => .error f
    | .ok (s1, es, b) =>
      match f8cElement s1 w r va geom n with
      | .error f => .error f
      | .ok (s2, e, b1) => .ok (s2, es ++ [e], b || b1)

/-- A column read in the plane's form: it begins on one page format, and a page of another is a MODE fault. An F8C column is read as
a region of its own, whose corrupt blocks drop 32 lanes each (R132). Log entry 23. -/
def readColumn (s : State) (w : Who) (form va : Nat) : Except Flt (State × Column) :=
  let n := 192 / formBytes form
  match peekFmt s w va with
  | none => match engRead s w { acc := .engRead } va 1 with | .error f => .error f | .ok _ => .ok (s, {})
  | some (f0, geom) =>
    let rule : EngRule := { acc := .engRead, fmt := fun f => f == f0 && decodable f form }
    if f0 = 5 && decodable 5 form then
      match f8cColumn s w rule va geom n with
      | .error f => .error f
      | .ok (s1, es, b) => .ok (s1, elemColumn 5 form b (some (es.filter (·.isNone)).length) es)
    else
      let e := pageElem f0 form
      match engRead s w rule va (n * e) with
      | .error f => .error f
      | .ok (s1, bs, bad) =>
        let ok (i : Nat) : Bool := !((bad.drop (i * e)).take e).any id
        let es := (elemsOf e n bs).zip (List.range n)
        .ok (s1, elemColumn f0 form (bad.any id) none (es.map fun q => if ok q.2 then some q.1 else none))

/-- Columns are read from the next one on; the fuel is the columns left. A fault gives the column and the state so far. In
strict mode poison is a fault (R282). -/
def readPlane (s : State) (w : Who) (strict : Bool) (x : SiteId) : Nat → Except (State × Nat × Flt) State
  | 0 => .ok s
  | n + 1 =>
    let t := (siteOf s x).tile
    let va := columnVa t.shadow t.loadCol
    match readColumn s w t.shadow.form va with
    | .error f => .error (s, t.loadCol, f)
    | .ok (s1, k) =>
      if strict && k.bad then .error (s, t.loadCol, { cause := 0x13, addr := BitVec.ofNat 64 va })
      else
        let s2 := k.counts.foldl (fun u i => countAt u x 1 i 1) (countAt s1 x 1 5 k.drops)
        readPlane (modTile s2 x fun t => { t with
          loadCol := t.loadCol + 1
          shadow := { t.shadow with
            cols := t.shadow.cols ++ [k.bytes]
            poisoned := t.shadow.poisoned ++ (badWords k.good).map (48 * t.loadCol + ·) } }) w strict x n

/-- The load of a tile's shadow plane run to its end. -/
def runLoad (s : State) (x : SiteId) : Except (State × Nat × Flt) State :=
  match (activeCtx s x).bind fun cx => findSlice s cx.owner with
  | none => .ok s
  | some l =>
    let t := (siteOf s x).tile
    readPlane s (whoSlice s l (siteDie x)) l.strict x (loadColumns t.shadow - t.loadCol)

/-! ### Swapping (R298) -/

/-- The planes exchange places: the shadow becomes active with its set, and the new shadow is EMPTY. -/
def swapPlanes (t : Tile) : Tile :=
  { t with active := some t.shadow, shadow := {}, shadowState := .empty, loadCol := 0, swapPending := false }

/-- A pass-mode swap that waits fires once the shadow plane is READY, whatever the SWAP role holds by then; a FAULTED plane is a node
fault (R296, R298). -/
def pendingSwap (s : State) (x : SiteId) : State :=
  let t := (siteOf s x).tile
  if !t.swapPending then s
  else
    match t.shadowState with
    | .ready => modTile s x swapPlanes
    | .faulted => nodeFault s x 3 0 0 0 0
    | _ => s

/-- PLANE_READY (R295): the columns have arrived; a load is one tile of its counts (R145). A swap that waits for the plane then fires
(R298). -/
def execPlaneReady (site : SiteId) (st : State) : Out :=
  if siteKind site != 2 || (siteOf st site).frozen || dieGone st (siteDie site) then .next st
  else if (siteOf st site).tile.shadowState ≠ .loading then .next (pendingSwap st site)
  else
    match runLoad st site with
    | .error _ => .next st
    | .ok s1 =>
      .next (noteMove (pendingSwap (endTile (modTile s1 site fun t => { t with shadowState := .ready }) site 1 true 0) site) site)

/-- MLOAD_COLUMN_FAULT (R296): the plane is FAULTED and a record goes to the owner. -/
def execMloadColumnFault (site : SiteId) (st : State) : Out :=
  if siteKind site != 2 || (siteOf st site).tile.shadowState ≠ .loading || (siteOf st site).frozen ||
      dieGone st (siteDie site) then .next st
  else
    match runLoad st site, activeCtx st site with
    | .error (s1, col, f), some cx =>
      match sendRecord s1 (nodeRecord 0 cx.owner (siteOf st site).tile.shadow.ops col f) with
      | none => .next st
      | some s2 => .next (noteMove (endTile (modTile s2 site fun t => { t with shadowState := .faulted }) site 1 true 0) site)
    | _, _ => .next st

/-- MSWAP (R298, R465): by a token in command mode, by a pass that has ended in pass mode. -/
def execMswap (p : Bool) (st : State) : Out :=
  let x := st.focus
  if !siteOk x then .fault .noSuchSite
  else
    match tileReady st x with
    | none => .next st
    | some cx =>
      let t := (siteOf st x).tile
      let due := if p then t.swapPending else (roleToken st x cx 2).isSome
      let took := if p then st else roleTake st x cx 2
      if !due then .next st
      else
        match t.shadowState with
        | .ready => .next (noteMove (modTile took x swapPlanes) x)
        | .faulted => .next (roleFault st x cx 2 0)
        | _ => .next st

/-! ### Rows (R141 to R144, R299 to R301) -/

/-- The sum of numbers, exact; not a number where one is, or where infinities differ in sign. A zero sum is negative only
when every number is. -/
def sumNums (ns : List Num) : Num :=
  if ns.any isNan then .nan false
  else
    let pos := ns.any fun n => match n with | .inf neg => !neg | _ => false
    let neg := ns.any fun n => match n with | .inf neg => neg | _ => false
    if pos && neg then .nan false
    else if pos then .inf false
    else if neg then .inf true
    else
      let units : Int := (ns.map fun n => match n with | .fin g m e => unitsOf g m e (-300) | _ => (0 : Int)).sum
      if units = 0 then .fin (ns.all fun n => match n with | .fin g _ _ => g | _ => false) 0 0
      else .fin (decide (units < 0)) units.natAbs (-300)

/-- The lane, of 48, that byte b of a row lies in, as token and lane. -/
def rowLane (b : Nat) : Nat × Nat := (b / 64, b % 64 / 4)

/-- The bytes of an A row, those of invalid lanes as none (R291, R300). -/
def rowBytes (ts : List Token) : List (Option Nat) :=
  (List.range 192).map fun b =>
    let q := rowLane b
    match ts[q.1]? with
    | none => none
    | some k => if bitOf q.2 k.valid.toNat then some (bitsAt (8 * (b % 4)) 8 (laneOf k.lanes q.2).toNat) else none

/-- Element k of a row or column of bytes, in a form of e bytes. -/
def rowElem (bs : List (Option Nat)) (e k : Nat) : Option Nat :=
  if e = 1 then (bs[k]?).getD none
  else
    match (bs[2 * k]?).getD none, (bs[2 * k + 1]?).getD none with
    | some a, some b => some (a + 256 * b)
    | _, _ => none

/-- The pairs of operands of a row and column j of a plane; a pair with an invalid or poisoned lane is a zero product, given
as none. -/
def operandPairs (p : Plane) (row : List (Option Nat)) (j : Nat) : List (Option (Nat × Nat)) :=
  let e := if p.form = 2 then 2 else 1
  let col := (p.cols[j]?).getD []
  let byte (b : Nat) : Option Nat := if p.poisoned.contains (48 * j + b / 4) then none else some ((col[b]?).getD 0).toNat
  let cb := (List.range 192).map byte
  (List.range (192 / e)).map fun k =>
    match rowElem row e k, rowElem cb e k with
    | some a, some b => some (a, b)
    | _, _ => none

/-- A float operand of a plane's form. -/
def planeNum (form e : Nat) : Num := if form = 2 then decodeIeee bf16 e else decodeF8 e

/-- One accumulator after a row: its value, and whether it became NaN or saturated (R142 to R144). -/
def accumulate (form : Nat) (pairs : List (Option (Nat × Nat))) (acc : W32) : W32 × Bool × Bool :=
  if form = 5 then
    let sum : Int := (pairs.map fun q => match q with
      | some (a, b) => (BitVec.ofNat 8 a).toInt * (BitVec.ofNat 8 b).toInt
      | none => 0).sum
    let r := acc.toInt + sum
    let k := clampInt r 32 false
    (BitVec.ofInt 32 k, false, decide (k ≠ r))
  else if isNan32 acc then (nan32, false, false)
  else
    let s := sumNums (pairs.map fun q => match q with
      | some (a, b) => mulNum (planeNum form a) (planeNum form b)
      | none => .fin false 0 0)
    let r := addNum .rne (num32 acc) s
    if isNan r then (nan32, true, false) else (rne32 r, false, false)

/-- A firing meets a NaN operand. -/
def nanOperand (form : Nat) (pairs : List (List (Option (Nat × Nat)))) : Bool :=
  form != 5 && pairs.any fun ps => ps.any fun q => q.any fun m => isNan (planeNum form m.1) || isNan (planeNum form m.2)

/-- The accumulator row after an A row. -/
def addRow (s : State) (x : SiteId) (p : Plane) (r : Nat) (ts : List Token) : State :=
  let row := rowBytes ts
  let old := (tblGet (siteOf s x).tile.rows r).getD []
  let pairs := (List.range 128).map (operandPairs p row)
  let new := (List.range 128).map fun j => accumulate p.form ((pairs[j]?).getD []) (laneOf old j)
  let s1 := countAt s x 0 0 (new.filter fun q => q.2.2).length
  let s2 := countAt s1 x 0 2 (b2n (nanOperand p.form pairs))
  let s3 := countAt s2 x 0 3 (new.filter fun q => q.2.1).length
  modTile s3 x fun t => { t with rows := tblSet t.rows r (new.map (·.1)) }

/-- Counters C0 and C1 of a tile. -/
def tileC (s : State) (x : SiteId) (i : Nat) : Nat := (((siteOf s x).cs[i]?).getD 0).toNat

/-- ROWS of a tile context. -/
def tileRows (cx : Ctx) : Nat := bitsAt 0 10 ((cx.ks[0]?).getD 0).toNat

/-- PASSES of a tile context. -/
def tilePasses (cx : Ctx) : Nat := bitsAt 0 16 ((cx.ks[1]?).getD 0).toNat

/-- C0 steps; at ROWS it returns to its initial value, C1 steps, and a pass ends: a pass-mode swap and an automatic drain fall
due (R298, R300, R303). -/
def stepRow (s : State) (x : SiteId) (cx : Ctx) : State :=
  let c := tileC s x 0 + 1
  let put (u : State) (i v : Nat) : State := modSite u x fun k => { k with cs := listSet k.cs i (BitVec.ofNat 32 v) }
  if c < tileRows cx then put s 0 c
  else
    let s1 := put (put s 0 ((cx.cs[0]?).getD 0).toNat) 1 (tileC s x 1 + 1)
    let pass := match roleOp cx 2 with | some (.mswap p) => p | _ => false
    let drains := match roleOp cx 3 with | some (.mdrain _ _) => true | _ => false
    modTile s1 x fun t => { t with
      swapPending := t.swapPending || pass
      drainDue := t.drainDue || (drains && tilePasses cx != 0 && tileC s x 1 + 1 == tilePasses cx) }

/-- The row form of MROW's operand pair: 0 F8, 1 BF16, 2 INT8. -/
def pairForm (p : BitVec 2) : Nat := match p.toNat with | 0 => 4 | 1 => 2 | _ => 5

/-- The tile may take a row now: no swap waits, and no drain is due or in progress. -/
def rowsOpen (s : State) (x : SiteId) (cx : Ctx) : Bool :=
  let t := (siteOf s x).tile
  let swap := match roleOp cx 2 with | some (.mswap false) => (roleToken s x cx 2).isSome | _ => false
  !swap && !t.swapPending && t.drain.isNone && !t.drainDue

/-- What MROW writes to OUT0 for a bundle: the bundle unchanged (R299). -/
def forwardRow (cx : Ctx) (ts : List Token) : List (Nat × Nat × Token) := selWrites cx 0 (bundleInv ts)

/-- MROW's bundle could be taken now. -/
def rowReady (s : State) (x : SiteId) (cx : Ctx) : Bool :=
  (match roleOp cx 0 with | some (.mrow _) => true | _ => false) && rowsOpen s x cx &&
    match roleToken s x cx 0 with | some ts => canEmit s x (forwardRow cx ts) | none => false

/-- MROW (R299 to R301, R464), on whatever width its input declares. Log entry 104. -/
def execMrow (p : BitVec 2) (st : State) : Out :=
  let x := st.focus
  if !siteOk x then .fault .noSuchSite
  else
    match tileReady st x with
    | none => .next st
    | some cx =>
      match roleToken st x cx 0 with
      | none => .next st
      | some ts =>
        if !rowsOpen st x cx || !canEmit st x (forwardRow cx ts) then .next st
        else
          let v := bundleInv ts
          let s1 := emitAll (roleTake st x cx 0) x (forwardRow cx ts)
          if v.kind = 5 then .next (noteMove (endTile s1 x 0 v.eos v.seq) x)
          else
            match (siteOf st x).tile.active with
            | none => .next (roleFault st x cx 0 v.seq.toNat)
            | some pl =>
              if pl.form ≠ pairForm p then .next (roleFault st x cx 0 v.seq.toNat)
              else
                let s2 := if v.kind = 6 || v.valid = 0 then
                    modTile s1 x fun t => { t with
                      rows := match tblGet t.rows (tileC st x 0) with
                        | some _ => t.rows
                        | none => tblSet t.rows (tileC st x 0) (List.replicate 128 0) }
                  else addRow s1 x pl (tileC st x 0) (ts.map asData)
                .next (noteMove (endTile (stepRow s2 x cx) x 0 v.eos v.seq) x)

/-! ### Draining and clearing (R303 to R305, R460) -/

/-- A token on the DRAIN input may trigger: nothing of the other roles is ready first, and no drain is in progress. -/
def drainToken (s : State) (x : SiteId) (cx : Ctx) : Bool :=
  let t := (siteOf s x).tile
  (roleToken s x cx 3).isSome && t.drain.isNone && !rowReady s x cx

/-- A drain begins at the first row; an automatic drain that is due begins with it (R460). -/
def beginDrain (s : State) (x : SiteId) (cx : Ctx) (auto : Bool) : State :=
  let s1 := modTile s x fun t => { t with drain := some (((cx.cs[0]?).getD 0).toNat, 0), drainDue := false }
  if auto then modSite s1 x fun k => { k with cs := listSet k.cs 1 0 } else s1

/-- MDRAIN (R303): a token on the DRAIN input begins a drain. -/
def execMdrain (_c : Bool) (_f : BitVec 2) (st : State) : Out :=
  let x := st.focus
  if !siteOk x then .fault .noSuchSite
  else
    match tileReady st x with
    | none => .next st
    | some cx =>
      if drainToken st x cx then
        .next (noteMove (beginDrain (roleTake st x cx 3) x cx (siteOf st x).tile.drainDue) x)
      else .next st

/-- MCLR (R305): every row's IN_USE bit is cleared. -/
def execMclr (st : State) : Out :=
  let x := st.focus
  if !siteOk x then .fault .noSuchSite
  else
    match tileReady st x with
    | none => .next st
    | some cx =>
      if drainToken st x cx then .next (noteMove (modTile (roleTake st x cx 3) x fun t => { t with rows := [] }) x)
      else .next st

/-- AUTO_DRAIN (R303): the drain that PASSES asks for begins, and C1 returns to 0; a trigger token that is there goes with
it (R460). -/
def execAutoDrain (site : SiteId) (st : State) : Out :=
  match tileReady st site with
  | none => .next st
  | some cx =>
    let t := (siteOf st site).tile
    if !t.drainDue || t.drain.isSome then .next st
    else
      let s1 := if (roleToken st site cx 3).isSome then roleTake st site cx 3 else st
      .next (noteMove (beginDrain s1 site cx true) site)

/-- A column of a row in an output form, with its counts: a narrowing counts no NaN in (R303, R304). -/
def drainElem (form : Nat) (int : Bool) (v : W32) : Nat × List Nat :=
  let float (q : Nat × List Nat) : Nat × List Nat := (q.1, q.2.filter (· != 2))
  match form with
  | 1 => float (toFloat bf16 (num32 v))
  | _ =>
    if int then
      let c := clampInt v.toInt 8 false
      ((BitVec.ofInt 8 c).toNat, if c = v.toInt then [] else [0])
    else float (toFloat f8 (num32 v))

/-- Lane i of token k of bundle h of a row, with its counts (Table 9.3). -/
def drainLane (form : Nat) (int : Bool) (row : List W32) (h k i : Nat) : W32 × List Nat :=
  match form with
  | 0 => (laneOf row (64 * h + 4 * i + k), [])
  | 1 =>
    let a := drainElem 1 int (laneOf row (8 * i + 2 * k))
    let b := drainElem 1 int (laneOf row (8 * i + 2 * k + 1))
    (BitVec.ofNat 32 (a.1 + b.1 * 2 ^ 16), a.2 ++ b.2)
  | _ =>
    let e (n : Nat) : Nat × List Nat := drainElem 2 int (laneOf row (8 * i + 4 * k + n))
    (BitVec.ofNat 32 ((e 0).1 + (e 1).1 * 2 ^ 8 + (e 2).1 * 2 ^ 16 + (e 3).1 * 2 ^ 24), (e 0).2 ++ (e 1).2 ++ (e 2).2 ++ (e 3).2)

/-- Tokens of a bundle by output form. -/
def drainTokens (form : Nat) : Nat := if form = 2 then 2 else 4

/-- Rows hold INT32: the ROW role holds MROW with the INT8 pair, or the active plane is one of integers. -/
def intRows (cx : Ctx) (t : Tile) : Bool :=
  match roleOp cx 0 with | some (.mrow p) => p == 2 | _ => t.active.any fun p => p.form == 5

/-- DRAIN_STEP (R303, R304): the next bundle of a drain leaves on OUT1. -/
def execDrainStep (site : SiteId) (st : State) : Out :=
  match tileReady st site with
  | none => .next st
  | some cx =>
    match (siteOf st site).tile.drain, roleOp cx 3 with
    | some (r, h), some (.mdrain c f) =>
      let t := (siteOf st site).tile
      let form := f.toNat
      let row := (tblGet t.rows r).getD []
      let lanes := (List.range (drainTokens form)).map fun k => (List.range 16).map (drainLane form (intRows cx t) row h k)
      let last := form != 0 || h == 1
      let v : Inv := { kind := 0, seq := BitVec.ofNat 12 r, eos := last, valid := 0xFFFF
                       p := lanes.map fun w => w.map (·.1) }
      let ts := selWrites cx 1 v
      if !canEmit st site ts then .next st
      else
        let counts := (lanes.flatMap fun w => w.flatMap (·.2))
        let s1 := counts.foldl (fun u i => countAt u site 3 i 1) (emitAll st site ts)
        let next := if !last then some (r, h + 1) else if r + 1 < tileRows cx then some (r + 1, 0) else none
        let s2 := modTile s1 site fun t => { t with
          drain := next, rows := if c && last then tblErase t.rows r else t.rows }
        .next (noteMove (endTile s2 site 3 last v.seq) site)
    | _, _ => .next st

/-- The bundles of a drain in progress leave while the outputs take them (R260): at most 128 rows of two bundles. -/
def finishTile (s : State) (x : SiteId) : State :=
  (List.range 256).foldl (fun u _ => match execDrainStep x u with | .next v => v | _ => u) s

/-- ACCUMULATOR_REFRESH (R285): every 4,000 ticks; no value changes. -/
def execAccumulatorRefresh (site : SiteId) (st : State) : Out :=
  if siteKind site = 2 && decide ((siteOf st site).tile.lastRefresh + 4000 ≤ st.ticks) then
    .next (modTile st site fun t => { t with lastRefresh := st.ticks })
  else .next st

end Sys2Proof.Machine
end

