-- ==== Sys2Proof/Machine/Queues.lean ====
section
/-!
DEFINITION. Queues and notify pages (R56, R245 to R247, R253, R254, R479, R482): pushes and pops, the docent's ring writes, the
entry ports a closed queue closes, and the admission of task records by doorbells.
-/
namespace Sys2Proof.Machine

/-! ### Pushing (R246, R482) -/

/-- A push performs at the queue RAM or in the ring, with its status (Table 7.2). -/
def pushEntry (s : State) (q : BitVec 24) (v : Word) (close : Bool) : State × Nat :=
  match queueDesc s q with
  | none => (s, 4)
  | some k =>
    let d := queueDie q
    let shut (u : State) : State := if close then queueBit u d k 27 true else u
    if k.closed then (s, 3)
    else
      match residentQueue s q k with
      | some r =>
        if r.cap ≤ r.entries.length then (s, 1)
        else (shut (modQueue s k.core q fun x => { x with entries := x.entries ++ [v] }), 0)
      | none =>
        if 2 ^ k.log2 ≤ (k.tail - k.head).toNat then (s, 1)
        else
          let s1 := homeWrite s d (k.ring + 8 * (k.tail.toNat % 2 ^ k.log2)) (leBytes 8 v.toNat)
          (shut (queueEnds s1 d k k.head (k.tail + 1)), 0)

/-- The docent of a die holds a push. -/
def holdPush (s : State) (q : BitVec 24) (v : Word) (close : Bool) : State :=
  modDie s (queueDie q) fun k => { k with docent := { k.docent with held := k.docent.held ++ [(q, v, close, s.cur)] } }

/-- A die that the step's core does not reach holds the queue, or, of a resident one, its queue RAM (R288, R346). -/
def queueCutOff (s : State) (q : BitVec 24) (k : Option QueueDesc) : Bool :=
  cutOff s (curDie s) (queueDie q) || k.any fun e => e.res && cutOff s (curDie s) (dieOfCore e.core)

/-- PUSHQ (R482): to a queue that is not resident the push goes by the docent, whose answer the core waits for. A queue that is out of
reach is none. Log entry 90. -/
def execPushq (d a b : Reg) (c : Bool) (st : State) : Out :=
  let x := (readReg st a).toNat
  let q : BitVec 24 := BitVec.ofNat 24 x
  match ((curCore st).wait).filter (·.arrived) with
  | some w => if w.gen = 1 then finish st d w.result else .next st
  | none =>
    if 2 ^ 24 ≤ x || queueCutOff st q (queueDesc st q) then finish st d 4
    else
      match queueDesc st q with
      | none => finish st d 4
      | some k =>
        if k.closed || (residentQueue st q k).isSome then
          let p := pushEntry st q (readReg st b) c
          finish p.1 d (BitVec.ofNat 64 p.2)
        else holdOn (holdPush st q (readReg st b) c) { arrived := true }

/-- DOCENT_PUSH (R246, R248): the oldest push a docent holds is applied, and its status goes back. -/
def execDocentPush (die : DieId) (st : State) : Out :=
  match (dieOf st die).docent.held with
  | [] => .next st
  | (q, v, c, k) :: t =>
    let s1 := modDie st die fun m => { m with docent := { m.docent with held := t } }
    let p := pushEntry s1 q v c
    let w : WaitSt := { arrived := true, result := BitVec.ofNat 64 p.2, gen := 1 }
    .next (setCore p.1 k { coreOf p.1 k with wait := some w })

/-- POPQ up to its two results. -/
def popEntry (s : State) (v : Nat) : State × Word × Nat :=
  let q : BitVec 24 := BitVec.ofNat 24 v
  if 2 ^ 24 ≤ v then (s, 0, 4)
  else
    match queueDesc s q with
    | none => (s, 0, 4)
    | some k =>
      if k.core != s.cur then (s, 0, 5)
      else
        match residentQueue s q k with
        | none => (s, 0, 5)
        | some r =>
          match r.entries with
          | e :: t => (modQueue s k.core q fun x => { x with entries := t, popped := x.popped + 1 }, e, 0)
          | [] => (s, 0, if k.closed then 3 else 2)

/-- POPQ (R479). -/
def execPopq (d a b : Reg) (st : State) : Out :=
  let p := popEntry st (readReg st a).toNat
  finish (writeReg p.1 d p.2.1) b (BitVec.ofNat 64 p.2.2)

/-! ### Entry ports (R56) -/

/-- A queue is closed and empty (R246). -/
def queueEnded (s : State) (e : BitVec 24 × QueueDesc) : Bool :=
  e.2.closed && (match residentQueue s e.1 e.2 with | some r => r.entries.isEmpty | none => e.2.head == e.2.tail)

/-- A queue that feeds an entry port has ended. The manual has no word that binds a queue to a port. Log entry 91. -/
def queueCloses (s : State) (x : SiteId) (port : Nat) : Bool :=
  ((allQueues s).filter (queueEnded s)).any fun e => Config.queueFeeds e.1 x port

/-- ENTRY_PORT_CLOSE (R56, R246): the stream that fed the port has ended, the region before it has closed, or a queue that feeds it
is closed and empty. -/
def execEntryPortClose (origin : SiteId) (port : BitVec 8) (st : State) : Out :=
  match activeRegion st origin with
  | none => .next st
  | some pl =>
    match pl.ports[port.toNat]? with
    | none => .next st
    | some q =>
      if q.exit || pl.closed.contains port.toNat then .next st
      else if pl.sources.contains port.toNat || upstreamClosed st pl q || queueCloses st q.site q.port.toNat then
        .next (closePort st pl port.toNat)
      else .next st

/-! ### Notify pages (R253) -/

/-- The record at an index of a page's ring, where it can be read. -/
def ringRecord (s : State) (die : DieId) (b : Notify) (i : BitVec 32) : State × List Byte :=
  let pa := b.ringPa.toNat + 64 * (i.toNat % 2 ^ b.log2.toNat)
  if !paThere s die pa || poisoned s die pa then (s, List.replicate 64 0) else homeRead s die pa 64

/-- A record admitted from a page, with its status. -/
def admitRecord (s : State) (die : DieId) (b : Notify) (i : BitVec 32) : State × Nat :=
  let (s1, r) := ringRecord s die b i
  if !recordOk r || bitsAt 0 48 (recWord r 1) == 0 || decide (b.maxClass.toNat < bitsAt 48 3 (recWord r 0)) then (s1, 4)
  else
    spawnRecord s1 die
      { record := r, addr := b.ringVa + BitVec.ofNat 64 (64 * (i.toNat % 2 ^ b.log2.toNat))
        asid := b.asid.zeroExtend 64, ptBase := b.root } 64

/-- Records of a page are admitted up to index v, n of them at most: the state, and whether all were taken. -/
def admitUpTo (die : DieId) (page : Nat) (v : BitVec 32) : Nat → State → State × Bool
  | 0, s => (s, true)
  | n + 1, s =>
    let b := notifyOf s die page
    if b.last = v then (s, true)
    else
      let (s1, q) := admitRecord s die b b.last
      if q = 2 || q = 3 then (s1, false)
      else
        admitUpTo die page v n (modNotify s1 die page fun k => { k with
          last := k.last + 1
          refused := if (q == 4 || q == 5) && k.refused != 0xFFFFFFFF then k.refused + 1 else k.refused })

/-- The first doorbell write of a page's list is handled; the write stays while a record must be tried later. -/
def handleDoorbell (s : State) (die : DieId) (page : Nat) : State :=
  let b := notifyOf s die page
  match b.todo with
  | [] => s
  | v :: t =>
    let drop (u : State) : State := modNotify u die page fun k => { k with todo := t }
    let n := (v - b.last).toNat
    if n = 0 || !b.en then drop s
    else if 2 ^ b.log2.toNat < n then drop (modNotify s die page fun k => { k with overrun := true })
    else
      let q := admitUpTo die page v n s
      if q.2 then drop q.1 else q.1

/-- DOORBELL (R253, R358): a write of a page's DOORBELL, or the turn of the one that waits first in its list, is handled; a parked
die's docent holds it. -/
def execDoorbell (die : DieId) (page : BitVec 8) (value : BitVec 32) (st : State) : Out :=
  let n := page.toNat
  let s1 := if (notifyOf st die n).todo.head? = some value then st else modNotify st die n fun b => { b with todo := b.todo ++ [value] }
  if dieGone st die then .next s1 else .next (handleDoorbell s1 die n)

/-- OVERRUN_CLEAR (R253): a 1 is written to OVERRUN. -/
def execOverrunClear (die : DieId) (page : BitVec 8) (st : State) : Out :=
  .next (modNotify st die page.toNat fun b => { b with overrun := false })

end Sys2Proof.Machine
end

