-- ==== Sys2Proof/Machine/Save.lean ====
section
/-!
DEFINITION. Saving and restoring regions and slices (R212, R249, R259 to R264, R297, R474, R534, Tables 7.8 to 7.10, 9.9 and
15.5): the save image of a slice, its region sections, DRAIN_SAVE, FREEZE_SAVE and REGION_RESTORE. Where the tables leave
the place of a field open, log entry 29 names the one taken.
-/
namespace Sys2Proof.Machine

/-! ### Tokens and invocations as bytes -/

/-- A token in 72 bytes: its 544 bits, then zero (Table 2.1). -/
def tokenImage (k : Token) : List Byte :=
  (laneList (laneOf k.lanes)).flatMap (fun w => leBytes 4 w.toNat) ++
    leBytes 8 (k.valid.toNat + b2n k.eos * 2 ^ 16 + k.seq.toNat * 2 ^ 17 + k.kind.toNat * 2 ^ 29)

/-- The token of 72 bytes. -/
def imageToken (bs : List Byte) : Token :=
  let h := bytesAt bs 64 4
  let k := bitsAt 29 3 h
  { kind := BitVec.ofNat 3 k, seq := fieldOf 12 17 h, eos := bitOf 16 h, valid := fieldOf 16 0 h
    lanes := if k = 0 || k = 5 || fieldOf 16 0 h ≠ 0 then bytesLanes bs else [] }

/-- An invocation in 272 bytes: P0 to P3, then VALID, KIND, SEQ and EOS. -/
def invImage (v : Inv) : List Byte :=
  ((List.range 4).flatMap fun j => laneBytes ((v.p[j]?).getD [])) ++
    leBytes 4 v.valid.toNat ++ leBytes 4 v.kind.toNat ++ leBytes 4 v.seq.toNat ++ leBytes 4 (b2n v.eos)

/-- The invocation of 272 bytes, with the predicate, carry and GEN number it had. -/
def imageInv (bs : List Byte) (was : Option Inv) : Inv :=
  { kind := fieldOf 3 0 (bytesAt bs 260 4), seq := fieldOf 12 0 (bytesAt bs 264 4), eos := bitOf 0 (bytesAt bs 268 4)
    valid := fieldOf 16 0 (bytesAt bs 256 4), p := (List.range 4).map fun j => bytesLanes (bs.drop (64 * j))
    mask := (was.map (·.mask)).getD 0, carry := (was.map (·.carry)).getD [], gen := (was.map (·.gen)).getD 0 }

/-! ### Region sections (R262, R474, R534) -/

/-- The twenty input tracks of a site in the order of the bitmap. -/
def inputTracks : List (Nat × Nat) := (List.range 5).flatMap fun p => (List.range 4).map fun t => (p, t)

/-- The tokens of an input track that the image takes. -/
def trackTokens (s : State) (x : SiteId) (pt : Nat × Nat) : List Token := ((chanOf s (chanKey x pt.1 pt.2)).slots).take 4

/-- A window entry's response as one token: the word of the register the operation writes. -/
def entryToken (draw : Nat) (op : Instr) (e : MeEntry) : Token :=
  let v := responseInv draw op e
  let d := match op with | .spld d _ _ => d.toNat | .spamo d _ _ _ _ => d.toNat | _ => 0
  { invHead v with lanes := (v.p[d]?).getD [] }

/-- The operation of a memory element's context. -/
def elementOp (s : State) (x : SiteId) (k : BitVec 2) : Option Instr := (ctxAt s x k).bind fun cx => (stageOps cx).head?

/-- The invocation held after stage i + 1: in its arc; after stage 6 also one of which a FORK's side 2 is still to be written. -/
def heldArc (k : Site) (i : Nat) : Option Inv := if i = 5 && k.node.side2.isSome then k.node.side2 else (k.arcs[i]?).getD none

/-- The bitmap of a site (Table 7.10). -/
def siteBits (s : State) (x : SiteId) : Nat :=
  let k := siteOf s x
  (inputTracks.map fun pt => (2 ^ (trackTokens s x pt).length - 1) * 2 ^ (16 * pt.1 + 4 * pt.2)).sum +
    ((List.range 6).map fun i => if (heldArc k i).isSome then 2 ^ (80 + i) else 0).sum +
    ((List.range 32).map fun i => if (k.win[i]?).any (·.done.isSome) then 2 ^ (86 + i) else 0).sum

/-- The token buffers of a site in the order of its bitmap. -/
def siteBuffers (s : State) (x : SiteId) (c : BitVec 2) : List Byte :=
  let k := siteOf s x
  (inputTracks.flatMap fun pt => (trackTokens s x pt).flatMap tokenImage) ++
    ((List.range 6).flatMap fun i => match heldArc k i with | some v => invImage v | none => []) ++
    (k.win.flatMap fun e =>
      match elementOp s x c with
      | some op => if e.done.isSome then tokenImage (entryToken s.draws op e) else []
      | none => [])

/-- The site's active context holds a GEN. -/
def holdsGen (s : State) (x : SiteId) (c : BitVec 2) : Bool :=
  (ctxAt s x c).any fun cx => holdsOp cx fun i => match i with | .gen _ _ _ _ => true | _ => false

/-- The site record of a site in context number c: catalogue identifiers and counters. Where its context holds a GEN, the counter j of
R445 is in the eight bytes that are otherwise zero. Log entry 29. -/
def siteImage (s : State) (x : SiteId) (c : BitVec 2) : List Byte :=
  ((List.range 4).flatMap fun k => leBytes 2 (((ctxAt s x (BitVec.ofNat 2 k)).map (·.catid.toNat)).getD 0xFFFF)) ++
    leBytes 8 (if holdsGen s x c then (siteOf s x).node.j else 0) ++ (List.range 4).flatMap fun i => leBytes 4 (((siteOf s x).cs[i]?).getD 0).toNat

/-- The number of a plane state in the image. -/
def planeCode (p : PlaneState) : Nat := match p with | .empty => 0 | .loading => 1 | .ready => 2 | .faulted => 3

/-- Accumulator rows in use. -/
def rowsInUse (t : Tile) : Nat := t.rows.foldl (fun n e => max n (e.1 + 1)) 0

/-- An operand set in 16 bytes. -/
def opsImage (p : Option Plane) : List Byte :=
  let ws : List W32 := match p with | some q => q.ops | none => []
  (List.range 4).flatMap fun i => leBytes 4 ((ws[i]?).getD 0).toNat

/-- A tile's state. -/
def tileImage (t : Tile) : List Byte :=
  leBytes 4 (rowsInUse t) ++ leBytes 1 (planeCode t.shadowState) ++ leBytes 1 (b2n t.active.isSome) ++ leBytes 2 (b2n t.swapPending) ++
    opsImage t.active ++ opsImage (if t.shadowState = .empty then none else some t.shadow) ++
    (List.range (rowsInUse t)).flatMap fun r => (List.range 128).flatMap fun j => leBytes 4 (laneOf ((tblGet t.rows r).getD []) j).toNat

/-- A node-state entry (Table 15.5). -/
def nodeEntry (i kind st0 st1 : Nat) (ts : List Token) : List Byte :=
  leBytes 2 i ++ leBytes 2 kind ++ leBytes 4 ts.length ++ leBytes 4 st0 ++ leBytes 4 st1 ++ List.replicate 48 0 ++ ts.flatMap tokenImage

/-- An ORDR's pending entries as tokens, nearest first. -/
def ordTokens (n : Node) (w : Nat) : List Token :=
  (n.pend.mergeSort fun a b => decide (ordAhead n a.seq ≤ ordAhead n b.seq)).flatMap fun e =>
    (List.range (w + 1)).map fun j =>
      { kind := if e.hole then 6 else 0, seq := e.seq, eos := e.done, valid := e.valid
        lanes := if e.valid = (0 : BitVec 16) then [] else (e.words[j]?).getD [] }

/-- A data token of lanes 0 to n - 1. -/
def denseToken (n : Nat) (w : Nat → W32) : Token :=
  { kind := 0, seq := 0, eos := false, valid := laneMask fun l => decide (l < n), lanes := laneList fun l => if l < n then w l else 0 }

/-- A PACK's partial bundle. -/
def packTokens (n : Node) (w : Nat) : List Token :=
  (List.range (w + 1)).map fun j => denseToken n.part.length fun l => ((n.part[l]?).bind fun k => k[j]?).getD 0

/-- A TOPK's position tokens, then its score tokens. -/
def topkRow (n : Node) : List Token :=
  let cut (f : W32 × W32 → W32) : List Token :=
    (List.range ((n.row.length + 15) / 16)).map fun j =>
      denseToken (n.row.length - 16 * j) fun l => ((n.row[16 * j + l]?).map f).getD 0
  cut (·.2) ++ cut (·.1)

/-- Where the bundle of place e in an SPFIFO's queue lies in its ring. -/
def fifoPlace (k : Site) (cx : Ctx) (e : Nat) : Nat := (k.node.j - k.fifo.length + e) % max 1 ((cx.ks[1]?).getD 0).toNat

/-- A token of an SPFIFO has its lanes in the scratchpad. -/
def inStore (k : Token) : Bool := k.kind == 0 || k.kind == 5

/-- The bundles an SPFIFO holds, in queue order, read from the scratchpad. -/
def fifoTokens (s : State) (x : SiteId) (cx : Ctx) : List Token :=
  let k := siteOf s x
  (List.range k.fifo.length).flatMap fun e =>
    let ts := (k.fifo[e]?).getD []
    (List.range ts.length).map fun j =>
      let h := (ts[j]?).getD markerTok
      { h with lanes := if inStore h then bytesLanes (memBytes s.mem (fifoPa x cx (fifoPlace k cx e) j) 64) else [] }

/-- The mode of a context's reducing VRED (Table 16.20). -/
def reduceMode (cx : Ctx) : Option Nat :=
  (stageOps cx).findSome? fun q => match q with | .vred _ _ _ m _ _ => if m.toNat < 4 then some m.toNat else none | _ => none

/-- The accumulator lanes of an open row: of SUMP the sum, its saturation and the count, as the row would write them. -/
def rowLanes (m : Nat) (n : Node) : Lanes := if n.rowOpen then (vredResult m n).1 else []

/-- The node-state entries of a site of index i: one for each of its operations that has a state (Table 15.5, R534). -/
def nodeImage (s : State) (i : Nat) (x : SiteId) (c : BitVec 2) : List Byte :=
  match ctxAt s x c with
  | none => []
  | some cx =>
    let n := (siteOf s x).node
    let holds (f : Instr → Bool) (bs : List Byte) : List Byte := if holdsOp cx f then bs else []
    holds (fun q => q == .ordr) (nodeEntry i 1 n.next.toNat n.pend.length (ordTokens n (primaryWidth cx))) ++
      holds (fun q => q == .pack) (nodeEntry i 2 n.next.toNat n.part.length (packTokens n (primaryWidth cx))) ++
      holds (fun q => q == .spfifo) (nodeEntry i 3 0 0 (fifoTokens s x cx)) ++
      holds (fun q => match q with | .topk _ _ _ _ => true | _ => false)
        (nodeEntry i 4 (bitsAt 0 7 ((cx.ks[0]?).getD 0).toNat) n.row.length (topkRow n)) ++
      (match reduceMode cx with
        | none => []
        | some m => nodeEntry i 5 n.absorbed 0 [{ kind := 0, seq := 0, eos := false, valid := 0xFFFF, lanes := rowLanes m n }])

/-- A region section (Table 7.9), freeze or drain. -/
def regionImage (s : State) (pl : Placement) (freeze : Bool) : List Byte :=
  let xs := pl.sites
  let recs := xs.flatMap fun x => siteImage s x pl.ctx
  let maps := xs.flatMap fun x => leBytes 16 (siteBits s x)
  let toks := xs.flatMap fun x => siteBuffers s x pl.ctx
  let tiles := (xs.filter fun x => siteKind x == 2 && !lowerRow x).flatMap fun x => tileImage (siteOf s x).tile
  let nodes := (List.range xs.length).flatMap fun i => match xs[i]? with | some x => nodeImage s i x pl.ctx | none => []
  let o2 := 64 + recs.length
  let o3 := o2 + maps.length
  let o4 := o3 + toks.length
  let o5 := o4 + tiles.length
  leBytes 2 (siteRow pl.origin) ++ leBytes 2 (siteCol pl.origin) ++ leBytes 2 pl.rows ++ leBytes 2 pl.cols ++
    leBytes 2 (siteDie pl.origin).toNat ++ leBytes 2 pl.ctx.toNat ++ leBytes 2 (b2n freeze) ++ leBytes 2 0 ++
    leBytes 4 64 ++ leBytes 4 o2 ++ leBytes 4 o3 ++ leBytes 4 o4 ++ leBytes 4 (if freeze && !nodes.isEmpty then o5 else 0) ++
    List.replicate 28 0 ++ recs ++ maps ++ toks ++ tiles ++ (if freeze then nodes else [])

/-! ### The save image of a slice (R261) -/

/-- Where the save image of a slice lies, if its cohort has a record (R249). -/
def imagePa (s : State) (l : Slice) : Option Nat :=
  (cohortAt s (dieOfCore l.core) l.cohort).map fun pa =>
    bitsAt 12 40 (walkerRead s pa) * 4096 + l.member * bitsAt 0 16 (walkerRead s (pa + 8)) * 4096

/-- A suspended firing waits in SWAIT or QWAIT, and what it watches has not changed (R252, R261). -/
def stillWaits (l : Slice) : Bool :=
  l.suspended && !l.woken && (match l.watch with | some (.region _) => true | some (.sync _) => true | _ => false)

/-- READY of a slice (R261). -/
def readyWord (s : State) (l : Slice) : Nat :=
  ((List.range l.actors.length).map fun i =>
    if (if i = 0 && !l.entryFired then true else (l.actors[i]?).any (actorReady (coreOf s l.core))) then 2 ^ i else 0).sum +
    b2n l.suspended * 256 + b2n (stillWaits l) * 512

/-- A tree in the image (Table 9.9). -/
def treeImage (t : Tree) (id : BitVec 32) : List Byte :=
  if t.owner = some id then
    ((List.range 64).flatMap fun n => leBytes 1 (t.parentOf n + b2n (t.isLive n) * 128)) ++
      leBytes 8 (t.base.toNat + 2 ^ 48) ++ List.replicate 56 0
  else List.replicate 128 0

/-- BUDGET_LEFT of a slice as it reads. -/
def budgetNat (l : Slice) : Nat := (budgetWord l).toNat

/-- The fixed part of a slice's image, 0x800 bytes (Table 7.8). -/
def sliceImage (s : State) (l : Slice) : List Byte :=
  let c := coreOf s l.core
  let g := l.regs
  let owns := c.counterOwner == some l.id
  let w (v : Word) : List Byte := leBytes 8 v.toNat
  leBytes 8 (1 + l.saved.length % 256 * 256 + b2n owns * 2 ^ 16) ++ List.replicate 56 0 ++
    (g.x.toList.drop 1).flatMap w ++ g.q.toList.flatMap w ++ g.y.toList.flatMap w ++
    w g.pc ++ w g.flags ++ w g.repState ++ leBytes 8 (budgetNat l) ++
    leBytes 8 (l.deadline.toNat * 8 + l.cls.toNat) ++ w g.asid ++ w g.ptBase ++ w l.wid ++ w l.widShape ++
    leBytes 8 (readyWord s l) ++ w l.cycles ++ List.replicate 0x150 0 ++
    (c.trees.toList.flatMap fun t => treeImage t l.id) ++
    (if owns then c.counters.toList.flatMap (fun v => leBytes 4 v.toNat) else List.replicate 256 0) ++ List.replicate 0xC0 0

/-- The docent writes bytes to memory. -/
def saveBytes (s : State) (die : DieId) (pa : Nat) (bs : List Byte) : State :=
  (piecesOf pa bs.length).foldl (fun u p => homeWrite u die p.1 ((bs.drop (p.1 - pa)).take p.2)) s

/-- Bytes read back from memory. -/
def loadBytes (s : State) (die : DieId) (pa n : Nat) : State × List Byte :=
  (piecesOf pa n).foldl (fun q p => let (u, bs) := homeRead q.1 die p.1 p.2; (u, q.2 ++ bs)) (s, [])

/-- A tree of the image. -/
def imageTree (bs : List Byte) (id : BitVec 32) : Tree :=
  { parent := Vector.ofFn fun n : Fin 64 => fieldOf 6 0 (bytesAt bs n.val 1)
    live := BitVec.ofNat 64 ((List.range 64).map fun n => if bitOf 7 (bytesAt bs n 1) then 2 ^ n else 0).sum
    base := BitVec.ofNat 48 (bytesAt bs 0x40 8), owner := some id }

/-- OWNED of a tree in the image. -/
def imageOwned (bs : List Byte) : Bool := bitOf 48 (bytesAt bs 0x40 8)

/-- A slice and its core after its image has been read back (R251, R261, R324, R344). -/
def restoreSlice (s : State) (l : Slice) (bs : List Byte) : State :=
  let w (o : Nat) : Word := BitVec.ofNat 64 (bytesAt bs o 8)
  let ready := bytesAt bs 0x2E0 8
  let g : SeqRegs :=
    { x := Vector.ofFn fun i : Fin 64 => if i.val = 0 then 0 else w (0x40 + 8 * (i.val - 1))
      q := Vector.ofFn fun i : Fin 8 => w (0x238 + 8 * i.val)
      y := Vector.ofFn fun i : Fin 4 => w (0x278 + 8 * i.val)
      pc := w 0x298, flags := w 0x2A0, repState := w 0x2A8, asid := w 0x2C0, ptBase := w 0x2C8 }
  let l1 : Slice := { l with
    regs := g, budget := l.budget.map fun _ => BitVec.ofNat 48 (bytesAt bs 0x2B0 8)
    deadline := fieldOf 48 3 (bytesAt bs 0x2B8 8), cls := fieldOf 3 0 (bytesAt bs 0x2B8 8)
    wid := w 0x2D0, widShape := w 0x2D8, cycles := w 0x2E8
    suspended := bitOf 8 ready, watch := if bitOf 9 ready then l.watch else none, woken := false, state := .resident }
  let c := coreOf s l.core
  let tree (i : Nat) : List Byte := (bs.drop (0x440 + 128 * i)).take 128
  let rcown := bitOf 16 (bytesAt bs 0 8)
  let c1 := { c with
    trees := Vector.ofFn fun i : Fin 4 => if imageOwned (tree i.val) then imageTree (tree i.val) l.id else c.trees[i]
    counters := if rcown then Vector.ofFn fun i : Fin 64 => BitVec.ofNat 32 (bytesAt bs (0x640 + 4 * i.val) 4) else c.counters
    counterOwner := if rcown then some l.id else c.counterOwner }
  let s1 := setSlice (setCore s l.core c1) l1
  dropRegions s1 l.core g.ptBase l.regions readable

/-! ### Saving a region (R259, R260) -/

/-- Tokens on the way to a site of the region from within it land in their slots. -/
def landInside (s : State) (pl : Placement) : State :=
  let xs := pl.sites
  (chansAt s xs).foldl (fun u e =>
    if 5 ≤ e.2.1 then u
    else
      modChan u (chanKey e.1 e.2.1 e.2.2.1) fun c =>
        let mine := c.flight.filter fun f => xs.contains f.2.1
        let n := 4 - min 4 c.slots.length
        { c with slots := c.slots ++ (mine.take n).map (·.1), flight := (mine.drop n) ++ c.flight.filter fun f => !xs.contains f.2.1
                 freed := 0 }) s

/-- The key under which an exit buffer waits for its context. -/
def exitKey (ctx : BitVec 2) (x : SiteId) (p t : Nat) : Nat := (x.toNat + 2 ^ 14 * (ctx.toNat + 1)) * 128 + p * 8 + t

/-- The exit buffers of a region's sites are put aside with their context, or taken back. -/
def moveExits (s : State) (pl : Placement) (aside : Bool) : State :=
  pl.sites.foldl (fun u x => [5, 6, 7, 8, 9].foldl (fun v p => [0, 1, 2, 3].foldl (fun y t =>
    let a := chanKey x p t
    let b := exitKey pl.ctx x p t
    if aside then setChan (setChan y b (chanOf y a)) a {} else setChan (setChan y a (chanOf y b)) b {}) v) u) s

/-- Where the next region section of a slice goes. -/
def nextSection (l : Slice) : Nat := l.saved.foldl (fun n e => max n (e.2.2.1 + e.2.2.2)) 0x800

/-- What a freeze lets finish (R260): the memory elements, matrix tiles and stream engines of the region, and then the transfers on its
channels. -/
def finishRegion (s : State) (pl : Placement) : State :=
  landInside (finishStreams (pl.sites.foldl finishTile (pl.sites.foldl finishElement s)) pl) pl

/-- The region leaves its sites, its section written into its owner's image; without a cohort record there is no image. Its counts are
sent first (R148). -/
def saveRegion (s : State) (pl : Placement) (freeze : Bool) : State :=
  let s0 := flushStats (if freeze then finishRegion s pl else s) pl
  match findSlice s0 pl.owner with
  | none => s0
  | some l =>
    let bs := regionImage s0 pl freeze
    let at_ := nextSection l
    let s1 := match imagePa s0 l with
      | some pa =>
        let u := saveBytes s0 (dieOfCore l.core) (pa + at_) bs
        saveBytes u (dieOfCore l.core) (pa + 1) (leBytes 1 (l.saved.length + 1))
      | none => s0
    let s2 := modSlice s1 l.id fun k => { k with saved := k.saved ++ [(pl.origin, pl.ctx, at_, bs.length)] }
    let kept := pl.sites.map fun x => (x, siteOf s0 x)
    let s3 := moveExits s2 pl true
    let s4 := pl.sites.foldl (fun u x => modSite (clearInputs u x) x fun k => { k with
      on := false, arcs := Vector.replicate 6 none, node := {}, win := [], fifo := [], frozen := false }) s3
    modPlacement s4 pl.origin pl.ctx fun p => { p with
      active := false, saved := true, kept := kept, preempt := none, quiet := false, lastUsed := leadCyc s pl }

/-- The pattern that takes a marked region as it switches: of the slices that qualify then, the first by the key of R236, and of its
patterns the one with most shuttles waiting (R256). -/
def takerOf (s : State) (pl : Placement) : Option Placement :=
  (bestSlice schedulesBefore (s.slices.filter (preempts s pl))).bind fun l => bestPattern s (boundOf s pl l.id)

/-- The configuration network carries a region's state in the present class-2 slot of the die of its origin (R71, R260). -/
def curatorSlot (s : State) (pl : Placement) : Bool := slotNow s (siteDie pl.origin) 2 (siteOf s pl.origin).domain

/-- The die whose docent has a swap-out of a slice's cohort in progress. -/
def swappingOut (s : State) (l : Slice) : Bool :=
  s.dies.any fun e => e.2.docent.busy && e.2.docent.cmd == 1 && e.2.docent.cohort == l.cohort

/-- FREEZE_SAVE (R260): a region of a slice that is being swapped out. -/
def execFreezeSave (origin : SiteId) (st : State) : Out :=
  match activeRegion st origin with
  | none => .next st
  | some pl =>
    match findSlice st pl.owner with
    | none => .next st
    | some l =>
      .next (if l.state == .swapped && swappingOut st l && curatorSlot st pl then saveRegion st pl true else st)

/-! ### Restoring a region (R263, R264) -/

/-- The contents of a site as the image gives them: input tokens, arcs and window, from a stream of bytes. -/
structure SiteLoad where
  tracks : List (List Token) := []
  arcs : List (Option Inv) := []
  responses : List Token := []
  rest : List Byte := []
deriving DecidableEq, Repr

/-- n tokens of a stream of bytes. -/
def takeTokens (n : Nat) (bs : List Byte) : List Token × List Byte :=
  ((List.range n).map fun i => imageToken (bs.drop (72 * i)), bs.drop (72 * n))

/-- A site's buffers read under its bitmap. -/
def readBuffers (m : Nat) (was : Site) (bs : List Byte) : SiteLoad :=
  let a := inputTracks.foldl (fun (q : List (List Token) × List Byte) pt =>
    let r := takeTokens (popCount 4 (bitsAt (16 * pt.1 + 4 * pt.2) 4 m)) q.2
    (q.1 ++ [r.1], r.2)) ([], bs)
  let b := (List.range 6).foldl (fun (q : List (Option Inv) × List Byte) i =>
    if bitOf (80 + i) m then (q.1 ++ [some (imageInv q.2 (heldArc was i))], q.2.drop 272) else (q.1 ++ [none], q.2)) ([], a.2)
  let c := takeTokens (popCount 32 (bitsAt 86 32 m)) b.2
  { tracks := a.1, arcs := b.1, responses := c.1, rest := c.2 }

/-- The window of a memory element: the entries that were kept, else entries made of the responses. -/
def loadWindow (was : Site) (rs : List Token) : List MeEntry :=
  if was.win.length = rs.length then was.win
  else
    (List.range rs.length).map fun i =>
      let k := (rs[i]?).getD markerTok
      { bundle := List.replicate 4 k, accs := [], words := [], valid := k.valid, serial := i, done := some i }

/-- A site of a restored region: its counters, tokens, arcs and window written to their places. -/
def loadSite (s : State) (pl : Placement) (recs maps : List Byte) (i : Nat) (x : SiteId) (bs : List Byte) : State × List Byte :=
  let was := (((pl.kept.find? fun e => e.1 == x).map (·.2))).getD
    { node := ((ctxAt s x pl.ctx).map (freshNode s pl x)).getD {} }
  let j := if holdsGen s x pl.ctx then bytesAt recs (32 * i + 8) 8 else was.node.j
  let side (v : Option Inv) : Bool → Option Inv := fun b => if was.node.side2.isSome = b then v else none
  let q := readBuffers (bytesAt maps (16 * i) 16) was bs
  let cs := (List.range 4).map fun j => BitVec.ofNat 32 (bytesAt recs (32 * i + 16 + 4 * j) 4)
  let s1 := modSite s x fun k => { k with
    act := pl.ctx, on := true, cs := cs
    arcs := Vector.ofFn fun j : Fin 6 => let v := (q.arcs[j.val]?).getD none; if j.val = 5 then side v false else v
    node := { was.node with side2 := side ((q.arcs[5]?).getD none) true, j := j }
    win := loadWindow was q.responses, fifo := was.fifo, fault := was.fault, frozen := was.frozen
    blocked := was.blocked, stats := was.stats, tiles := k.tiles ++ was.tiles, adder := was.adder, statDead := was.statDead
    swgLast := was.swgLast, swgHold := was.swgHold
    tile := { k.tile with drain := was.tile.drain, drainDue := was.tile.drainDue } }
  let s2 := (List.range 20).foldl (fun u j =>
    match inputTracks[j]? with
    | none => u
    | some pt => modChan u (chanKey x pt.1 pt.2) fun c => { c with slots := (q.tracks[j]?).getD [] }) s1
  (s2, q.rest)

/-- An operand set of the image. -/
def imageOps (bs : List Byte) : List W32 := wordsAt bs 0 4

/-- A plane is loaded from an operand set into a tile's shadow plane (R263); a fault makes it FAULTED and leaves a record (R296), or
the restore waits while the record has no place. -/
def reloadPlane (s : State) (x : SiteId) (ops : List W32) : Option State :=
  let s1 := modTile s x fun t => { t with
    shadowState := .loading, loadCol := 0, shadow := { ops := ops, form := ((ops[3]?).getD 0).toNat / 256 % 16 } }
  match runLoad s1 x with
  | .ok s2 => some (modTile s2 x fun t => { t with shadowState := .ready })
  | .error (s2, col, f) =>
    let faulted (u : State) : State := modTile u x fun t => { t with shadowState := .faulted }
    match activeCtx s2 x with
    | none => some (faulted s2)
    | some cx => (sendRecord s2 (nodeRecord 0 cx.owner ops col f)).map faulted

/-- Step 1 of R263: the active plane is loaded through the shadow plane, which is empty afterwards. -/
def reloadActive (s : State) (x : SiteId) (ops : List W32) (pending : Bool) : Option State :=
  (reloadPlane s x ops).map fun u => modTile u x fun t => { (if t.shadowState = .ready then swapPlanes t else t) with
    shadow := {}, shadowState := .empty, loadCol := 0, swapPending := pending }

/-- Steps 2 and 3 of R263: the shadow plane in its saved state. -/
def reloadShadow (s : State) (x : SiteId) (ops : List W32) (state : Nat) : Option State :=
  if state = 1 || state = 2 then reloadPlane s x ops
  else if state = 3 then
    some (modTile s x fun t => { t with
      shadowState := .faulted, shadow := { ops := ops, form := ((ops[3]?).getD 0).toNat / 256 % 16 } })
  else some s

/-- A tile's state from the image (R263), and the bytes after it; none while a record of a fault has no place. -/
def loadTile (s : State) (x : SiteId) (bs : List Byte) : Option (State × List Byte) :=
  let n := bytesAt bs 0 4
  let rows := (List.range n).map fun r => (r, wordsAt bs (40 + 512 * r) 128)
  let pending := bitOf 0 (bytesAt bs 6 2)
  let s1 := modTile s x fun t => { t with
    active := none, shadow := {}, shadowState := .empty, loadCol := 0, swapPending := pending, rows := rows }
  let s2 := if bytesAt bs 5 1 = 0 then some s1 else reloadActive s1 x (imageOps (bs.drop 8)) pending
  (s2.bind fun u => reloadShadow u x (imageOps (bs.drop 24)) (bytesAt bs 4 1)).map fun u => (u, bs.drop (40 + 512 * n))

/-- The tiles of a list from a stream of bytes. -/
def loadTiles : List SiteId → State → List Byte → Option State
  | [], s, _ => some s
  | x :: t, s, bs =>
    match loadTile s x bs with
    | none => none
    | some q => loadTiles t q.1 q.2

/-- The node of a node-state entry of a context of primary width w that reduces in mode m. -/
def loadNode (n : Node) (w m kind st0 st1 : Nat) (ts : List Token) : Node :=
  match kind with
  | 1 => { n with
      next := BitVec.ofNat 12 st0
      pend := (List.range st1).map fun i =>
        let es := (ts.drop (i * (w + 1))).take (w + 1)
        let h := (es.head?).getD markerTok
        { seq := h.seq, words := es.map (·.lanes), valid := h.valid, done := h.eos, hole := h.kind == 6 } }
  | 2 => { n with
      next := BitVec.ofNat 12 st0
      part := (List.range st1).map fun l => ts.map fun k => laneOf k.lanes l }
  | 4 =>
    let h := ts.length / 2
    let lane (off i : Nat) : W32 := laneOf (((ts[off + i / 16]?).map (·.lanes)).getD []) (i % 16)
    { n with row := (List.range st1).map fun i => (lane h i, lane 0 i), rowOpen := n.rowOpen || decide (0 < st1) }
  | 5 =>
    let w := ((ts.head?).map (·.lanes)).getD []
    { n with
      rowOpen := decide (0 < st0), absorbed := st0, acc := w, nan := decide (m ≤ 1) && isNan32 (laneOf w 0)
      sum := (laneOf w 0).toNat, dsat := bitOf 1 (laneOf w 1).toNat, count := (laneOf w 2).toNat }
  | _ => n

/-- The bundles of an SPFIFO's entry: their sidebands to its queue, their lanes to the store. -/
def loadFifo (s : State) (x : SiteId) (cx : Ctx) (ts : List Token) : State :=
  let w := primaryWidth cx + 1
  let n := ts.length / w
  let s1 := modSite s x fun k => { k with
    fifo := (List.range n).map fun e => (ts.drop (e * w)).take w, node := { k.node with j := max k.node.j n } }
  let k := siteOf s1 x
  (List.range n).foldl (fun u e => (List.range w).foldl (fun v j =>
    match ts[e * w + j]? with
    | none => v
    | some h => if inStore h then { v with mem := memWrite v.mem (fifoPa x cx (fifoPlace k cx e) j) (laneBytes h.lanes) } else v) u) s1

/-- The node-state entries of a section are written back; the fuel covers one entry a step, at most two a site. -/
def loadNodes (pl : Placement) : Nat → State → List Byte → State
  | 0, s, _ => s
  | n + 1, s, bs =>
    if bs.length < 64 then s
    else
      let i := bytesAt bs 0 2
      let kind := bytesAt bs 2 2
      let count := bytesAt bs 4 4
      let q := takeTokens count (bs.drop 64)
      let s1 := match pl.sites[i]?.bind fun x => (ctxAt s x pl.ctx).map fun cx => (x, cx) with
        | none => s
        | some (x, cx) =>
          if kind = 3 then loadFifo s x cx q.1
          else
            modSite s x fun k => { k with
              node := loadNode k.node (primaryWidth cx) ((reduceMode cx).getD 0) kind (bytesAt bs 8 4) (bytesAt bs 12 4) q.1 }
      loadNodes pl n s1 q.2

/-- A region section is written back and its context is active (R264), which begins a new configuration period (R69); a drained
region admits again. What was active there has its counts sent first (R148). None while a record of a plane's fault has no place. -/
def loadRegion (s : State) (pl : Placement) (bs : List Byte) : Option State :=
  let xs := pl.sites
  let off (i : Nat) : Nat := bytesAt bs (16 + 4 * i) 4
  let part (i j : Nat) : List Byte := (bs.drop (off i)).take (off j - off i)
  let now := leadCyc s pl
  let s0 := modPlacement (deactivate (flushOver s pl) pl) pl.origin pl.ctx fun p => { p with
    active := true, saved := false, kept := [], admitted := [], quiet := false, lastMove := now, countFrom := now, activeSince := now
    dropReported := false }
  let q := (List.range xs.length).foldl (fun (q : State × List Byte) i =>
    match xs[i]? with
    | none => q
    | some x => loadSite q.1 pl (part 0 1) (part 1 2) i x q.2) (s0, bs.drop (off 2))
  (loadTiles (xs.filter fun x => siteKind x == 2 && !lowerRow x) q.1 (bs.drop (off 3))).map fun t =>
    let s1 := if off 4 = 0 then t else loadNodes pl (2 * xs.length) t (bs.drop (off 4))
    let s2 := moveExits s1 pl false
    if bytesAt bs 12 2 = 0 then
      match placementAt s2 pl.origin pl.ctx with | some p => resumeAdmission s2 p | none => s2
    else s2

/-- The image of a catalogue identifier is loaded into a context number at an origin, if it can be and is what is wanted. -/
def reloadImage (s : State) (l : Slice) (o : SiteId) (k : BitVec 2) (catid : Nat) (fits : Image → Bool) : Option State :=
  let w : Who := { whoSlice s l (dieOfCore l.core) with checked := false, tlb := .core }
  match readImage s w catid with
  | none => none
  | some (s1, im) =>
    if !fits im || (loadCheck { s1 with cur := l.core } im o k).isSome then none else some (writeImage s1 im o k l.id)

/-- The catalogue identifier that record i of a section names for context number j. -/
def savedCatid (bs : List Byte) (i : Nat) (j : BitVec 2) : Nat := bytesAt bs (64 + 32 * i + 2 * j.toNat) 2

/-- The context of a saved region, loaded again by its catalogue identifier where it is missing; none where it cannot be. -/
def reloadContext (s : State) (l : Slice) (o : SiteId) (k : BitVec 2) (bs : List Byte) : Option (State × Placement) :=
  let catid := savedCatid bs 0 k
  match (placementAt s o k).filter fun p => p.owner == l.id && p.catid.toNat == catid with
  | some p => some (s, p)
  | none =>
    match reloadImage s l o k catid fun im => im.rows == bytesAt bs 4 2 && im.cols == bytesAt bs 6 2 with
    | none => none
    | some s1 =>
      let s2 := modPlacement s1 o k fun p => { p with saved := true }
      (placementAt s2 o k).map fun p => (s2, p)

/-- A missing context that record i names for number j is loaded again where it can be: at site x, when the pattern's rectangle from there
lies in the region and its records agree. -/
def reloadOther (s : State) (l : Slice) (xs : List SiteId) (bs : List Byte) (i : Nat) (x : SiteId) (j : BitVec 2) : State :=
  let catid := savedCatid bs i j
  if catid = 0xFFFF || (ctxAt s x j).isSome then s
  else
    (reloadImage s l x j catid fun im =>
      (rectSites x im.rows im.cols).all fun y => (xs.findIdx? (· == y)).any fun n => savedCatid bs n j == catid).getD s

/-- The other contexts that the records of a region's sites name and that are missing are loaded again (R264): for the slice that comes
back, in row-major order of the sites. Log entry 93. -/
def reloadOthers (s : State) (l : Slice) (p : Placement) (bs : List Byte) : State :=
  let xs := p.sites
  (List.range xs.length).foldl (fun u i =>
    match xs[i]? with
    | none => u
    | some x => (([0, 1, 2, 3] : List (BitVec 2)).filter (· != p.ctx)).foldl (fun v j => reloadOther v l xs bs i x j) u) s

/-- A section of the image is gone: those after it move up, and NREG says how many are left (R261). -/
def dropSection (s : State) (sid : BitVec 32) (e : SiteId × BitVec 2 × Nat × Nat) : State :=
  match findSlice s sid with
  | none => s
  | some l =>
    let rest := l.saved.erase e
    match imagePa s l with
    | none => modSlice s sid fun k => { k with saved := rest }
    | some pa =>
      let die := dieOfCore l.core
      let q := rest.foldl (fun (q : State × List (SiteId × BitVec 2 × Nat × Nat) × Nat) r =>
        let b := loadBytes q.1 die (pa + r.2.2.1) r.2.2.2
        (saveBytes b.1 die (pa + q.2.2) b.2, q.2.1 ++ [(r.1, r.2.1, q.2.2, r.2.2.2)], q.2.2 + r.2.2.2)) (s, [], 0x800)
      modSlice (saveBytes q.1 die (pa + 1) (leBytes 1 rest.length)) sid fun k => { k with saved := q.2.1 }

/-- The region a saved section goes back to is free: nothing is active there, or what is active there has stopped, is quiet
and may be left. -/
def placeFree (s : State) (xs : List SiteId) : Bool :=
  (s.placements.filter fun p => p.active && p.sites.any xs.contains).all fun p =>
    schedulerFree s p && p.stopped && reportedQuiet s p && p.sites.all xs.contains

/-- A section goes back to its place, if that is free, as far as the slice's image gives it; the slice then sees what others wrote to its
readable regions while the region was out (R208, R212). -/
def restoreAt (s : State) (l : Slice) (e : SiteId × BitVec 2 × Nat × Nat) : Option State :=
  let pa := ((imagePa s l).getD 0) + e.2.2.1
  let (s1, bs) := loadBytes s (dieOfCore l.core) pa e.2.2.2
  match reloadContext s1 l e.1 e.2.1 bs with
  | none => none
  | some (s2, p) =>
    if !placeFree s2 p.sites || !curatorSlot s2 p then none
    else
      (loadRegion (reloadOthers s2 l p bs) p bs).map fun s3 =>
        dropSection (dropRegions s3 l.core (sliceRegs s3 l).ptBase l.regions readable) l.id e

/-- REGION_RESTORE (R264): the first saved section of a resident slice whose place is free. -/
def execRegionRestore (sid : BitVec 32) (st : State) : Out :=
  match (findSlice st sid).filter fun l => l.state == .resident with
  | none => .next st
  | some l => .next ((l.saved.findSome? (restoreAt st l)).getD st)

/-- A pattern takes over a region that has just been left: one that was saved itself comes back from its section. -/
def takeOver (s : State) (t : Placement) : State :=
  if !t.saved then activate s t
  else
    ((findSlice s t.owner).bind fun l =>
      (l.saved.find? fun e => e.1 == t.origin && e.2.1 == t.ctx).bind fun e => restoreAt s l e).getD s

/-- DRAIN_SAVE (R259): the region is saved and switched to the context of the slice that takes it; a pre-emption for which no slice
qualifies any more is given up. Log entry 93. -/
def execDrainSave (origin : SiteId) (st : State) : Out :=
  match activeRegion st origin with
  | none => .next st
  | some pl =>
    if pl.preempt.isNone || pl.frozen || pl.faultSite.isSome || !drained st pl || !curatorSlot st pl then .next st
    else
      match takerOf st pl, findSlice st pl.owner with
      | some t, some o =>
        .next (takeOver (saveRegion (cleanRegions st o.core (sliceRegs st o).ptBase o.regions writable) pl false) t)
      | _, _ => .next (modPlacement (resumeAdmission st pl) origin pl.ctx fun p => { p with preempt := none })

/-! ### The block scheduler's switch (R61, R62) -/

/-- When a context number was last active over a list of sites. -/
def lastActive (s : State) (xs : List SiteId) (k : BitVec 2) : Nat := (displaced s k xs).foldl (fun n p => max n p.lastUsed) 0

/-- The context number that is not active over a list of sites and was least recently active there; ties go to the lower number. -/
def leastRecent (s : State) (xs : List SiteId) : Option (BitVec 2) :=
  (([0, 1, 2, 3] : List (BitVec 2)).filter fun k => xs.all fun x => !((siteOf s x).on && (siteOf s x).act == k)).foldl (fun b k =>
    match b with
    | none => some k
    | some j => if lastActive s xs k < lastActive s xs j then some k else some j) none

/-- A placement's context number is another one from now on, its entry queues and streams with it. -/
def renumber (s : State) (t : Placement) (k : BitVec 2) : State :=
  let key (n : Nat) : Nat :=
    let z := n / 128
    if z / 2 ^ 14 = t.ctx.toNat + 1 && t.sites.contains (BitVec.ofNat 14 z) then n + (k.toNat * 2 ^ 21) - t.ctx.toNat * 2 ^ 21 else n
  { s with
    chans := s.chans.foldl (fun m e => tblSet m (key e.1) e.2) []
    streams := s.streams.map fun u => if u.origin = t.origin && u.ctx = t.ctx then { u with ctx := k } else u
    placements := s.placements.map fun p => if p.origin = t.origin && p.ctx = k then { t with ctx := k } else p }

/-- A chosen pattern becomes active; one of which no context is resident is first loaded into the least recently active context number
(R61), if it can be. -/
def bringPattern (s : State) (t : Placement) : State :=
  if t.sites.all fun x => (ctxAt s x t.ctx).isSome then activate s t
  else
    ((findSlice s t.owner).bind fun l => (leastRecent s t.sites).bind fun k =>
      (reloadImage { s with placements := s.placements.filter fun p => !(p.origin == t.origin && p.ctx == t.ctx) } l t.origin k
        t.catid.toNat fun im => im.rows == t.rows && im.cols == t.cols).map fun u =>
          activate (renumber u t k) { t with ctx := k }).getD s

/-- CONTEXT_SWITCH (R60, R61, R62): the block scheduler's chosen pattern becomes active once the pattern before it is quiet. -/
def execContextSwitch (origin : SiteId) (ctx : BitVec 2) (st : State) : Out :=
  match (placementAt st origin ctx).filter fun p => !p.saved with
  | none => .next st
  | some t =>
    let chosen := (bestPattern st (boundHere st t)).any fun b => b.ctx == ctx
    match activeRegion st origin with
    | some pl =>
      if pl.ctx != ctx && schedulerFree st pl && pl.stopped && reportedQuiet st pl && chosen then .next (bringPattern st t) else .next st
    | none =>
      if chosen && !(st.placements.any fun p => p.active && p.sites.any t.sites.contains) then .next (bringPattern st t) else .next st

end Sys2Proof.Machine
end

