-- ==== Sys2Proof/Machine/Cohorts.lean ====
section
/-!
DEFINITION. Swapping cohorts (R211, R212, R244, R248 to R252, R324, R344): COHORT_SWAP_OUT and COHORT_SWAP_IN.
-/
namespace Sys2Proof.Machine

/-- The docent's command is done. -/
def endCommand (s : State) (die : DieId) : State :=
  modDie s die fun k => { k with docent := { k.docent with busy := false } }

/-- The members of a cohort. -/
def members (s : State) (cohort : BitVec 16) : List Slice := s.slices.filter (memberOf cohort)

/-! ### Swap-out (R250) -/

/-- The firing of a member may be taken now: it does not run, or its core is at a boundary of it. -/
def mayTakeFiring (s : State) (l : Slice) : Bool :=
  let c := coreOf s l.core
  c.slice != some l.id || (!c.sup && atBoundaryOf c)

/-- A member is no longer resident; its running firing is suspended. -/
def takeMember (s : State) (l : Slice) : State :=
  let s1 := if (coreOf s l.core).slice = some l.id then takeFiring (onCore s l.core) else s
  modSlice { s1 with cur := s.cur } l.id fun k => { k with state := if k.state = .resident then .swapped else k.state }

/-- A member is saved: its write-backs, its image; its trees and counters leave the core. -/
def saveMember (s : State) (l : Slice) : State :=
  let s1 := cleanRegions s l.core l.regs.ptBase l.regions writable
  let s2 := match imagePa s1 l with | some pa => saveBytes s1 (dieOfCore l.core) pa (sliceImage s1 l) | none => s1
  freeBanks s2 l

/-- STATE 1: the members whose firings can be taken are; once the others have retired and the regions have been saved, the members
and the queues follow and STATE is 2. -/
def swapOutOn (s : State) (die : DieId) (cohort : BitVec 16) : State :=
  let ms := members s cohort
  let now := ms.filter fun l => l.state == .resident && mayTakeFiring s l
  let gone := ms.filter fun l => l.state == .swapped
  if !now.isEmpty then now.foldl takeMember s
  else if ms.any (fun l => l.state == .resident || l.state == .retiring || l.state == .created) ||
      gone.any (fun l => s.placements.any fun p => p.owner == l.id && p.active) then s
  else endCommand (setCohortState (queuesOut (ms.foldl saveMember s) cohort) die cohort 2) die

/-- COHORT_SWAP_OUT (R250), in steps. A member that waits for admission is saved and goes on waiting. Log entry 92. -/
def execCohortSwapOut (die : DieId) (st : State) : Out :=
  let k := (dieOf st die).docent
  if !k.busy || k.cmd != 1 then .next st
  else if (cohortAt st die k.cohort).isNone || cohortState st die k.cohort = 2 then .next (endCommand st die)
  else if cohortState st die k.cohort = 1 then .next (swapOutOn st die k.cohort)
  else .next (setCohortState st die k.cohort 1)

/-! ### Swap-in (R251) -/

/-- Entries a queue holds: in its core's queue RAM, or in its ring. -/
def queueCount (s : State) (k : CoreId) (q : BitVec 24) : Option Nat :=
  match queueIn (coreOf s k) q with
  | some r => some r.entries.length
  | none => (queueDesc s q).map fun d => (d.tail - d.head).toNat

/-- An actor of a swapped-out member is ready by R95 with the entries its rings hold. -/
def ringReady (s : State) (l : Slice) : Bool :=
  l.actors.any fun a =>
    !a.ins.isEmpty && (a.ins.all fun q => (queueCount s l.core q.1).any fun n => decide (q.2 ≤ n)) &&
      a.outs.all fun q => (queueIn (coreOf s l.core) q.1).all fun r => decide (q.2 + r.entries.length ≤ r.cap)

/-- A cohort that is not resident is eligible: a saved readiness word is not zero, or a push has made an actor ready. A member that
waits for admission has its entry firing before it, so its readiness word is not zero. -/
def eligible (s : State) (die : DieId) (cohort : BitVec 16) : Bool :=
  cohortState s die cohort == 2 &&
    (members s cohort).any fun l =>
      l.state == .waiting || (l.state == .swapped &&
        ((match imagePa s l with | some pa => walkerRead s (pa + 0x2E0) != 0 | none => false) || ringReady s l))

/-- The cores have what a cohort needs: slots, queue RAM, trees and counter banks (R251, R324, R344). -/
def mayReturn (s : State) (cohort : BitVec 16) : Bool :=
  ((members s cohort).filter fun l => l.state == .swapped).all (fun l =>
    !(slotsUsed s l.core).contains l.slot && !dieGone s (dieOfCore l.core) &&
      (match imagePa s l with
        | none => true
        | some pa =>
          (!(bitOf 16 (walkerRead s pa)) || (coreOf s l.core).counterOwner.isNone) &&
            (List.range 4).all fun t =>
              !(bitOf 48 (walkerRead s (pa + 0x440 + 128 * t + 0x40))) ||
                ((((coreOf s l.core).trees[t]?).map (·.owner)).getD none).isNone)) &&
    queuesFit s cohort

/-- A member comes back. -/
def returnMember (s : State) (l : Slice) : State :=
  match imagePa s l with
  | none => dropRegions (modSlice s l.id fun k => { k with state := .resident }) l.core l.regs.ptBase l.regions readable
  | some pa =>
    let (s1, bs) := loadBytes s (dieOfCore l.core) pa 0x800
    restoreSlice s1 l bs

/-- A cohort comes back to its cores. -/
def swapIn (s : State) (die : DieId) (cohort : BitVec 16) : State :=
  let s1 := ((members s cohort).filter fun l => l.state == .swapped).foldl returnMember s
  setCohortState (queuesIn s1 cohort) die cohort 0

/-- The cohorts a die's records name. -/
def cohortsOf (s : State) (die : DieId) : List (BitVec 16) :=
  (((s.slices.filter fun l => liveSlice l && dieOfCore l.core == die).map (·.cohort))).dedup

/-- EARLIEST of a cohort's record. -/
def earliestOf (s : State) (die : DieId) (cohort : BitVec 16) : BitVec 48 :=
  match cohortAt s die cohort with | some pa => fieldOf 48 0 (walkerRead s (pa + 0x10)) | none => 0

/-- The cohorts a docent may swap in now: eligible by readiness or by the command, and with room (R251). -/
def mayComeBack (s : State) (die : DieId) (asked : Option (BitVec 16)) : List (BitVec 16) :=
  (asked.toList ++ cohortsOf s die).filter fun c =>
    cohortState s die c == 2 && (asked == some c || eligible s die c) && mayReturn s c

/-- The cohort with the earliest EARLIEST. -/
def firstCohort (s : State) (die : DieId) (cs : List (BitVec 16)) : Option (BitVec 16) :=
  cs.foldl (fun (b : Option (BitVec 16)) c =>
    match b with
    | none => some c
    | some d => if earlier (earliestOf s die c) (earliestOf s die d) then some c else some d) none

/-- COHORT_SWAP_IN (R251): of the eligible cohorts that have room, the one with the earliest deadline. A command for a cohort that is
not swapped out is done. -/
def execCohortSwapIn (die : DieId) (st : State) : Out :=
  let k := (dieOf st die).docent
  let asked := if k.busy && k.cmd == 2 then some k.cohort else none
  if asked.any fun c => cohortState st die c == 0 then .next (endCommand st die)
  else
    match firstCohort st die (mayComeBack st die asked) with
    | none => .next st
    | some c => .next (if asked = some c then endCommand (swapIn st die c) die else swapIn st die c)

/-! ### Events after the snapshot (R252) -/

/-- What a saved firing waits for has come: the docent clears READY[9] in its image. -/
def wakeImage (s : State) (l : Slice) : State :=
  let s1 := match imagePa s l with
    | none => s
    | some pa =>
      let w := walkerRead s (pa + 0x2E0)
      saveBytes s (dieOfCore l.core) (pa + 0x2E0) (leBytes 8 (w - b2n (bitOf 9 w) * 512))
  modSlice s1 l.id fun k => { k with watch := none, woken := false }

/-- The events that have come for members that are swapped out are applied to their images, once a write there need not wait. -/
def docentWakes (s : State) : State :=
  (s.slices.filter fun l => l.state == .swapped && l.watch.isSome && l.woken &&
    cohortState s (dieOfCore l.core) l.cohort != 1).foldl (fun t l => if (wakeImage t l).stall then t else wakeImage t l) s

end Sys2Proof.Machine
end

