-- ==== Sys2Proof/Machine/Issue.lean ====
section
/-!
DEFINITION. The SX words (R166, R168, R169, R176, R179, R202, R309, R330, R370, R536, R538 to R553): their operands, the checks
made at issue, the answer of the engine, and ENGINE_REPLY.
-/
namespace Sys2Proof.Machine

/-! ### Operands and checks -/

/-- Operand k of an SX word. -/
def sxOperand (s : State) (b : Reg) (k : Nat) : Word := readReg s (b + BitVec.ofNat 7 k)

/-- The command of an SX word on the step's core, without what it reads at issue. -/
def sxCmd (s : State) (op : EngOp) (c6 : Nat) (e : BitVec 4) (b : Reg) : Cmd :=
  let c := curCore s
  { op := op, cmd6 := BitVec.ofNat 6 c6, eng4 := e, opA := sxOperand s b 0, opB := sxOperand s b 1, opC := sxOperand s b 2
    opD := sxOperand s b 3, core := s.cur, slice := curSliceId s, pc := c.regs.pc, asid := c.regs.asid, ptBase := c.regs.ptBase
    checked := !c.sup, regions := ((curSlice s).map (·.regions)).getD [], strict := strictSlice s }

/-- The first check of a list that fails, or the issue of the word (R536). -/
def issueChecks (gs : List (Option Out)) (go : Out) : Out := (gs.findSome? id).getD go

/-- The command goes to its engine with its MSGSEQ; the core waits for the answer (R536). -/
def sendSx (s : State) (c : Cmd) (reply : Reg) (target : EngineId) : Out :=
  .next (modCore s fun k => { k with
    msgSeq := k.msgSeq + 1, sx := some { cmd := { c with msgSeq := k.msgSeq }, reply := reply, target := target } })

/-- An SX word whose answer is outstanding waits; else it issues. -/
def sxWord (s : State) (go : Out) : Out := if (curCore s).sx.isSome then .next s else go

/-- A misaligned operand. -/
def alignGate (s : State) (va n : Nat) : Option Out := if va % n = 0 then none else some (trapHere s 0x03 (BitVec.ofNat 64 va))

/-- The check of a sync tag (R166): the issuing core's own word as a window address, another core's by its die and domain. -/
def syncGate (s : State) (en : Bool) (tag : Nat) : Option Out :=
  let va : Word := BitVec.ofNat 64 (0xF0000000000000 + tag % 2 ^ 18 * 16)
  let k : CoreId := BitVec.ofNat 6 (tag / 2 ^ 18)
  if !en then none
  else if k == s.cur then
    match seqAccess s va 16 .atomic with
    | .error f => some (trapFlt s f)
    | .ok _ => none
  else if !dieGone s (dieOfCore k) && coreDomain s k == coreDomain s s.cur then none
  else some (trapHere s 0x08 va)

/-- The check of a completion address as an atomic (R538, R398). -/
def cwordGate (s : State) (v : Word) : Option Out :=
  let va : Word := BitVec.ofNat 64 (opVa v)
  if va = 0 then none
  else if va.toNat % 8 ≠ 0 then some (trapHere s 0x03 va)
  else
    match seqAccess s va 8 .atomic with
    | .error f => some (trapFlt s f)
    | .ok (s1, t) => if targetPoisoned (settle s1 t .atomic) t .atomic then some (trapHere s 0x13 va) else none

/-- The issuing firing as the maker of an engine's accesses from a die. -/
def whoNow (s : State) (die : DieId) : Who := { whoSeq s with die := die }

/-- A range is checked as an engine makes its accesses (R189). -/
def rangeGate (s : State) (die : DieId) (r : EngRule) (va n : Nat) : Option Out :=
  (engCheckRange s (whoNow s die) r va n).map (trapFlt s)

/-- A range is checked for its form and against the manifest alone (R189, Table 6.4). -/
def manifestGate (s : State) (va n : Nat) (a : Acc) : Option Out :=
  if n = 0 then none else ((formFault va n).orElse fun _ => checkManifest (whoSeq s) va n a).map (trapFlt s)

/-- Bytes read at issue as an engine read: precise faults, MEMERR in strict mode. -/
def issueRead (s : State) (die : DieId) (va n : Nat) (go : State → List Byte → Out) : Out :=
  match engRead s (whoNow s die) { acc := .engRead } va n with
  | .error f => trapFlt s f
  | .ok (s1, bs, bad) =>
    if strictSlice s && bad.any id then trapHere s 0x13 (BitVec.ofNat 64 va) else go s1 bs

/-! ### Table records (R330, Table 10.1) -/

/-- A record is well formed (R330). -/
def tableOk (bs : List Byte) : Bool :=
  let t := tableOf bs
  let w := recWord bs
  let need := match t.opt with | 2 => 4 | 3 => 8 * t.count | _ => 0
  zeroAt 56 8 (w 0) && zeroAt 0 6 (w 0) && zeroAt 31 1 (w 1) && zeroAt 57 7 (w 1) && zeroAt 36 28 (w 2) && zeroAt 56 8 (w 3) &&
    zeroAt 0 4 (w 3) && t.rows != 0 && [1, 2, 3, 4, 6].contains t.fmt && decide (4 ≤ t.rowBytes) && t.rowBytes % t.elem == 0 &&
    decide (t.opt ≤ 3) && t.stateBytes % 4 == 0 && decide (need ≤ t.stateBytes) && decide (t.hotLog2 ≤ 12)

/-- A gallery word reads its table record, checks it and goes on. -/
def withTable (s : State) (c : Cmd) (die : DieId) (go : State → Cmd → TableRec → Out) : Out :=
  match alignGate s (opVa c.opA) 64 with
  | some o => o
  | none =>
    issueRead s die (opVa c.opA) 64 fun s1 bs =>
      if !tableOk bs then trapHere s 0x01 0 else go s1 { c with payload := bs } (tableOf bs)

/-- The check of an index array (R540, Table 6.4). -/
def indexGate (s : State) (c : Cmd) : Option Out :=
  match alignGate s (opVa c.opB) 4 with
  | some o => some o
  | none => manifestGate s (opVa c.opB) (4 * opField c.opC 0 32) .engRead

/-! ### Stream records (R168, R169, Table 5.5) -/

/-- A record that XSTREAM does not refuse with ILLEGAL (R169, R175). -/
def streamOk (c : Cmd) : Bool :=
  let w := recWord c.payload
  zeroAt 60 4 (w 0) && zeroAt 6 2 (w 4) && zeroAt 29 3 (w 4) && zeroAt 56 8 (w 4) && zeroAt 56 8 (w 5) && zeroAt 32 32 (w 6) &&
    w 7 == 0 && decide (c.kind ≤ 4) && decide (c.form ≤ 8) && [0, 1, 2, 3].all (fun i => c.count i != 0) &&
    (c.kind == 2 || (w 5 == 0 && w 6 == 0)) &&
    (c.kind != 4 || (c.width == 1 && c.form == 1 && [0, 1, 2, 3].all (fun i => c.count i == 1) && w 2 == 0 && w 3 == 0))

/-- Elements of an F8C segment on a page of a GEOM. -/
def segmentElems (geom : Nat) : Nat := 32 * f8cBlocks geom

/-- The rules of F8C pages for a stream at issue (R131, R179): a read has STRIDE0 = 1; a write covers a region of whole segments
from its start, without a gap. -/
def f8cOk (c : Cmd) (geom : Nat) : Bool :=
  let flat := (List.range 3).all fun i => c.count (i + 1) == 1 || c.stride (i + 1) == ((List.range (i + 1)).map c.count).prod
  c.stride 0 == 1 && (c.kind == 0 || (c.kind == 1 && flat && c.total % segmentElems geom == 0))

/-- The blocks from an address on up to block j, each with its place, as far as they can be read; nothing is changed. -/
def f8cPlaces (s : State) (w : Who) : Nat → Nat → List (Nat × Nat)
  | 0, va => match f8cReadBlock s w { acc := .engRead, annex := true, setD := false } va with | .ok (_, b) => [(va, b.size)] | .error _ => []
  | j + 1, va =>
    match f8cReadBlock s w { acc := .engRead, annex := true, setD := false } va with
    | .ok (_, b) => (va, b.size) :: f8cPlaces s w j (va + b.size)
    | .error _ => []

/-- The bytes element k of an F8C region takes (R179): the index entry of its segment and, of a read, the blocks from the segment's start
on; those of a write are not known before its data. -/
def f8cBytes (s : State) (c : Cmd) (geom k : Nat) : List (Nat × Nat) :=
  let w : Who := { whoNow s (curDie s) with checked := false }
  let entry := c.base + 4 * (k / segmentElems geom)
  (entry, 4) ::
    (if c.kind = 1 then []
    else
      match engReadNat s w { acc := .engRead, annex := true, setD := false } entry 4 with
      | .ok (_, o, false) => if o % 8 = 0 then f8cPlaces s w (k % segmentElems geom / 32) (c.base + o) else []
      | _ => [])

/-- The bytes of an F8C stream that are checked at issue (R176). Log entry 95. -/
def f8cVisited (s : State) (c : Cmd) (geom : Nat) : List (Nat × Nat) :=
  (List.range c.total).flatMap fun k => f8cBytes s c geom (c.visit k).toNat

/-- The page a stream starts on takes its record (R131, R169, R179): the page's format and GEOM, or MODE. -/
def pageTakes (c : Cmd) (q : Nat × Nat) : Except Flt (Nat × Nat) :=
  if (if c.takes then encodable q.1 c.form else decodable q.1 c.form) && (q.1 != 5 || f8cOk c q.2) then .ok q
  else .error { cause := 0x08, addr := BitVec.ofNat 64 c.base }

/-- The address of the first element a stream visits: that of a gather is of its first index within LIMIT, in elements as the page of BASE
has them. Log entry 95. -/
def firstVisit (s : State) (c : Cmd) : Nat :=
  if c.kind = 2 then
    let w : Who := { whoNow s (curDie s) with checked := false }
    let e := pageElem ((peekFmt s w c.base).getD (0, 0)).1 c.form
    (((List.range (c.count 0)).findSome? fun i => match gatherIndex s w c i with | .ok (_, x) => x | .error _ => none).map
      fun x => elemVa c.base e ((x : Int) * c.stride 1)).getD c.base
  else c.base

/-- The first page of a stream (R169): its format, or the fault that refuses the record. One that does not translate counts as RAW. Log
entry 95. -/
def firstPage (s : State) (c : Cmd) : Except Flt (Nat × Nat) :=
  pageTakes c ((peekFmt s (whoNow s (curDie s)) (firstVisit s c)).getD (0, 0))

/-- The first byte of a stream is checked as the engine accesses it; a gather is not checked at BASE, a byte it need not visit (R176,
R200). -/
def firstGate (s : State) (c : Cmd) : Option Out :=
  if c.kind = 2 then none
  else rangeGate s (curDie s) { acc := if c.takes then .engWrite else .engRead, hidden := c.takes, annex := !c.takes } c.base 1

/-- The range check of R176. -/
def streamRange (s : State) (c : Cmd) (geom : Option Nat) : Option Out :=
  let check (a : Acc) (rs : List (Nat × Nat)) : Option Out := rs.findSome? fun p => manifestGate s p.1 p.2 a
  match c.kind with
  | 2 => manifestGate s c.index (4 * c.count 0) .engRead
  | 3 => manifestGate s c.base (64 + c.esize * c.count 0) .engRead
  | k => check (if k = 1 then .engWrite else .engRead) (match geom with | some g => f8cVisited s c g | none => c.visited)

/-- The checks of a stream whose record has been read, and its element size (R169, R175, R176). -/
def streamChecks (s : State) (c : Cmd) (go : Cmd → Out) : Out :=
  if !streamOk c then trapHere s 0x01 0
  else
    let sync := syncGate s (c.field 4 28 1 == 1) (c.field 4 32 24)
    if c.kind = 4 then
      issueChecks [alignGate s c.base 64, rangeGate s (curDie s) { acc := .engRead } c.base 64, sync] (go c)
    else
      match firstPage s c with
      | .error f => trapFlt s f
      | .ok (f, g) =>
        let c1 := { c with esize := pageElem f c.form }
        issueChecks [if c.kind = 2 then alignGate s c.index 4 else none, streamRange s c1 (if f = 5 then some g else none), firstGate s c, sync]
          (go c1)

/-- The record of an XSTREAM is read through the core's L1, checked as an engine read (R168). -/
def readStreamRecord (s : State) (va : Nat) (go : State → List Byte → Out) : Out :=
  match checkAccess s (whoSeq s) va 64 .engRead false fun l pa => seqPage l pa .load false with
  | .error f => trapFlt s f
  | .ok (s1, t) =>
    withTarget s s1 t 64 .load
      (fun u => if strictSlice s then trapHere u 0x13 (BitVec.ofNat 64 va) else go (countSq u) (List.replicate 64 0))
      fun u => go (seqRead u t 64).1 (seqRead u t 64).2

/-! ### KV descriptors (R309, R583, Table 9.5) -/

/-- A KV word finds the home of its descriptor (R537), checked as an access of a kind, and goes on. -/
def withDesc (s : State) (c : Cmd) (a : Acc) (go : EngineId → Out) : Out :=
  let va := opVa c.opA
  match alignGate s va 64, engCheck s (whoNow s (curDie s)) { acc := a } va 64 with
  | some o, _ => o
  | none, .error f => trapFlt s f
  | none, .ok (_, t) => go (engineId (memoryDie (curDie s) (t.pa s.cur)) 18)

/-- The check of the source of an APPEND, as long as the descriptor gives its length (R541). -/
def appendGate (s : State) (c : Cmd) : Option Out :=
  match engRead s (whoNow s (curDie s)) { acc := .engWrite } (opVa c.opA) 64 with
  | .error f => some (trapFlt s f)
  | .ok (_, bs, _) =>
    let n := opField c.opC 0 7
    if !kvOk bs || n = 0 || 64 < n then none
    else rangeGate s (curDie s) { acc := .engRead } (opVa c.opB) (2 * n * (kvDesc bs).entry)

/-! ### The words -/

/-- The die eng4 names. -/
def dieOf4 (e : BitVec 4) : DieId := e.truncate 2

/-- XCOPY (R539). -/
def copyWord (op : EngOp) (c6 : Nat) (e : BitVec 4) (b r : Reg) (st : State) : Out :=
  let c := sxCmd st op c6 e b
  sxWord st (issueChecks [syncGate st (opField c.opD 56 1 == 1) (opField c.opC 40 24), cwordGate st c.opD]
    (sendSx st c r (engineId (dieOf4 e) 17)))

/-- XCOPY.COPY (R539). -/
def execXcopyCopy (e : BitVec 4) (b r : Reg) (st : State) : Out := copyWord .copy 0 e b r st

/-- XCOPY.FILL (R539). -/
def execXcopyFill (e : BitVec 4) (b r : Reg) (st : State) : Out := copyWord .fill 1 e b r st

/-- XGATHER (R540). -/
def gatherWord (op : EngOp) (c6 : Nat) (e : BitVec 4) (b r : Reg) (st : State) : Out :=
  sxWord st (withTable st (sxCmd st op c6 e b) (dieOf4 e) fun s c t =>
    let mode := if op = .gatherPort && !decodable t.fmt (opField c.opD 20 4) then some (trapHere st 0x08 (BitVec.ofNat 64 (opVa c.opA))) else none
    issueChecks [indexGate st c, mode, syncGate st (opField c.opC 56 1 == 1) (opField c.opC 32 24)]
      (sendSx s c r (engineId (dieOf4 e) 16)))

/-- XGATHER.PORT (R540). -/
def execXgatherPort (e : BitVec 4) (b r : Reg) (st : State) : Out := gatherWord .gatherPort 0 e b r st

/-- XGATHER.MEM (R540). -/
def execXgatherMem (e : BitVec 4) (b r : Reg) (st : State) : Out := gatherWord .gatherMem 1 e b r st

/-- XSCATTER and XROWUPD (R551, R552); the words that compute on weights read them as FP32, or MODE (R124). -/
def rowWord (op : EngOp) (c6 : Nat) (e : BitVec 4) (b r : Reg) (st : State) : Out :=
  sxWord st (withTable st (sxCmd st op c6 e b) (dieOf4 e) fun s c t =>
    let mode := if op ≠ .scatterWrite && !decodable t.fmt 1 then some (trapHere st 0x08 (BitVec.ofNat 64 (opVa c.opA))) else none
    issueChecks [if op = .rowUpd && t.opt = 0 then some (trapHere st 0x01 0) else none, indexGate st c, mode]
      (sendSx s c r (engineId (dieOf4 e) 16)))

/-- XSCATTER.WRITE (R552). -/
def execXscatterWrite (e : BitVec 4) (b r : Reg) (st : State) : Out := rowWord .scatterWrite 0 e b r st

/-- XSCATTER.ADD (R552). -/
def execXscatterAdd (e : BitVec 4) (b r : Reg) (st : State) : Out := rowWord .scatterAdd 1 e b r st

/-- XROWUPD (R551). -/
def execXrowupd (e : BitVec 4) (b r : Reg) (st : State) : Out := rowWord .rowUpd 0 e b r st

/-- XMIGRATE (R547). -/
def execXmigrate (e : BitVec 4) (b r : Reg) (st : State) : Out :=
  sxWord st (withTable st (sxCmd st .migrate 0 e b) (dieOf4 e) fun s c _ =>
    issueChecks [cwordGate st c.opD] (sendSx s c r (engineId (dieOf4 e) 16)))

/-- XSTREAM (R553). -/
def execXstream (e : BitVec 4) (b r : Reg) (st : State) : Out :=
  let c := sxCmd st .stream 0 e b
  sxWord st (issueChecks [alignGate st (opVa c.opA) 64]
    (readStreamRecord st (opVa c.opA) fun s bs =>
      streamChecks s { c with payload := bs } fun c1 => sendSx s c1 r (engineId (curDie st) e.toNat)))

/-- XKVAPP.APPEND (R541). -/
def execXkvappAppend (e : BitVec 4) (b r : Reg) (st : State) : Out :=
  let c := sxCmd st .kvAppend 0 e b
  sxWord st (withDesc st c .engWrite fun t => issueChecks [appendGate st c, cwordGate st c.opD] (sendSx st c r t))

/-- XKVAPP.EVICT (R542). -/
def execXkvappEvict (e : BitVec 4) (b r : Reg) (st : State) : Out :=
  let c := sxCmd st .kvEvict 1 e b
  sxWord st (withDesc st c .engWrite fun t =>
    issueChecks [alignGate st (opVa c.opB) 8, manifestGate st (opVa c.opB) (16 + 8 * opField c.opC 0 32) .engRead, cwordGate st c.opD]
      (sendSx st c r t))

/-- XKVAPP.FREE (R543). -/
def execXkvappFree (e : BitVec 4) (b r : Reg) (st : State) : Out :=
  let c := sxCmd st .kvFree 2 e b
  sxWord st (withDesc st c .engWrite fun t => issueChecks [cwordGate st c.opD] (sendSx st c r t))

/-- XKVSEND (R544). -/
def execXkvsend (e : BitVec 4) (b r : Reg) (st : State) : Out :=
  let c := sxCmd st .kvSend 0 e b
  sxWord st (withDesc st c .engRead fun t => issueChecks [alignGate st (opVa c.opB) 64, cwordGate st c.opD] (sendSx st c r t))

/-- XLOG (R545): supervisor only. -/
def logWord (op : EngOp) (c6 : Nat) (e : BitVec 4) (b r : Reg) (st : State) : Out :=
  if !(curCore st).sup then trapPriv st
  else
    let c := sxCmd st op c6 e b
    sxWord st (issueChecks [cwordGate st c.opD] (sendSx st c r (engineId (dieOf4 e) 20)))

/-- XLOG.APPEND (R545). -/
def execXlogAppend (e : BitVec 4) (b r : Reg) (st : State) : Out := logWord .logAppend 0 e b r st

/-- XLOG.TRIM (R545). -/
def execXlogTrim (e : BitVec 4) (b r : Reg) (st : State) : Out := logWord .logTrim 1 e b r st

/-- XLOG.STATUS (R545). -/
def execXlogStatus (e : BitVec 4) (b r : Reg) (st : State) : Out := logWord .logStatus 2 e b r st

/-- XREDUCE (R550): the list of sources is read at issue. -/
def reduceWord (op : EngOp) (c6 : Nat) (e : BitVec 4) (b r : Reg) (st : State) : Out :=
  let c := sxCmd st op c6 e b
  sxWord st (issueChecks [alignGate st (opVa c.opB) 8]
    (issueRead st (dieOf4 e) (opVa c.opB) (8 * (opField c.opC 32 4 + 1)) fun s bs =>
      issueChecks [cwordGate st c.opD] (sendSx s { c with payload := bs } r (engineId (dieOf4 e) 19))))

/-- XREDUCE.SUM (R550). -/
def execXreduceSum (e : BitVec 4) (b r : Reg) (st : State) : Out := reduceWord .redSum 0 e b r st

/-- XREDUCE.MAX (R550). -/
def execXreduceMax (e : BitVec 4) (b r : Reg) (st : State) : Out := reduceWord .redMax 1 e b r st

/-- XREDUCE.MIN (R550). -/
def execXreduceMin (e : BitVec 4) (b r : Reg) (st : State) : Out := reduceWord .redMin 2 e b r st

/-- XREDUCE.GATHER (R550). -/
def execXreduceGather (e : BitVec 4) (b r : Reg) (st : State) : Out := reduceWord .redGather 3 e b r st

/-- XPREF (R549). -/
def prefWord (op : EngOp) (c6 : Nat) (e : BitVec 4) (b r : Reg) (st : State) : Out :=
  let c := sxCmd st op c6 e b
  sxWord st (issueChecks [syncGate st (opField c.opC 56 1 == 1) (opField c.opC 32 24)] (sendSx st c r (engineId (dieOf4 e) 21)))

/-- XPREF.BOUND (R549). -/
def execXprefBound (e : BitVec 4) (b r : Reg) (st : State) : Out := prefWord .prefBound 0 e b r st

/-- XPREF.UNBOUND (R549). -/
def execXprefUnbound (e : BitVec 4) (b r : Reg) (st : State) : Out := prefWord .prefUnbound 1 e b r st

/-! ### Answers (R536, Table 16.22) -/

/-- The upper bits of an operand from bit n on are zero. -/
def topZero (v : Word) (n : Nat) : Bool := decide (v.toNat < 2 ^ n)

/-- An address range of a valid form (R184, R155). -/
def vaForm (va n : Nat) : Bool := (formFault va (max n 1)).isNone

/-- Bytes of an element of XREDUCE. -/
def reduceElem (c : Cmd) : Nat := if opField c.opC 36 2 = 1 then 2 else 4

/-- The sources of XREDUCE. -/
def reduceSources (c : Cmd) : List Nat := (List.range (opField c.opC 32 4 + 1)).map fun i => bitsAt 0 56 (recWord c.payload i)

/-- Bytes XREDUCE reads of each source. -/
def reduceBytes (c : Cmd) : Nat := opField c.opC 0 32 * reduceElem c

/-- Bytes XREDUCE writes. -/
def reduceDest (c : Cmd) : Nat := if c.op = .redGather then reduceBytes c * (opField c.opC 32 4 + 1) else reduceBytes c

/-- Pages of the annex of a die (R545). -/
def annexPages : Nat := 2 ^ 29

/-- Pages of a segment of the annex. -/
def segmentPages : Nat := 2 ^ 18

/-- Pages of a log in use from HEAD on: a full log has TAIL at HEAD, and the page there is written. -/
def logUsed (k : Die) : Nat :=
  if k.logTail = k.logHead then (if k.annexWritten.contains k.logHead then annexPages else 0)
  else (k.logTail + annexPages - k.logHead) % annexPages

/-- The annex page a TRIM names, if it lies from HEAD to the start of TAIL's segment (R545). -/
def trimPage (s : State) (d : DieId) (v : Word) : Option Nat :=
  let k := dieOf s d
  let pa := opField v 0 52
  let p := (pa - 0x100000000000) % 0x20000000000 / 4096
  if paKind pa != .annex d || pa % 2 ^ 30 ≠ 0 then none
  else if (p + annexPages - k.logHead) % annexPages ≤ logUsed k - k.logTail % segmentPages then some p else none

/-- An operand breaks the limits of its entry: BAD. -/
def badCmd (s : State) (d : DieId) (c : Cmd) : Bool :=
  let n := opField c.opC 0 32
  match c.op with
  | .copy =>
    let k := opField c.opC 0 40
    !(topZero c.opA 56 && topZero c.opB 56 && topZero c.opD 57 && vaForm (opVa c.opA) k && vaForm (opVa c.opB) k) ||
      rangesMeet (opVa c.opA) k (opVa c.opB) k
  | .fill => !(topZero c.opA 56 && topZero c.opD 57 && vaForm (opVa c.opA) (opField c.opC 0 40))
  | .gatherPort => !(topZero c.opA 56 && topZero c.opB 56 && topZero c.opC 57 && topZero c.opD 42) || n = 0 || decide (2 ^ 31 ≤ n)
  | .gatherMem => !(topZero c.opA 56 && topZero c.opB 56 && topZero c.opC 57 && topZero c.opD 56) || n = 0 || decide (2 ^ 31 ≤ n)
  | .scatterWrite => !(topZero c.opA 56 && topZero c.opB 56 && topZero c.opC 32 && topZero c.opD 56) || n = 0
  | .scatterAdd => !(topZero c.opA 56 && topZero c.opB 56 && topZero c.opC 32 && topZero c.opD 56) || n = 0
  | .rowUpd => !(topZero c.opA 56 && topZero c.opB 56 && topZero c.opC 32 && topZero c.opD 56) || n = 0
  | .migrate =>
    !(topZero c.opA 56 && topZero c.opB 31 && topZero c.opC 56 && topZero c.opD 56) || decide ((tableOf c.payload).rows ≤ c.opB.toNat) ||
      c.opC.toNat % 64 ≠ 0
  | .stream => !(topZero c.opA 56 && topZero c.opB 16) || c.opC ≠ 0 || c.opD ≠ 0
  | .kvAppend => !(topZero c.opA 56 && topZero c.opB 56 && topZero c.opC 7 && topZero c.opD 56) || c.opC = 0 || decide (64 < c.opC.toNat)
  | .kvEvict => !(topZero c.opA 56 && topZero c.opB 56 && topZero c.opC 32 && topZero c.opD 56)
  | .kvFree => !(topZero c.opA 56 && topZero c.opB 48 && topZero c.opD 56) || c.opC ≠ 0 || c.opB.toNat % 64 ≠ 0
  | .kvSend => !(topZero c.opA 56 && topZero c.opB 56 && topZero c.opC 48 && topZero c.opD 56) || c.opC.toNat % 64 ≠ 0
  | .logAppend =>
    !(topZero c.opA 56 && topZero c.opB 17 && topZero c.opD 56) || c.opC ≠ 0 || c.opA.toNat % 4096 ≠ 0 || c.opB = 0 ||
      decide (65536 < c.opB.toNat)
  | .logTrim => !(topZero c.opA 52 && topZero c.opD 56) || c.opB ≠ 0 || c.opC ≠ 0 || (trimPage s d c.opA).isNone
  | .logStatus => !(topZero c.opB 1 && topZero c.opD 56) || c.opA ≠ 0 || c.opC ≠ 0
  | .prefBound =>
    !(topZero c.opB 4 && topZero c.opC 57 && topZero c.opD 32 && zeroAt 0 6 c.opC.toNat && zeroAt 22 10 c.opC.toNat) || c.opA ≠ 0 ||
      (opField c.opC 56 1 = 1 && decide (0x400000 < opField c.opC 6 16 * 64 + 512))
  | .prefUnbound =>
    !(topZero c.opA 56 && topZero c.opB 16 && topZero c.opC 57 && zeroAt 0 6 c.opC.toNat && zeroAt 22 10 c.opC.toNat) || c.opD = 0 ||
      decide (4 < c.opD.toNat) || c.opB.toNat % 64 ≠ 0 || decide (8192 < c.opB.toNat) ||
      (opField c.opC 56 1 = 1 && decide (0x400000 < opField c.opC 6 16 * 64 + 512))
  | _ =>
    !(topZero c.opA 56 && topZero c.opB 56 && topZero c.opC 38 && topZero c.opD 56) || n = 0 || opField c.opC 36 2 = 3 ||
      (reduceSources c).any fun v => rangesMeet (opVa c.opA) (reduceDest c) v (reduceBytes c)

/-- The region, context and port a stream or a gather names. -/
def portOf (c : Cmd) : SiteId × BitVec 2 × Nat :=
  if c.op = .stream then (BitVec.ofNat 14 (opField c.opB 0 14), BitVec.ofNat 2 (opField c.opB 14 2), c.portNo)
  else (BitVec.ofNat 14 (opField c.opD 26 14), BitVec.ofNat 2 (opField c.opD 40 2), opField c.opD 0 8)

/-- The words a stream or a gather gives each shuttle, less one. -/
def wordsOf (c : Cmd) : Nat := if c.op = .stream then c.width else opField c.opD 24 2

/-- The port as the pattern declares it, when the command may take it: 4 NOPORT, 2 BAD (R553). -/
def takePort (s : State) (c : Cmd) : Except Nat Placement :=
  let q := portOf c
  let taken := s.streams.any fun t => t.origin == q.1 && t.ctx == q.2.1 && t.port == q.2.2 && t.faulted.isNone
  match (placementAt s q.1 q.2.1).filter fun p => p.owner == c.slice with
  | none => .error 4
  | some pl =>
    match pl.ports[q.2.2]? with
    | none => .error 4
    | some p =>
      if p.exit != (c.op == .stream && c.takes) || taken then .error 4
      else if p.width.toNat != wordsOf c then .error 2
      else .ok pl

/-- The chase stream an engine serves. -/
def chaseOf (s : State) (e : EngineId) : Option Stream :=
  s.streams.find? fun t => t.eng == e && t.cmd.op == .stream && t.cmd.kind == 3 && t.faulted.isNone

/-- Which of its pages a chase is at, from 0. -/
def chaseIndex (t : Stream) : Nat := if t.pageDone = 0 then t.pages else t.pages - 1

/-- The commands an engine holds. -/
def loadOf (s : State) (e : EngineId) : Nat :=
  if e.toNat % 32 < 16 then (s.streams.filter fun t => t.eng == e && t.faulted.isNone).length
  else if e.toNat % 32 = 21 then (s.prefetches.filter fun p => p.eng == e).length
  else (engineOf s e).queue.length

/-- The command joins its engine's queue. -/
def enqueue (s : State) (e : EngineId) (c : Cmd) : State := modEngine s e fun k => { k with queue := k.queue ++ [c] }

/-- A stream takes a port: a faulted one that holds it goes, and a closed port is open again (R274). At a gated site it raises
GATED_ACCESS (R284). -/
def bindStream (s : State) (pl : Placement) (t : Stream) : State :=
  let s0 := match pl.ports[t.port]? with
    | some q => if (siteOf s q.site).gated then nodeFault s q.site 5 0 q.port.toNat q.track.toNat 0 else s
    | none => s
  let s1 := { s0 with
    streams := (s0.streams.filter fun u => !(u.origin == t.origin && u.ctx == t.ctx && u.port == t.port)) ++ [t] }
  modPlacement s1 pl.origin pl.ctx fun p => { p with closed := p.closed.erase t.port, sources := p.sources.erase t.port, complete := false }

/-- The engine takes the command up, or refuses it with a status. -/
def acceptCmd (s : State) (e : EngineId) (c0 : Cmd) : State × Nat :=
  let d := dieOfEngine e
  let c := { c0 with order := s.serial }
  let s1 := { s with serial := s.serial + 1 }
  if badCmd s d c then (s, 2)
  else if dieGone s d then (s, 3)
  else if 64 ≤ loadOf s e || (engineOf s e).held.isSome then (s, 1)
  else
    match c.op with
    | .stream =>
      match takePort s c with
      | .error n => (s, n)
      | .ok pl =>
        (bindStream s1 pl { eng := e, cmd := c, origin := pl.origin, ctx := pl.ctx, port := (portOf c).2.2, page := if c.kind = 3 then c.base else 0 }, 0)
    | .gatherPort =>
      match takePort s c with
      | .error n => (s, n)
      | .ok pl =>
        (enqueue (bindStream s1 pl { eng := e, cmd := c, origin := pl.origin, ctx := pl.ctx, port := (portOf c).2.2 }) e c, 0)
    | .prefBound =>
      match chaseOf s (engineId (dieOfCore c.core) (opField c.opB 0 4)) with
      | none => (s, 5)
      | some t =>
        ({ s1 with prefetches := s1.prefetches ++ [{ eng := e, cmd := c, page := t.page, stream := some (t.cmd.order, chaseIndex t) }] }, 0)
    | .prefUnbound => ({ s1 with prefetches := s1.prefetches ++ [{ eng := e, cmd := c, page := opVa c.opA }] }, 0)
    | _ => (enqueue s1 e c, 0)

/-- An engine's intake is open to a domain: that of a stream engine in the domain's class-1 slots (R71, R178). -/
def intakeOpen (s : State) (e : EngineId) (c : CoreId) : Bool :=
  decide (16 ≤ e.toNat % 32) || slotNow s (dieOfEngine e) 1 (coreDomain s c)

/-- ENGINE_REPLY (R536): the engine answers the SX word of a core. -/
def execEngineReply (core : CoreId) (st : State) : Out :=
  let s := onCore st core
  match (curCore s).sx.filter fun x => dieGone s (dieOfEngine x.target) || intakeOpen s x.target core with
  | none => .next st
  | some x =>
    let q := acceptCmd s x.target x.cmd
    let v : Word := BitVec.ofNat 64 (q.2 * 2 ^ 16 + x.cmd.msgSeq.toNat)
    .next (advance (writeReg (modCore q.1 fun k => { k with sx := none }) x.reply v))

end Sys2Proof.Machine
end

