-- ==== Sys2Proof/Machine/Stats.lean ====
section
/-!
DEFINITION. The statistics network (R145 to R148, R221, R506, R507): STAT, and the steps STAT_TOKEN_SEND, STAT_ADDER_SEND and
STAT_ROOT_UPDATE. A sum that arrives at an adder before it has sent joins the sum it holds. Log entry 24.
-/
namespace Sys2Proof.Machine

/-- The present class-3 slot lets a site's domain send (R71, R147). -/
def statSlot (s : State) (x : SiteId) : Bool := slotNow s (siteDie x) 3 (domainOf s x)

/-- STAT_TOKEN_SEND (R146): a converter's oldest statistics token goes out; a frozen region's wait until it is drained or saved
(R148). -/
def execStatTokenSend (site : SiteId) (st : State) : Out :=
  match activeAt st site with
  | some pl => .next (if (siteOf st site).frozen || !statSlot st site then st else sendTile st pl site)
  | none => .next st

/-- A non-root STAT sends its sums on (R147, R506). -/
def statAdderSend (st : State) (x : SiteId) : State :=
  match activeAt st x with
  | some pl => if statSlot st x then sendSums st pl x else st
  | none => st

/-- The root writes its record (R507). -/
def statRootUpdate (st : State) (x : SiteId) : State := rootRecord st x (activeCtx st x)

/-- STAT_ADDER_SEND (R147). -/
def execStatAdderSend (site : SiteId) (st : State) : Out := .next (statAdderSend st site)

/-- STAT_ROOT_UPDATE (R507). -/
def execStatRootUpdate (site : SiteId) (st : State) : Out := .next (statRootUpdate st site)

/-- STAT (R506): the adder node at the focus sends, or the root updates its record. -/
def execStat (r : Bool) (st : State) : Out :=
  if !siteOk st.focus then .fault .noSuchSite
  else if r then .next (statRootUpdate st st.focus) else .next (statAdderSend st st.focus)

end Sys2Proof.Machine
end

