-- ==== Sys2Proof/Machine/Streams.lean ====
section
/-!
DEFINITION. Streams at work (R50, R124, R125, R131, R132, R168 to R179, R183, R228, R274, R282, R321, R583): bundles read from
memory and delivered at an entry port, bundles taken from an exit port and written to memory, score adds, and their deferred
faults.
-/
namespace Sys2Proof.Machine

/-! ### Elements -/

/-- An element a stream visits: its address, and on an F8C page its number in the region. -/
abbrev Visit := Nat × Option Nat

/-- What reading elements gave: the state, each value or a dropped one, counts, the fault that stopped it, and for a gather the index in
hand with its value, none where it is dropped. -/
structure Got where
  s : State
  vals : List (Option Nat) := []
  stats : List Nat := []
  flt : Option Flt := none
  index : Option (Nat × Option Nat) := none

/-- The counts of a list of lane numbers of Table 4.8 added. -/
def addCounts (m : List Nat) (ls : List Nat) : List Nat := ls.foldl (fun u i => addCount u i 1) m

/-- Element i of the F8C region at BASE: a poisoned line faults in strict mode, and what lies on an annex page that is not written
is dropped (R132, R182, R183, R282). Log entry 95. -/
def readF8 (s : State) (w : Who) (c : Cmd) (i : Nat) : Except Flt (State × Option Nat × List Nat) :=
  let geom := ((peekFmt s w c.base).map (·.2)).getD 0
  let entry := c.base + 4 * (i / segmentElems geom)
  match f8cElement s w { acc := .engRead, annex := true, fmt := fun f => f == 5 } c.base geom i with
  | .error f => .error f
  | .ok (s1, e, bad) =>
    if bad && c.strict then .error { cause := 0x13, addr := BitVec.ofNat 64 entry }
    else if annexBlank s1 w entry false then .ok (s1, none, [])
    else
      match e with
      | none => .ok (s1, none, [])
      | some v => let q := decodeElem 5 c.form v; .ok (s1, some q.1, q.2)

/-- One element read and decoded (R124, R169, R179); poisoned, unwritten and corrupt ones are dropped. -/
def readVisit (s : State) (w : Who) (c : Cmd) (v : Visit) : Except Flt (State × Option Nat × List Nat) :=
  match v.2 with
  | some i => readF8 s w c i
  | none =>
    let rule : EngRule := { acc := .engRead, annex := true, fmt := fun f => f != 5 && decodable f c.form && pageElem f c.form == c.esize }
    match engReadNat s w rule v.1 c.esize with
    | .error f => .error f
    | .ok (s1, e, bad) =>
      if bad && c.strict then .error { cause := 0x13, addr := BitVec.ofNat 64 v.1 }
      else if bad || annexBlank s1 w v.1 false then .ok (s1, none, [])
      else
        let q := decodeElem (((peekFmt s1 w v.1).map (·.1)).getD 0) c.form e
        .ok (s1, some q.1, q.2)

/-- A list of elements read in order, up to the first fault. -/
def readVisits (w : Who) (c : Cmd) : List Visit → Got → Got
  | [], g => g
  | v :: vs, g =>
    match readVisit g.s w c v with
    | .error f => { g with flt := some f }
    | .ok (s1, e, ks) => readVisits w c vs { g with s := s1, vals := g.vals ++ [e], stats := addCounts g.stats ks }

/-! ### Shuttles and bundles (R171 to R173) -/

/-- Elements of a shuttle. -/
def Cmd.perShuttle (c : Cmd) : Nat := (c.width + 1) * formCount c.form

/-- A lane unit of elements. -/
def unitWord (form : Nat) (vs : List (Option Nat)) : W32 :=
  BitVec.ofNat 32 (leNat (vs.flatMap fun v => leBytes (formBytes form) (v.getD 0)))

/-- A shuttle's words, and whether it is valid. -/
def shuttleOf (form width : Nat) (vs : List (Option Nat)) : List W32 × Bool :=
  let n := formCount form
  ((List.range (width + 1)).map fun u => unitWord form ((vs.drop (u * n)).take n), !vs.isEmpty && vs.all (·.isSome))

/-- The tokens of a bundle of up to 16 shuttles; an invalid lane holds a free value (R26). -/
def bundleOf (draw width seq : Nat) (ss : List (List W32 × Bool)) : List Token :=
  let valid := laneMask fun i => ((ss[i]?).map (·.2)).getD false
  (List.range (width + 1)).map fun u =>
    { kind := 0, seq := BitVec.ofNat 12 seq, eos := true, valid := valid
      lanes := freeInvalid draw u valid (laneList fun i => ((ss[i]?).bind fun q => q.1[u]?).getD 0) }

/-- A HOLE in place of a bundle. -/
def holeBundle (width seq : Nat) : List Token :=
  (List.range (width + 1)).map fun _ => { kind := 6, seq := BitVec.ofNat 12 seq, eos := true, valid := 0, lanes := [] }

/-- What fills a shuttle: elements, or a part of the elements of an index. -/
inductive Job where
  | visits (vs : List Visit)
  | gather (idx part : Nat)
deriving DecidableEq, Repr

/-- The elements of a part of a gather's index. -/
def gatherVisits (c : Cmd) (x part : Nat) : List Visit :=
  ((List.range c.perShuttle).map (part * c.perShuttle + ·)).filterMap fun m =>
    if m < c.count 1 then some (elemVa c.base c.esize ((x : Int) * c.stride 1 + m * c.stride 0), none) else none

/-- A job done; cur is the index in hand. -/
def runJob (s : State) (w : Who) (c : Cmd) (cur : Option (Nat × Option Nat)) : Job → Got
  | .visits vs => readVisits w c vs { s := s }
  | .gather idx part =>
    let go (u : State) (x : Option Nat) : Got :=
      let g : Got := match x with
        | none => { s := u, vals := List.replicate (gatherVisits c 0 part).length none }
        | some v => readVisits w c (gatherVisits c v part) { s := u }
      { g with index := some (idx, x) }
    match cur.filter fun q => q.1 == idx with
    | some q => go s q.2
    | none =>
      match gatherIndex s w c idx with
      | .error f => { s := s, flt := some f }
      | .ok (s1, x) => go s1 x

/-- Lanes a shuttle counts as dropped: every element of a corrupt F8C block, else the lane. -/
def droppedIn (f8 : Bool) (vs : List (Option Nat)) : Nat :=
  let n := (vs.filter (·.isNone)).length
  if f8 then n else min n 1

/-- What a turn of a stream gives: the state, the stream after it, tokens to deliver, a fault with its progress, and that the
stream has ended. -/
structure Made where
  s : State
  t : Stream
  tokens : List Token := []
  flt : Option (Flt × Nat) := none
  fin : Bool := false

/-- Jobs done one after another, up to a fault: shuttles, elements, counts. -/
def runJobs (w : Who) (c : Cmd) (f8 : Bool) : List Job → Got → List (List W32 × Bool) → Nat → Got × List (List W32 × Bool) × Nat
  | [], g, ss, n => (g, ss, n)
  | j :: js, g, ss, n =>
    let q := runJob g.s w c g.index j
    let stats := addCount (sumCounts g.stats q.stats) 5 (droppedIn f8 q.vals)
    let ss1 := if q.vals.isEmpty then ss else ss ++ [shuttleOf c.form c.width q.vals]
    let g1 : Got := { q with stats := stats }
    match q.flt with
    | some _ => (g1, ss1, n + q.vals.length)
    | none => runJobs w c f8 js g1 ss1 (n + q.vals.length)

/-- A bundle made of jobs. -/
def makeBundle (s : State) (w : Who) (t : Stream) (f8 : Bool) (js : List Job) : Made :=
  let r := runJobs w t.cmd f8 js { s := s, stats := t.stats, index := t.index } [] 0
  let toks := if r.2.1.isEmpty then [] else bundleOf s.draws t.cmd.width (t.cmd.seq0 + t.bundles) r.2.1
  { s := r.1.s
    t := { t with
      started := true, done := t.done + r.2.2, bundles := t.bundles + 1, stats := r.1.stats, index := r.1.index
      seq := BitVec.ofNat 12 (t.cmd.seq0 + t.bundles) }
    tokens := toks, flt := r.1.flt.map fun f => (f, t.done + r.2.2) }

/-- Elements k to k + n - 1 of an affine stream as visits. On F8C pages a visit before the region's start is of its element 0. Log
entry 95. -/
def affineVisits (c : Cmd) (f8 : Bool) (k n : Nat) : List Visit :=
  (List.range n).map fun i => (elemVa c.base c.esize (c.visit (k + i)), if f8 then some (c.visit (k + i)).toNat else none)

/-- The shuttles from number m on, n of them, of total elements cut into shuttles of e. -/
def cutJobs (total e m n : Nat) (f : Nat → Nat → List Visit) : List Job :=
  ((List.range n).map (m + ·)).filterMap fun i =>
    if i * e < total then some (.visits (f (i * e) (min e (total - i * e)))) else none

/-- Bundles of a number of elements. -/
def bundlesFor (total e : Nat) : Nat := ((total + e - 1) / e + 15) / 16

/-- The next bundle of an affine read. -/
def affineBundle (s : State) (w : Who) (t : Stream) : Made :=
  let c := t.cmd
  let f8 := ((peekFmt s w c.base).map (·.1)) == some 5
  let m := makeBundle s w t f8 (cutJobs c.total c.perShuttle (16 * t.bundles) 16 (affineVisits c f8))
  { m with fin := bundlesFor c.total c.perShuttle ≤ t.bundles + 1 }

/-- The next bundle of a gather. -/
def gatherBundle (s : State) (w : Who) (t : Stream) : Made :=
  let c := t.cmd
  let per := (c.count 1 + c.perShuttle - 1) / c.perShuttle
  let js : List Job := ((List.range 16).map (16 * t.bundles + ·)).filterMap fun i =>
    if i / per < c.count 0 then some (.gather (i / per) (i % per)) else none
  { makeBundle s w t false js with fin := decide ((c.count 0 * per + 15) / 16 ≤ t.bundles + 1) }

/-- The page of a chase is done: the next page, or the end. -/
def chaseOn (m : Made) (c : Cmd) : Made :=
  if m.t.pageDone < 1 + bundlesFor (c.count 0) c.perShuttle || m.flt.isSome then m
  else if m.t.last || m.t.next = 0 || c.count 1 ≤ m.t.pages then { m with fin := true }
  else if m.t.next % 64 ≠ 0 then { m with fin := true, t := { m.t with stats := addCount m.t.stats 5 16 } }
  else { m with t := { m.t with page := m.t.next, pageDone := 0 } }

/-- The next bundle of a chase: a page's header, its elements, or HOLEs for a page whose header is poisoned or lies on an annex page that is not
written. -/
def chaseBundle (s : State) (w : Who) (t : Stream) : Made :=
  let c := t.cmd
  let seq := c.seq0 + t.bundles
  let hole : Made := { s := s
                       t := { t with
                         bundles := t.bundles + 1, pageDone := t.pageDone + 1, last := true, stats := addCount t.stats 5 16
                         seq := BitVec.ofNat 12 seq }
                       tokens := holeBundle c.width seq }
  let step : Made :=
    if t.pageDone = 0 then
      match checkManifest w t.page (64 + c.esize * c.count 0) .engRead with
      | some f => { s := s, t := t, flt := some (f, t.done) }
      | none =>
        match engRead s w { acc := .engRead, annex := true } t.page 64 with
        | .error f => { s := s, t := t, flt := some (f, t.done) }
        | .ok (s1, bs, bad) =>
          if bad.any id || annexBlank s1 w t.page false then
            if bad.any id && c.strict then { s := s, t := t, flt := some ({ cause := 0x13, addr := BitVec.ofNat 64 t.page }, t.done) }
            else { hole with s := s1, t := { hole.t with started := true, pages := t.pages + 1 } }
          else
            let head : List (List W32 × Bool) := (lanes64 bs).map fun l => (l :: List.replicate c.width 0, true)
            { s := s1
              t := { t with
                started := true, bundles := t.bundles + 1, pages := t.pages + 1, pageDone := 1, next := leNat (bs.take 7)
                seq := BitVec.ofNat 12 seq }
              tokens := bundleOf s.draws c.width seq head }
    else if t.last then hole
    else
      let f (k n : Nat) : List Visit := (List.range n).map fun i => (t.page + 64 + c.esize * (k + i), none)
      let m := makeBundle s w t false (cutJobs (c.count 0) c.perShuttle (16 * (t.pageDone - 1)) 16 f)
      { m with t := { m.t with pageDone := t.pageDone + 1 } }
  chaseOn step c

/-- The gather of a stream has faulted: what it filled before goes out, and the port stays open. -/
def gatherStopped (s : State) (t : Stream) : Bool :=
  (engineOf s t.eng).queue.any fun c => c.order == t.cmd.order && c.fault.isSome

/-- The next bundle of a gather of the gallery engine: shuttles it has filled, 16 of them or the last. -/
def rowBundle (s : State) (t : Stream) : Option Made :=
  let stop := gatherStopped s t
  if t.pend.length < 16 && !t.last && !stop then none
  else if t.pend.isEmpty then if stop then none else some { s := s, t := t, fin := true }
  else
    let seq := opField t.cmd.opD 8 12 + t.bundles
    some { s := s
           t := { t with started := true, bundles := t.bundles + 1, pend := t.pend.drop 16, seq := BitVec.ofNat 12 seq }
           tokens := bundleOf s.draws (wordsOf t.cmd) seq (t.pend.take 16), fin := t.last && decide (t.pend.length ≤ 16) }

/-- The next bundle of a stream that reads. -/
def nextBundle (s : State) (t : Stream) : Option Made :=
  let w := whoEngine t.cmd t.eng
  if t.cmd.op != .stream then rowBundle s t
  else
    match t.cmd.kind with
    | 0 => some (affineBundle s w t)
    | 2 => some (gatherBundle s w t)
    | 3 => some (chaseBundle s w t)
    | _ => none

/-! ### At the port -/

/-- A stream is gone from its engine. -/
def dropStream (s : State) (t : Stream) : State := { s with streams := s.streams.filter fun u => u.cmd.order != t.cmd.order }

/-- A stream has ended: its counts go to its region's root, and an entry port closes. -/
def endStream (s : State) (t : Stream) : State :=
  let s1 := dropStream s t
  let s2 := match placementAt s1 t.origin t.ctx with
    | none => s1
    | some pl =>
      let u := reportStream s1 t pl
      if t.cmd.op == .stream && t.cmd.takes then u
      else modPlacement u t.origin t.ctx fun p => { p with sources := setInsert p.sources t.port }
  leaveTable s2 t.cmd.slice

/-- The port of a stream whose turn it may be: its context is active or was when it started, and the present class-1 slot of its die is
its domain's (R178, R553). -/
def streamPort (s : State) (t : Stream) : Option (Placement × Port) :=
  match placementAt s t.origin t.ctx with
  | none => none
  | some pl =>
    if t.faulted.isSome || !(t.started || pl.active) || dieGone s (dieOfEngine t.eng) ||
        (t.cmd.op == .stream && !intakeOpen s t.eng t.cmd.core) then none
    else (pl.ports[t.port]?).map fun q => (pl, q)

/-- The tokens of a bundle enter the queue of an entry port. -/
def enterQueue (s : State) (pl : Placement) (q : Port) (ts : List Token) : State :=
  ((portTracks q).zip ts).foldl (fun u e =>
    modChan u (entryKey pl.ctx q.port.toNat e.1) fun c => { c with slots := c.slots ++ [e.2] }) s

/-- The turn of a stream that reads, if it may move. -/
def readTurn (s : State) (t : Stream) : Option Made :=
  match streamPort s t with
  | none => none
  | some (pl, q) =>
    if q.exit || !queueRoomAt s pl q then none
    else (nextBundle s t).map fun m => { m with s := enterQueue m.s pl q m.tokens }

/-- The state after a turn without a fault. -/
def finishBundle (m : Made) : State := if m.fin then endStream m.s m.t else putStream m.s m.t

/-- The first stream of an engine whose turn gives a result that ok accepts. -/
def firstTurn (s : State) (e : EngineId) (turn : State → Stream → Option Made) (ok : Made → Bool) : Option Made :=
  s.streams.findSome? fun t => if t.eng == e then (turn s t).filter ok else none

/-- STREAM_BUNDLE_DELIVERY (R171). -/
def execStreamBundleDelivery (eng : EngineId) (st : State) : Out :=
  match firstTurn st eng readTurn fun m => m.flt.isNone with
  | some m => .next (finishBundle m)
  | none => .next st

/-! ### Writing (R174) -/

/-- The bundle at an exit port. -/
def exitBundle (s : State) (q : Port) : Option (List Token) :=
  ((portTracks q).mapM fun xt => (chanOf s (chanKey xt.1 (q.port.toNat + 5) xt.2)).slots.head?).map oneKind

/-- The bundle at an exit port is taken. -/
def takeExit (s : State) (q : Port) : State :=
  (portTracks q).foldl (fun u xt => modChan u (chanKey xt.1 (q.port.toNat + 5) xt.2) fun c => { c with
    slots := c.slots.drop 1, freed := c.freed + 1 }) s

/-- The exit port has closed and nothing waits there. -/
def exitDone (s : State) (pl : Placement) (t : Stream) (q : Port) : Bool :=
  pl.closed.contains t.port && (portTracks q).all fun xt =>
    let c := chanOf s (chanKey xt.1 (q.port.toNat + 5) xt.2)
    c.slots.isEmpty && c.flight.isEmpty

/-- The elements of a bundle with their visit numbers and codes; those of an invalid shuttle have none. -/
def bundleElems (c : Cmd) (first : Nat) (ts : List Token) : List (Nat × Option Nat) :=
  let n := formCount c.form
  let k := asData ((ts.head?).getD initialTok)
  (List.range 16).flatMap fun i => (List.range (c.width + 1)).flatMap fun u => (List.range n).map fun j =>
    let w := laneOf (asData ((ts[u]?).getD k)).lanes i
    (first + (i * (c.width + 1) + u) * n + j,
      if k.kind = 0 && bitOf i k.valid.toNat then some (bitsAt (8 * formBytes c.form * j) (8 * formBytes c.form) w.toNat) else none)

/-- One element written (R125, R169). -/
def writeElem (s : State) (w : Who) (t : Stream) (k v : Nat) : Except Flt (State × List Nat) :=
  let c := t.cmd
  let va := elemVa c.base c.esize (c.visit k)
  let rule : EngRule := { acc := .engWrite, hidden := true, fmt := fun f => f != 5 && encodable f c.form && pageElem f c.form == c.esize }
  let q := encodeElem (((peekFmt s w va).map (·.1)).getD 0) c.form v
  match engWrite s w rule c.sync va (leBytes c.esize q.1) with
  | .error f => .error f
  | .ok s1 => .ok (s1, q.2)

/-- The elements of a bundle written in order, up to a fault. -/
def writeElems (w : Who) : List (Nat × Option Nat) → Made → Made
  | [], m => m
  | (k, none) :: es, m => writeElems w es { m with t := { m.t with done := k + 1 } }
  | (k, some v) :: es, m =>
    match writeElem m.s w m.t k v with
    | .error f => { m with flt := some (f, k) }
    | .ok (s1, ks) => writeElems w es { m with s := s1, t := { m.t with done := k + 1, stats := addCounts m.t.stats ks } }

/-- A segment of F8C written with its index entry, when its elements have come (R130, R131); the fuel covers one segment a
step. -/
def flushSegments (w : Who) (geom : Nat) : Nat → Made → Made
  | 0, m => m
  | f + 1, m =>
    let c := m.t.cmd
    let n := segmentElems geom
    let total := c.total / n
    let off := if m.t.segments = 0 then roundUp 8 (4 * total) else m.t.written
    let rule : EngRule := { acc := .engWrite, hidden := true, fmt := fun x => x == 5 }
    if m.t.codes.length < n then m
    else
      let q := f8cSegment (m.t.codes.take n) (f8cBlocks geom)
      let bytes := q.1 ++ List.replicate (roundUp 8 (off + q.1.length) - off - q.1.length) 0
      let fail (e : Flt) : Made := { m with flt := some (e, m.t.segments * n) }
      match engWrite m.s w rule c.sync (c.base + off) bytes with
      | .error e => fail e
      | .ok s1 =>
        match engWrite s1 w rule c.sync (c.base + 4 * m.t.segments) (leBytes 4 off) with
        | .error e => fail e
        | .ok s2 =>
          flushSegments w geom f { m with
            s := s2
            t := { m.t with
              codes := m.t.codes.drop n, segments := m.t.segments + 1, written := off + bytes.length
              stats := addCount m.t.stats 4 q.2 } }

/-- The codes the region of an F8C write holds as it starts; what cannot be read is zero (R174). -/
def f8cOld (s : State) (w : Who) (c : Cmd) (geom : Nat) : List Nat :=
  (List.range c.total).map fun k =>
    match f8cElement s w { acc := .engWrite, hidden := true, setD := false, fmt := fun x => x == 5 } c.base geom k with
    | .ok (_, some e, _) => e
    | _ => 0

/-- The elements of a bundle join those that wait for a whole segment; one that is not written keeps the code it had (R174). -/
def f8cElems : List (Nat × Option Nat) → Made → Made
  | [], m => m
  | (k, v) :: es, m =>
    let q : Nat × List Nat := match v with | some e => encodeElem 5 m.t.cmd.form e | none => ((m.t.old[k]?).getD 0, [])
    f8cElems es { m with t := { m.t with done := k + 1, codes := m.t.codes ++ [q.1], stats := addCounts m.t.stats q.2 } }

/-- The exit of an F8C write has closed within a segment: zeros fill the last block, and the codes the region held the rest of the
segment, which is written (R130, R131). Log entry 95. -/
def f8cFinish (w : Who) (geom : Nat) (m : Made) : Made :=
  if m.t.codes.isEmpty then m
  else
    let n := segmentElems geom
    let filled := m.t.codes ++ List.replicate (roundUp 32 m.t.codes.length - m.t.codes.length) 0
    let kept := (m.t.old.drop (m.t.segments * n + filled.length)).take (n - filled.length)
    flushSegments w geom 1 { m with t := { m.t with codes := filled ++ kept } }

/-- The F8C region an affine write fills: its GEOM. -/
def f8cGeom (s : State) (w : Who) (c : Cmd) : Option Nat :=
  match peekFmt s w c.base with | some (5, g) => some g | _ => none

/-- A bundle taken by an affine write. -/
def writeBundle (s : State) (t : Stream) (ts : List Token) : Made :=
  let c := t.cmd
  let w := whoEngine c t.eng
  let k := asData ((ts.head?).getD initialTok)
  let m : Made := { s := s, t := { t with started := true, seq := k.seq } }
  if k.kind ≠ 0 && k.kind ≠ 6 then m
  else
    let first := t.bundles * 16 * c.perShuttle
    let m1 : Made := { m with t := { m.t with bundles := t.bundles + 1 } }
    if c.total ≤ first then
      { m1 with t := { m1.t with stats := addCount t.stats 5 (if k.kind = 0 then (validLanes k.valid).length else 0) } }
    else
      let es := (bundleElems c first ts).filter fun e => decide (e.1 < c.total)
      match f8cGeom s w c with
      | some geom =>
        let m2 : Made := if t.bundles = 0 then { m1 with t := { m1.t with old := f8cOld s w c geom } } else m1
        flushSegments w geom (es.length / 32 + 1) (f8cElems es m2)
      | none => writeElems w es m1

/-- An affine write whose exit has closed ends. -/
def writeEnd (s : State) (t : Stream) : Made :=
  let w := whoEngine t.cmd t.eng
  let m : Made := match f8cGeom s w t.cmd with | some geom => f8cFinish w geom { s := s, t := t } | none => { s := s, t := t }
  { m with fin := m.flt.isNone }

/-- The turn of an affine write, if it may move. -/
def writeTurn (s : State) (t : Stream) : Option Made :=
  match streamPort s t with
  | none => none
  | some (pl, q) =>
    if t.cmd.op != .stream || t.cmd.kind ≠ 1 || !pl.active then none
    else if exitDone s pl t q then some (writeEnd s t)
    else
      match exitBundle s q with
      | none => none
      | some ts =>
        let w := whoEngine t.cmd t.eng
        if t.cmd.visited.any fun p => backingHeld s w (some t.cmd.order) p.1 p.2 then none
        else some (writeBundle (noteMove (takeExit s q) q.site) t ts)

/-- STREAM_WRITE (R174). -/
def execStreamWrite (eng : EngineId) (st : State) : Out :=
  match firstTurn st eng writeTurn fun m => m.flt.isNone with
  | some m => .next (finishBundle m)
  | none => .next st

/-! ### Score adds (R175) -/

/-- A score add starts: its descriptor must not be malformed (R583). -/
def scoreBegin (s : State) (t : Stream) : Made :=
  let w := whoEngine t.cmd t.eng
  let fail (f : Flt) : Made := { s := s, t := t, flt := some (f, 0) }
  match kvRead s w t.cmd.strict .engRead t.cmd.base 64 with
  | .error f => fail f
  | .ok (s1, bs) =>
    if kvOk bs then { s := s1, t := { t with started := true } } else fail { cause := 0x01, addr := BitVec.ofNat 64 t.cmd.base }

/-- The turn of a score add, if it may move: a lane, or the next bundle. DEFER_PROGRESS counts its valid lanes. Log entry 57. -/
def scoreTurn (s : State) (t : Stream) : Option Made :=
  match streamPort s t with
  | none => none
  | some (pl, q) =>
    if t.cmd.op != .stream || t.cmd.kind ≠ 4 || !pl.active then none
    else if !t.started then some (scoreBegin s t)
    else
      match t.lanes with
      | (p, wt) :: ls =>
        match scoreLane s t p.toNat wt with
        | .error f => some { s := s, t := t, flt := some (f, t.done) }
        | .ok (s1, t1) => some { s := s1, t := { t1 with lanes := ls, done := t.done + 1 } }
      | [] =>
        if exitDone s pl t q then some { s := s, t := t, fin := true }
        else
          (exitBundle s q).map fun ts =>
            let k := asData ((ts.head?).getD initialTok)
            let word (u i : Nat) : W32 := laneOf (asData ((ts[u]?).getD k)).lanes i
            { s := noteMove (takeExit s q) q.site
              t := { t with seq := k.seq, lanes := if k.kind = 0 then (validLanes k.valid).map fun i => (word 0 i, word 1 i) else [] } }

/-- SCORE_ADD_LANE (R175). -/
def execScoreAddLane (eng : EngineId) (st : State) : Out :=
  match firstTurn st eng scoreTurn fun m => m.flt.isNone with
  | some m => .next (finishBundle m)
  | none => .next st

/-! ### Deferred faults (R176, R272 to R274) -/

/-- A faulted stream stops and holds its port. -/
def faultStream (m : Made) (f : Flt) (progress : Nat) : State :=
  leaveTable (stopStream m.s m.t f progress) m.t.cmd.slice

/-- STREAM_DEFERRED_FAULT (R176): what stands before the fault has been delivered or written. -/
def execStreamDeferredFault (eng : EngineId) (st : State) : Out :=
  if (engineOf st eng).held.isSome then .next st
  else
    let turn (s : State) (t : Stream) : Option Made := ((readTurn s t).orElse fun _ => writeTurn s t).orElse fun _ => scoreTurn s t
    match firstTurn st eng turn fun m => m.flt.isSome with
    | none => .next st
    | some m => match m.flt with | some (f, n) => .next (faultStream m f n) | none => .next st

end Sys2Proof.Machine
end

