-- ==== Sys2Proof/Machine/CopyEngine.lean ====
section
/-!
DEFINITION. Engine commands that copy, fill and reduce, and the annex log (R166, R183, R203, R228, R272, R282, R441, R539, R545,
R550, R582): each performed whole, with what it leaves when a fault stops it. Log entry 12.
-/
namespace Sys2Proof.Machine

/-- What performing a command gives: the state, elements performed, the fault that stopped it, STATUS and RESULT. -/
structure Run where
  s : State
  n : Nat := 0
  flt : Option Flt := none
  status : Nat := 0
  result : Nat := 0

/-- Steps of some elements from element i on, up to a fault; a step of several that faults is taken one by one, so that what
stands before the fault is performed. The fuel covers one element a step. -/
def runElems (size : Nat → Nat) (f : State → Nat → Nat → Except Flt State) (n : Nat) : Nat → State → Nat → Run
  | 0, s, i => { s := s, n := i }
  | fuel + 1, s, i =>
    if n ≤ i then { s := s, n := i }
    else
      let k := max 1 (min (n - i) (size i))
      match f s i k with
      | .ok s1 => runElems size f n fuel s1 (i + k)
      | .error _ =>
        match f s i 1 with
        | .ok s1 => runElems size f n fuel s1 (i + 1)
        | .error e => { s := s, n := i, flt := some e }

/-! ### Bytes moved as stored (R582) -/

/-- A transfer of bytes: who makes it, whether poison faults, what it wants of the pages read and written, the sync word of its
arrivals, and whether each pair of pages must have one format. -/
structure Xfer where
  w : Who
  strict : Bool
  rd : EngRule := { acc := .engRead }
  wr : EngRule := { acc := .engWrite, hidden := true }
  sync : Option Nat := none
  same : Bool := false

/-- Bytes i to i + k - 1 of a transfer: read, checked for poison and formats, and written; each poisoned source line counts
once. -/
def xferStep (x : Xfer) (src dst : Nat) (s : State) (i k : Nat) : Except Flt State :=
  let a := src + i
  let b := dst + i
  match engRead s x.w x.rd a k fun v => v % 64 == 0 || v == src with
  | .error f => .error f
  | .ok (s1, bs, bad) =>
    if x.strict && bad.any id then .error { cause := 0x13, addr := BitVec.ofNat 64 a }
    else
      match engWrite s1 x.w x.wr x.sync b bs (List.replicate k (bad.any id)) with
      | .error f => .error f
      | .ok s2 =>
        let f := peekFmt s x.w b
        if x.same && (peekFmt s x.w a != f || peekFmt s x.w (a + k - 1) != f) then .error { cause := 0x08, addr := BitVec.ofNat 64 b }
        else .ok s2

/-- n bytes moved from one address to another, a destination line at a time. -/
def xfer (x : Xfer) (src dst n : Nat) (s : State) : Run :=
  runElems (fun i => 64 - (dst + i) % 64) (xferStep x src dst) n n s 0

/-- A transfer as one element: done, or its fault with nothing said of how far it came. -/
def xferAll (x : Xfer) (src dst n : Nat) (s : State) : Except Flt State :=
  let r := xfer x src dst n s
  match r.flt with | some f => .error f | none => .ok r.s

/-! ### XCOPY (R539) -/

/-- The sync word of OPC and SYNCEN of OPD. -/
def copySync (c : Cmd) : Option Nat := if opField c.opD 56 1 = 1 then some (tagPa (opField c.opC 40 24)) else none

/-- COPY. -/
def runCopy (s : State) (c : Cmd) (d : DieId) : Run :=
  xfer { w := whoCmd c d, strict := c.strict, sync := copySync c, same := true } (opVa c.opB) (opVa c.opA) (opField c.opC 0 40) s

/-- Bytes i to i + k - 1 of a fill. -/
def fillStep (c : Cmd) (d : DieId) (s : State) (i k : Nat) : Except Flt State :=
  let a := opVa c.opA + i
  engWrite s (whoCmd c d) { acc := .engWrite, hidden := true } (copySync c) a
    ((List.range k).map fun j => BitVec.ofNat 8 (c.opB.toNat / 2 ^ (8 * ((a + j) % 8))))

/-- FILL. -/
def runFill (s : State) (c : Cmd) (d : DieId) : Run :=
  let n := opField c.opC 0 40
  runElems (fun i => 64 - (opVa c.opA + i) % 64) (fillStep c d) n n s 0

/-! ### XREDUCE (R550) -/

/-- The page format of the element type, beside RAW. -/
def reduceFmt (c : Cmd) (f : Nat) : Bool :=
  f == 0 || f == (match opField c.opC 36 2 with | 0 => 1 | 1 => 2 | _ => 8)

/-- An element as an accumulator: FP32 for the float types. -/
def reduceIn (c : Cmd) (v : Nat) : W32 := BitVec.ofNat 32 (if opField c.opC 36 2 = 1 then v * 2 ^ 16 else v)

/-- The accumulator with one source more. -/
def reduceStep (c : Cmd) (acc v : W32) : W32 :=
  let float := opField c.opC 36 2 != 2
  match c.op with
  | .redSum => if float then rne32 (addNum .rne (num32 acc) (num32 v)) else BitVec.ofInt 32 (clampInt (acc.toInt + v.toInt) 32 false)
  | .redMax => if float then pickMax true acc v else if acc.toInt < v.toInt then v else acc
  | _ => if float then pickMax false acc v else if v.toInt < acc.toInt then v else acc

/-- The accumulator as an element. -/
def reduceOut (c : Cmd) (acc : W32) : Nat :=
  if opField c.opC 36 2 ≠ 1 then acc.toNat
  else if c.op = .redSum then (roundNum bf16 .rne (num32 acc)).1.code
  else acc.toNat / 2 ^ 16

/-- Element i of each source read, in order: the accumulator so far, and whether a line was poisoned. -/
def reduceRead (c : Cmd) (w : Who) (i : Nat) : List Nat → State → Option W32 → Bool → Except Flt (State × W32 × Bool)
  | [], s, acc, bad => .ok (s, acc.getD 0, bad)
  | v :: vs, s, acc, bad =>
    let a := v + i * reduceElem c
    match engReadNat s w { acc := .engRead, fmt := reduceFmt c } a (reduceElem c) with
    | .error f => .error f
    | .ok (s1, x, b) =>
      if b && c.strict then .error { cause := 0x13, addr := BitVec.ofNat 64 a }
      else
        let y := reduceIn c x
        reduceRead c w i vs s1 (some (match acc with | some z => reduceStep c z y | none => y)) (bad || b)

/-- The sources of destination element i: all of them, or for GATHER the one it comes from, with its number there. -/
def reduceFrom (c : Cmd) (i : Nat) : List Nat × Nat :=
  let n := opField c.opC 0 32
  if c.op = .redGather then (((reduceSources c)[i / n]?).toList, i % n) else (reduceSources c, i)

/-- Destination element i. -/
def reduceElemStep (c : Cmd) (d : DieId) (s : State) (i _k : Nat) : Except Flt State :=
  let w := whoCmd c d
  let q := reduceFrom c i
  match reduceRead c w q.2 q.1 s none false with
  | .error f => .error f
  | .ok (s1, acc, bad) =>
    let e := if c.op = .redGather && opField c.opC 36 2 = 1 then acc.toNat / 2 ^ 16 else reduceOut c acc
    engWrite s1 w { acc := .engWrite, hidden := true, fmt := reduceFmt c } none (opVa c.opA + i * reduceElem c)
      (leBytes (reduceElem c) e) (List.replicate (reduceElem c) bad)

/-- XREDUCE. -/
def runReduce (s : State) (c : Cmd) (d : DieId) : Run :=
  let n := reduceDest c / reduceElem c
  runElems (fun _ => 1) (reduceElemStep c d) n n s 0

/-! ### XLOG (R545) -/

/-- The annex address of page p of a die. -/
def annexPa (d : DieId) (p : Nat) : Nat := 0x100000000000 + d.toNat * 0x20000000000 + p % annexPages * 4096

/-- Pages of a log that an append may take: those before the segment that holds HEAD. -/
def logRoom (k : Die) : Nat := annexPages - logUsed k - k.logHead % segmentPages

/-- Source page i is read and written at TAIL, which moves on. -/
def logStep (c : Cmd) (d : DieId) (s : State) (i _k : Nat) : Except Flt State :=
  let a := opVa c.opA + 4096 * i
  match engRead s (whoCmd c d) { acc := .engRead } a 4096 with
  | .error f => .error f
  | .ok (s1, bs, bad) =>
    if c.strict && bad.any id then
      .error { cause := 0x13, addr := BitVec.ofNat 64 (a + ((List.range 4096).find? fun j => (bad[j]?).getD false).getD 0) }
    else
      let p := (dieOf s1 d).logTail
      let s2 := homeWrite s1 d (annexPa d p) bs
      let taint := (List.range 64).filter fun j => ((bad.drop (64 * j)).take 64).any id
      let s3 := { s2 with poison := taint.foldl (fun q j => setInsert q (annexPa d p / 64 + j)) s2.poison }
      .ok (modDie s3 d fun k => { k with logTail := (p + 1) % annexPages, annexWritten := setInsert k.annexWritten p })

/-- APPEND. -/
def runLogAppend (s : State) (c : Cmd) (d : DieId) : Run :=
  let n := opField c.opB 0 17
  let k := dieOf s d
  if logRoom k < n then { s := s, status := 4 }
  else { runElems (fun _ => 1) (logStep c d) n n s 0 with result := annexPa d k.logTail / 4096 }

/-- TRIM: HEAD moves on, and the pages it leaves are unwritten. -/
def runLogTrim (s : State) (c : Cmd) (d : DieId) : Run :=
  match trimPage s d c.opA with
  | none => { s := s }
  | some p =>
    { s := modDie s d fun k =>
        let n := (p + annexPages - k.logHead) % annexPages
        { k with logHead := p, annexWritten := k.annexWritten.filter fun q => !decide ((q + annexPages - k.logHead) % annexPages < n) } }

/-- STATUS. -/
def runLogStatus (s : State) (c : Cmd) (d : DieId) : Run :=
  let k := dieOf s d
  { s := s, result := annexPa d (if opField c.opB 0 1 = 1 then k.logHead else k.logTail) / 4096 }

end Sys2Proof.Machine
end

