-- ==== Sys2Proof/Machine/Gallery.lean ====
section
/-!
DEFINITION. The gallery engine (R228, R331 to R342, R540, R547, R551, R552): rows found and their versions bound, row operations
and their locks, look-ups, updates, scatters, migration with forwarding markers, and what a command counts at its end. A row
operation resolves its address in one step and performs in another. Log entry 12.
-/
namespace Sys2Proof.Machine

/-! ### Rows and versions -/

/-- The gallery engine of a die. -/
def galleryOf (d : DieId) : EngineId := engineId d 16

/-- The table of a command. -/
def Cmd.table (c : Cmd) : TableRec := tableOf c.payload

/-- Indices of a gallery command; a migration has one row. -/
def Cmd.rowCount (c : Cmd) : Nat := if c.op = .migrate then 1 else opField c.opC 0 32

/-- The sync word of a gather (R166). -/
def gatherSync (c : Cmd) : Option Nat := if opField c.opC 56 1 = 1 then some (tagPa (opField c.opC 32 24)) else none

/-- The place of row i that no map moves (R331). -/
def TableRec.home (t : TableRec) (i : Nat) : Nat := t.base + i * t.stride

/-- The rule of an access to rows: RAW pages, the backing bound (R331, R341). -/
def rowRule (c : Cmd) (a : Acc) : EngRule := { acc := a, bound := c.bound, annex := a == .engRead, fmt := fun f => f == 0 }

/-- The entry of slot k of a hot-row map: its row if it is valid, and the row's address. A poisoned entry is a fault in strict mode
(R282); outside it the entry is used as it stands, and one on an annex page that is not written is none. Log entry 96. -/
def hotEntry (s : State) (w : Who) (strict : Bool) (t : TableRec) (k : Nat) : Except Flt (State × Option Nat × Nat) :=
  let va := t.hotMap + 16 * k
  match engReadNat s w { acc := .engRead, annex := true } va 16 with
  | .error f => .error f
  | .ok (s1, v, bad) =>
    if strict && bad then .error { cause := 0x13, addr := BitVec.ofNat 64 va }
    else .ok (s1, if bitOf 31 v && !annexBlank s1 w va false then some (bitsAt 0 31 v) else none, bitsAt 64 56 v)

/-- The map is probed for row i from a slot on: the slot that holds it and its address, or the slot that ends the search; none
when every slot holds another row (R337). -/
def hotProbe (w : Who) (strict : Bool) (t : TableRec) (i : Nat) : Nat → State → Nat → Except Flt (State × Option (Nat × Option Nat))
  | 0, s, _ => .ok (s, none)
  | f + 1, s, k =>
    match hotEntry s w strict t (k % 2 ^ t.hotLog2) with
    | .error e => .error e
    | .ok (s1, none, _) => .ok (s1, some (k % 2 ^ t.hotLog2, none))
    | .ok (s1, some r, a) => if r = i then .ok (s1, some (k % 2 ^ t.hotLog2, some a)) else hotProbe w strict t i f s1 (k + 1)

/-- The slot of row i and its address in the map. -/
def hotFind (s : State) (w : Who) (strict : Bool) (t : TableRec) (i : Nat) : Except Flt (State × Option (Nat × Option Nat)) :=
  if t.hotMap = 0 then .ok (s, none) else hotProbe w strict t i (2 ^ t.hotLog2) s i

/-- The address of row i now. -/
def rowVa (s : State) (w : Who) (strict : Bool) (t : TableRec) (i : Nat) : Except Flt (State × Nat) :=
  match hotFind s w strict t i with
  | .error f => .error f
  | .ok (s1, some (_, some a)) => .ok (s1, a)
  | .ok (s1, _) => .ok (s1, t.home i)

/-- The backing a command is bound to once it translates va: VERSION, and for a scatter the other (R341, R552). -/
def bindBacking (s : State) (w : Who) (c : Cmd) (va : Nat) : Cmd :=
  if c.bound.isSome then c
  else
    match findLeaf s w va false with
    | .error _ => c
    | .ok f => { c with bound := some (f.leaf.bit 10 != (c.op == .scatterWrite || c.op == .scatterAdd)) }

/-! ### Commands in their queue -/

/-- The state with a command in the queue of its engine replaced. -/
def putCmd (s : State) (e : EngineId) (c : Cmd) : State :=
  modEngine s e fun k => { k with queue := k.queue.map fun g => if g.order = c.order then c else g }

/-- A command in the queue of an engine, by its number. -/
def cmdAt (s : State) (e : EngineId) (order : Nat) : Option Cmd := (engineOf s e).queue.find? fun c => c.order == order

/-- The stream of a gather onto a port. -/
def gatherStream (s : State) (c : Cmd) : Option Stream := s.streams.find? fun t => t.cmd.order == c.order && t.faulted.isNone

/-- The state with shuttles added to those of a gather. -/
def addShuttles (s : State) (c : Cmd) (ss : List (List W32 × Bool)) (counts : List Nat) : State :=
  { s with streams := s.streams.map fun t =>
      if t.cmd.order = c.order then { t with pend := t.pend ++ ss, stats := sumCounts t.stats counts } else t }

/-- Index n of a command, with whether it is poisoned and whether it lies on an annex page that is not written (R182, R183). -/
def readIndex (s : State) (w : Who) (c : Cmd) (n : Nat) : Except Flt (State × Nat × Bool × Bool) :=
  let va := opVa c.opB + 4 * n
  (engReadNat s w { acc := .engRead, annex := true } va 4).map fun q => (q.1, q.2.1, q.2.2, annexBlank q.1 w va false)

/-- The rows a command has still to take, from the one under way on. -/
def rowsLeft (s : State) (w : Who) (c : Cmd) : List Nat :=
  if c.op = .migrate then [c.opB.toNat]
  else (List.range (c.rowCount - c.progress)).filterMap fun j =>
    match readIndex s w c (c.progress + j) with | .ok (_, x, _, _) => some x | .error _ => none

/-- An earlier command of the same core has row i of the same table still to take (R336, R340). -/
def earlierRow (s : State) (c : Cmd) (i : Nat) : Bool :=
  s.engines.any fun e => e.1 % 32 == 16 && e.2.queue.any fun g =>
    g.core == c.core && decide (g.order < c.order) && g.asid == c.asid && g.table.base == c.table.base && g.fault.isNone &&
      decide (g.progress < g.rowCount) && (rowsLeft s (whoEngine g (BitVec.ofNat 7 e.1)) g).contains i

/-! ### Shuttles of a look-up -/

/-- Words of a lane form in a shuttle of a gather. -/
def rowForm (c : Cmd) : Nat := opField c.opD 20 4

/-- Elements of a shuttle of a gather. -/
def rowPer (c : Cmd) : Nat := (wordsOf c + 1) * formCount (rowForm c)

/-- The shuttles of a row's elements, and the lanes dropped. -/
def rowShuttles (c : Cmd) (es : List (Option Nat)) : List (List W32 × Bool) :=
  (List.range ((es.length + rowPer c - 1) / rowPer c)).map fun i =>
    shuttleOf (rowForm c) (wordsOf c) ((es.drop (i * rowPer c)).take (rowPer c))

/-- Shuttles with their dropped lanes counted. -/
def withDrops (s : State) (c : Cmd) (es : List (Option Nat)) (counts : List Nat) : State :=
  let ss := rowShuttles c es
  addShuttles s c ss (addCount counts 5 (ss.filter fun q => !q.2).length)

/-! ### Row operations performed -/

/-- Elements of a number of bytes read, and whether a line was poisoned; in strict mode that is a fault. -/
def rowElems (s : State) (w : Who) (c : Cmd) (r : EngRule) (va e n : Nat) : Except Flt (State × List Nat × Bool) :=
  match engRead s w r va (e * n) with
  | .error f => .error f
  | .ok (s1, bs, bad) =>
    if c.strict && bad.any id then .error { cause := 0x13, addr := BitVec.ofNat 64 va } else .ok (s1, elemsOf e n bs, bad.any id)

/-- Some page of a row has not been written since its trim (R183). -/
def rowBlank (s : State) (w : Who) (va n : Nat) : Bool :=
  annexBlank s w va false || annexBlank s w (va + n - 1) false || (List.range (n / 4096)).any fun i => annexBlank s w (va + 4096 * i) false

/-- A row read for a port: each element decoded, or dropped. -/
def performPort (s : State) (w : Who) (c : Cmd) (va : Nat) : Except Flt State :=
  let t := c.table
  match engRead s w (rowRule c .engRead) va t.rowBytes with
  | .error f => .error f
  | .ok (s1, bs, bad) =>
    if c.strict && bad.any id then .error { cause := 0x13, addr := BitVec.ofNat 64 va }
    else
      let one (k : Nat) : Option Nat × List Nat :=
        if ((bad.drop (k * t.elem)).take t.elem).any id || annexBlank s1 w (va + k * t.elem) false then (none, [])
        else
          let q := decodeElem t.fmt (rowForm c) (leNat ((bs.drop (k * t.elem)).take t.elem))
          (some q.1, q.2)
      let es := (List.range t.count).map one
      .ok (withDrops s1 c (es.map (·.1)) (es.foldl (fun m q => addCounts m q.2) []))

/-- The place of index n in the memory destination of a gather, or in the rows of a scatter. -/
def slotVa (c : Cmd) (n : Nat) : Nat := opVa c.opD + n * c.table.rowBytes

/-- The rule of a gather's destination: RAW or the table's format. -/
def slotRule (c : Cmd) : EngRule := { acc := .engWrite, hidden := true, fmt := fun f => f == 0 || f == c.table.fmt }

/-- A row of zeros in the memory destination of a gather. -/
def zeroSlot (s : State) (w : Who) (c : Cmd) (n : Nat) : Except Flt State :=
  engWrite s w (slotRule c) (gatherSync c) (slotVa c n) (List.replicate c.table.rowBytes 0)

/-- A row copied to memory as stored; a row the annex does not hold gives zeros. -/
def performMem (s : State) (w : Who) (c : Cmd) (va n : Nat) : Except Flt State :=
  if rowBlank s w va c.table.rowBytes then zeroSlot s w c n
  else
    xferAll { w := w, strict := c.strict, rd := rowRule c .engRead, wr := slotRule c, sync := gatherSync c } va (slotVa c n) c.table.rowBytes s

/-- Counts of the command of a number, for the record that reports it. -/
def countCmd (s : State) (order : Nat) (counts : List Nat) : State :=
  { s with engines := s.engines.map fun e => (e.1, { e.2 with
      queue := e.2.queue.map fun g => if g.order = order then { g with stats := addCounts g.stats counts } else g }) }

/-- The weights of a row written, with the counts of their encoding (R125, R145). A command that is bound to no region has no root to
report to, so the counts end with it (R506). -/
def writeWeights (s : State) (w : Who) (c : Cmd) (va : Nat) (ws : List W32) : Except Flt State :=
  let es := ws.map fun x => encodeElem c.table.fmt 1 x.toNat
  (engWrite s w (rowRule c .engWrite) none va (es.flatMap fun q => leBytes c.table.elem q.1)).map fun s1 =>
    countCmd s1 c.order (es.flatMap (·.2))

/-- n elements of e bytes read, none where a line is poisoned or an annex page not written (R183, R278); in strict mode poison is a
fault. -/
def laneElems (s : State) (w : Who) (c : Cmd) (r : EngRule) (va e n : Nat) : Except Flt (State × List (Option Nat)) :=
  match engRead s w r va (e * n) with
  | .error f => .error f
  | .ok (s1, bs, bad) =>
    if c.strict && bad.any id then .error { cause := 0x13, addr := BitVec.ofNat 64 va }
    else
      .ok (s1, (List.range n).map fun k =>
        if ((bad.drop (k * e)).take e).any id || annexBlank s1 w (va + k * e) false then none else some (leNat ((bs.drop (k * e)).take e)))

/-- The weights of a row in FP32 beside the FP32 operands of index n; none where either is dropped. A table whose weights do not decode to
FP32 faults MODE. -/
def rowOperands (s : State) (w : Who) (c : Cmd) (va n : Nat) : Except Flt (State × List (Option (W32 × W32))) :=
  let t := c.table
  if !decodable t.fmt 1 then .error { cause := 0x08, addr := BitVec.ofNat 64 va }
  else
    match laneElems s w c (rowRule c .engRead) va t.elem t.count with
    | .error f => .error f
    | .ok (s1, es) =>
      match laneElems s1 w c { acc := .engRead, annex := true, fmt := fun f => f == 0 || f == 1 } (opVa c.opD + 4 * t.count * n) 4 t.count with
      | .error f => .error f
      | .ok (s2, gs) =>
        .ok (s2, List.zipWith (fun e g => e.bind fun x => g.map fun y => (BitVec.ofNat 32 (decodeElem t.fmt 1 x).1, BitVec.ofNat 32 y)) es gs)

/-- How many elements of a row are dropped, counted with the command. -/
def countDrops {α : Type} (s : State) (c : Cmd) (ps : List (Option α)) : State :=
  countCmd s c.order (List.replicate (ps.filter (·.isNone)).length 5)

/-- Those weights of a row written that are not dropped, one after another. -/
def writeLanes (s : State) (w : Who) (c : Cmd) (va : Nat) (ws : List (Option W32)) : Except Flt State :=
  (List.range ws.length).foldl (fun r k =>
    match r, (ws[k]?).join with
    | .ok u, some x => writeWeights u w c (va + k * c.table.elem) [x]
    | _, _ => r) (.ok s)

/-- XSCATTER.ADD on a row: a dropped element keeps its weight (R552, Table 8.7). -/
def performAdd (s : State) (w : Who) (c : Cmd) (va n : Nat) : Except Flt State :=
  match rowOperands s w c va n with
  | .error f => .error f
  | .ok (s1, ps) =>
    let sum (q : W32 × W32) : W32 := rne32 (addNum .rne (num32 q.1) (num32 q.2))
    if ps.all (·.isSome) then writeWeights s1 w c va (ps.filterMap fun p => p.map sum)
    else writeLanes (countDrops s1 c ps) w c va (ps.map fun p => p.map sum)

/-- The FP32 number 1. -/
def oneNum : Num := .fin false 1 0

/-- a × b + c × d exactly, rounded once. -/
def blend (a b c d : Num) : W32 := rne32 (addNum .rne (mulNum a b) (mulNum c d))

/-- w − r × g, rounded once. -/
def descend (w r g : W32) : W32 := rne32 (addNum .rne (num32 w) (negNum (mulNum (num32 r) (num32 g))))

/-- The accumulator of AdaGrad-row after a gradient row (R336). -/
def adagradSum (s0 : W32) (gs : List W32) : W32 :=
  let n : Num := .fin false gs.length 0
  let top := gs.foldl (fun a g => addNum .rne a (mulNum (num32 g) (num32 g))) (mulNum (num32 s0) n)
  rne32 (quotNum top n)

/-- The step of AdaGrad-row from its accumulator. -/
def adagradRate (t : TableRec) (s0 : W32) : W32 :=
  let q := rne32 (quotNum oneNum (sqrtNum (num32 (rne32 (addNum .rne (num32 s0) (num32 t.eps))))))
  rne32 (mulNum (num32 t.lr) (num32 q))

/-- One element under Adam: the weight, m and v after a gradient. -/
def adamElem (t : TableRec) (w m v g : W32) : W32 × W32 × W32 :=
  let less (b : W32) : Num := addNum .rne oneNum (negNum (num32 b))
  let m1 := blend (num32 t.b1) (num32 m) (less t.b1) (num32 g)
  let v1 := blend (num32 t.b2) (num32 v) (less t.b2) (mulNum (num32 g) (num32 g))
  let a := rne32 (mulNum (num32 m1) (num32 t.c1))
  let d := rne32 (addNum .rne (num32 (rne32 (sqrtNum (num32 (rne32 (mulNum (num32 v1) (num32 t.c2))))))) (num32 t.eps))
  let r := rne32 (mulNum (num32 t.lr) (num32 (rne32 (quotNum (num32 a) (num32 d)))))
  (rne32 (addNum .rne (num32 w) (negNum (num32 r))), m1, v1)

/-- The weights and the state of a row after a gradient row (R336). -/
def updateRow (t : TableRec) (ws st gs : List W32) : List W32 × List W32 :=
  let at_ (l : List W32) (i : Nat) : W32 := (l[i]?).getD 0
  match t.opt with
  | 1 => (List.zipWith (fun w g => descend w t.lr g) ws gs, [])
  | 2 =>
    let s1 := adagradSum (at_ st 0) gs
    let r := adagradRate t s1
    (List.zipWith (fun w g => descend w r g) ws gs, [s1])
  | _ =>
    let n := t.count
    let es := (List.range n).map fun k => adamElem t (at_ ws k) (at_ st k) (at_ st (n + k)) (at_ gs k)
    (es.map (·.1), es.map (·.2.1) ++ es.map (·.2.2))

/-- Words of optimiser state an OPT code takes. -/
def stateWords (t : TableRec) : Nat := match t.opt with | 2 => 1 | 3 => 2 * t.count | _ => 0

/-- XROWUPD on a row; one of which an element is dropped is left as it is. Log entry 96. -/
def performUpdate (s : State) (w : Who) (c : Cmd) (va n : Nat) : Except Flt State :=
  let t := c.table
  match rowOperands s w c va n with
  | .error f => .error f
  | .ok (s1, ps) =>
    if !ps.all (·.isSome) then .ok (countDrops s1 c ps)
    else
    let ws := ps.filterMap fun p => p.map (·.1)
    let gs := ps.filterMap fun p => p.map (·.2)
    match rowElems s1 w c (rowRule c .engRead) (va + t.rowBytes) 4 (stateWords t) with
    | .error f => .error f
    | .ok (s2, st, bad) =>
      if bad then .ok s2
      else
        let r := updateRow t ws (st.map (BitVec.ofNat 32)) gs
        match writeWeights s2 w c va r.1 with
        | .error f => .error f
        | .ok s3 => engWrite s3 w (rowRule c .engWrite) none (va + t.rowBytes) (r.2.flatMap fun x => leBytes 4 x.toNat)

/-! ### Migration (R337, R339, R547) -/

/-- Where a migration takes its row. -/
def migrateTo (c : Cmd) : Nat := if c.opC = 0 then c.table.home c.opB.toNat else opVa c.opC

/-- A physical address of a virtual one, in the backing a command is bound to. -/
def boundPa (s : State) (w : Who) (c : Cmd) (a : Acc) (va : Nat) : Except Flt (State × Nat) :=
  match engCheck s w (rowRule c a) va 1 with | .error f => .error f | .ok (s1, t) => .ok (s1, t.pa w.core)

/-- The map entry of a row is written, or cleared for a row that is back in its place, as one atomic: the flip. -/
def flipMap (s : State) (w : Who) (c : Cmd) (slot dest : Nat) : Except Flt State :=
  let i := c.opB.toNat
  let word := if dest = c.table.home i then 0 else i + 2 ^ 31 + dest * 2 ^ 64
  match engAtomic s w { acc := .engWrite, hidden := true } (c.table.hotMap + 16 * slot) 16 fun _ => word with
  | .error f => .error f
  | .ok (_, _, true) => .error { cause := 0x13, addr := BitVec.ofNat 64 (c.table.hotMap + 16 * slot) }
  | .ok (s1, _, false) => .ok s1

/-- A migration performed under its lock: false when the map is full. -/
def performMigrate (s : State) (w : Who) (home : EngineId) (op : RowOp) : Except Flt (State × Bool) :=
  let c := op.cmd
  let dest := migrateTo c
  if dest = op.va then .ok (s, true)
  else
    match hotFind s w c.strict c.table op.row with
    | .error f => .error f
    | .ok (s1, none) => .ok (s1, false)
    | .ok (s1, some (slot, _)) =>
      match boundPa s1 w c .engWrite dest with
      | .error f => .error f
      | .ok (s2, pa) =>
        match xferAll { w := w, strict := c.strict, rd := rowRule c .engRead, wr := rowRule c .engWrite } op.va dest c.table.stride s2 with
        | .error f => .error f
        | .ok s3 =>
          match flipMap s3 w c slot dest with
          | .error f => .error f
          | .ok s4 =>
            .ok (modEngine s4 home fun k => { k with
              markers := k.markers ++ [{ old := op.pa, newVa := dest, newPa := pa, table := c.opA, asid := c.asid }] }, true)

/-- The destination of a migration holds a marker: it waits (R339). -/
def destMarked (s : State) (op : RowOp) : Bool :=
  let c := op.cmd
  match boundPa s (whoEngine c op.eng) c .engWrite (migrateTo c) with
  | .error _ => false
  | .ok (_, pa) => migrateTo c != op.va && s.engines.any fun e => e.2.markers.any fun m => rangesMeet m.old c.table.stride pa c.table.stride

/-! ### Locks, markers and the in-flight count (R335, R338, R339) -/

/-- A row operation of a table has resolved an address and has not performed. -/
def inFlight (s : State) (table asid : Word) : Bool :=
  s.engines.any fun e => (e.2.rowWait ++ e.2.rowLocks ++ e.2.forward).any fun o => o.cmd.opA == table && o.cmd.asid == asid

/-- The markers whose table has nothing in flight are gone. -/
def clearMarkers (s : State) (e : EngineId) : State :=
  modEngine s e fun k => { k with markers := k.markers.filter fun m => inFlight s m.table m.asid }

/-- The markers of every engine whose table has nothing in flight are gone. -/
def clearAllMarkers (s : State) : State :=
  { s with engines := s.engines.map fun e => (e.1, { e.2 with markers := e.2.markers.filter fun m => inFlight s m.table m.asid }) }

/-- MARKER_CLEAR (R339). -/
def execMarkerClear (eng : EngineId) (st : State) : Out := .next (clearMarkers st eng)

/-- A row operation has performed: its command goes on to the next index, or has faulted or found the map full. -/
def rowDone (s : State) (op : RowOp) (f : Option Flt) (full : Bool) : State :=
  let s1 := match cmdAt s op.eng op.cmd.order with
    | none => s
    | some c => putCmd s op.eng { c with
        out := false, progress := if f.isSome then c.progress else c.progress + 1, misses := if full then 1 else c.misses
        fault := f.map fun x => (x.cause, x.addr) }
  clearAllMarkers s1

/-- A row operation performs at its home engine. -/
def performRow (s : State) (home : EngineId) (op : RowOp) : State :=
  let c := op.cmd
  let w := whoEngine c home
  let n := c.progress
  let end_ (r : Except Flt State) : State := match r with | .ok s1 => rowDone s1 op none false | .error f => rowDone s op (some f) false
  match c.op with
  | .gatherPort => end_ (performPort s w c op.va)
  | .gatherMem => end_ (performMem s w c op.va n)
  | .scatterWrite =>
    end_ (xferAll { w := w, strict := c.strict, wr := rowRule c .engWrite } (slotVa c n) op.va c.table.rowBytes s)
  | .scatterAdd => end_ (performAdd s w c op.va n)
  | .rowUpd => end_ (performUpdate s w c op.va n)
  | _ =>
    match performMigrate s w home op with
    | .ok (s1, ok) => rowDone s1 op none !ok
    | .error f => rowDone s op (some f) false

/-- A row is read. -/
def RowOp.reads (o : RowOp) : Bool := o.cmd.op == .gatherPort || o.cmd.op == .gatherMem

/-- Where a gallery command writes. -/
def galleryDest (s : State) (w : Who) (c : Cmd) : List (Nat × Nat) :=
  let t := c.table
  match c.op with
  | .gatherPort => []
  | .gatherMem => [(opVa c.opD, c.rowCount * t.rowBytes)]
  | .migrate => [(migrateTo c, t.stride)]
  | _ => tablePlaces s w t

/-- Another command is bound to the backing that a gather to memory or a scatter writes (R228, R342); row updates and migrations work in
place, on the backing they are bound to (R341). -/
def writeHeld (s : State) (w : Who) (c : Cmd) : Bool :=
  match c.op with
  | .gatherMem => (galleryDest s w c).any fun p => backingHeld s w (some c.order) p.1 p.2
  | .scatterWrite => (galleryDest s w c).any fun p => backingHeld s w (some c.order) p.1 p.2 c.bound
  | .scatterAdd => (galleryDest s w c).any fun p => backingHeld s w (some c.order) p.1 p.2 c.bound
  | _ => false

/-- The first of the waiting operations whose row is not locked. -/
def grantable (k : Engine) : Option RowOp := k.rowWait.find? fun o => k.rowLocks.all fun l => l.pa != o.pa

/-- The operation is given up, to resolve its row again later: the markers its table keeps for it may clear. -/
def resolveLater (s : State) (o : RowOp) : State :=
  clearAllMarkers (match cmdAt s o.eng o.cmd.order with | some c => putCmd s o.eng { c with out := false } | none => s)

/-- ROW_LOCK_GRANT (R335): the first operation whose row is free reads it, or takes its lock; one that finds a marker is to be
forwarded, and a migration onto a marker resolves its row again later. -/
def execRowLockGrant (eng : EngineId) (st : State) : Out :=
  let k := engineOf st eng
  match grantable k with
  | none => .next st
  | some o =>
    let s1 := modEngine st eng fun g => { g with rowWait := g.rowWait.erase o }
    if o.reads && writeHeld st (whoEngine o.cmd eng) o.cmd then .next st
    else if o.reads then .next (performRow s1 eng o)
    else if k.markers.any fun m => m.old == o.pa then .next (modEngine s1 eng fun g => { g with forward := g.forward ++ [o] })
    else if o.cmd.op == .migrate && destMarked st o then .next (resolveLater s1 o)
    else .next (modEngine s1 eng fun g => { g with rowLocks := g.rowLocks ++ [o] })

/-- MIGRATION_FORWARD (R339): the first operation to be forwarded joins those of the new place's engine. -/
def execMigrationForward (eng : EngineId) (st : State) : Out :=
  let k := engineOf st eng
  match k.forward with
  | [] => .next st
  | o :: t =>
    match k.markers.find? fun m => m.old == o.pa with
    | none => .next (modEngine st eng fun g => { g with forward := t, rowWait := g.rowWait ++ [o] })
    | some m =>
      let s1 := modEngine st eng fun g => { g with forward := t }
      .next (modEngine s1 (galleryOf (memoryDie (dieOfEngine eng) m.newPa)) fun g => { g with
        rowWait := g.rowWait ++ [{ o with va := m.newVa, pa := m.newPa }] })

/-- The first operation that holds a lock performs and gives it up; a migration onto a location that has got a marker meanwhile waits
(R339). -/
def performLocked (s : State) (eng : EngineId) : Option State :=
  match (engineOf s eng).rowLocks with
  | [] => none
  | o :: t =>
    let s1 := modEngine s eng fun k => { k with rowLocks := t }
    if writeHeld s (whoEngine o.cmd eng) o.cmd then none
    else some (if o.cmd.op == .migrate && destMarked s o then resolveLater s1 o else performRow s1 eng o)

/-! ### A command takes its next index -/

/-- An index that names no row (R332): its lanes are dropped. -/
def dropIndex (s : State) (e : EngineId) (w : Who) (c : Cmd) (missing poison : Bool) : State :=
  let c1 := { c with
    started := true, progress := c.progress + 1, misses := c.misses + (if missing then 1 else 0)
    drops := c.drops + (if missing || poison then 0 else 1) }
  match c.op with
  | .gatherPort => putCmd (withDrops s c (List.replicate c.table.count none) []) e c1
  | .gatherMem =>
    match zeroSlot s w c c.progress with
    | .ok s1 => putCmd s1 e c1
    | .error f => putCmd s e { c with fault := some (f.cause, f.addr) }
  | _ => putCmd s e c1

/-- A row is found, its version bound, and the operation goes to the row's home; none while an earlier command of the core has
the row to take. -/
def resolveRow (s : State) (e : EngineId) (w : Who) (c : Cmd) (i : Nat) : Option State :=
  let fail (f : Flt) : Option State := some (putCmd s e { c with fault := some (f.cause, f.addr) })
  if earlierRow s c i then none
  else
    match rowVa s w c.strict c.table i with
    | .error f => fail f
    | .ok (s1, va) =>
      let c1 := { bindBacking s1 w c va with started := true, out := true }
      let reads := c.op == .gatherPort || c.op == .gatherMem || c.op == .migrate
      match boundPa s1 w c1 (if reads then .engRead else .engWrite) va with
      | .error f => fail f
      | .ok (s2, pa) =>
        some (modEngine (putCmd s2 e c1) (galleryOf (memoryDie w.die pa)) fun k => { k with
          rowWait := k.rowWait ++ [{ eng := e, cmd := c1, row := i, va := va, pa := pa }] })

/-- A command must wait: for its context, or for commands bound to the backing it writes next. -/
def galleryWaits (s : State) (w : Who) (c : Cmd) : Bool :=
  match c.op with
  | .gatherPort => (gatherStream s c).any fun t => (streamPort s t).isNone || decide (16 ≤ t.pend.length)
  | _ => writeHeld s w c

/-- The next index of a command, if it may move. -/
def nextIndex (s : State) (e : EngineId) (c : Cmd) : Option State :=
  let w := whoEngine c e
  if galleryWaits s w c then none
  else if c.op = .migrate then resolveRow s e w c c.opB.toNat
  else
    match readIndex s w c c.progress with
    | .error f => some (putCmd s e { c with fault := some (f.cause, f.addr) })
    | .ok (s1, x, bad, blank) =>
      if bad && c.strict then some (putCmd s e { c with fault := some (0x13, BitVec.ofNat 64 (opVa c.opB + 4 * c.progress)) })
      else if bad || blank then some (dropIndex s1 e w c false true)
      else if x = 0xFFFFFFFF then some (dropIndex s1 e w c true false)
      else if c.table.rows ≤ x then some (dropIndex s1 e w c false false)
      else resolveRow s1 e w c x

/-- DROP_IDX and MISS_IDX join the record, saturating; these writes are not checked against manifests (R333). -/
def addDrops (s : State) (w : Who) (c : Cmd) : State :=
  let add (u : State) (o n : Nat) : State :=
    if n = 0 then u
    else
      match engAtomic u { w with checked := false } { acc := .engWrite, hidden := true } (opVa c.opA + o) 4
          fun old => min 0xFFFFFFFF (old + n) with
      | .ok (u1, _, _) => u1
      | .error _ => u
  if c.op = .migrate then s else add (add s 0x38 c.drops) 0x3C c.misses

/-- A gather onto a port has no more rows: its stream sends its last bundle. -/
def lastShuttles (s : State) (c : Cmd) : State :=
  { s with streams := s.streams.map fun t => if t.cmd.order = c.order then { t with last := true } else t }

end Sys2Proof.Machine
end

