-- ==== Sys2Proof/Machine/KvEngine.lean ====
section
/-!
DEFINITION. The KV engine (R309 to R312, R315, R327, R328, R518, R541 to R544, R582, R583): appends, evictions, frees and
transfers, and TTPRUNE.
-/
namespace Sys2Proof.Machine

/-! ### Fields of descriptors and headers (Tables 9.5 and 9.6) -/

/-- A field of a KV structure: byte offset of its word, lowest bit, width. -/
structure KvField where
  off : Nat
  lo : Nat
  n : Nat

/-- HEAD. -/
def kvHead : KvField := ⟨0, 0, 56⟩
/-- TAIL. -/
def kvTail : KvField := ⟨8, 0, 56⟩
/-- FREE. -/
def kvFree : KvField := ⟨16, 0, 56⟩
/-- NEXTPOS. -/
def kvNextPos : KvField := ⟨24, 0, 48⟩
/-- NEXT of a page. -/
def pageNext : KvField := ⟨0, 0, 56⟩
/-- FIRST of a page. -/
def pageFirst : KvField := ⟨8, 0, 48⟩
/-- VCOUNT of a page. -/
def pageCount : KvField := ⟨8, 48, 7⟩
/-- PVALID of a page. -/
def pageValid : KvField := ⟨16, 0, 64⟩

/-- A word with a field replaced. -/
def putField (f : KvField) (old v : Nat) : Nat := old - bitsAt f.lo f.n old * 2 ^ f.lo + v % 2 ^ f.n * 2 ^ f.lo

/-- A KV command at work: who makes its accesses, whether poison faults, and as what it reads page headers. -/
structure KvJob where
  w : Who
  strict : Bool
  hdr : Acc := .engWrite

/-- The rule of the engine's writes. -/
def kvWrites : EngRule := { acc := .engWrite, hidden := true }

/-- The descriptor at an address. -/
def KvJob.desc (k : KvJob) (s : State) (va : Nat) : Except Flt (State × KvDesc) := do
  let (s1, bs) ← kvRead s k.w k.strict .engWrite va 64
  .ok (s1, kvDesc bs)

/-- The header of a page: of a cache that is appended to, in a W or RW region (R317). -/
def KvJob.page (k : KvJob) (s : State) (va : Nat) : Except Flt (State × KvPage) := do
  let (s1, bs) ← kvRead s k.w k.strict k.hdr va 64
  .ok (s1, kvPage bs)

/-- A field written. -/
def KvJob.put (k : KvJob) (s : State) (va : Nat) (f : KvField) (v : Nat) : Except Flt State := do
  let (s1, bs) ← kvRead s k.w k.strict .engWrite (va + f.off) 8
  engWrite s1 k.w kvWrites none (va + f.off) (leBytes 8 (putField f (leNat bs) v))

/-- Entries moved as stored (R582). -/
def KvJob.move (k : KvJob) (s : State) (a : Acc) (src dst n : Nat) : Except Flt State :=
  xferAll { w := k.w, strict := k.strict, rd := { acc := a, setD := false } } src dst n s

/-- A page is pushed on FREE of a descriptor. -/
def KvJob.push (k : KvJob) (s : State) (dva page : Nat) : Except Flt State := do
  let (s1, d) ← k.desc s dva
  let s2 ← k.put s1 page pageNext d.free
  k.put s2 dva kvFree page

/-- Pages from one on are pushed on FREE, along their chain. -/
def KvJob.pushAll (k : KvJob) (dva : Nat) : Nat → State → Nat → Except Flt State
  | 0, s, _ => .ok { s with stall := true }
  | f + 1, s, page =>
    if page = 0 then .ok s
    else do
      let (s1, h) ← k.page s page
      let s2 ← k.push s1 dva page
      k.pushAll dva f s2 h.next

/-- The pages of a chain from one on, with their headers. -/
def KvJob.chain (k : KvJob) : Nat → State → Nat → Except Flt (State × (List (Nat × KvPage)))
  | 0, s, _ => .ok ({ s with stall := true }, [])
  | f + 1, s, page =>
    if page = 0 then .ok (s, [])
    else do
      let (s1, h) ← k.page s page
      let (s2, t) ← k.chain f s1 h.next
      .ok (s2, (page, h) :: t)

/-- The page of a chain that holds a position. -/
def pageOf (ps : List (Nat × KvPage)) (p : Nat) : Option (Nat × KvPage) :=
  ps.find? fun q => decide (q.2.first ≤ p) && decide (p < q.2.first + 64)

/-- The addresses of the K and the V entry of slot i. -/
def entryVa (page e i : Nat) : Nat × Nat := (page + 64 + i * e, page + 64 + (64 + i) * e)

/-! ### Appends (R311, R315, R541) -/

/-- Pages behind the window edge go from HEAD to FREE, up to the first that stays. -/
def KvJob.slide (k : KvJob) (dva : Nat) : Nat → State → Except Flt State
  | 0, s => .ok { s with stall := true }
  | f + 1, s => do
    let (s1, d) ← k.desc s dva
    if d.head = d.tail || d.head = 0 then .ok s1
    else
      let (s2, h) ← k.page s1 d.head
      if h.first + 63 + d.window < d.next && d.sink ≤ h.first then
        let s3 ← k.put s2 dva kvHead h.next
        let s4 ← k.push s3 dva d.head
        k.slide dva f s4
      else .ok s2

/-- The page and slot an append takes, or why it takes none: 3 NOPAGE, 5 MISMATCH. A full tail is followed by the page at FREE. -/
def KvJob.tail (k : KvJob) (s : State) (dva : Nat) (d : KvDesc) : Except Flt (State × (Except Nat (Nat × Nat))) := do
  let (s1, h) ← k.page s d.tail
  if h.vcount < 64 then
    if h.first + h.vcount ≤ d.next && d.next ≤ h.first + 63 then .ok (s1, .ok (d.tail, d.next - h.first)) else .ok (s, .error 5)
  else if h.vcount ≠ 64 || d.next % 64 ≠ 0 then .ok (s, .error 5)
  else if d.free = 0 then .ok (s, .error 3)
  else
    let (s2, g) ← k.page s1 d.free
    let s3 ← k.put s2 dva kvFree g.next
    let s4 ← k.put s3 d.free pageFirst d.next
    let s5 ← k.put s4 d.free pageCount 0
    let s6 ← k.put s5 d.free pageValid 0
    let s7 ← k.put s6 d.free pageNext 0
    let s8 ← k.put s7 d.tail pageNext d.free
    let s9 ← k.put s8 dva kvTail d.free
    .ok (s9, .ok (d.free, 0))

/-- One append of the entries at an address: 0, or the status that ends the command. -/
def KvJob.append (k : KvJob) (s : State) (dva src : Nat) : Except Flt (State × Nat) := do
  let (s1, d) ← k.desc s dva
  let (s2, r) ← k.tail s1 dva d
  match r with
  | .error n => .ok (s, n)
  | .ok (page, slot) =>
    let q := entryVa page d.entry slot
    let s3 ← k.move s2 .engRead src q.1 d.entry
    let s4 ← k.move s3 .engRead (src + d.entry) q.2 d.entry
    let (s5, h) ← k.page s4 page
    let s6 ← k.put s5 page pageValid (h.pvalid ||| 2 ^ slot)
    let s7 ← k.put s6 page pageCount (slot + 1)
    let s8 ← k.put s7 dva kvNextPos (d.next + 1)
    let s9 ← if d.window = 0 then .ok s8 else k.slide dva chainFuel s8
    .ok (s9, 0)

/-- Appends from number j on. -/
def KvJob.appends (k : KvJob) (dva src e n : Nat) : Nat → State → Nat → Run
  | 0, s, j => { s := s, n := j }
  | f + 1, s, j =>
    if n ≤ j then { s := s, n := j }
    else
      match k.append s dva (src + 2 * j * e) with
      | .error x => { s := s, n := j, flt := some x }
      | .ok (s1, 0) => k.appends dva src e n f s1 (j + 1)
      | .ok (_, st) => { s := s, n := j, status := st }

/-- A command on a well-formed descriptor starts; on a malformed one it faults (R583). -/
def kvStart (s : State) (c : Cmd) (d : DieId) (go : KvJob → State → KvDesc → Run) : Run :=
  let k : KvJob := { w := whoCmd c d, strict := c.strict }
  match kvRead s k.w k.strict (if c.op == .kvSend then .engRead else .engWrite) (opVa c.opA) 64 with
  | .error f => { s := s, flt := some f }
  | .ok (s1, bs) => if kvOk bs then go k s1 (kvDesc bs) else { s := s, flt := some { cause := 0x01, addr := BitVec.ofNat 64 (opVa c.opA) } }

/-- APPEND. -/
def runAppend (s : State) (c : Cmd) (d : DieId) : Run :=
  kvStart s c d fun k s1 x =>
    let n := opField c.opC 0 7
    let r := k.appends (opVa c.opA) (opVa c.opB) x.entry n n s1 0
    match k.desc r.s (opVa c.opA) with
    | .ok (_, y) => { r with result := y.next % 2 ^ 40 }
    | .error _ => r

/-- What a command does as one element. -/
def asOne (s : State) (r : Except Flt (State × Nat)) : Run :=
  match r with | .error f => { s := s, flt := some f } | .ok (s1, st) => { s := s1, n := 1, status := st }

/-! ### Evictions (R328, R542) -/

/-- The live positions of pages. -/
def livePositions (ps : List (Nat × KvPage)) : List Nat :=
  ps.flatMap fun q => ((List.range 64).filter fun i => bitOf i q.2.pvalid).map (q.2.first + ·)

/-- The listed positions. -/
def KvJob.listed (k : KvJob) (va : Nat) : Nat → State → Nat → Except Flt (State × (List Nat))
  | 0, s, _ => .ok (s, [])
  | f + 1, s, i => do
    let (s1, bs) ← kvRead s k.w k.strict .engRead (va + 16 + 8 * i) 8
    let (s2, t) ← k.listed va f s1 (i + 1)
    .ok (s2, leNat bs :: t)

/-- PVALID of a page without the positions that go. -/
def keepValid (h : KvPage) (goes : Nat → Bool) : Nat :=
  ((List.range 64).map fun i => if bitOf i h.pvalid && !goes (h.first + i) then 2 ^ i else 0).sum

/-- Pages after the head page whose PVALID is zero are unlinked from the page before them and pushed on FREE, but for TAIL. -/
def KvJob.sweep (k : KvJob) (dva tail : Nat) (goes : Nat → Bool) : State → Nat → List (Nat × KvPage) → Except Flt State
  | s, _, [] => .ok s
  | s, prev, (page, h) :: t => do
    let v := keepValid h goes
    let s1 ← if v = h.pvalid then .ok s else k.put s page pageValid v
    if prev ≠ 0 && page ≠ tail && v = 0 then
      let s2 ← k.put s1 prev pageNext h.next
      let s3 ← k.push s2 dva page
      k.sweep dva tail goes s3 prev t
    else k.sweep dva tail goes s1 page t

/-- EVICT. -/
def runEvict (s : State) (c : Cmd) (d : DieId) : Run :=
  kvStart s c d fun k s1 x => asOne s do
    let va := opVa c.opB
    let (s2, bs) ← kvRead s1 k.w k.strict .engRead va 16
    let limit := leNat (bs.take 6)
    let recent := leNat (bs.drop 8)
    let (s3, kept) ← k.listed va (opField c.opC 0 32) s2 0
    let (s4, ps) ← k.chain chainFuel s3 x.head
    let live := (livePositions ps).filter fun p => decide (p < limit)
    let goes (p : Nat) : Bool :=
      decide (x.sink ≤ p) && decide (p < limit) && !kept.contains p && decide (recent ≤ (live.filter fun q => decide (p < q)).length)
    let s5 ← k.sweep (opVa c.opA) x.tail goes s4 0 ps
    .ok (s5, 0)

/-! ### Frees (R543) -/

/-- FREE. -/
def runFree (s : State) (c : Cmd) (d : DieId) : Run :=
  kvStart s c d fun k s1 x => asOne s do
    let dva := opVa c.opA
    let start := opField c.opB 0 48
    let (s2, h) ← k.page s1 x.head
    let s3 ← k.pushAll dva chainFuel s2 h.next
    let s4 ← k.put s3 x.head pageNext 0
    let s5 ← k.put s4 x.head pageFirst start
    let s6 ← k.put s5 x.head pageCount 0
    let s7 ← k.put s6 x.head pageValid 0
    let s8 ← k.put s7 dva kvTail x.head
    let s9 ← k.put s8 dva kvNextPos start
    .ok (s9, 0)

/-! ### Transfers (R220, R544) -/

/-- A field of a remote structure set by one atomic; poison is a fault. -/
def KvJob.atomic (k : KvJob) (s : State) (va : Nat) (f : KvField) (v : Nat) : Except Flt State := do
  let (s1, _, bad) ← engAtomic s k.w kvWrites (va + f.off) 8 fun old => putField f old v
  if bad then .error { cause := 0x13, addr := BitVec.ofNat 64 (va + f.off) } else .ok s1

/-- A page is popped from the remote FREE list, if one is there. -/
def KvJob.pop (k : KvJob) (s : State) (rva : Nat) : Except Flt (State × (Option Nat)) := do
  let (s1, d) ← k.desc s rva
  if d.free = 0 then .ok (s1, none)
  else
    let (s2, h) ← k.page s1 d.free
    let s3 ← k.atomic s2 rva kvFree h.next
    .ok (s3, some d.free)

/-- Local pages sent into remote pages, each linked after the one before; false when the remote list runs out. The remote pages
taken are listed, the latest first. -/
def KvJob.send (k : KvJob) (rva e : Nat) : List (Nat × KvPage) → State → List Nat → Except Flt (State × (List Nat × Bool))
  | [], s, taken => .ok (s, taken, true)
  | (page, h) :: t, s, taken => do
    let (s1, got) ← k.pop s rva
    match got with
    | none => .ok (s1, taken, false)
    | some r =>
      let s2 ← k.move s1 .engRead (page + 64) (r + 64) (h.vcount * e)
      let s3 ← k.move s2 .engRead (page + 64 + 64 * e) (r + 64 + 64 * e) (h.vcount * e)
      let s4 ← k.put s3 r pageFirst h.first
      let s5 ← k.put s4 r pageCount h.vcount
      let s6 ← k.put s5 r pageValid h.pvalid
      let s7 ← k.put s6 r pageNext 0
      let s8 ← match taken with | p :: _ => k.put s7 p pageNext r | [] => .ok s7
      k.send rva e t s8 (r :: taken)

/-- Pages are pushed back on the remote FREE list. -/
def KvJob.giveBack (k : KvJob) (rva : Nat) : List Nat → State → Except Flt State
  | [], s => .ok s
  | p :: t, s => do
    let s1 ← k.push s rva p
    k.giveBack rva t s1

/-- XKVSEND. -/
def runSend (s : State) (c : Cmd) (d : DieId) : Run :=
  kvStart s c d fun k s1 x => asOne s do
    let rva := opVa c.opB
    let first := opField c.opC 0 48
    let (s2, bs) ← kvRead s1 k.w k.strict .engRead rva 64
    let r := kvDesc bs
    if !kvOk bs then .error { cause := 0x01, addr := BitVec.ofNat 64 rva }
    else
      let (s3, rt) ← k.page s2 r.tail
      if r.next ≠ first || (rt.vcount ≠ 64 && rt.vcount ≠ 0) then .ok (s3, 5)
      else
        let (s4, ps) ← { k with hdr := .engRead }.chain chainFuel s3 x.head
        let mine := ps.dropWhile fun q => q.2.first != first
        let (s5, taken, all) ← k.send rva x.entry (if x.next ≤ first then [] else mine) s4 []
        if !all then do
          let s6 ← k.giveBack rva taken s5
          .ok (s6, 3)
        else
          match taken.head?, taken.getLast? with
          | some last, some one => do
            let s6 ← k.atomic s5 r.tail pageNext one
            let s7 ← k.atomic s6 rva kvTail last
            let s8 ← k.atomic s7 rva kvNextPos x.next
            .ok (s8, 0)
          | _, _ => .ok (s5, 0)

/-! ### TTPRUNE (R327, R518) -/

/-- The score of slot j moves to slot i of another page, where both have a score array; with none at the source it is +0. -/
def KvJob.moveScore (k : KvJob) (s : State) (p q : KvPage) (j i : Nat) : Except Flt State :=
  if q.score = 0 then .ok s
  else if p.score = 0 then engWrite s k.w kvWrites none (q.score + 4 * i) [0, 0, 0, 0]
  else k.move s .engWrite (p.score + 4 * j) (q.score + 4 * i) 4

/-- Move of R327. -/
def KvJob.movePos (k : KvJob) (ps : List (Nat × KvPage)) (e : Nat) (s : State) (src dst : Nat) : Except Flt State :=
  match pageOf ps src, pageOf ps dst with
  | some p, some q => do
    let a := entryVa p.1 e (src - p.2.first)
    let b := entryVa q.1 e (dst - q.2.first)
    let s1 ← k.move s .engWrite a.1 b.1 e
    let s2 ← k.move s1 .engWrite a.2 b.2 e
    k.moveScore s2 p.2 q.2 (src - p.2.first) (dst - q.2.first)
  | _, _ => .ok s

/-- The moves of a path: node j to place i, in rising order. -/
def KvJob.movePath (k : KvJob) (ps : List (Nat × KvPage)) (e base : Nat) : List Nat → Nat → State → Except Flt State
  | [], _, s => .ok s
  | j :: t, i, s =>
    if j = i then k.movePath ps e base t (i + 1) s
    else do
      let s1 ← k.movePos ps e s (base + j) (base + i)
      k.movePath ps e base t (i + 1) s1

/-- PVALID of each page without the positions from lo up to hi. -/
def KvJob.clearFrom (k : KvJob) (lo hi : Nat) : List (Nat × KvPage) → State → Except Flt State
  | [], s => .ok s
  | (page, h) :: t, s => do
    let v := keepValid h fun p => decide (lo ≤ p) && decide (p < hi)
    let s1 ← if v = h.pvalid then .ok s else k.put s page pageValid v
    k.clearFrom lo hi t s1

/-- The prune of a cache: the path moved, positions past its end cleared, the descriptor and TAIL set, later pages freed. -/
def KvJob.prune (k : KvJob) (dva base : Nat) (x : KvDesc) (path : List Nat) (ps : List (Nat × KvPage)) (s : State) : Except Flt State := do
  let d := path.length - 1
  let s1 ← k.movePath ps x.entry base path 0 s
  let s2 ← k.clearFrom (base + d + 1) x.next ps s1
  let s3 ← k.put s2 dva kvNextPos (base + d + 1)
  match pageOf ps (base + d) with
  | none => .ok s3
  | some (page, h) =>
    let s4 ← k.put s3 dva kvTail page
    let s5 ← k.put s4 page pageCount (base + d + 1 - h.first)
    let s6 ← k.put s5 page pageNext 0
    k.pushAll dva chainFuel s6 h.next

/-- The pages that hold positions from lo to hi - 1, and their score arrays, checked as engine writes. -/
def KvJob.checkPages (k : KvJob) (s : State) (e lo hi : Nat) (ps : List (Nat × KvPage)) : Option Flt :=
  ps.findSome? fun q =>
    if q.2.first < hi && lo < q.2.first + 64 then
      (engCheckRange s k.w kvWrites q.1 (64 + 128 * e)).orElse fun _ =>
        if q.2.score = 0 then none else engCheckRange s k.w kvWrites q.2.score 256
    else none

/-- The tree after a prune: a chain of nodes 0 to d. -/
def prunedTree (t : Tree) (d : Nat) : Tree :=
  { t with
    live := BitVec.ofNat 64 (2 ^ (d + 1) - 1)
    parent := (List.range 64).foldl (fun v i => if 1 ≤ i && i ≤ d then v.setIfInBounds i (BitVec.ofNat 6 (i - 1)) else v) t.parent }

/-- A command of the KV engine that is home to a descriptor comes first (R312). -/
def kvBusy (s : State) (e : EngineId) (dva : Nat) (asid : Word) : Bool :=
  (engineOf s e).queue.any fun c => opVa c.opA == dva && c.asid == asid

/-- The ranges a KV command on the cache of a descriptor may write: the descriptor, its pages and its free ones, and score arrays (R228,
R229). -/
def kvPlaces (s : State) (w : Who) (va : Nat) : List (Nat × Nat) :=
  match kvRead s { w with checked := false } false .engRead va 64 with
  | .error _ => [(va, 64)]
  | .ok (_, bs) =>
    let d := kvDesc bs
    let pages := peekChain w chainFuel s d.head ++ peekChain w chainFuel s d.free
    (va, 64) :: if !kvOk bs then [] else
      pages.flatMap fun q => (q.1, 64 + 128 * d.entry) :: if q.2.score = 0 then [] else [(q.2.score, 256)]

/-- TTPRUNE past its tree checks: the descriptor is well formed and its turn has come. Pages before BASE are read along the chain and
not checked. -/
def pruneAt (st s1 : State) (k : KvJob) (bs : List Byte) (d : Reg) (dva n : Nat) (t : BitVec 2) : Out :=
  let r := treeOf st st.cur t
  let x := kvDesc bs
  let base := r.base.toNat
  if !kvOk bs then trapHere st 0x01 0
  else if x.next < base + n + 1 || base + 64 < x.next then finish st d 5
  else
    match { k with w := { k.w with checked := false }, hdr := .engRead }.chain chainFuel s1 x.head with
    | .error f => trapFlt st f
    | .ok (s2, ps) =>
      match k.checkPages s2 x.entry base x.next ps with
      | some f => trapFlt st f
      | none =>
        let path := r.pathFrom 64 n
        match k.prune dva base x path.reverse ps s2 with
        | .error f => trapFlt st f
        | .ok s3 => finish (setTree s3 st.cur t (prunedTree r (path.length - 1))) d 0

/-- TTPRUNE (R327, R518). -/
def execTtprune (d a b : Reg) (t : BitVec 2) (st : State) : Out :=
  let n := (readReg st a).toNat
  let va := readReg st b
  let r := treeOf st st.cur t
  let w := whoNow st (curDie st)
  if !ownsTree st t then finish st d 3
  else if 63 < n then finish st d 5
  else if !r.isLive n then finish st d 4
  else if va.toNat % 64 ≠ 0 then trapHere st 0x03 va
  else
    match engCheckRange st w kvWrites va.toNat 64, engCheck st w { acc := .engRead } va.toNat 64 with
    | some f, _ => trapFlt st f
    | none, .error f => trapFlt st f
    | none, .ok (_, tg) =>
      let home := memoryDie (curDie st) (tg.pa st.cur)
      let k : KvJob := { w := whoNow st home, strict := strictSlice st }
      if kvBusy st (engineId home 18) va.toNat w.asid || (kvPlaces st k.w va.toNat).any (fun p => backingHeld st k.w none p.1 p.2) then holdOn st { arrived := true }
      else
        match kvRead st k.w k.strict .engWrite va.toNat 64 with
        | .error f => trapFlt st f
        | .ok (s1, bs) => pruneAt st s1 k bs d va.toNat n t

end Sys2Proof.Machine
end

