-- ==== Sys2Proof/Machine/Complete.lean ====
section
/-!
DEFINITION. Engine commands at work and at their end (R166, R167, R203, R204, R228, R272, R273, R313, R314, R342, R537 to R539, R549):
ENGINE_COMMAND_COMPLETE, COMPLETION_WORD, XPREF_PAGE and SYNC_ARRIVAL. Log entry 12.
-/
namespace Sys2Proof.Machine

/-! ### A command performed -/

/-- Elements of a command, in its own order (R272, R538). -/
def cmdCount (c : Cmd) : Nat :=
  match c.op with
  | .copy => opField c.opC 0 40
  | .fill => opField c.opC 0 40
  | .kvAppend => opField c.opC 0 7
  | .logAppend => opField c.opB 0 17
  | .redSum => opField c.opC 0 32
  | .redMax => opField c.opC 0 32
  | .redMin => opField c.opC 0 32
  | .redGather => opField c.opC 0 32 * (opField c.opC 32 4 + 1)
  | _ => 1

/-- The ranges a command of an engine writes (R228, R229): as its operands give them, or those of the cache it works on. -/
def cmdDest (s : State) (e : EngineId) (c : Cmd) : List (Nat × Nat) :=
  match c.op with
  | .copy => [(opVa c.opA, opField c.opC 0 40)]
  | .fill => [(opVa c.opA, opField c.opC 0 40)]
  | .redSum => [(opVa c.opA, reduceDest c)]
  | .redMax => [(opVa c.opA, reduceDest c)]
  | .redMin => [(opVa c.opA, reduceDest c)]
  | .redGather => [(opVa c.opA, reduceDest c)]
  | .gatherMem => galleryDest s (whoEngine c e) c
  | .scatterWrite => galleryDest s (whoEngine c e) c
  | .scatterAdd => galleryDest s (whoEngine c e) c
  | .rowUpd => galleryDest s (whoEngine c e) c
  | .migrate => galleryDest s (whoEngine c e) c
  | .stream => streamDest s c e
  | .kvAppend => kvPlaces s (whoCmd c (dieOfEngine e)) (opVa c.opA)
  | .kvEvict => kvPlaces s (whoCmd c (dieOfEngine e)) (opVa c.opA)
  | .kvFree => kvPlaces s (whoCmd c (dieOfEngine e)) (opVa c.opA)
  | .kvSend => kvPlaces s (whoCmd c (dieOfEngine e)) (opVa c.opB)
  | _ => []

/-- A command of an engine that performs commands whole. -/
def runCmd (s : State) (c : Cmd) (d : DieId) : Run :=
  match c.op with
  | .copy => runCopy s c d
  | .fill => runFill s c d
  | .kvAppend => runAppend s c d
  | .kvEvict => runEvict s c d
  | .kvFree => runFree s c d
  | .kvSend => runSend s c d
  | .logAppend => runLogAppend s c d
  | .logTrim => runLogTrim s c d
  | .logStatus => runLogStatus s c d
  | .redSum => runReduce s c d
  | .redMax => runReduce s c d
  | .redMin => runReduce s c d
  | .redGather => runReduce s c d
  | _ => { s := s }

/-- The completion address of a command; the other gallery commands have none. -/
def cwordOf (c : Cmd) : Nat :=
  match c.op with
  | .gatherPort => 0 | .gatherMem => 0 | .scatterWrite => 0 | .scatterAdd => 0 | .rowUpd => 0
  | _ => opVa c.opD

/-- A command's fault is recorded: its record is posted, and what it writes is not to be published (R203, R272). -/
def faultCmd (s : State) (e : EngineId) (c : Cmd) (n : Nat) (f : Flt) : State :=
  modSlice (postRecord s e (cmdRecord c n f)) c.slice fun l => { l with faulted := l.faulted ++ cmdDest s e c }

/-- A command leaves its queue: its record is sent if it faulted, and with a completion address its word is to be written. -/
def finishCmd (e : EngineId) (c : Cmd) (r : Run) : State :=
  let s1 := modEngine r.s e fun k => { k with queue := k.queue.filter fun g => g.order != c.order }
  let s2 := match r.flt with
    | none => s1
    | some f => faultCmd s1 e c r.n f
  if cwordOf c = 0 then leaveTable s2 c.slice
  else
    let status : BitVec 8 := if r.flt.isSome then 1 else BitVec.ofNat 8 r.status
    modEngine s2 e fun k => { k with done := k.done ++ [(c, status, r.result)] }

/-! ### Gallery commands (R333, R540) -/

/-- A gather onto a port has faulted: its stream holds the port (R274), and its counts go to the root. -/
def faultGather (s : State) (c : Cmd) (r : DeferRec) : State :=
  match gatherStream s c with
  | none => s
  | some t =>
    let s1 := putStream s { t with faulted := some r }
    match placementAt s1 t.origin t.ctx with
    | some pl => reportStream s1 t pl
    | none => s1

/-- A gallery command that has faulted, or has no index left, ends once its shuttles have gone out. -/
def galleryEnd (s : State) (e : EngineId) (c : Cmd) : Option State :=
  let w := whoEngine c e
  let fin (u : State) : State :=
    finishCmd e c
      { s := addDrops u w c, n := c.progress, flt := c.fault.map fun f => { cause := f.1, addr := f.2 }
        status := if c.op == .migrate && c.misses != 0 then 2 else 0 }
  match c.fault, gatherStream s c with
  | some f, some t =>
    if !t.pend.isEmpty then none else some (fin (faultGather s c (cmdRecord c c.progress { cause := f.1, addr := f.2 })))
  | some _, none => some (fin s)
  | none, some t => if t.last then none else some (lastShuttles s c)
  | none, none => some (fin s)

/-- The step of a gallery command in its engine's queue, if it may move. -/
def galleryStep (s : State) (e : EngineId) (c : Cmd) : Option State :=
  if c.out then none
  else if c.fault.isSome || c.rowCount ≤ c.progress || (c.op == .gatherPort && (gatherStream s c).isNone) then galleryEnd s e c
  else nextIndex s e c

/-- The commands of a gallery engine's queue that are under way, and the first that is not: an engine starts commands in the
order it accepted them (R537). -/
def startable : List Cmd → List Cmd
  | [] => []
  | c :: t => if c.started then c :: startable t else [c]

/-- The next step of a gallery engine: an operation that holds its row's lock, else a command that may move. -/
def galleryTurn (s : State) (e : EngineId) : Option State :=
  (performLocked s e).orElse fun _ => (startable (engineOf s e).queue).findSome? (galleryStep s e)

/-! ### The turn of an engine -/

/-- The head of the queue of an engine that performs commands whole, if it may move. -/
def wholeTurn (s : State) (e : EngineId) : Option State :=
  match (engineOf s e).queue with
  | [] => none
  | c :: _ =>
    let d := dieOfEngine e
    if (cmdDest s e c).any fun p => backingHeld s (whoCmd c d) (some c.order) p.1 p.2 then none else some (finishCmd e c (runCmd s c d))

/-- The next step of an engine, if it may move; one that holds a record, or whose die is parked or lost, waits (R273, R358). -/
def engineTurn (s : State) (e : EngineId) : Option State :=
  if (engineOf s e).held.isSome || dieGone s (dieOfEngine e) then none
  else if e.toNat % 32 = 16 then galleryTurn s e else wholeTurn s e

/-- ENGINE_COMMAND_COMPLETE (R204): the engine's next step; a command's last write frees its conflict records, the PUBLs that
wait for it and the backing it was bound to. -/
def execEngineCommandComplete (eng : EngineId) (st : State) : Out := .next ((engineTurn st eng).getD st)

/-! ### Completion words (R538) -/

/-- The completion word (Table 16.23). -/
def completionWord (c : Cmd) (status : BitVec 8) (result : Nat) : Nat :=
  c.msgSeq.toNat + status.toNat * 2 ^ 16 + result % 2 ^ 40 * 2 ^ 24

/-- A completion word is written as one atomic, checked as an engine write; a failure is a deferred fault, unless the command has faulted
already. -/
def writeCompletion (s : State) (e : EngineId) (c : Cmd) (status : BitVec 8) (result : Nat) : State :=
  let va := cwordOf c
  let fail (f : Flt) : State := if status = 1 then s else faultCmd s e c (cmdCount c) f
  match engAtomic s (whoCmd c (dieOfEngine e)) { acc := .engWrite, fmt := plainFmt } va 8 fun _ => completionWord c status result with
  | .error f => fail f
  | .ok (_, _, true) => fail { cause := 0x13, addr := BitVec.ofNat 64 va }
  | .ok (s1, _, false) => s1

/-- COMPLETION_WORD (R538): the word of the oldest command that has performed. -/
def execCompletionWord (eng : EngineId) (st : State) : Out :=
  let k := engineOf st eng
  match k.done with
  | [] => .next st
  | (c, status, result) :: t =>
    if k.held.isSome || dieGone st (dieOfEngine eng) then .next st
    else
      let s1 := writeCompletion st eng c status result
      .next (leaveTable (modEngine s1 eng fun g => { g with done := t }) c.slice)

/-! ### Sync arrivals (R166, R167) -/

/-- SYNC_ARRIVAL: the oldest arrival is applied to its sync word. -/
def execSyncArrival (st : State) : Out :=
  match st.arrivals with
  | [] => .next st
  | (pa, n) :: t => .next (if fifoTaken st pa then st else wakeSync (syncArrive { st with arrivals := t } pa n) pa)

/-! ### Prefetch (R313, R314, R549) -/

/-- The chase stream a bound prefetch follows. -/
def followed (s : State) (p : Prefetch) : Option Stream :=
  match p.stream with
  | none => none
  | some (n, _) => s.streams.find? fun t => t.cmd.order == n && t.faulted.isNone

/-- A prefetch has ended. -/
def prefetchOver (s : State) (p : Prefetch) : Bool :=
  p.page == 0 || (opField p.cmd.opD 0 32 != 0 && decide (opField p.cmd.opD 0 32 ≤ p.count)) ||
    (p.stream.isSome && (followed s p).isNone)

/-- A bound prefetch is at most four pages ahead of its stream. -/
def prefetchNear (s : State) (p : Prefetch) : Bool :=
  match p.stream with
  | none => true
  | some (_, base) => (followed s p).any fun t => decide (base + p.count ≤ chaseIndex t + 4)

/-- The bytes of a page that are made resident beside its header. -/
def prefetchBytes (s : State) (p : Prefetch) : Nat :=
  match followed s p with
  | some t => t.cmd.esize * t.cmd.count 0
  | none => 128 * opField p.cmd.opB 0 16

/-- The lines of a range become resident in their home die caches, as an engine reads them. -/
def residentRange (s : State) (w : Who) (va n : Nat) : Except Flt State :=
  (piecesOf va n).foldl (fun acc q =>
    match acc with
    | .error f => .error f
    | .ok u =>
      match engCheck u w { acc := .engRead } q.1 q.2 with
      | .error f => .error f
      | .ok (u1, t) => .ok (dieFill u1 (coreDomain u1 w.core) (lineOf (t.pa w.core)))) (.ok s)

/-- The header of page m is copied into slot m mod 8 of the ring of the tagged core, with its arrival. -/
def writeRing (s : State) (w : Who) (c : Cmd) (m : Nat) (bs : List Byte) : Except Flt State :=
  let tag := opField c.opC 32 24
  let k : CoreId := BitVec.ofNat 6 (tag / 2 ^ 18)
  if opField c.opC 56 1 = 0 then .ok s
  else
    engWrite s { w with core := k, checked := w.checked && k == c.core } { acc := .engWrite, hidden := true } (some (tagPa tag))
      (0xF0000000000000 + opField c.opC 6 16 * 64 + m % 8 * 64) bs

/-- The state with a prefetch of an engine replaced, or gone. -/
def putPrefetch (s : State) (p : Prefetch) (q : Option Prefetch) : State :=
  { s with prefetches := s.prefetches.flatMap fun x => if x.cmd.order = p.cmd.order then q.toList else [x] }

/-- A prefetch ends, with its fault if one stopped it. -/
def endPrefetch (s : State) (p : Prefetch) (f : Option Flt) : State :=
  let s1 := putPrefetch s p none
  leaveTable (match f with | some x => postRecord s1 p.eng (cmdRecord p.cmd p.count x) | none => s1) p.cmd.slice

/-- The next page of a prefetch. -/
def prefetchPage (s : State) (p : Prefetch) : State :=
  let c := p.cmd
  let w := whoCmd c (dieOfEngine p.eng)
  match engRead s w { acc := .engRead } p.page 64 with
  | .error f => endPrefetch s p (some f)
  | .ok (s1, bs, bad) =>
    if bad.any id then endPrefetch s1 p (if c.strict then some { cause := 0x13, addr := BitVec.ofNat 64 p.page } else none)
    else
      match residentRange s1 w p.page (64 + prefetchBytes s p) with
      | .error f => endPrefetch s p (some f)
      | .ok s2 =>
        match writeRing s2 w c p.count bs with
        | .error f => endPrefetch s p (some f)
        | .ok s3 => putPrefetch s3 p (some { p with page := (kvPage bs).next, count := p.count + 1 })

/-- XPREF_PAGE (R313, R314): the first prefetch of the engine that may move. -/
def execXprefPage (eng : EngineId) (st : State) : Out :=
  if (engineOf st eng).held.isSome || dieGone st (dieOfEngine eng) then .next st
  else
    match st.prefetches.find? fun p => p.eng == eng && (prefetchOver st p || prefetchNear st p) with
    | none => .next st
    | some p => if prefetchOver st p then .next (endPrefetch st p none) else .next (prefetchPage st p)

end Sys2Proof.Machine
end

