-- ==== Sys2Proof/Machine/Publish.lean ====
section
/-!
DEFINITION. Publication of shadow spans (R187, R195, R203, R229, R230, R481): PUBL.
-/
namespace Sys2Proof.Machine

/-- The leaves a range of addresses touches, each with the address of its entry, or the fault of the first page that does not
translate (R188). The fuel covers one page a step. -/
def leavesOf (s : State) (d : DieId) (root : Nat) : Nat → Nat → Nat → Except Flt (List (Leaf × Nat))
  | 0, _, _ => .ok []
  | f + 1, a, e =>
    let fail (n : BitVec 16) : Except Flt (List (Leaf × Nat)) := .error { cause := 0x04, addr := BitVec.ofNat 64 a, detail := n }
    if e ≤ a then .ok []
    else
      match walk (walkerRead s) a 4 (bitsAt 12 40 root * 4096) with
      | .error n => fail n
      | .ok (l, at_) =>
        if !paThere s d (l.pa a false) then fail 5
        else (leavesOf s d root f (l.va + l.span) e).map fun t => (l, at_) :: t

/-- Bytes one entry of a leaf's table maps, by the span of the leaf (Table 5.8). -/
def entryBytes (span : Nat) : Nat := if span < 0x200000 then 0x1000 else if span < 0x40000000 then 0x200000 else 0x40000000

/-- The entries of a leaf: those of its group, from the first on. -/
def groupEntries (q : Leaf × Nat) : List Nat :=
  let n := q.1.span / entryBytes q.1.span
  (List.range n).map fun i => q.2 / (8 * n) * (8 * n) + 8 * i

/-- VERSION of a leaf is inverted in every entry (R229 step 4). -/
def flipLeaf (s : State) (d : DieId) (q : Leaf × Nat) : State :=
  (groupEntries q).foldl (fun t a => (homeAtomic t d a 8 fun v => v ^^^ 1024).1) s

/-- The backing of a leaf that VERSION does not select: where it lies. -/
def hiddenBase (l : Leaf) : Nat := l.pa l.va true

/-- Every L1 loses its lines of a range; one held for atomics goes home first (R229 step 6). -/
def dropEverywhere (s : State) (pa n : Nat) : State :=
  let held := (s.cores.flatMap fun e => (e.2.l1.filter fun x => x.own).map (·.line)).filter fun l =>
    decide (pa / 64 ≤ l) && decide (l < (pa + n) / 64)
  let s1 := held.foldl (fun t l => recallLine t none l) s
  { s1 with cores := s1.cores.map fun e => (e.1, { e.2 with
      l1 := e.2.l1.filter fun x => !(decide (pa / 64 ≤ x.line) && decide (x.line < (pa + n) / 64)) }) }

/-- One span published: its version flipped, its translations dropped, the lines of what becomes visible dropped. -/
def publishLeaf (s : State) (d : DieId) (asid : BitVec 16) (q : Leaf × Nat) : State :=
  dropEverywhere (dropPage (flipLeaf s d q) asid q.1.va) (hiddenBase q.1) q.1.span

/-- A command of a slice with a destination in a range has neither completed, its word written, nor faulted (R229 step 2). -/
def publWaits (s : State) (i : BitVec 32) (va n : Nat) : Bool :=
  let mine (e : EngineId) (c : Cmd) : Bool := c.slice == i && (cmdDest s e c).any fun p => rangesMeet p.1 p.2 va n
  (s.engines.any fun e => e.2.queue.any (mine (BitVec.ofNat 7 e.1)) || e.2.done.any fun q => mine (BitVec.ofNat 7 e.1) q.1) ||
    s.streams.any fun t => t.faulted.isNone && t.cmd.op == .stream && mine t.eng t.cmd

/-- A command of the running slice with a destination in a range has faulted. -/
def publFaulted (s : State) (va n : Nat) : Bool :=
  ((curSlice s).map (·.faulted)).getD [] |>.any fun p => rangesMeet p.1 p.2 va n

/-- Steps 2 to 7 of R229, for the leaves of the range; the scratchpad window has none. -/
def publFrom (d : Reg) (va n : Nat) (ls : List (Leaf × Nat)) (st : State) : Out :=
  let asid : BitVec 16 := (curCore st).regs.asid.truncate 16
  if publWaits st (curSliceId st) va n then .next st
  else if publFaulted st va n then finish st d 1
  else if ls.isEmpty || !(ls.all fun q => q.1.bit 9) then finish st d 2
  else finish (ls.foldl (fun s q => publishLeaf s (curDie st) asid q) st) d 0

/-- PUBL (R229, R481), its checks in the order of R189. -/
def execPubl (d a b : Reg) (st : State) : Out :=
  let va := (readReg st a).toNat
  let n := (readReg st b).toNat
  if n = 0 then finish st d 0
  else
    match (formFault va n).orElse fun _ => checkManifest (whoSeq st) va n .publ with
    | some f => trapFlt st f
    | none =>
      if va / 2 ^ 48 = 0xF0 then publFrom d va n [] st
      else
        match leavesOf st (curDie st) (curCore st).regs.ptBase.toNat (n / 4096 + 2) va (va + n) with
        | .error f => trapFlt st f
        | .ok ls => publFrom d va n ls st

end Sys2Proof.Machine
end

