-- ==== Sys2Proof/Machine/Events.lean ====
section
/-!
DEFINITION. Steps of the memory system, the fabric's power and the links (R180, R181, R190, R193, R217, R220, R226, R280, R283, R284,
R286 to R288, R350): each by the state it finds.
-/
namespace Sys2Proof.Machine

/-! ### Pseudo-channels (R180, R181) -/

/-- The state with a pseudo-channel in a state. -/
def putPc (s : State) (d : DieId) (p : BitVec 7) (v : PcState) : State :=
  modDie s d fun k => { k with pcs := tblSet k.pcs p.toNat v }

/-- The tick of the last request a pseudo-channel has had (R180). -/
def lastRequest (s : State) (d : DieId) (p : BitVec 7) : Nat := (tblGet (dieOf s d).pcSince p.toNat).getD 0

/-- PC_POWER_DOWN (R180): 256 cycles of 0.8 ns without a request, which end within 21 ticks of 10 ns. Log entry 69. -/
def execPcPowerDown (die : DieId) (pc : BitVec 7) (st : State) : Out :=
  .next (if channelState st die pc.toNat = .active && decide (lastRequest st die pc + 21 ≤ st.ticks) then putPc st die pc .powerDown
    else st)

/-- PC_SELF_REFRESH (R180): 6,400 ticks without a request. -/
def execPcSelfRefresh (die : DieId) (pc : BitVec 7) (st : State) : Out :=
  .next (if channelState st die pc.toNat ≠ .selfRefresh && decide (lastRequest st die pc + 6400 ≤ st.ticks) then
    putPc st die pc .selfRefresh else st)

/-- PC_WAKE (R181): the channel leaves its sleep state for a request, which it then has had. -/
def execPcWake (die : DieId) (pc : BitVec 7) (st : State) : Out :=
  .next (if channelState st die pc.toNat = .active then st else touchChannel (putPc st die pc .active) die pc.toNat)

/-! ### Translation and ownership -/

/-- A die's walker without the walks of the page and address space of one of them. -/
def dropWalk (s : State) (d : DieId) (w : Walk) : State :=
  modDie s d fun m => { m with walks := m.walks.filter fun k => !(k.asid == w.asid && k.va / 4096 == w.va / 4096) }

/-- The maker of a walk on a die. -/
def walkWho (d : DieId) (w : Walk) : Who :=
  { core := w.core, die := d, asid := w.asid.zeroExtend 64, root := w.root, checked := false, regions := [], tlb := w.tlb }

/-- A listed walk is done: A and D are set and the TLBs hold the translation where the access it serves will go ahead (R190, R193);
one whose requests wait is put off. Log entry 70. -/
def doWalk (s : State) (d : DieId) (w : Walk) : State :=
  if walkHeld s (walkWho d w) w.va then { s with stall := true }
  else
    let s1 := dropWalk s d w
    match checkAccess s1 (walkWho d w) w.va 1 (if w.write then .store else .load) false fun _ _ => true with
    | .error _ => s1
    | .ok (s2, _) => s2

/-- PAGE_WALK (R190, R193): the walk of a core's access begins, in its place in the order of arrival; a walk of its page that is
in progress for the core, or for an engine command of it, is done. -/
def execPageWalk (core : CoreId) (va : BitVec 64) (write : Bool) (st : State) : Out :=
  let w := whoSeq { st with cur := core }
  let listed := ([0, 1, 2, 3] : List DieId).findSome? fun d =>
    ((dieOf st d).walks.find? fun k => k.core == core && k.va / 4096 == va.toNat / 4096).map fun k => (d, k)
  match listed with
  | none => if dieGone st w.die || va.toNat / 2 ^ 48 != 0 then .next st else .next (joinWalk st w va.toNat write)
  | some (d, k) =>
    .next (if !dieGone st d && (activeWalks (dieOf st d) k.dom).contains k then doWalk st d k else st)

/-- OWNERSHIP_RECALL (R217). -/
def execOwnershipRecall (pa : BitVec 52) (st : State) : Out := .next (recallLine st none (lineOf pa.toNat))

/-- DIAGONAL_FORWARD (R226): the oldest write-back an intermediate die holds goes on to its home. -/
def execDiagonalForward (die : DieId) (st : State) : Out :=
  match (dieOf st die).forwards with
  | [] => .next st
  | w :: t =>
    .next (storeLine (modDie st die fun k => { k with forwards := t }) w.core w.line w.data w.dirty)

/-- DIRTY_LINE_WRITE_BACK (R151): the line stays, clean, or leaves. -/
def execDirtyLineWriteBack (core : CoreId) (pa : BitVec 52) (evict : Bool) (st : State) : Out :=
  .next (if evict then l1Drop st core (lineOf pa.toNat) else l1Clean st core (lineOf pa.toNat))

/-! ### The host and peers (R220, R350) -/

/-- A die's port is in use: it has trained, and the die is not lost (R349). -/
def portUp (s : State) (d : DieId) : Bool := decide (0 < (dieOf s d).lanes) && !(dieOf s d).lost

/-- An address of the module's HBM, and its die if that is not lost: one held in reset answers the host. Log entry 98. -/
def hdmDie (s : State) (pa : Nat) : Option DieId :=
  match paKind pa with | .hbm d => if (dieOf s d).lost then none else some d | _ => none

/-- The copies of a host line that cores hold are given up, dirty bytes first: the host takes the line to write it (R349). -/
def dropShared (s : State) (l : Nat) : State :=
  s.cores.foldl (fun t e => l1Drop t (BitVec.ofNat 6 e.1) l) s

/-- An access of the host to 8 bytes of its own memory, or a peer's, in the window of the host decoders (R349, R352). -/
def hostOwn (s : State) (a : Nat) (write : Bool) (value : BitVec 64) : State :=
  if write then
    let s1 := dropShared s (lineOf a)
    { s1 with mem := memWrite s1.mem a (leBytes 8 value.toNat) }
  else { s with hostReply := BitVec.ofNat 64 (memNat s.mem a 8) }

/-- HOST_ACCESS (R350): 8 bytes of HDM read or written at the home, which recalls the line first; the host then holds the line. Or
8 bytes of the host's own memory. What a read of a poisoned line gives the host is a free value. -/
def execHostAccess (pa : BitVec 52) (write : Bool) (value : BitVec 64) (st : State) : Out :=
  let a := pa.toNat / 8 * 8
  match hdmDie st a with
  | none => .next (if paKind a = .cxl then hostOwn st a write value else st)
  | some d => if !([0, 1, 2, 3] : List DieId).any (portUp st) then .next st else
    let s1 := atHome { st with hostLines := setInsert st.hostLines (lineOf a) } d (lineOf a)
    if write then .next (homeWrite s1 d a (leBytes 8 value.toNat))
    else if s1.poison.contains (lineOf a) then
      .next { countUe s1 d a with
        hostReply := Config.freeLane s1.draws 0 ++ Config.freeLane s1.draws 1, draws := s1.draws + 1 }
    else
      let (s2, bs) := homeRead s1 d a 8
      .next { s2 with hostReply := BitVec.ofNat 64 (leNat bs) }

/-- BACK_INVALIDATE (R350): the host gives a line up. -/
def execBackInvalidate (pa : BitVec 52) (st : State) : Out := .next { st with hostLines := st.hostLines.erase (lineOf pa.toNat) }

/-- PEER_ATOMIC (R220): another module's atomic performs at the home of its line; one on a poisoned line changes nothing. -/
def execPeerAtomic (pa : BitVec 52) (narrow : Bool) (op : BitVec 3) (value : BitVec 64) (st : State) : Out :=
  let n := if narrow then 4 else 8
  let a := pa.toNat / n * n
  match hdmDie st a with
  | none => .next st
  | some d =>
    let s1 := atHome { st with hostLines := st.hostLines.erase (lineOf a) } d (lineOf a)
    if s1.poison.contains (lineOf a) then .next s1
    else
      let (s2, old) := homeAtomic s1 d a n fun old => amoOp n op.toNat old (value.toNat % 2 ^ (8 * n))
      .next { s2 with peerReply := BitVec.ofNat 64 old }

/-! ### Soft errors (R280) -/

/-- The die whose error log an error at an address belongs to: the one that holds the memory, or whose port leads to the host's or
a peer's. Log entry 97. -/
def errorDie (s : State) (pa : Nat) : Option DieId :=
  match paKind pa with
  | .hbm d => some d
  | .annex d => some d
  | .scratch c => some (dieOfCore c)
  | .cxl => cxlPort s Config.leader pa
  | _ => none

/-- A data token whose lanes are lost: a HOLE with its SEQ and EOS (R278). -/
def lostToken (k : Token) : Token := { k with kind := 6, valid := 0, lanes := [] }

/-- The kinds of token that have lanes: all but drain markers and HOLEs. -/
def hasLanes (kind : BitVec 3) : Bool := kind != 2 && kind != 6

/-- An invocation whose lanes are lost. -/
def lostInv (v : Inv) : Inv := { v with kind := 6, valid := 0, p := [] }

/-- A window entry whose lanes are lost: what it has still to access it does not. -/
def lostEntry (e : MeEntry) (serial : Nat) : MeEntry :=
  { e with bundle := e.bundle.map lostToken, accs := [], words := [], valid := 0, done := some (e.done.getD serial) }

/-- A site that has lost what a buffer of a node holds, and how many valid lanes that had. The buffers are those of arc i (6 is side 2 of a
FORK), entry i of an ORDR, the shuttles of a PACK, entry i of a memory element's window, token i that a TOPK has still to emit and
token i of a converter's statistics. -/
def loseHeld (k : Site) (t i serial : Nat) : Site × Nat :=
  let n := k.node
  let lanes (v : BitVec 16) : Nat := (validLanes v).length
  match t with
  | 0 =>
    if i = 6 then
      match n.side2.filter fun v => hasLanes v.kind with
      | some v => ({ k with node := { n with side2 := some (lostInv v) } }, lanes v.valid)
      | none => (k, 0)
    else
      match ((k.arcs[i]?).getD none).filter fun v => hasLanes v.kind with
      | some v => ({ k with arcs := k.arcs.setIfInBounds i (some (lostInv v)) }, lanes v.valid)
      | none => (k, 0)
  | 1 =>
    match n.pend[i]? with
    | some e => ({ k with node := { n with pend := n.pend.set i { e with words := [], valid := 0, hole := true } } }, lanes e.valid)
    | none => (k, 0)
  | 2 => ({ k with node := { n with part := [] } }, n.part.length)
  | 3 =>
    match k.win[i]? with
    | some e => if (e.bundle.head?).any fun h => hasLanes h.kind then ({ k with win := k.win.set i (lostEntry e serial) }, lanes e.valid) else (k, 0)
    | none => (k, 0)
  | 4 =>
    match n.emit[i]? with
    | some v => ({ k with node := { n with emit := n.emit.set i (lostInv v) } }, lanes v.valid)
    | none => (k, 0)
  | 5 =>
    match k.tiles[i]? with
    | some q => ({ k with tiles := k.tiles.set i (lostToken q) }, lanes q.valid)
    | none => (k, 0)
  | _ => (k, 0)

/-- An uncorrectable error in the lanes of the token in a slot or buffer: the token is dropped whole and its valid lanes count at
the site (R278, Table 8.7). Port code 14 of a channel key names the buffers within a site's node. Log entry 97. -/
def loseToken (s : State) (key i : Nat) : State :=
  let x : SiteId := BitVec.ofNat 14 (key / 128)
  if key / 8 % 16 = 14 then
    let q := loseHeld (siteOf s x) (key % 8) i s.serial
    countAt { (modSite s x fun _ => q.1) with serial := s.serial + 1 } x 1 5 q.2
  else
    match (chanOf s key).slots[i]? with
    | none => s
    | some k =>
      if hasLanes k.kind then
        countAt (modChan s key fun c => { c with slots := c.slots.set i (lostToken k) }) x 1 5 (validLanes k.valid).length
      else s

/-- An uncorrectable error poisons its line (R280). -/
def poisonLine (s : State) (d : DieId) (pa : Nat) : State :=
  modDie { s with poison := setInsert s.poison (lineOf pa) } d fun k => { k with err := { k.err with
    lastUe := BitVec.ofNat 64 (pa / 64 * 64) } }

/-- A corrected error counts in CE (R280). -/
def countCe (s : State) (d : DieId) : State :=
  modDie s d fun k => { k with err := { k.err with ce := if k.err.ce = 0xFFFFFFFF then 0xFFFFFFFF else k.err.ce + 1 } }

/-- ECC_ERROR (R278, R280): a soft error at an address, or in the lanes of a token. -/
def execEccError (place : ErrorPlace) (uncorrectable : Bool) (st : State) : Out :=
  match place with
  | .token key i =>
    let x : SiteId := BitVec.ofNat 14 (key.toNat / 128)
    .next (if !siteOk x then st else if uncorrectable then loseToken st key.toNat i.toNat else countCe st (siteDie x))
  | .line pa =>
    match errorDie st pa.toNat with
    | none => .next st
    | some d => .next (if uncorrectable then poisonLine st d pa.toNat else countCe st d)

/-- ERROR_COUNTER_CLEAR (Table 8.8). -/
def execErrorCounterClear (die : DieId) (ctr : BitVec 2) (st : State) : Out :=
  .next (modDie st die fun k => { k with err := errClear k.err ctr.toNat })

/-! ### Drowsy and gated sites (R283, R284) -/

/-- DROWSY (R283). -/
def execDrowsy (site : SiteId) (st : State) : Out :=
  if siteOk site && decide ((siteOf st site).lastFire + 2048 ≤ (dieOf st (siteDie site)).cyc) then
    .next (modSite st site fun k => { k with drowsy := true })
  else .next st

/-- DROWSY_WAKE (R283). -/
def execDrowsyWake (site : SiteId) (st : State) : Out := .next (modSite st site fun k => { k with drowsy := false })

/-- A site without its contents: its domain stays. -/
def gatedSite (k : Site) : Site := { gated := true, domain := k.domain }

/-- A site that holds no context and no token, and of a tile no rows (R284). -/
def siteEmpty (s : State) (x : SiteId) : Bool := siteOk x && !siteBusy s x && (siteOf s x).tile.rows.isEmpty

/-- A site may be gated (R284): it is empty, and no memory element, which is gated with its die. -/
def mayGate (s : State) (x : SiteId) : Bool := siteKind x != 1 && siteEmpty s x

/-- SITE_GATING (R284). -/
def execSiteGating (site : SiteId) (st : State) : Out :=
  .next (if mayGate st site then modSite st site gatedSite else st)

/-! ### Links (R286, R287) -/

/-- The state with a link replaced. -/
def putEdge (s : State) (d e : DieId) (l : Link) : State := modDie s d fun k => { k with links := tblSet k.links e.toNat l }

/-- LINK_RESEND (R286). -/
def execLinkResend (die dst : DieId) (st : State) : Out :=
  let l := edgeOf st die dst
  match l.request with
  | none => .next st
  | some t =>
    if st.ticks < t + 2000 then .next st
    else .next (putEdge st die dst { l with request := some st.ticks, resends := l.resends + 1 })

/-- A core takes LINK about a die. -/
def raiseLink (d : DieId) (s : State) (k : CoreId) : State :=
  setCore s k { coreOf s k with pendLink := (coreOf s k).pendLink ++ [(d, 3)] }

/-- Two dies share an edge, and both are there (R10, R288). -/
def edgeThere (s : State) (d e : DieId) : Bool := d != e && !diagonal d e && !(dieOf s d).lost && !(dieOf s e).lost

/-- LINK_WAKE_RETRY (R287): a wake begins, or an attempt of 800 ticks is retried; the third that fails raises LINK. -/
def execLinkWakeRetry (die dst : DieId) (st : State) : Out :=
  let l := edgeOf st die dst
  if !edgeThere st die dst then .next st
  else if !l.waking then .next (putEdge st die dst { l with waking := true, attempts := 1, since := st.ticks })
  else if st.ticks < l.since + 800 || 3 < l.attempts then .next st
  else
    let s1 := putEdge st die dst { l with attempts := l.attempts + 1, since := st.ticks }
    .next (if l.attempts = 3 then l.cores.foldl (raiseLink dst) s1 else s1)

/-- LINK_WAKE_COMPLETE (R287): the requests held for the link are sent. -/
def execLinkWakeComplete (die dst : DieId) (st : State) : Out :=
  let l := edgeOf st die dst
  .next (putEdge st die dst { l with waking := false, attempts := 0, cores := [], request := none, dsts := [] })

/-! ### Loss of a die (R288) -/

/-- The lines a core held in ownership are poisoned at their homes, and the core stops. -/
def loseCore (s : State) (d : DieId) (k : CoreId) : State :=
  let ls := ((coreOf s k).l1.filter fun x => x.own && memoryDie d (64 * x.line) != d).map (·.line)
  setCore { s with poison := ls.foldl setInsert s.poison } k { coreOf s k with l1 := [], running := false, wait := none, sx := none }

/-- A region that spans the die freezes with LOST_SITE: its active pattern at once, any other is chosen no more, and freezes if it is
switched to. -/
def loseRegion (d : DieId) (s : State) (pl : Placement) : State :=
  if !(pl.sites.any fun x => siteDie x == d) then s
  else if pl.active then freezeLost s pl
  else modPlacement s pl.origin pl.ctx fun p => { p with frozen := true }

/-- The cores of a die. -/
def coresOf (d : DieId) : List CoreId := (List.range 16).map fun i => BitVec.ofNat 6 (d.toNat * 16 + i)

/-- A die has earned its loss (R288): no heartbeat for 6,400 ticks, or training that failed three times in a row. -/
def dieSilent (s : State) (d : DieId) : Bool := decide ((dieOf s d).beat + 6400 ≤ s.ticks) || decide (3 ≤ (dieOf s d).trainFails)

/-- The links after a die is lost: what was held for it has completed, poisoned, and what it forwarded is gone with it. -/
def loseLinks (s : State) (d : DieId) : State :=
  { s with dies := s.dies.map fun e =>
      if e.1 = d.toNat then (e.1, { e.2 with lost := true, links := [], forwards := [], walks := [] })
      else (e.1, { e.2 with links := tblErase e.2.links d.toNat }) }

/-- DIE_LOST (R288). -/
def execDieLost (die : DieId) (st : State) : Out :=
  if (dieOf st die).lost || !dieSilent st die then .next st
  else
    let s1 := loseLinks (modDie st die fun k => { k with lost := true }) die
    let s2 := (coresOf die).foldl (fun t k => loseCore t die k) s1
    let s3 := s2.placements.foldl (loseRegion die) s2
    let left := ([0, 1, 2, 3] : List DieId).filter fun d => !(dieOf s3 d).lost
    .next ((left.flatMap coresOf).foldl (fun t k => setCore t k { coreOf t k with pendLost := (coreOf t k).pendLost ++ [die] }) s3)

end Sys2Proof.Machine
end

