-- ==== Sys2Proof/Machine/Fabric.lean ====
section
/-!
DEFINITION. The firing of a site's words (R32, R33, R293) as steps of their own: FIRST_STAGE_FIRING, STAGE_FIRING and
DRAIN_MARKER_PASS (R258).
-/
namespace Sys2Proof.Machine

/-- The effect of an E-word at the focus. -/
def fireWord (i : Instr) (st : State) : Out :=
  match i with
  | .vnop d a => execVnop d a st
  | .viadd d a b s n => execViadd d a b s n st
  | .visub d a b s n => execVisub d a b s n st
  | .vimul d a b s n => execVimul d a b s n st
  | .vimulh d a b n => execVimulh d a b n st
  | .vimad d a b c s n => execVimad d a b c s n st
  | .vand d a b => execVand d a b st
  | .vor d a b => execVor d a b st
  | .vxor d a b => execVxor d a b st
  | .vshl d a b => execVshl d a b st
  | .vshr d a b => execVshr d a b st
  | .vsha d a b => execVsha d a b st
  | .vimin d a b n => execVimin d a b n st
  | .vimax d a b n => execVimax d a b n st
  | .vicmp d a b c => execVicmp d a b c st
  | .vsel d a b c => execVsel d a b c st
  | .vaddc d a b o i => execVaddc d a b o i st
  | .vsubc d a b o i => execVsubc d a b o i st
  | .vmulc d a b c o i => execVmulc d a b c o i st
  | .vhash d a b => execVhash d a b st
  | .vclz d a => execVclz d a st
  | .vpopc d a => execVpopc d a st
  | .vbfx d a b c n => execVbfx d a b c n st
  | .vfadd d a b f r => execVfadd d a b f r st
  | .vfsub d a b f r => execVfsub d a b f r st
  | .vfmul d a b f r => execVfmul d a b f r st
  | .vfma d a b c f r => execVfma d a b c f r st
  | .vfmin d a b => execVfmin d a b st
  | .vfmax d a b => execVfmax d a b st
  | .vfcmp d a b p => execVfcmp d a b p st
  | .vfsign d a b o => execVfsign d a b o st
  | .vfcvt d a b c k f r => execVfcvt d a b c k f r st
  | .vfrcpe d a f r => execVfrcpe d a f r st
  | .vfrsqe d a f r => execVfrsqe d a f r st
  | .vfexp2 d a f r => execVfexp2 d a f r st
  | .vpqz d a c s => execVpqz d a c s st
  | .vpmul d a b s => execVpmul d a b s st
  | .vred d a b m f r => execVred d a b m f r st
  | .fork d a => execFork d a st
  | .filt d a b c => execFilt d a b c st
  | .steer d a b k c => execSteer d a b k c st
  | .merge a b w l => execMerge a b w l st
  | .pack => execPack st
  | .perm d a b k p m => execPerm d a b k p m st
  | .splat d a l => execSplat d a l st
  | .tagseq d a => execTagseq d a st
  | .ordr => execOrdr st
  | .gen d s h k => execGen d s h k st
  | .cntl d a e r => execCntl d a e r st
  | .stat r => execStat r st
  | .topk d a b s => execTopk d a b s st
  | .spld d a t => execSpld d a t st
  | .spst d a b t => execSpst d a b t st
  | .spamo d a b t p => execSpamo d a b t p st
  | .spfifo => execSpfifo st
  | .ltake d a n => execLtake d a n st
  | .lgive d a n => execLgive d a n st
  | .spsync s => execSpsync s st
  | .mload => execMload st
  | .mswap p => execMswap p st
  | .mrow p => execMrow p st
  | .mdrain c f => execMdrain c f st
  | .mclr => execMclr st
  | .vanc d a b t => execVanc d a b t st
  | .ecount d a => execEcount d a st
  | .barn l w s e n => execBarn l w s e n st
  | _ => .next st

/-- Stage k of a site's active context fires, if it can; for a tile, role k. -/
def fireAt (st : State) (x : SiteId) (k : Nat) (role : Bool) : Out :=
  match activeCtx st x with
  | none => .next st
  | some cx =>
    match roleOp cx (if role then k else k - 1) with
    | none => .next st
    | some i => fireWord i { st with focus := x, focusStage := BitVec.ofNat 5 k }

/-- The first of a tile's roles that can act, in the order SWAP, ROW, DRAIN, LOAD (R293). -/
def fireRoles (st : State) (x : SiteId) : List Nat → Out
  | [] => .next st
  | r :: rs =>
    match fireAt st x r true with
    | .next s1 => if s1.sites = st.sites then fireRoles st x rs else .next s1
    | o => o

/-- FIRST_STAGE_FIRING (R32): the first stage of a processing or memory element, or one role of a tile. -/
def execFirstStageFiring (site : SiteId) (st : State) : Out :=
  if !siteOk site then .next st
  else if siteKind site = 2 then fireRoles st site [2, 0, 3, 1]
  else fireAt st site 1 false

/-- STAGE_FIRING (R33): a stage from 2 to 6 of a processing element. -/
def execStageFiring (site : SiteId) (stage : BitVec 3) (st : State) : Out :=
  if !siteOk site || siteKind site != 0 || stage.toNat < 2 || 6 < stage.toNat then .next st
  else fireAt st site stage.toNat false

/-- A tile passes a drain marker that has arrived on every role input it reads: no drain is in progress or due, and OUT0 and
OUT1 take the marker. -/
def tileMarker (st : State) (x : SiteId) (cx : Ctx) : State :=
  let ins := inputsOf cx
  let t := (siteOf st x).tile
  let outs := outTracks cx
  if ins.isEmpty || !(ins.all fun i => markerAt st x i.1 i.2) || t.drain.isSome || t.drainDue ||
      !outs.all (nodeOutFree st x) then st
  else
    noteMove (emitAll (ins.foldl (fun u i => consumeTok u x i.1 i.2) st) x (outs.map fun o => (o.1, o.2, markerTok))) x

/-- DRAIN_MARKER_PASS (R65, R258): a site at whose input a marker stands passes it, or is found stranded. -/
def execDrainMarkerPass (site : SiteId) (st : State) : Out :=
  match activeCtx st site with
  | none => .next st
  | some cx =>
    if !siteOk site || !mayFire st site || !((inputsOf cx).any fun i => markerAt st site i.1 i.2) then .next st
    else if siteKind site = 2 then .next (tileMarker st site cx)
    else fireAt st site 1 false

end Sys2Proof.Machine
end

