-- ==== Sys2Proof/Machine/FloatOps.lean ====
section
/-!
DEFINITION. The floating-point S-words (R436 to R438, R441). Results are zero-extended (R369).
-/
namespace Sys2Proof.Machine

/-- The FP32 number in the low word of a register. -/
def regNum (st : State) (a : Reg) : Num := num32 (lo32 (readReg st a))

/-- A float result with its events. -/
def finishFloat (st : State) (d : Reg) (r : W32 × FpFlags) : Out := finish (setFlags st r.2) d (zext32 r.1)

/-- FADD (R436). -/
def execFadd (d a b : Reg) (r : BitVec 3) (st : State) : Out :=
  finishFloat st d (fpAdd (seqMode st r) (regNum st a) (regNum st b))

/-- FSUB (R436). -/
def execFsub (d a b : Reg) (r : BitVec 3) (st : State) : Out :=
  finishFloat st d (fpAdd (seqMode st r) (regNum st a) (negNum (regNum st b)))

/-- FMUL (R436). -/
def execFmul (d a b : Reg) (r : BitVec 3) (st : State) : Out :=
  finishFloat st d (fpMul (seqMode st r) (regNum st a) (regNum st b))

/-- FMA (R436). -/
def execFma (d a b : Reg) (r : BitVec 3) (st : State) : Out :=
  finishFloat st d (fpFma (seqMode st r) (regNum st a) (regNum st b) (regNum st d))

/-- FMIN and FMAX with their events (R441). -/
def fpPick (big : Bool) (a b : W32) : W32 × FpFlags :=
  (pickMax big a b, { nv := signals (num32 a) || signals (num32 b) })

/-- FMIN (R441). -/
def execFmin (d a b : Reg) (st : State) : Out :=
  finishFloat st d (fpPick false (lo32 (readReg st a)) (lo32 (readReg st b)))

/-- FMAX (R441). -/
def execFmax (d a b : Reg) (st : State) : Out :=
  finishFloat st d (fpPick true (lo32 (readReg st a)) (lo32 (readReg st b)))

/-- FCMP (R437). -/
def execFcmp (d a b : Reg) (p : BitVec 3) (st : State) : Out :=
  finish (setFlags st (cmpFlags p.toNat (regNum st a) (regNum st b))) d
    (boolWord (fpHolds p.toNat (regNum st a) (regNum st b)))

/-- FCVT (R438). -/
def execFcvt (d a : Reg) (k : BitVec 7) (r : BitVec 3) (st : State) : Out :=
  let (v, f) := fcvtResult k.toNat (seqMode st r) (readReg st a)
  finish (setFlags st f) d v

end Sys2Proof.Machine
end

