-- ==== Sys2Proof/Machine/Integer.lean ====
section
/-!
DEFINITION. The integer S-words: register and immediate operations (R394 and the entries named below).
-/
namespace Sys2Proof.Machine

/-- NOP (R467). -/
def execNop (st : State) : Out := finishQuiet st

/-- ADD (R395). -/
def execAdd (d a b : Reg) (n s w : Bool) (st : State) : Out :=
  finish st d (opClamp s n w (opInt n w (readReg st a) + opInt n w (readReg st b)))

/-- SUB (R510). -/
def execSub (d a b : Reg) (n s w : Bool) (st : State) : Out :=
  finish st d (opClamp s n w (opInt n w (readReg st a) - opInt n w (readReg st b)))

/-- MUL (R466). -/
def execMul (d a b : Reg) (n s w : Bool) (st : State) : Out :=
  finish st d (opClamp s n w (opInt n w (readReg st a) * opInt n w (readReg st b)))

/-- MULH (R466). -/
def execMulh (d a b : Reg) (n w : Bool) (st : State) : Out :=
  finish st d (opResult w (Int.fdiv (opInt n w (readReg st a) * opInt n w (readReg st b)) (2 ^ opWidth w)))

/-- DIV (R425). -/
def execDiv (d a b : Reg) (n w : Bool) (st : State) : Out :=
  let v := opInt n w (readReg st b)
  finish st d (opResult w (if v = 0 then -1 else Int.tdiv (opInt n w (readReg st a)) v))

/-- REM (R488). -/
def execRem (d a b : Reg) (n w : Bool) (st : State) : Out :=
  let u := opInt n w (readReg st a)
  let v := opInt n w (readReg st b)
  finish st d (opResult w (if v = 0 then u else u - v * Int.tdiv u v))

/-- AND (R399). -/
def execAnd (d a b : Reg) (w : Bool) (st : State) : Out := finish st d (narrow w (readReg st a &&& readReg st b))

/-- OR (R471). -/
def execOr (d a b : Reg) (w : Bool) (st : State) : Out := finish st d (narrow w (readReg st a ||| readReg st b))

/-- XOR (R548). -/
def execXor (d a b : Reg) (w : Bool) (st : State) : Out := finish st d (narrow w (readReg st a ^^^ readReg st b))

/-- The shift amount X[b][5:0] mod the width (R494). -/
def shiftAmount (w : Bool) (v : Word) : Nat := v.toNat % opWidth w

/-- SHL (R494). -/
def execShl (d a b : Reg) (w : Bool) (st : State) : Out :=
  finish st d (narrow w (readReg st a <<< shiftAmount w (readReg st b)))

/-- SHR (R494). -/
def execShr (d a b : Reg) (w : Bool) (st : State) : Out :=
  let k := shiftAmount w (readReg st b)
  finish st d (if w then sext32 (lo32 (readReg st a) >>> k) else readReg st a >>> k)

/-- SHA (R494). -/
def execSha (d a b : Reg) (w : Bool) (st : State) : Out :=
  let k := shiftAmount w (readReg st b)
  finish st d (if w then sext32 ((lo32 (readReg st a)).sshiftRight k) else (readReg st a).sshiftRight k)

/-- MIN (R459). -/
def execMin (d a b : Reg) (n w : Bool) (st : State) : Out :=
  finish st d (opResult w (Min.min (opInt n w (readReg st a)) (opInt n w (readReg st b))))

/-- MAX (R459). -/
def execMax (d a b : Reg) (n w : Bool) (st : State) : Out :=
  finish st d (opResult w (Max.max (opInt n w (readReg st a)) (opInt n w (readReg st b))))

/-- SLT (R493). -/
def execSlt (d a b : Reg) (n w : Bool) (st : State) : Out :=
  finish st d (boolWord (decide (opInt n w (readReg st a) < opInt n w (readReg st b))))

/-- SEQ (R493). -/
def execSeq (d a b : Reg) (w : Bool) (st : State) : Out :=
  finish st d (boolWord (narrow w (readReg st a) == narrow w (readReg st b)))

/-- SEL (R491). -/
def execSel (d a b : Reg) (st : State) : Out :=
  finish st d (if readReg st d ≠ 0 then readReg st a else readReg st b)

/-- CLZ (R420). -/
def execClz (d a : Reg) (w : Bool) (st : State) : Out :=
  finish st d (BitVec.ofNat 64 (leadingZeros (opWidth w) ((readReg st a).toNat % 2 ^ opWidth w)))

/-- POPC (R478). -/
def execPopc (d a : Reg) (w : Bool) (st : State) : Out :=
  finish st d (BitVec.ofNat 64 (popCount (opWidth w) (readReg st a).toNat))

/-- EXT (R435). -/
def execExt (d a : Reg) (n : Bool) (z : BitVec 2) (st : State) : Out :=
  finish st d (loadValue n (sizeBytes z) (leBytes (sizeBytes z) (readReg st a).toNat))

/-- BFX (R409). -/
def execBfx (d a b : Reg) (n : Bool) (st : State) : Out :=
  finish st d (bitFieldExtract n (readReg st a) (readReg st b))

/-- BFI (R408). -/
def execBfi (d a b : Reg) (st : State) : Out :=
  finish st d (bitFieldInsert (readReg st d) (readReg st a) (readReg st b))

/-- LEA (R454). -/
def execLea (d a b : Reg) (h : BitVec 3) (st : State) : Out :=
  finish st d (readReg st a + readReg st b <<< h.toNat)

/-- HASH (R447). -/
def execHash (d a b : Reg) (st : State) : Out := finish st d (hash64 (readReg st a) (readReg st b))

/-- WIDX (R104, R535). -/
def execWidx (d a : Reg) (k : BitVec 3) (st : State) : Out :=
  finish st d (widField (((curSlice st).map (·.widShape)).getD 0) (readReg st a) k.toNat)

/-- ADDI (R396). -/
def execAddi (d a : Reg) (i : BitVec 10) (st : State) : Out := finish st d (readReg st a + i.signExtend 64)

/-- ANDI (R400). -/
def execAndi (d a : Reg) (i : BitVec 10) (st : State) : Out := finish st d (readReg st a &&& i.signExtend 64)

/-- ORI (R471). -/
def execOri (d a : Reg) (i : BitVec 10) (st : State) : Out := finish st d (readReg st a ||| i.signExtend 64)

/-- XORI (R548). -/
def execXori (d a : Reg) (i : BitVec 10) (st : State) : Out := finish st d (readReg st a ^^^ i.signExtend 64)

/-- SHLI (R495). -/
def execShli (d a : Reg) (s : BitVec 6) (st : State) : Out := finish st d (readReg st a <<< s.toNat)

/-- SHRI (R495). -/
def execShri (d a : Reg) (s : BitVec 6) (st : State) : Out := finish st d (readReg st a >>> s.toNat)

/-- SHAI (R495). -/
def execShai (d a : Reg) (s : BitVec 6) (st : State) : Out := finish st d ((readReg st a).sshiftRight s.toNat)

/-- SLTI (R496). -/
def execSlti (d a : Reg) (i : BitVec 10) (st : State) : Out :=
  finish st d (boolWord ((readReg st a).slt (i.signExtend 64)))

/-- LIL (R457). -/
def execLil (d : Reg) (i : BitVec 17) (st : State) : Out := finish st d (i.signExtend 64)

/-- LIS (R457). -/
def execLis (d : Reg) (i : BitVec 17) (st : State) : Out := finish st d (readReg st d <<< 17 ||| i.zeroExtend 64)

end Sys2Proof.Machine
end

