-- ==== Sys2Proof/Machine/Memory.lean ====
section
/-!
DEFINITION. Loads, stores and prefetch (R452, R453, R504, R505, R480), with word accesses to element pages (R126).
-/
namespace Sys2Proof.Machine

/-- The 32 bits a word load gives for an element of a page format, and its events: a float widened, an integer
sign-extended, the value of a P6 code (R126, R119). Log entry 15. -/
def elementLoad (fmt e : Nat) : W32 × FpFlags :=
  let wide (n : Num) : W32 × FpFlags := (rne32 n, { nv := signals n })
  match fmt with
  | 2 => wide (decodeIeee bf16 e)
  | 3 => wide (decodeIeee fp16 e)
  | 4 => wide (decodeF8 e)
  | 6 => ((BitVec.ofNat 8 e).signExtend 32, {})
  | 7 => ((BitVec.ofNat 16 e).signExtend 32, {})
  | _ => (rne32 (p6Num e), {})

/-- The element a word store writes, and its events: FP32 narrowed, or INT32 clamped (R126, R125). -/
def elementStore (fmt : Nat) (v : W32) : Nat × FpFlags :=
  let fits (w : Nat) : Nat × FpFlags :=
    let c := clampInt v.toInt w false
    ((BitVec.ofInt w c).toNat, { sat := decide (c ≠ v.toInt) })
  match fmt with
  | 2 => cvtFloat bf16 .rne (num32 v)
  | 3 => cvtFloat fp16 .rne (num32 v)
  | 4 => cvtFloat f8 .rne (num32 v)
  | 6 => fits 8
  | _ => fits 16

/-- A load of n bytes at va (R452): a word load of an element page reads one element. -/
def loadAt (d : Reg) (va : Word) (n : Nat) (zero : Bool) (st : State) : Out :=
  match (if n = 4 then elementFmt st va else none) with
  | some f =>
    let e := (fmtBytes f).getD 1
    if va.toNat % e ≠ 0 then trapHere st 0x03 va
    else seqLoad st va e true fun s bs =>
      let (v, fl) := elementLoad f (leNat bs)
      finish (setFlags s fl) d (if zero then zext32 v else sext32 v)
  | none =>
    if va.toNat % n ≠ 0 then trapHere st 0x03 va
    else seqLoad st va n false fun s bs => finish s d (loadValue zero n bs)

/-- A store of n bytes of v at va (R504): a word store to an element page writes one element. -/
def storeAt (va : Word) (n : Nat) (v : Word) (st : State) : Out :=
  match (if n = 4 then elementFmt st va else none) with
  | some f =>
    let e := (fmtBytes f).getD 1
    let (c, fl) := elementStore f (lo32 v)
    if va.toNat % e ≠ 0 then trapHere st 0x03 va
    else seqStore st va (leBytes e c) true fun s => finishQuiet (setFlags s fl)
  | none =>
    if va.toNat % n ≠ 0 then trapHere st 0x03 va
    else seqStore st va (leBytes n v.toNat) false finishQuiet

/-- LD (R452). -/
def execLd (d a : Reg) (o : BitVec 8) (z : BitVec 2) (st : State) : Out :=
  loadAt d (addrOff st a o z) (sizeBytes z) false st

/-- LDN (R452). -/
def execLdn (d a : Reg) (o : BitVec 8) (z : BitVec 2) (st : State) : Out :=
  loadAt d (addrOff st a o z) (sizeBytes z) true st

/-- LDX (R452). -/
def execLdx (d a b : Reg) (n : Bool) (z : BitVec 2) (st : State) : Out :=
  loadAt d (addrIdx st a b z) (sizeBytes z) n st

/-- ST (R504). -/
def execSt (t a : Reg) (o : BitVec 8) (z : BitVec 2) (st : State) : Out :=
  storeAt (addrOff st a o z) (sizeBytes z) (readReg st t) st

/-- STX (R504). -/
def execStx (t a b : Reg) (z : BitVec 2) (st : State) : Out :=
  storeAt (addrIdx st a b z) (sizeBytes z) (readReg st t) st

/-- The line that a prefetch of va asks for, unless one of the cases of R480 holds. -/
def prefetchTarget (st : State) (va : Word) : Option (State × Target) :=
  if va.toNat / 2 ^ 48 ≠ 0 then none
  else
    match checkAccess st (whoSeq st) va.toNat 1 .load false fun l pa =>
        !l.bit 8 && (match paKind pa with | .scratch _ => false | .annex _ => false | .device => false | _ => true) with
    | .ok (s1, t) => if targetPoisoned s1 t .load then none else some (s1, t)
    | .error _ => none

/-- PREF (R480): the line joins the L1; a request that must wait holds the core as a load's does. -/
def execPref (a : Reg) (o : BitVec 8) (z : BitVec 2) (st : State) : Out :=
  match prefetchTarget st (addrOff st a o z) with
  | none => finishQuiet st
  | some (s1, t) =>
    if targetHeld st t .load then .next (holdRequest st t .load)
    else finishQuiet (l1Fill s1 st.cur (lineOf (t.pa st.cur)))

end Sys2Proof.Machine
end

