-- ==== Sys2Proof/Machine/Power.lean ====
section
/-!
DEFINITION. Power, parking, reset, boot, attestation and the host's registers (R5, R6, R284, R289, R349, R353 to R363, Tables 8.10,
11.2 to 11.5).
-/
namespace Sys2Proof.Machine

/-! ### The ceiling controller (R354, R355) -/

/-- STRETCH_INTERVAL (R354): measured power and the stretch of this interval. -/
def execStretchInterval (power : BitVec 10) (stretch : BitVec 4) (st : State) : Out :=
  let high := stretch == 15 && decide (st.power.ceil.toNat < power.toNat)
  .next { st with power := { st.power with
    power := power, stretch := stretch, overSince := if high then some (st.power.overSince.getD st.ticks) else none } }

/-- UNMET (R355): 5 µs at maximum stretch, and power still above the ceiling. -/
def execUnmet (st : State) : Out :=
  match st.power.overSince with
  | none => .next st
  | some t =>
    .next (if decide (t + 500 ≤ st.ticks) && decide (st.power.ceil.toNat < st.power.power.toNat) then
      { st with power := { st.power with unmet := true } } else st)

/-- UNMET_CLEAR (R355). -/
def execUnmetClear (st : State) : Out := .next { st with power := { st.power with unmet := false } }

/-- PWR_CEIL_WRITE (R354). -/
def execPwrCeilWrite (value : BitVec 64) (st : State) : Out := .next (ceilPut st value)

/-! ### Performance states and parking (R356 to R358) -/

/-- PS_TARGET_WRITE (R357). -/
def execPsTargetWrite (die : DieId) (target : BitVec 3) (st : State) : Out := .next (targetPut st die target)

/-- The sites of a die, those gated that hold no context, no token and no rows; memory elements too (R284). -/
def gatedDie (s : State) (d : DieId) : Tbl Site :=
  let lo := d.toNat * 4096
  (s.sites.filter fun e => decide (e.1 < lo)) ++
    ((List.range 4096).filterMap fun i =>
      let x : SiteId := BitVec.ofNat 14 (lo + i)
      if siteEmpty s x then some (lo + i, gatedSite (siteOf s x)) else (tblGet s.sites (lo + i)).map fun k => (lo + i, k)) ++
    s.sites.filter fun e => decide (lo + 4096 ≤ e.1)

/-- A parked die loses its scratchpads, TLBs and what its panels held (R284, R356). -/
def parkDie (s : State) (d : DieId) : State :=
  let lo := scratchPa (BitVec.ofNat 6 (d.toNat * 16)) 0
  let hi := lo + 16 * 0x400000
  { modDie s d (fun k => { k with parked := true, tlb2 := [], walks := [] }) with
    mem := s.mem.filter fun c => decide (c.1 < lo) || decide (hi ≤ c.1)
    poison := s.poison.filter fun l => decide (64 * l < lo) || decide (hi ≤ 64 * l)
    sites := gatedDie s d
    cores := s.cores.map fun e => if e.1 / 16 = d.toNat then (e.1, { e.2 with tlb := [], icache := [] }) else e
    engines := s.engines.map fun e => if e.1 / 32 = d.toNat then (e.1, { e.2 with tlb := [] }) else e }

/-- A TARGET that was held is taken, or the transition has ended (R357). -/
def takeHeld (s : State) (d : DieId) : State :=
  let k := dieOf s d
  let s1 := setDie s d { k with psBusy := false, psHeld := none }
  match k.psHeld with | none => s1 | some t => targetPut s1 d t

/-- The die runs in its target state; parking ends with the die parked. -/
def endTransition (s : State) (d : DieId) : State :=
  let k := dieOf s d
  let s1 := setDie s d { k with psCurrent := k.psTarget }
  takeHeld (if k.psTarget = 5 then parkDie s1 d else s1) d

/-- The ticks a transition of a die takes (R357, R358): 50 µs to park; between running states 2 µs and 20 µs for each state. -/
def psTicks (k : Die) : Nat :=
  if k.psTarget = 5 then 5000
  else 200 + 2000 * (max k.psCurrent.toNat k.psTarget.toNat - min k.psCurrent.toNat k.psTarget.toNat)

/-- A transition has had its time. -/
def psDue (s : State) (k : Die) : Bool := k.psBusy && decide (k.psSince + psTicks k ≤ s.ticks)

/-- PS_TRANSITION_DONE (R357): a parked die comes to PS4 first. -/
def execPsTransitionDone (die : DieId) (st : State) : Out :=
  let k := dieOf st die
  .next (if psDue st k && (k.psCurrent != 5 || k.psTarget == 5) then endTransition st die else st)

/-- PARK (R358): a request to park, or the end of parking. -/
def execPark (die : DieId) (st : State) : Out :=
  let k := dieOf st die
  .next (if k.psBusy && k.psTarget == 5 then (if psDue st k then endTransition st die else st) else targetPut st die 5)

/-- UNPARK (R358): after 120 µs the die is at PS4, and goes on to its target. -/
def execUnpark (die : DieId) (st : State) : Out :=
  let k := dieOf st die
  if !(k.psBusy && k.psCurrent == 5 && k.psTarget != 5 && decide (k.psSince + 12000 ≤ st.ticks)) then .next st
  else
    let s1 := setDie st die { k with psCurrent := 4, parked := false, psSince := st.ticks }
    .next (if k.psTarget = 4 then takeHeld s1 die else s1)

/-- REFUSED_CLEAR (R358). -/
def execRefusedClear (die : DieId) (st : State) : Out := .next (modDie st die fun k => { k with psRefused := false })

/-! ### Firmware (R359 to R362, Tables 11.4, 11.5) -/

/-- Where a die's boot ROM puts the image: the start of the die's HBM. Log entry 4. -/
def imageBase (d : DieId) : Nat := d.toNat * 0x1800000000

/-- The translation a core starts the firmware with: the first GiB of addresses onto the first GiB of its die's HBM, for reading,
writing and execution. Log entry 4. -/
def bootEntry (d : DieId) : TlbEntry := { asid := 0, va := 0, span := 0x40000000, pte := BitVec.ofNat 64 (imageBase d + 0x7F) }

/-- A core that starts the firmware: reset values, supervisor mode, at ENTRY. -/
def bootCore (d : DieId) (entry : Nat) (c : Core) : Core :=
  { l1 := c.l1, running := true, regs := { pc := BitVec.ofNat 64 entry }, tlb := [bootEntry d] }

/-- ENTRY of an image. -/
def imageEntry (img : List Byte) : Nat := leNat ((img.drop 0x10).take 8)

/-- A die's boot ROM puts an image in the die's HBM. -/
def putImage (s : State) (img : List Byte) (d : DieId) : State := { s with mem := memWrite s.mem (imageBase d) img }

/-- The image of n bytes that lies in a die's HBM. -/
def imageIn (s : State) (d : DieId) (n : Nat) : List Byte := memBytes s.mem (imageBase d) n

/-- A die's boot ROM records the digest of the image in its HBM and starts it on every core (R361). -/
def startDie (s : State) (img : List Byte) (d : DieId) : State :=
  let s1 := modDie s d fun k => { k with firmware := true, measure := Config.sha512 img }
  (coresOf d).foldl (fun t k => setCore t k (bootCore d (imageEntry img) (coreOf t k))) s1

/-- The verification of an image by a die's boot ROM: 3 when it passes, else the status of the first step that fails (R360). -/
def verifyImage (d : DieId) (img : List Byte) (len : Nat) : BitVec 8 :=
  let word (o : Nat) : Nat := leNat ((img.drop o).take 4)
  let key := (img.drop 0x400).take 512
  if word 0 ≠ 0x4F414446 || word 4 ≠ len then 0x82
  else if Config.sha512 key ≠ Config.rootKeyDigest d then 0x83
  else if word 8 < (Config.rollback d).toNat then 0x81
  else if !Config.pssValid key ((img.drop 0x200).take 512) (img.take 0x200 ++ img.drop 0x600) then 0x80
  else 3

/-- The state with fields of the mailbox changed. -/
def modBoot (s : State) (f : Boot → Boot) : State := { s with boot := f s.boot }

/-- The host's memory from a host physical address on: in the window of the host decoders the memory the module reaches there, else
the host's own. Log entry 98. -/
def hostBytes (s : State) (a n : Nat) : List Byte := if paKind a = .cxl then memBytes s.mem a n else memBytes s.boot.hostMem a n

/-- A load by the leader's boot ROM (R360): the image is read into the leader's HBM and verified there. -/
def bootLoad (s : State) : State :=
  let b := s.boot
  let n := b.imageLen.toNat
  if n = 0 || 0x4000000 < n || b.imageHpa.toNat % 4096 ≠ 0 then modBoot s fun k => { k with status := 0x84 }
  else
    let img := hostBytes s b.imageHpa.toNat n
    let v := verifyImage Config.leader img n
    let s1 := modBoot (putImage s img Config.leader) fun k => { k with status := v }
    if v = 3 then startDie (modBoot s1 fun k => { k with kept := img, warm := false }) img Config.leader else s1

/-- FOLLOWER_VERIFY (R361, R362): a follower that the leader reaches verifies the image again, after a warm reset by the digest of the
copy it has kept, and starts it or stays in reset. -/
def execFollowerVerify (die : DieId) (st : State) : Out :=
  let b := st.boot
  let k := dieOf st die
  let own := imageIn st die b.kept.length
  if b.status ≠ 3 || die = Config.leader || k.firmware || !(dieOf st Config.leader).firmware || k.lost ||
      (diagonal Config.leader die && (dieOf st (viaDie Config.leader)).lost) then .next st
  else if b.warm then .next (if Config.sha512 own = k.measure then startDie st own die else st)
  else if verifyImage die b.kept b.kept.length = 3 then .next (startDie (putImage st b.kept die) b.kept die)
  else .next st

/-! ### Reset (R289, Table 8.10) -/

/-- A die after a warm reset: what is kept of it. -/
def warmDie (k : Die) : Die :=
  { lost := k.lost, cyc := k.cyc, err := k.err, pcs := k.pcs, pcSince := k.pcSince, logHead := k.logHead, logTail := k.logTail
    annexWritten := k.annexWritten, measure := k.measure, beat := k.beat, trainFails := k.trainFails, lanes := k.lanes
    ideKey := k.ideKey
    links := k.links.map fun e => (e.1, { e.2 with cores := [], request := none, dsts := [] }) }

/-- The write-backs on their way have performed. -/
def flushAll (s : State) : State :=
  let ws := ([0, 1, 2, 3] : List DieId).flatMap fun d => (dieOf s d).forwards
  ws.foldl (fun t w => storeLine t w.core w.line w.data w.dirty) s

/-- The module after a warm reset, its boot ROM running: L1 lines, caches, poison, memory, the annex and the kept image stay, and the
arrivals of elements that have performed. -/
def clearWarm (s0 : State) : State :=
  let s := flushAll s0
  { mem := s.mem, poison := s.poison, resident := s.resident, hostLines := s.hostLines
    cores := s.cores.map fun e => (e.1, { l1 := e.2.l1 })
    dies := s.dies.map fun e => (e.1, warmDie e.2)
    arrivals := s.arrivals
    boot := { kept := s.boot.kept, warm := true, hostMem := s.boot.hostMem }
    ticks := s.ticks, hostReply := s.hostReply, peerReply := s.peerReply, agenda := s.agenda, draws := s.draws, serial := s.serial }

/-- The kept image in the leader's HBM starts again if its digest is the one recorded (R362). -/
def warmStart (s : State) : State :=
  let img := imageIn s Config.leader s.boot.kept.length
  if !img.isEmpty && Config.sha512 img = (dieOf s Config.leader).measure && !(dieOf s Config.leader).lost then
    startDie (modBoot s fun k => { k with status := 3 }) img Config.leader
  else s

/-- The module after a warm reset (R289, R362). -/
def warmReset (s : State) : State := warmStart (clearWarm s)

/-- Memory after a cold reset: the annex is kept, and what is not the module's own; HBM and scratchpads hold nothing (log
entry 1). -/
def coldMem (m : List Host.Cell) : List Host.Cell :=
  m.filter fun c => match paKind c.1 with | .annex _ => true | .cxl => true | _ => false

/-- How often in a row an edge of a die fails to train, up to three times. Log entry 83. -/
def trainTries (draw : Nat) (d : DieId) : Nat :=
  if Config.trains draw d then 0 else if Config.trains (draw + 1) d then 1 else if Config.trains (draw + 2) d then 2 else 3

/-- The lanes a port trains at, 0 when it does not train (R349). Log entry 83. -/
def portLanes (draw : Nat) (d : DieId) : Nat :=
  if Config.trains draw d then 16 else if Config.trains (draw + 1) d then 8 else if Config.trains (draw + 2) d then 4 else 0

/-- A die after a cold reset: the annex log is kept, and its links and port have trained or failed to (Table 8.10). -/
def coldDie (s : State) (d : DieId) : Nat × Die :=
  let k := dieOf s d
  (d.toNat, { logHead := k.logHead, logTail := k.logTail, annexWritten := k.annexWritten
              trainFails := trainTries s.draws d, lanes := portLanes (s.draws + 3) d })

/-- The module after a cold reset (R289). -/
def coldReset (s : State) : State :=
  { State.reset with
    mem := coldMem s.mem
    dies := ([0, 1, 2, 3] : List DieId).map (coldDie s)
    boot := { hostMem := s.boot.hostMem }, agenda := s.agenda, draws := s.draws + 6, serial := s.serial }

/-- WARM_RESET (R289, R362). -/
def execWarmReset (st : State) : Out := .next (warmReset st)

/-- COLD_RESET (R289). -/
def execColdReset (st : State) : Out := .next (coldReset st)

/-! ### The boot mailbox (Table 11.4) -/

/-- CMD is written: a load, for a boot ROM that waits, or a reset (R359, R360). -/
def bootCmd (s : State) (c : BitVec 2) : State :=
  let s1 := modBoot s fun k => { k with cmd := c }
  if c = 1 then (if s.boot.status = 3 || (dieOf s Config.leader).lost then s1 else bootLoad s1)
  else if c = 2 then warmReset s1
  else if c = 3 then coldReset s1
  else s1

/-- BOOT_LOAD (R359, R360): CMD 1. -/
def execBootLoad (st : State) : Out := .next (bootCmd st 1)

/-- BOOT_WARM_RESET_CMD (R359): CMD 2. -/
def execBootWarmResetCmd (st : State) : Out := .next (bootCmd st 2)

/-- BOOT_COLD_RESET_CMD (R359): CMD 3. -/
def execBootColdResetCmd (st : State) : Out := .next (bootCmd st 3)

/-- The dies that run the firmware, a bit each (Table 11.4). -/
def diesUp (s : State) : Nat := (([0, 1, 2, 3] : List DieId).map fun d => b2n ((dieOf s d).firmware && !(dieOf s d).lost) * 2 ^ d.toNat).sum

/-- The 64-bit word of the mailbox at an offset (Table 11.4). -/
def mailWord (s : State) (o : Nat) : Word :=
  if o = 0 then s.boot.imageHpa
  else if o = 8 then s.boot.imageLen.zeroExtend 64
  else if o = 0x10 then s.boot.cmd.zeroExtend 64
  else if o = 0x18 then BitVec.ofNat 64 (s.boot.status.toNat + diesUp s * 256)
  else 0

/-- A mailbox word after a write of the bits of the mask: v is its new value; a write that does not cover CMD starts nothing
(Table 11.4). -/
def mailPut (s : State) (o : Nat) (v mask : Word) : State :=
  if o = 0 then modBoot s fun k => { k with imageHpa := v }
  else if o = 8 then modBoot s fun k => { k with imageLen := v.truncate 32 }
  else if o = 0x10 && bitsAt 0 2 mask.toNat != 0 then bootCmd s (v.truncate 2)
  else s

/-! ### Attestation and registers (R6, R353, R359, R363) -/

/-- What a die answers to an SPDM request, before its signature: a measurement, or for index 0 its certificate chain; an index that
names none gets no answer. A die held in reset has no firmware digest (R363). Log entry 9. -/
def spdmAnswer (s : State) (d : DieId) (index : Nat) : Option (List Byte) :=
  match index with
  | 0 => some (Config.certChain d)
  | 1 => some (leBytes 64 (Config.romVersion d).toNat)
  | 2 => some (leBytes 64 (if (dieOf s d).firmware || d = Config.leader then (dieOf s d).measure.toNat else 0))
  | 3 => some (leBytes 4 (Config.rollback d).toNat ++ leBytes 1 Config.leader.toNat)
  | _ => none

/-- SPDM_REQUEST (R363): an answer with its signature, or a session's exchange of the port's IDE key. -/
def execSpdmRequest (die : DieId) (ask : SpdmAsk) (st : State) : Out :=
  if !portUp st die then .next st
  else
    match ask with
    | .ideKey v => .next (modDie st die fun k => { k with ideKey := v })
    | .measure index =>
      .next (match spdmAnswer st die index.toNat with
        | some m => modDie st die fun k => { k with spdm := m ++ Config.identitySign die m }
        | none => st)

/-- The device address at which BAR0 of a port shows the power block (R353). -/
def barPower (d : DieId) (a : Nat) : Nat := 0xD002000000000 + d.toNat * 0x1000 + (a - 0x20000)

/-- n bytes read from BAR0 of a die's port: the mailbox, at the leader's; the power block; zeros elsewhere (R353, R359). -/
def barRead (s : State) (d : DieId) (a n : Nat) : List Byte :=
  if d = Config.leader && decide (0x10000 ≤ a) && decide (a < 0x10020) then
    leBytes n ((mailWord s (a / 8 * 8 - 0x10000)).toNat / 2 ^ (8 * (a % 8)))
  else if decide (0x20000 ≤ a) && decide (a < 0x21000) && !unreachable s d (barPower d a) then devRead s (barPower d a) n
  else List.replicate n 0

/-- n bytes within a word written to BAR0 of a die's port. -/
def barWrite (s : State) (d : DieId) (a n v : Nat) : State :=
  if d = Config.leader && decide (0x10000 ≤ a) && decide (a < 0x10020) then
    let mask : Word := byteMask (8 * (a % 8)) (8 * n)
    let o := a / 8 * 8 - 0x10000
    mailPut s o ((mailWord s o &&& ~~~ mask) ||| (BitVec.ofNat 64 (v % 2 ^ (8 * n) * 2 ^ (8 * (a % 8))) &&& mask)) mask
  else if decide (0x20000 ≤ a) && decide (a < 0x21000) && !unreachable s d (barPower d a) then devWrite s (barPower d a) n v
  else s

/-- The die of a device address is not there, or no port of a die that reaches it is up. -/
def hostCutOff (s : State) (a : Nat) : Bool := !([0, 1, 2, 3] : List DieId).any fun d => portUp s d && !unreachable s d a

/-- REGISTER_WRITE (R6, R7): an aligned access of 1, 2, 4 or 8 bytes from outside to a register: of BAR0 of a die's port, or by its
device address, with the rights of supervisor mode. The answer to a read is the host's. Log entry 98. -/
def execRegisterWrite (access : RegisterAccess) (value : BitVec 64) (st : State) : Out :=
  let n := 2 ^ access.size.toNat
  let a := access.addr.toNat / n * n
  match access.bar with
  | none =>
    if paKind a ≠ .device || hostCutOff st a then .next st
    else if access.write then .next (devWrite st a n value.toNat)
    else .next { st with hostReply := BitVec.ofNat 64 (leNat (devRead st a n)) }
  | some d =>
    if !portUp st d then .next st
    else if access.write then .next (barWrite st d a n value.toNat)
    else .next { st with hostReply := BitVec.ofNat 64 (leNat (barRead st d a n)) }

end Sys2Proof.Machine
end

