-- ==== Sys2Proof/Machine/Dispatch.lean ====
section
/-! DEFINITION. Every instruction and step to its meaning, one arm each. -/
namespace Sys2Proof.Machine

/-- The effect of an instruction of the sequencer, of a stage or switch word at the focus, or of a step of the
hardware. -/
def exec (i : Instr) (s : State) : Host.Outcome State Fault Refusal :=
  match i with
  | .nop => Sys2Proof.Machine.execNop s
  | .add d a b n sf w => Sys2Proof.Machine.execAdd d a b n sf w s
  | .sub d a b n sf w => Sys2Proof.Machine.execSub d a b n sf w s
  | .mul d a b n sf w => Sys2Proof.Machine.execMul d a b n sf w s
  | .mulh d a b n w => Sys2Proof.Machine.execMulh d a b n w s
  | .div d a b n w => Sys2Proof.Machine.execDiv d a b n w s
  | .rem d a b n w => Sys2Proof.Machine.execRem d a b n w s
  | .and d a b w => Sys2Proof.Machine.execAnd d a b w s
  | .or d a b w => Sys2Proof.Machine.execOr d a b w s
  | .xor d a b w => Sys2Proof.Machine.execXor d a b w s
  | .shl d a b w => Sys2Proof.Machine.execShl d a b w s
  | .shr d a b w => Sys2Proof.Machine.execShr d a b w s
  | .sha d a b w => Sys2Proof.Machine.execSha d a b w s
  | .min d a b n w => Sys2Proof.Machine.execMin d a b n w s
  | .max d a b n w => Sys2Proof.Machine.execMax d a b n w s
  | .slt d a b n w => Sys2Proof.Machine.execSlt d a b n w s
  | .seq d a b w => Sys2Proof.Machine.execSeq d a b w s
  | .sel d a b => Sys2Proof.Machine.execSel d a b s
  | .clz d a w => Sys2Proof.Machine.execClz d a w s
  | .popc d a w => Sys2Proof.Machine.execPopc d a w s
  | .ext d a n z => Sys2Proof.Machine.execExt d a n z s
  | .bfx d a b n => Sys2Proof.Machine.execBfx d a b n s
  | .bfi d a b => Sys2Proof.Machine.execBfi d a b s
  | .lea d a b h => Sys2Proof.Machine.execLea d a b h s
  | .hash d a b => Sys2Proof.Machine.execHash d a b s
  | .widx d a k => Sys2Proof.Machine.execWidx d a k s
  | .addi d a im => Sys2Proof.Machine.execAddi d a im s
  | .andi d a im => Sys2Proof.Machine.execAndi d a im s
  | .ori d a im => Sys2Proof.Machine.execOri d a im s
  | .xori d a im => Sys2Proof.Machine.execXori d a im s
  | .shli d a sf => Sys2Proof.Machine.execShli d a sf s
  | .shri d a sf => Sys2Proof.Machine.execShri d a sf s
  | .shai d a sf => Sys2Proof.Machine.execShai d a sf s
  | .slti d a im => Sys2Proof.Machine.execSlti d a im s
  | .lil d im => Sys2Proof.Machine.execLil d im s
  | .lis d im => Sys2Proof.Machine.execLis d im s
  | .ld d a o z => Sys2Proof.Machine.execLd d a o z s
  | .ldn d a o z => Sys2Proof.Machine.execLdn d a o z s
  | .st t a o z => Sys2Proof.Machine.execSt t a o z s
  | .ldx d a b n z => Sys2Proof.Machine.execLdx d a b n z s
  | .stx t a b z => Sys2Proof.Machine.execStx t a b z s
  | .pref a o z => Sys2Proof.Machine.execPref a o z s
  | .swait d a b => Sys2Proof.Machine.execSwait d a b s
  | .sarm d a b => Sys2Proof.Machine.execSarm d a b s
  | .amo d a b p => Sys2Proof.Machine.execAmo d a b p s
  | .amow d a b p => Sys2Proof.Machine.execAmow d a b p s
  | .cas d a b => Sys2Proof.Machine.execCas d a b s
  | .casw d a b => Sys2Proof.Machine.execCasw d a b s
  | .fence w im b sf => Sys2Proof.Machine.execFence w im b sf s
  | .barr d a b => Sys2Proof.Machine.execBarr d a b s
  | .publ d a b => Sys2Proof.Machine.execPubl d a b s
  | .rcsnap d a => Sys2Proof.Machine.execRcsnap d a s
  | .br o => Sys2Proof.Machine.execBr o s
  | .call o => Sys2Proof.Machine.execCall o s
  | .jr a l => Sys2Proof.Machine.execJr a l s
  | .beq a b o => Sys2Proof.Machine.execBeq a b o s
  | .bne a b o => Sys2Proof.Machine.execBne a b o s
  | .blt a b o => Sys2Proof.Machine.execBlt a b o s
  | .bge a b o => Sys2Proof.Machine.execBge a b o s
  | .bltn a b o => Sys2Proof.Machine.execBltn a b o s
  | .bgen a b o => Sys2Proof.Machine.execBgen a b o s
  | .loop a o => Sys2Proof.Machine.execLoop a o s
  | .rep c d a b => Sys2Proof.Machine.execRep c d a b s
  | .endFiring => Sys2Proof.Machine.execEndFiring s
  | .endDone => Sys2Proof.Machine.execEndDone s
  | .endKill => Sys2Proof.Machine.execEndKill s
  | .yield => Sys2Proof.Machine.execYield s
  | .fadd d a b r => Sys2Proof.Machine.execFadd d a b r s
  | .fsub d a b r => Sys2Proof.Machine.execFsub d a b r s
  | .fmul d a b r => Sys2Proof.Machine.execFmul d a b r s
  | .fma d a b r => Sys2Proof.Machine.execFma d a b r s
  | .fmin d a b => Sys2Proof.Machine.execFmin d a b s
  | .fmax d a b => Sys2Proof.Machine.execFmax d a b s
  | .fcmp d a b p => Sys2Proof.Machine.execFcmp d a b p s
  | .fcvt d a k r => Sys2Proof.Machine.execFcvt d a k r s
  | .spawn d a b => Sys2Proof.Machine.execSpawn d a b s
  | .pushq d a b c => Sys2Proof.Machine.execPushq d a b c s
  | .popq d a b => Sys2Proof.Machine.execPopq d a b s
  | .notify d a b => Sys2Proof.Machine.execNotify d a b s
  | .cfld d a b c => Sys2Proof.Machine.execCfld d a b c s
  | .cfsw d a c => Sys2Proof.Machine.execCfsw d a c s
  | .cfwv d a b c => Sys2Proof.Machine.execCfwv d a b c s
  | .drain d a => Sys2Proof.Machine.execDrain d a s
  | .qwait d a b => Sys2Proof.Machine.execQwait d a b s
  | .inj d a b r c => Sys2Proof.Machine.execInj d a b r c s
  | .draw d a b => Sys2Proof.Machine.execDraw d a b s
  | .selvAssign d a b => Sys2Proof.Machine.execSelvAssign d a b s
  | .selvOpen d a b => Sys2Proof.Machine.execSelvOpen d a b s
  | .selvClose d a b => Sys2Proof.Machine.execSelvClose d a b s
  | .curd d a b => Sys2Proof.Machine.execCurd d a b s
  | .xcopyCopy e b r => Sys2Proof.Machine.execXcopyCopy e b r s
  | .xcopyFill e b r => Sys2Proof.Machine.execXcopyFill e b r s
  | .xgatherPort e b r => Sys2Proof.Machine.execXgatherPort e b r s
  | .xgatherMem e b r => Sys2Proof.Machine.execXgatherMem e b r s
  | .xscatterWrite e b r => Sys2Proof.Machine.execXscatterWrite e b r s
  | .xscatterAdd e b r => Sys2Proof.Machine.execXscatterAdd e b r s
  | .xrowupd e b r => Sys2Proof.Machine.execXrowupd e b r s
  | .xmigrate e b r => Sys2Proof.Machine.execXmigrate e b r s
  | .xstream e b r => Sys2Proof.Machine.execXstream e b r s
  | .xkvappAppend e b r => Sys2Proof.Machine.execXkvappAppend e b r s
  | .xkvappEvict e b r => Sys2Proof.Machine.execXkvappEvict e b r s
  | .xkvappFree e b r => Sys2Proof.Machine.execXkvappFree e b r s
  | .xkvsend e b r => Sys2Proof.Machine.execXkvsend e b r s
  | .xlogAppend e b r => Sys2Proof.Machine.execXlogAppend e b r s
  | .xlogTrim e b r => Sys2Proof.Machine.execXlogTrim e b r s
  | .xlogStatus e b r => Sys2Proof.Machine.execXlogStatus e b r s
  | .xreduceSum e b r => Sys2Proof.Machine.execXreduceSum e b r s
  | .xreduceMax e b r => Sys2Proof.Machine.execXreduceMax e b r s
  | .xreduceMin e b r => Sys2Proof.Machine.execXreduceMin e b r s
  | .xreduceGather e b r => Sys2Proof.Machine.execXreduceGather e b r s
  | .xprefBound e b r => Sys2Proof.Machine.execXprefBound e b r s
  | .xprefUnbound e b r => Sys2Proof.Machine.execXprefUnbound e b r s
  | .ttpar d a b t => Sys2Proof.Machine.execTtpar d a b t s
  | .ttclr d a t => Sys2Proof.Machine.execTtclr d a t s
  | .ttmask d a t => Sys2Proof.Machine.execTtmask d a t s
  | .ttpos d a t => Sys2Proof.Machine.execTtpos d a t s
  | .ttprune d a b t => Sys2Proof.Machine.execTtprune d a b t s
  | .trap im => Sys2Proof.Machine.execTrap im s
  | .eret => Sys2Proof.Machine.execEret s
  | .gets d im => Sys2Proof.Machine.execGets d im s
  | .puts a im => Sys2Proof.Machine.execPuts a im s
  | .tlbiAll => Sys2Proof.Machine.execTlbiAll s
  | .tlbiAsid a => Sys2Proof.Machine.execTlbiAsid a s
  | .tlbiPage a b => Sys2Proof.Machine.execTlbiPage a b s
  | .brk im => Sys2Proof.Machine.execBrk im s
  | .idle => Sys2Proof.Machine.execIdle s
  | .vnop d a => Sys2Proof.Machine.execVnop d a s
  | .viadd d a b sf n => Sys2Proof.Machine.execViadd d a b sf n s
  | .visub d a b sf n => Sys2Proof.Machine.execVisub d a b sf n s
  | .vimul d a b sf n => Sys2Proof.Machine.execVimul d a b sf n s
  | .vimulh d a b n => Sys2Proof.Machine.execVimulh d a b n s
  | .vimad d a b c sf n => Sys2Proof.Machine.execVimad d a b c sf n s
  | .vand d a b => Sys2Proof.Machine.execVand d a b s
  | .vor d a b => Sys2Proof.Machine.execVor d a b s
  | .vxor d a b => Sys2Proof.Machine.execVxor d a b s
  | .vshl d a b => Sys2Proof.Machine.execVshl d a b s
  | .vshr d a b => Sys2Proof.Machine.execVshr d a b s
  | .vsha d a b => Sys2Proof.Machine.execVsha d a b s
  | .vimin d a b n => Sys2Proof.Machine.execVimin d a b n s
  | .vimax d a b n => Sys2Proof.Machine.execVimax d a b n s
  | .vicmp d a b c => Sys2Proof.Machine.execVicmp d a b c s
  | .vsel d a b c => Sys2Proof.Machine.execVsel d a b c s
  | .vaddc d a b o im => Sys2Proof.Machine.execVaddc d a b o im s
  | .vsubc d a b o im => Sys2Proof.Machine.execVsubc d a b o im s
  | .vmulc d a b c o im => Sys2Proof.Machine.execVmulc d a b c o im s
  | .vhash d a b => Sys2Proof.Machine.execVhash d a b s
  | .vclz d a => Sys2Proof.Machine.execVclz d a s
  | .vpopc d a => Sys2Proof.Machine.execVpopc d a s
  | .vbfx d a b c n => Sys2Proof.Machine.execVbfx d a b c n s
  | .vfadd d a b f r => Sys2Proof.Machine.execVfadd d a b f r s
  | .vfsub d a b f r => Sys2Proof.Machine.execVfsub d a b f r s
  | .vfmul d a b f r => Sys2Proof.Machine.execVfmul d a b f r s
  | .vfma d a b c f r => Sys2Proof.Machine.execVfma d a b c f r s
  | .vfmin d a b => Sys2Proof.Machine.execVfmin d a b s
  | .vfmax d a b => Sys2Proof.Machine.execVfmax d a b s
  | .vfcmp d a b p => Sys2Proof.Machine.execVfcmp d a b p s
  | .vfsign d a b o => Sys2Proof.Machine.execVfsign d a b o s
  | .vfcvt d a b c k f r => Sys2Proof.Machine.execVfcvt d a b c k f r s
  | .vfrcpe d a f r => Sys2Proof.Machine.execVfrcpe d a f r s
  | .vfrsqe d a f r => Sys2Proof.Machine.execVfrsqe d a f r s
  | .vfexp2 d a f r => Sys2Proof.Machine.execVfexp2 d a f r s
  | .vpqz d a c sf => Sys2Proof.Machine.execVpqz d a c sf s
  | .vpmul d a b sf => Sys2Proof.Machine.execVpmul d a b sf s
  | .vred d a b m f r => Sys2Proof.Machine.execVred d a b m f r s
  | .fork d a => Sys2Proof.Machine.execFork d a s
  | .filt d a b c => Sys2Proof.Machine.execFilt d a b c s
  | .steer d a b k c => Sys2Proof.Machine.execSteer d a b k c s
  | .merge a b w l => Sys2Proof.Machine.execMerge a b w l s
  | .pack => Sys2Proof.Machine.execPack s
  | .perm d a b k p m => Sys2Proof.Machine.execPerm d a b k p m s
  | .splat d a l => Sys2Proof.Machine.execSplat d a l s
  | .tagseq d a => Sys2Proof.Machine.execTagseq d a s
  | .ordr => Sys2Proof.Machine.execOrdr s
  | .gen d sf h k => Sys2Proof.Machine.execGen d sf h k s
  | .cntl d a e r => Sys2Proof.Machine.execCntl d a e r s
  | .stat r => Sys2Proof.Machine.execStat r s
  | .topk d a b sf => Sys2Proof.Machine.execTopk d a b sf s
  | .spld d a t => Sys2Proof.Machine.execSpld d a t s
  | .spst d a b t => Sys2Proof.Machine.execSpst d a b t s
  | .spamo d a b t p => Sys2Proof.Machine.execSpamo d a b t p s
  | .spfifo => Sys2Proof.Machine.execSpfifo s
  | .ltake d a n => Sys2Proof.Machine.execLtake d a n s
  | .lgive d a n => Sys2Proof.Machine.execLgive d a n s
  | .spsync sf => Sys2Proof.Machine.execSpsync sf s
  | .mload => Sys2Proof.Machine.execMload s
  | .mswap p => Sys2Proof.Machine.execMswap p s
  | .mrow p => Sys2Proof.Machine.execMrow p s
  | .mdrain c f => Sys2Proof.Machine.execMdrain c f s
  | .mclr => Sys2Proof.Machine.execMclr s
  | .vanc d a b t => Sys2Proof.Machine.execVanc d a b t s
  | .ecount d a => Sys2Proof.Machine.execEcount d a s
  | .barn l w sf e n => Sys2Proof.Machine.execBarn l w sf e n s
  | .swp im o t => Sys2Proof.Machine.execSwp im o t s
  | .swm im o t => Sys2Proof.Machine.execSwm im o t s
  | .swg im o t m => Sys2Proof.Machine.execSwg im o t m s
  | .swb im o t => Sys2Proof.Machine.execSwb im o t s
  | .firstStageFiring site => Sys2Proof.Machine.execFirstStageFiring site s
  | .stageFiring site stage => Sys2Proof.Machine.execStageFiring site stage s
  | .tokenTransfer site port track => Sys2Proof.Machine.execTokenTransfer site port track s
  | .slotFreed site port track => Sys2Proof.Machine.execSlotFreed site port track s
  | .creditTaken site => Sys2Proof.Machine.execCreditTaken site s
  | .ordrInternalFiring site => Sys2Proof.Machine.execOrdrInternalFiring site s
  | .packTimeout site => Sys2Proof.Machine.execPackTimeout site s
  | .topkEmit site => Sys2Proof.Machine.execTopkEmit site s
  | .quietReport origin => Sys2Proof.Machine.execQuietReport origin s
  | .entryPortClose origin port => Sys2Proof.Machine.execEntryPortClose origin port s
  | .regionCompletion origin => Sys2Proof.Machine.execRegionCompletion origin s
  | .deadlockDetected origin => Sys2Proof.Machine.execDeadlockDetected origin s
  | .contextSwitch origin ctx => Sys2Proof.Machine.execContextSwitch origin ctx s
  | .blockSchedulerChoice origin => Sys2Proof.Machine.execBlockSchedulerChoice origin s
  | .quantumExpiry origin => Sys2Proof.Machine.execQuantumExpiry origin s
  | .wavefrontInject origin port => Sys2Proof.Machine.execWavefrontInject origin port s
  | .wavefrontSiteSwitch site => Sys2Proof.Machine.execWavefrontSiteSwitch site s
  | .selvageDrop site port track => Sys2Proof.Machine.execSelvageDrop site port track s
  | .slotMapUpdate core => Sys2Proof.Machine.execSlotMapUpdate core s
  | .slotMapTakeEffect die => Sys2Proof.Machine.execSlotMapTakeEffect die s
  | .boundaryTrackTransfer site port track => Sys2Proof.Machine.execBoundaryTrackTransfer site port track s
  | .nodeFault site kind stage port track seq => Sys2Proof.Machine.execNodeFault site kind stage port track seq s
  | .nodeRaise origin => Sys2Proof.Machine.execNodeRaise origin s
  | .trapEntry core cause pc addr detail inner => Sys2Proof.Machine.execTrapEntry core cause pc addr detail inner s
  | .asyncCauseTaken core => Sys2Proof.Machine.execAsyncCauseTaken core s
  | .budgetExpiry core => Sys2Proof.Machine.execBudgetExpiry core s
  | .sliceSchedulerChoice core => Sys2Proof.Machine.execSliceSchedulerChoice core s
  | .slicePlacement sid => Sys2Proof.Machine.execSlicePlacement sid s
  | .sliceAdmission die => Sys2Proof.Machine.execSliceAdmission die s
  | .release die key => Sys2Proof.Machine.execRelease die key s
  | .pendingRetry die => Sys2Proof.Machine.execPendingRetry die s
  | .sliceRetirement sid => Sys2Proof.Machine.execSliceRetirement sid s
  | .forwardNotice sid => Sys2Proof.Machine.execForwardNotice sid s
  | .supervisorTrapDelivery core => Sys2Proof.Machine.execSupervisorTrapDelivery core s
  | .deferredRecord eng => Sys2Proof.Machine.execDeferredRecord eng s
  | .meTokenAccept site => Sys2Proof.Machine.execMeTokenAccept site s
  | .bankGrant site bank => Sys2Proof.Machine.execBankGrant site bank s
  | .meResponse site => Sys2Proof.Machine.execMeResponse site s
  | .lockTimeout site => Sys2Proof.Machine.execLockTimeout site s
  | .syncArrival => Sys2Proof.Machine.execSyncArrival s
  | .streamBundleDelivery eng => Sys2Proof.Machine.execStreamBundleDelivery eng s
  | .streamWrite eng => Sys2Proof.Machine.execStreamWrite eng s
  | .scoreAddLane eng => Sys2Proof.Machine.execScoreAddLane eng s
  | .streamDeferredFault eng => Sys2Proof.Machine.execStreamDeferredFault eng s
  | .pcPowerDown die pc => Sys2Proof.Machine.execPcPowerDown die pc s
  | .pcSelfRefresh die pc => Sys2Proof.Machine.execPcSelfRefresh die pc s
  | .pcWake die pc => Sys2Proof.Machine.execPcWake die pc s
  | .pageWalk core va write => Sys2Proof.Machine.execPageWalk core va write s
  | .ownershipRecall pa => Sys2Proof.Machine.execOwnershipRecall pa s
  | .hostAccess pa write value => Sys2Proof.Machine.execHostAccess pa write value s
  | .backInvalidate pa => Sys2Proof.Machine.execBackInvalidate pa s
  | .peerAtomic pa narrow op value => Sys2Proof.Machine.execPeerAtomic pa narrow op value s
  | .diagonalForward die => Sys2Proof.Machine.execDiagonalForward die s
  | .docentPush die => Sys2Proof.Machine.execDocentPush die s
  | .cohortSwapOut die => Sys2Proof.Machine.execCohortSwapOut die s
  | .cohortSwapIn die => Sys2Proof.Machine.execCohortSwapIn die s
  | .doorbell die page value => Sys2Proof.Machine.execDoorbell die page value s
  | .overrunClear die page => Sys2Proof.Machine.execOverrunClear die page s
  | .preemptMark origin sid => Sys2Proof.Machine.execPreemptMark origin sid s
  | .layerBoundaryDrain origin => Sys2Proof.Machine.execLayerBoundaryDrain origin s
  | .drainMarkerPass site => Sys2Proof.Machine.execDrainMarkerPass site s
  | .drainSave origin => Sys2Proof.Machine.execDrainSave origin s
  | .freezeSave origin => Sys2Proof.Machine.execFreezeSave origin s
  | .regionRestore sid => Sys2Proof.Machine.execRegionRestore sid s
  | .planeReady site => Sys2Proof.Machine.execPlaneReady site s
  | .mloadColumnFault site => Sys2Proof.Machine.execMloadColumnFault site s
  | .autoDrain site => Sys2Proof.Machine.execAutoDrain site s
  | .accumulatorRefresh site => Sys2Proof.Machine.execAccumulatorRefresh site s
  | .statTokenSend site => Sys2Proof.Machine.execStatTokenSend site s
  | .statAdderSend site => Sys2Proof.Machine.execStatAdderSend site s
  | .statRootUpdate site => Sys2Proof.Machine.execStatRootUpdate site s
  | .xprefPage eng => Sys2Proof.Machine.execXprefPage eng s
  | .rowLockGrant eng => Sys2Proof.Machine.execRowLockGrant eng s
  | .migrationForward eng => Sys2Proof.Machine.execMigrationForward eng s
  | .markerClear eng => Sys2Proof.Machine.execMarkerClear eng s
  | .completionWord eng => Sys2Proof.Machine.execCompletionWord eng s
  | .engineReply core => Sys2Proof.Machine.execEngineReply core s
  | .drowsy site => Sys2Proof.Machine.execDrowsy site s
  | .drowsyWake site => Sys2Proof.Machine.execDrowsyWake site s
  | .eccError place uncorrectable => Sys2Proof.Machine.execEccError place uncorrectable s
  | .errorCounterClear die ctr => Sys2Proof.Machine.execErrorCounterClear die ctr s
  | .linkResend die dst => Sys2Proof.Machine.execLinkResend die dst s
  | .linkWakeRetry die dst => Sys2Proof.Machine.execLinkWakeRetry die dst s
  | .dieLost die => Sys2Proof.Machine.execDieLost die s
  | .warmReset => Sys2Proof.Machine.execWarmReset s
  | .coldReset => Sys2Proof.Machine.execColdReset s
  | .stretchInterval power stretch => Sys2Proof.Machine.execStretchInterval power stretch s
  | .unmet => Sys2Proof.Machine.execUnmet s
  | .unmetClear => Sys2Proof.Machine.execUnmetClear s
  | .pwrCeilWrite value => Sys2Proof.Machine.execPwrCeilWrite value s
  | .psTargetWrite die target => Sys2Proof.Machine.execPsTargetWrite die target s
  | .psTransitionDone die => Sys2Proof.Machine.execPsTransitionDone die s
  | .park die => Sys2Proof.Machine.execPark die s
  | .unpark die => Sys2Proof.Machine.execUnpark die s
  | .refusedClear die => Sys2Proof.Machine.execRefusedClear die s
  | .bootLoad => Sys2Proof.Machine.execBootLoad s
  | .bootWarmResetCmd => Sys2Proof.Machine.execBootWarmResetCmd s
  | .bootColdResetCmd => Sys2Proof.Machine.execBootColdResetCmd s
  | .followerVerify die => Sys2Proof.Machine.execFollowerVerify die s
  | .spdmRequest die ask => Sys2Proof.Machine.execSpdmRequest die ask s
  | .registerWrite access value => Sys2Proof.Machine.execRegisterWrite access value s
  | .linkWakeComplete die dst => Sys2Proof.Machine.execLinkWakeComplete die dst s
  | .engineCommandComplete eng => Sys2Proof.Machine.execEngineCommandComplete eng s
  | .drainStep site => Sys2Proof.Machine.execDrainStep site s
  | .siteGating site => Sys2Proof.Machine.execSiteGating site s
  | .dirtyLineWriteBack core pa evict => Sys2Proof.Machine.execDirtyLineWriteBack core pa evict s

end Sys2Proof.Machine
end

