-- ==== Sys2Proof/Machine/Sequence.lean ====
section
/-!
DEFINITION. The turns of the agents: what a core does at an instruction boundary and with the word at its pc (R79, R95, R96,
R269, R364, R407, R448), a stage or role of a site (R32, R33, R293), a word of a switch box (R39), and the time that passes.
-/
namespace Sys2Proof.Machine

/-- The delivered cycles of one instruction: one, and a free number of stall cycles (R79, R85). Log entry 5. -/
def chargeTurn (s : State) : State := charge { s with draws := s.draws + 1 } (1 + Config.extraCycles s.draws)

/-- The S-word the step's core has at its pc, or in a repeat the word REP has read, with its register fields stepped (R89); a
repeat that REP_STATE has brought back reads its word once, anew: a supervisor may have put another there. -/
def nextWord (s : State) : Except Flt (State × Nat) :=
  match (curCore s).rep with
  | none => fetchWord s (pcOf s).toNat
  | some p =>
    match p.ins with
    | some w => .ok (s, repeatWord w p)
    | none => (fetchWord s (pcOf s).toNat).map fun q =>
        (modCore q.1 fun c => { c with rep := some { p with ins := some q.2 } }, repeatWord q.2 p)

/-- The word at the pc is fetched, decoded and executed; one that decodes to nothing raises ILLEGAL (R364). A fetch that must
wait for the walker waits in its list. -/
def runWord (s : State) : Out :=
  let pc := (pcOf s).toNat
  if fetchWaits s pc && ((curCore s).rep.bind (·.ins)).isNone then .next (joinWalk s (whoSeq s) pc false)
  else
    match nextWord s with
    | .error f => trapFlt s f
    | .ok (s1, w) =>
      match decodeS w with
      | .error _ => trapHere s1 0x01 0
      | .ok i => exec i s1

/-- A core that IDLE has stopped goes on at the next word once the scheduler has a candidate (R448). -/
def idleTurn (s : State) : State :=
  if (curCore s).slice.isNone && (candidate s s.cur).isSome then
    setPc (modCore s fun c => { c with idle := false }) (pcOf s + 4)
  else s

/-- The slice whose running firing is to be taken at this boundary, because its cohort is being swapped out (R250). -/
def leavingMember (s : State) : Option Slice :=
  (curSlice s).filter fun l => l.state == .resident && cohortState s (curDie s) l.cohort == 1 && mayTakeFiring s l

/-- The turn of a core that has something to run, with what its firing has cost by now charged (R239): it waits for an engine, its
firing is taken, it takes a trap at its boundary, idles, or executes one instruction. -/
def runTurn (st : State) : Out :=
  let s := charge st 0
  if (curCore s).sx.isSome then .next (chargeTurn s)
  else
    match leavingMember s with
    | some l => .next (takeMember s l)
    | none =>
      match boundaryTrap s with
      | some s1 => .next s1
      | none => if (curCore s).idle then .next (idleTurn (chargeTurn s)) else runWord (chargeTurn s)

/-- The turn of core k. -/
def seqTurn (k : CoreId) (st : State) : Out :=
  let s := onCore st k
  if dieGone s (curDie s) then .next st
  else if (curCore s).running then runTurn s
  else execSliceSchedulerChoice k s

/-- The E-word at stage k of a site's active context, or in role k of a tile. -/
def wordAt (s : State) (x : SiteId) (k : BitVec 3) : Option Instr :=
  (activeCtx s x).bind fun cx => roleOp cx (if siteKind x = 2 then k.toNat else k.toNat - 1)

/-- The turn of stage or role k of a site. -/
def stageTurn (x : SiteId) (k : BitVec 3) (st : State) : Out :=
  match wordAt st x k with
  | none => .next st
  | some i => exec i { st with focus := x, focusStage := k.zeroExtend 5 }

/-- The word in a slot of the switch box of a site's active context. -/
def switchAt (s : State) (x : SiteId) (slot : BitVec 5) : Option Instr :=
  (activeCtx s x).bind fun cx => (decodeSw ((cx.sw[slot.toNat]?).getD 0).toNat).toOption.filter fun _ =>
    (cx.sw[slot.toNat]?).getD 0 != 0

/-- The turn of a word of a switch box. -/
def switchTurn (x : SiteId) (slot : BitVec 5) (st : State) : Out :=
  match switchAt st x slot with
  | none => .next st
  | some i => exec i { st with focus := x, focusStage := slot }

/-- One turn. -/
def perform (t : Turn) (s : State) : Out :=
  match t with
  | .seq k => seqTurn k s
  | .stage x k => stageTurn x k s
  | .switch x slot => switchTurn x slot s
  | .event i => exec i s

/-- A die after a free number of delivered cycles, which a firing is charged at its core's next turn (R239); a die that is down has
none, and parking changes their rate alone (R71, R85). -/
def cyclesPass (s : State) (d : DieId) : State :=
  if dieDown s d then s else modDie s d fun k => { k with cyc := k.cyc + Config.dieCycles s.draws d }

/-- A die's sideband heartbeat, which comes of itself while the die is there (R288). Log entry 83. -/
def heartBeat (s : State) (d : DieId) : State :=
  if (dieOf s d).lost || !Config.beats s.draws d then s else modDie s d fun k => { k with beat := s.ticks }

/-- The state after the time of one turn: delivered cycles of each die, ticks of the timebase and heartbeats (R5, R85, R288), the
suspension of deadlock counts (R57), and what the docents bring to saved images meanwhile (R252). Log entry 5. -/
def timePasses (s : State) : State :=
  docentWakes (countsPass (([0, 1, 2, 3] : List DieId).foldl heartBeat (passTime ([0, 1, 2, 3].foldl cyclesPass s))))

end Sys2Proof.Machine
end

