-- ==== Sys2Proof/Machine/Agents.lean ====
section
/-!
DEFINITION. The agents that may move in a state. The manual fixes what each does and not the order in which they move: the
free choice Config.pick decides (R37, R150, R222). What reaches the module from outside (host and peer accesses, errors,
resets, register writes) and what nothing in the model asks for (a link that falls asleep, a new walk) moves only when the agenda
names it. Log entry 6.
-/
namespace Sys2Proof.Machine

/-- What an agent may do in a state. -/
abbrev Move := State → Out

/-- The dies of the module. -/
def allDies : List DieId := [0, 1, 2, 3]

/-- The dies that are there. -/
def liveDies (s : State) : List DieId := allDies.filter fun d => !dieGone s d

/-- The core has a step to take. -/
def coreMoves (s : State) (k : CoreId) : Bool :=
  let c := coreOf s k
  !dieGone s (dieOfCore k) && (c.running || !c.supTraps.isEmpty || !c.pendLost.isEmpty || !c.pendLink.isEmpty ||
    !c.pendNode.isEmpty || (candidate s k).isSome)

/-- Cores, and engines' answers to them (R96, R235, R536). -/
def coreTurns (s : State) : List Move :=
  ((List.range 64).map (BitVec.ofNat 6)).flatMap fun k =>
    (if coreMoves s k then [seqTurn k] else []) ++ (if (coreOf s k).sx.isSome then [execEngineReply k] else [])

/-- The firings and internal steps of a processing element. -/
def peSteps (x : SiteId) : List Move :=
  [execStageFiring x 2, execStageFiring x 3, execStageFiring x 4, execStageFiring x 5, execStageFiring x 6, execCreditTaken x,
   execOrdrInternalFiring x, execPackTimeout x, execTopkEmit x, execStatTokenSend x, execStatAdderSend x, execStatRootUpdate x]

/-- Those of a memory element. -/
def meSteps (x : SiteId) : List Move :=
  execMeTokenAccept x :: execMeResponse x :: execLockTimeout x :: execStatTokenSend x ::
    ((List.range 16).map fun b => execBankGrant x (BitVec.ofNat 4 b))

/-- Those of a matrix tile. -/
def tileSteps (x : SiteId) : List Move :=
  [execPlaneReady x, execMloadColumnFault x, execAutoDrain x, execDrainStep x, execAccumulatorRefresh x, execStatTokenSend x]

/-- The steps of one site. -/
def siteTurns (x : SiteId) : List Move :=
  ([execFirstStageFiring x, execDrainMarkerPass x, execWavefrontSiteSwitch x, execDrowsy x, execSiteGating x] ++
    (match siteKind x with | 0 => peSteps x | 1 => meSteps x | _ => tileSteps x)) ++
    (List.range 20).map fun t => switchTurn x (BitVec.ofNat 5 t)

/-- The steps of the sites with a pattern (R26 to R54, R57 to R65, R283, R284). -/
def fabricTurns (s : State) : List Move :=
  s.sites.flatMap fun e => if e.2.on && !dieGone s (siteDie (BitVec.ofNat 14 e.1)) then siteTurns (BitVec.ofNat 14 e.1) else []

/-- The steps of one channel (R36 to R38, R68, R75). -/
def chanTurns (s : State) : List Move :=
  s.chans.flatMap fun e =>
    let x : SiteId := BitVec.ofNat 14 (e.1 / 128)
    let p : BitVec 4 := BitVec.ofNat 4 (e.1 / 8)
    let t : BitVec 3 := BitVec.ofNat 3 e.1
    (if e.2.freed = 0 then [] else [execSlotFreed x p t]) ++
      (match e.2.flight with
        | [] => []
        | _ => [execTokenTransfer x p t, execBoundaryTrackTransfer x p t, execSelvageDrop x p t])

/-- The steps of one placed pattern. -/
def placementSteps (s : State) (pl : Placement) : List Move :=
  let o := pl.origin
  let ports := (List.range pl.ports.length).map (BitVec.ofNat 8)
  [execQuietReport o, execRegionCompletion o, execDeadlockDetected o, execContextSwitch o pl.ctx, execBlockSchedulerChoice o,
   execQuantumExpiry o, execLayerBoundaryDrain o, execDrainSave o, execFreezeSave o, execNodeRaise o] ++
    ports.flatMap (fun i => [execEntryPortClose o i, execWavefrontInject o i]) ++
    (s.slices.map fun l => execPreemptMark o l.id) ++
    pl.ports.filterMap fun q => ((portTracks q).head?).map fun xt => execTokenTransfer xt.1 (q.port.zeroExtend 4) (BitVec.ofNat 3 xt.2)

/-- The steps of the placed patterns (R55 to R65, R255 to R260, R276). -/
def regionTurns (s : State) : List Move := s.placements.flatMap (placementSteps s)

/-- The steps of the slices between firings (R208 to R210, R264). -/
def sliceTurns (s : State) : List Move :=
  s.slices.flatMap fun l =>
    match l.state with
    | .created => [execSlicePlacement l.id]
    | .resident => [execForwardNotice l.id, execRegionRestore l.id]
    | .retiring => [execSliceRetirement l.id]
    | _ => []

/-- The steps of a die's docent and pending table, which run on while the die is parked (R107, R250, R251, R356). Log entry 88. -/
def docentSteps (s : State) (d : DieId) : List Move :=
  let k := dieOf s d
  (if k.pending.isEmpty then [] else [execPendingRetry d]) ++
    (if k.docent.busy || k.docent.cdir != 0 then [execCohortSwapOut d, execCohortSwapIn d] else [])

/-- The steps of a die's units that need its cores (R72, R206, R244, R253, R361). -/
def dieSteps (s : State) (d : DieId) : List Move :=
  let k := dieOf s d
  [execSliceAdmission d] ++
    (if k.slotsNext.toList.any (·.isSome) then [execSlotMapTakeEffect d] else []) ++
    (k.docent.notify.filterMap fun e => (e.2.todo.head?).map fun v => execDoorbell d (BitVec.ofNat 8 e.1) v) ++
    (k.walks.map fun w => execPageWalk w.core (BitVec.ofNat 64 w.va) w.write)

/-- The steps of one pseudo-channel: those its idle time admits, and the exit of a sleep state (R180, R181). -/
def channelSteps (s : State) (d : DieId) (p : Nat) : List Move :=
  let idle := (tblGet (dieOf s d).pcSince p).getD 0
  let q : BitVec 7 := BitVec.ofNat 7 p
  (if channelState s d p = .active then (if idle + 21 ≤ s.ticks then [execPcPowerDown d q] else []) else [execPcWake d q]) ++
    (if channelState s d p ≠ .selfRefresh && decide (idle + 6400 ≤ s.ticks) then [execPcSelfRefresh d q] else [])

/-- The steps of what runs in a parked die too: its docent, its edges and its memory controllers (R16, R226, R246, R286, R287, R346,
R356), and its loss (R288). -/
def edgeSteps (s : State) (d : DieId) : List Move :=
  let k := dieOf s d
  if k.lost then []
  else
    (if k.docent.held.isEmpty then [] else [execDocentPush d]) ++
      (if k.forwards.isEmpty then [] else [execDiagonalForward d]) ++
      (if s.boot.status = 3 && !k.firmware then [execFollowerVerify d] else []) ++
      (k.links.flatMap fun e =>
        let t : DieId := BitVec.ofNat 2 e.1
        (if e.2.waking then [execLinkWakeRetry d t, execLinkWakeComplete d t] else []) ++
          (if e.2.request.isSome then [execLinkResend d t] else [])) ++
      (List.range 128).flatMap (channelSteps s d) ++
      (if dieSilent s d then [execDieLost d] else [])

/-- Power-state transitions go on in a parked die too (R357, R358). -/
def powerSteps (s : State) (d : DieId) : List Move :=
  if (dieOf s d).psBusy && !(dieOf s d).lost then
    [execPsTransitionDone d, execUnpark d] ++ (if (dieOf s d).psTarget = 5 then [execPark d] else [])
  else []

/-- The steps of an engine (R168 to R179, R273, R313, R335 to R339, R538). -/
def engineSteps (e : EngineId) : List Move :=
  [execStreamBundleDelivery e, execStreamWrite e, execScoreAddLane e, execStreamDeferredFault e, execEngineCommandComplete e, execCompletionWord e,
   execRowLockGrant e, execMigrationForward e, execMarkerClear e, execDeferredRecord e, execXprefPage e]

/-- The engines with something to do: those that have a queue, a stream or a prefetch. -/
def activeEngines (s : State) : List EngineId :=
  (s.engines.map (fun e => BitVec.ofNat 7 e.1) ++ s.streams.map (·.eng) ++ s.prefetches.map (·.eng)).dedup

/-- Dirty lines that a core's cache may write back (R151). -/
def cacheTurns (s : State) : List Move :=
  s.cores.flatMap fun e => (e.2.l1.filter fun l => l.dirty != 0).map fun l =>
    (execDirtyLineWriteBack (BitVec.ofNat 6 e.1) (BitVec.ofNat 52 (l.line * 64)) false)

/-- Every turn that may be taken. -/
def turns (s : State) : List Move :=
  coreTurns s ++ fabricTurns s ++ chanTurns s ++ regionTurns s ++ sliceTurns s ++
    (liveDies s).flatMap (dieSteps s) ++ (allDies.filter fun d => !dieDown s d).flatMap (docentSteps s) ++ allDies.flatMap (edgeSteps s) ++ allDies.flatMap (powerSteps s) ++
    ((activeEngines s).flatMap fun e => if dieGone s (dieOfEngine e) then [] else engineSteps e) ++
    (if s.arrivals.isEmpty then [] else [execSyncArrival]) ++
    (if s.power.overSince.isSome then [execUnmet] else []) ++ cacheTurns s

/-! ### Laying a word where an agent takes it -/

/-- A block of an instruction cache with one word at an address and zeros around it. -/
def oneWordBlock (asid : BitVec 16) (pc w : Nat) : ILine :=
  { asid := asid, va := pc / 64 * 64,
    data := spliceBytes (List.replicate 64 0) (pc % 64 / 4 * 4) (leBytes 4 w) }

/-- The die runs its firmware (R361). -/
def bootedDie (s : State) (d : DieId) : State := modDie s d fun k => { k with firmware := true }

/-- Core s.cur, on a die that runs, has the S-word w at its pc and nothing else in progress, and takes the next turn. -/
def layS (s : State) (w : Nat) : State :=
  let asid : BitVec 16 := (whoSeq s).asid.truncate 16
  { modCore (bootedDie s (curDie s)) fun c => { c with
      running := true, idle := false, rep := none, wait := none, sx := none
      pendLost := [], pendLink := [], pendNode := [], supTraps := [], deferred := [], pendBudget := false
      icache := [oneWordBlock asid c.regs.pc.toNat w] } with
    agenda := .seq s.cur :: s.agenda }

/-- The site of die 0 whose kind may hold an E-word (Table 12.10), and the stage or role that holds it (Table 9.1). -/
def homeOfWord (i : Instr) : Nat × BitVec 3 :=
  match i with
  | .spld _ _ _ | .spst _ _ _ _ | .spamo _ _ _ _ _ | .spfifo | .ltake _ _ _ | .lgive _ _ _ | .spsync _ => (16, 1)
  | .mrow _ => (17, 0)
  | .mload => (17, 1)
  | .mswap _ => (17, 2)
  | .mdrain _ _ | .mclr => (17, 3)
  | _ => (0, 1)

/-- The state with a context active at a site of a die that runs, and a turn to come. -/
def layCtx (s : State) (x : SiteId) (cx : Ctx) (t : Turn) : State :=
  { modSite (bootedDie s (siteDie x)) x fun k => { k with
      ctxs := k.ctxs.setIfInBounds k.act.toNat (some cx), on := true, frozen := false, gated := false } with agenda := t :: s.agenda }

/-- An otherwise empty context of a site's kind. -/
def bareCtx (x : SiteId) : Ctx := { catid := 0, kind := BitVec.ofNat 2 (siteKind x), owner := 0, origin := x }

/-- The E-word w stands in a context of a site that may hold it, which takes the next turn. -/
def layE (s : State) (w : Nat) (i : Instr) : State :=
  let h := homeOfWord i
  let x : SiteId := BitVec.ofNat 14 h.1
  let i0 := if siteKind x = 2 then h.2.toNat else 0
  layCtx s x { bareCtx x with ewords := listSet [0, 0, 0, 0, 0, 0] i0 (BitVec.ofNat 32 w) } (.stage x h.2)

/-- The switch word w stands in slot 0 of the box of site 0, which takes the next turn. -/
def laySw (s : State) (w : Nat) : State :=
  layCtx s 0 { bareCtx 0 with ewords := [0, 0, 0, 0, 0, 0], sw := [BitVec.ofNat 16 w] } (.switch 0 0)

/-- The turn the free choice picks; none when no agent may move. -/
def chosenTurn (s : State) : Option Move :=
  match turns s with
  | [] => none
  | t :: ts => some (((t :: ts)[Config.pick s.draws % (t :: ts).length]?).getD t)

end Sys2Proof.Machine
end

