-- ==== Sys2Proof/Machine/Step.lean ====
section
/-!
DEFINITION. One step of the machine: the next turn of the agenda, or one the free choice picks, and the time it takes; and where
a word is laid so that the next step runs it.
-/
namespace Sys2Proof.Machine

/-- The outcome with its next state changed. -/
def Outcome.thenNext (o : Out) (f : State → State) : Out :=
  match o with
  | .next s => .next (f s)
  | .fault r => .fault r
  | .refused r => .refused r

/-- A turn that has made an access that must wait is given up: the old state stays, with what the turn has asked for, and goes on
as wait says (R71, R181, R193, R287). -/
def orWait (o : Out) (old : State) (wait : State → Out) : Out :=
  match o with
  | .next s => if s.stall then wait (putAsks old s.asks) else .next s
  | o => o

/-- A turn the free choice picks. -/
def freeTurn (s : State) : Out :=
  let s1 := { s with draws := s.draws + 1 }
  match chosenTurn s with
  | none => .next s1
  | some m => orWait (m s1) s1 .next

/-- One step: the head of the agenda, or while that must wait or there is none a free choice among the turns that may be taken; then
time passes. -/
def step (s : State) : Host.Outcome State Fault Refusal :=
  Outcome.thenNext
    (match s.agenda with
      | t :: ts => orWait (perform t { s with agenda := ts }) s freeTurn
      | [] => freeTurn s)
    timePasses

/-- The state whose next step runs the instruction word w of nbits bits: a switch word of 16 bits in the box of site 0, an S-word
at the pc of core s.cur, or, where the sequencer's decoder has none for it, an E-word in a context of a site that may hold
it. -/
def State.withFetchWord (s : State) (nbits w : Nat) : State :=
  if nbits = 16 then laySw s w
  else
    match decodeS w with
    | .ok _ => layS s w
    | .error _ =>
      match decodeE w with
      | .ok i => layE s w i
      | .error _ => layS s w

end Sys2Proof.Machine
end

