-- ==== Sys2Proof/Safety.lean ====
section
/-!
DEFINITION. The terms statements use: the invariant of the machine, and what a step leaves as it was.
-/
namespace Sys2Proof.Machine

/-- The invariant of the machine: home memory is in its canonical form, the tracks are listed in rising order, and no access that
must wait has been left half done. -/
structure Invariant (s : State) : Prop where
  mem : Memory.wf s.mem = true
  chans : keysFrom 0 s.chans = true
  whole : s.stall = false

/-- Every byte of home memory reads as before. -/
def sameBytes (s t : State) : Prop := ∀ a, memByte t.mem a = memByte s.mem a

/-- Every byte of home memory outside the n bytes from lo on reads as before. -/
def sameBytesBut (s t : State) (lo n : Nat) : Prop := ∀ a, a < lo ∨ lo + n ≤ a → memByte t.mem a = memByte s.mem a

/-- Only the cores may differ, and of them only the step's own; every byte of memory reads as before. -/
structure OnlyCore (s t : State) : Prop where
  state : t = { s with cores := t.cores }
  others : ∀ k, k ≠ s.cur → coreOf t k = coreOf s k
  bytes : sameBytes s t

/-- Of the step's core only its register files, pc and REP_STATE, its place in a repeat and what it waits for may differ: its trap
registers, mode, slice, caches, provenance trees, counters and pending causes are as before. -/
def coreKept (s t : State) : Prop :=
  curCore t = { curCore s with regs := (curCore t).regs, rep := (curCore t).rep, wait := (curCore t).wait }

/-- FLAGS, ASID and PT_BASE are as before. -/
def specialsKept (s t : State) : Prop :=
  (curCore t).regs.flags = (curCore s).regs.flags ∧ (curCore t).regs.asid = (curCore s).regs.asid ∧
    (curCore t).regs.ptBase = (curCore s).regs.ptBase

/-- Every X and Q register but d reads as before. -/
def regsKeptBut (s t : State) (d : Reg) : Prop := ∀ r : Reg, r.toNat < 72 → r ≠ d → readReg t r = readReg s r

/-- Every X, Q and Y register reads as before. -/
def regsKept (s t : State) : Prop := ∀ r : Reg, r.toNat < 76 → readReg t r = readReg s r

/-- The instruction i waits for what w names (R486). For 64 polls, and in supervisor code throughout, the core stays at it with its
registers, and the slice is known to watch w; then the firing is suspended at it, watching w. -/
structure Polls (s : State) (i : Instr) (w : Watch) : Prop where
  stays : ((curCore s).wait.map (·.polls)).getD 0 < 64 ∨ (curCore s).sup = true ∨ curSlice s = none →
    ∃ t, exec i s = .next t ∧ pcOf t = pcOf s ∧ regsKept s t ∧ t.mem = s.mem ∧ (curCore t).slice = (curCore s).slice ∧
      (curCore t).running = (curCore s).running ∧ ∀ l, curSlice s = some l → ∃ m, curSlice t = some m ∧ m.watch = some w ∧
        m.suspended = l.suspended
  leaves : 64 ≤ ((curCore s).wait.map (·.polls)).getD 0 → (curCore s).sup = false → ∀ l, curSlice s = some l →
    ∃ t m, exec i s = .next t ∧ (curCore t).slice = none ∧ (curCore t).running = false ∧ findSlice t l.id = some m ∧
      m.suspended = true ∧ m.watch = some w ∧ m.regs.pc = pcOf s ∧ m.regs.x = (curCore s).regs.x ∧ t.mem = s.mem

/-- v has been pushed onto the last-result registers (R83). -/
def pushed (s t : State) (v : Word) : Prop :=
  readReg t 72 = v ∧ readReg t 73 = readReg s 72 ∧ readReg t 74 = readReg s 73 ∧ readReg t 75 = readReg s 74

/-- Where the core goes on: at the next word, or in a repeat at the same word until its last execution (R89). -/
def goesOn (s t : State) : Prop :=
  match (curCore s).rep with
  | none => pcOf t = pcOf s + 4 ∧ (curCore t).rep = none ∧ (curCore t).regs.repState = (curCore s).regs.repState
  | some p =>
    if p.left ≤ 1 then pcOf t = pcOf s + 4 ∧ (curCore t).rep = none
    else pcOf t = pcOf s ∧ (curCore t).rep.map (·.left) = some (p.left - 1)

/-- An instruction has written v to X[d] and nothing else but Y and the pc: X[d] reads v unless it is X0, which reads 0. -/
structure Wrote (s t : State) (d : Reg) (v : Word) : Prop where
  value : d ≠ 0 → d.toNat < 72 → readReg t d = v
  zero : readReg t 0 = 0
  pushed : pushed s t v
  others : regsKeptBut s t d
  specials : specialsKept s t
  core : coreKept s t
  goesOn : goesOn s t
  only : OnlyCore s t

/-- Control has gone to an address, and nothing else of the core's registers has changed (R406, R410). -/
structure Jumped (s t : State) (target : Word) : Prop where
  pc : pcOf t = target
  regs : regsKept s t
  specials : specialsKept s t
  core : coreKept s t
  only : OnlyCore s t

/-- The state with sticky bits of FLAGS set (R118). -/
def raising (s : State) (bits : Word) : State :=
  modCore s fun c => { c with regs := { c.regs with flags := c.regs.flags ||| bits } }

/-- What a trap does (R266, R91): the cause with PMODE, TRAP_PC, TRAP_ADDR and TRAP_INFO are written, the sequencer is in
supervisor mode, fetch goes on at TRAP_BASE + CAUSE × 64, and REP_STATE is valid with the repeats left, or not valid outside a repeat;
every X, Q and Y register, FLAGS, every other special register, and all else, stay. -/
structure Trapped (s t : State) (cause : BitVec 8) (pc addr : Word) (detail : BitVec 16) : Prop where
  causeReg : (curCore t).trap.cause = BitVec.ofNat 64 (cause.toNat + (if (curCore s).sup then 256 else 0))
  pcReg : (curCore t).trap.pc = pc
  addrReg : (curCore t).trap.addr = addr
  infoReg : (curCore t).trap.info = BitVec.ofNat 64 ((curSliceId s).toNat * 2 ^ 24 + detail.toNat * 2 ^ 8)
  mode : (curCore t).sup = true
  vector : pcOf t = (curCore s).trap.base + BitVec.ofNat 64 (cause.toNat * 64)
  valid : match (curCore s).rep with
    | none => (curCore t).regs.repState.getLsbD 63 = false
    | some p => p.left ≤ 64 →
      (curCore t).regs.repState.getLsbD 63 = true ∧ (curCore t).regs.repState.toNat / 2 ^ 34 % 2 ^ 7 = p.left
  rep : (curCore t).rep = none
  regs : regsKept s t
  specials : specialsKept s t
  defer : ∃ a b c d, (curCore t).trap = { (curCore s).trap with cause := a, pc := b, addr := c, info := d }
  only : OnlyCore s t

/-- An invocation v stands before stage k of the focus, a processing element whose context cx may fire, and nothing stands in
its way: for a stage below 6 the arc after it is free, and no second side of a FORK waits. -/
structure AtStage (s : State) (cx : Ctx) (k : Nat) (v : Inv) : Prop where
  site : siteOk s.focus = true
  element : siteKind s.focus = 0
  context : activeCtx s s.focus = some cx
  fires : mayFire s s.focus = true
  stage : s.focusStage.toNat = k
  later : 2 ≤ k
  last : k ≤ 6
  stands : arcOf s s.focus (k - 1) = some v
  free : k < 6 → arcOf s s.focus k = none
  side2 : (siteOf s s.focus).node.side2 = none

/-- The invocation is neither a HOLE nor a drain marker (R45, R258). -/
def computes (v : Inv) : Prop := v.kind ≠ 6 ∧ v.kind ≠ 2

/-- What the E-word of a later stage sees of an invocation (R373). -/
def stageEnv (s : State) (cx : Ctx) (v : Inv) : StageEnv := { site := s.focus, cx := cx, inv := v, ports := [] }

/-- A stage below 6 has handed the invocation w on: it stands in the stage's arc, the arc before it is empty, and no token, byte of
memory, core or die has changed. -/
structure PassedOn (s t : State) (k : Nat) (w : Inv) : Prop where
  stands : arcOf t s.focus k = some w
  gone : arcOf t s.focus (k - 1) = none
  chans : t.chans = s.chans
  mem : t.mem = s.mem
  dies : t.dies = s.dies
  slices : t.slices = s.slices
  others : ∀ y, y ≠ s.focus → siteOf t y = siteOf s y

/-- A stage has written P[d]: each valid lane holds a value that P allows, and nothing else of the invocation has changed. -/
structure LanesWritten (s t : State) (k : Nat) (d : BitVec 2) (v : Inv) (P : Nat → W32 → Prop) : Prop where
  passed : ∃ w, PassedOn s t k w ∧ w = { v with p := w.p, carry := w.carry } ∧
    (∀ j, j < 4 → j ≠ d.toNat → (w.p[j]?).getD [] = (v.p[j]?).getD []) ∧
    ∀ l, l < 16 → v.valid.getLsbD l = true → P l (laneOf ((w.p[d.toNat]?).getD []) l)
  cores : t.cores = s.cores

end Sys2Proof.Machine
end

