-- ==== Sys2Proof/Certificates/Slice0/Obligations.lean ====
section
/-!
DEFINITION. The statements for the provers. Each docstring cites the rules of spec/ it formalises.
-/
open Sys2Proof Sys2Proof.Machine

/-- A result goes to X[d] and onto Y, and nothing else changes (R393, R83, R394): for every instruction that ends by writing one
value. The statements below say of each instruction which value that is. -/
def Obligations.WritingAResultChangesNothingElse : Prop :=
  ∀ (s : State) (d : Reg) (v : Word), Wrote s (advance (writeReg s d v)) d v

/-- ADD, SUB, MUL and ADDI (R395, R510, R466, R396): the exact result on w bits, clamped with S, else modulo 2^w.
MULH, DIV and REM (R466, R425, R488): the high half of the product; the quotient toward zero, all ones for a zero divisor; the
remainder with the sign of the dividend, the dividend itself for a zero divisor.
DIV and REM of the same operands belong together (R488): for a divisor that is not zero, u equals DIV × v + REM. -/
def Obligations.IntegerArithmetic : Prop :=
  (∀ (s : State) (d a b : Reg) (n sat w : Bool) (i : BitVec 10),
    let width : Nat := if w then 32 else 64
    let num (v : Word) : Int :=
      if n then ((v.toNat % 2 ^ width : Nat) : Int) else (BitVec.ofNat width v.toNat).toInt
    let clamp (r : Int) : Int :=
      if !sat then r
      else if n then max 0 (min r (2 ^ width - 1)) else max (-(2 ^ (width - 1))) (min r (2 ^ (width - 1) - 1))
    let word (r : Int) : Word := if w then (BitVec.ofInt 32 r).signExtend 64 else BitVec.ofInt 64 r
    let u := num (readReg s a)
    let v := num (readReg s b)
    exec (.add d a b n sat w) s = .next (advance (writeReg s d (word (clamp (u + v))))) ∧
    exec (.sub d a b n sat w) s = .next (advance (writeReg s d (word (clamp (u - v))))) ∧
    exec (.mul d a b n sat w) s = .next (advance (writeReg s d (word (clamp (u * v))))) ∧
    exec (.addi d a i) s = .next (advance (writeReg s d (BitVec.ofInt 64 ((readReg s a).toInt + i.toInt))))) ∧
  (∀ (s : State) (d a b : Reg) (n w : Bool),
    let width : Nat := if w then 32 else 64
    let num (v : Word) : Int :=
      if n then ((v.toNat % 2 ^ width : Nat) : Int) else (BitVec.ofNat width v.toNat).toInt
    let word (r : Int) : Word := if w then (BitVec.ofInt 32 r).signExtend 64 else BitVec.ofInt 64 r
    let u := num (readReg s a)
    let v := num (readReg s b)
    exec (.mulh d a b n w) s = .next (advance (writeReg s d (word (u * v / 2 ^ width)))) ∧
    exec (.div d a b n w) s = .next (advance (writeReg s d (word (if v = 0 then 2 ^ width - 1 else u.tdiv v)))) ∧
    exec (.rem d a b n w) s = .next (advance (writeReg s d (word (if v = 0 then u else u.tmod v))))) ∧
  (∀ (s t r : State) (d e a b : Reg) (n : Bool), readReg s b ≠ 0 →
    exec (.div d a b n false) s = .next t → exec (.rem e a b n false) s = .next r →
    readReg s a = readReg t 72 * readReg s b + readReg r 72)

/-- The logical operations and shifts (R399, R400, R471, R548, R494, R495), bit by bit: bit i of the result before the sign extension that
W asks for. The amount is X[b][5:0] modulo the width. -/
def Obligations.LogicAndShifts : Prop :=
  ∀ (s : State) (d a b : Reg) (w : Bool) (i : BitVec 10) (k : BitVec 6),
    let x := readReg s a
    let y := readReg s b
    let width : Nat := if w then 32 else 64
    let m : Nat := y.toNat % 64 % width
    let top (j : Nat) : Nat := if w && decide (31 ≤ j) then 31 else j
    let bits (i : Instr) (f : Nat → Bool) : Prop :=
      ∃ v : Word, exec i s = .next (advance (writeReg s d v)) ∧ ∀ j, j < 64 → v.getLsbD j = f j
    bits (.and d a b w) (fun j => x.getLsbD (top j) && y.getLsbD (top j)) ∧
    bits (.or d a b w) (fun j => x.getLsbD (top j) || y.getLsbD (top j)) ∧
    bits (.xor d a b w) (fun j => x.getLsbD (top j) != y.getLsbD (top j)) ∧
    bits (.shl d a b w) (fun j => decide (m ≤ top j) && x.getLsbD (top j - m)) ∧
    bits (.shr d a b w) (fun j => decide (top j + m < width) && x.getLsbD (top j + m)) ∧
    bits (.sha d a b w) (fun j => x.getLsbD (min (top j + m) (width - 1))) ∧
    bits (.andi d a i) (fun j => x.getLsbD j && i.getLsbD (min j 9)) ∧
    bits (.ori d a i) (fun j => x.getLsbD j || i.getLsbD (min j 9)) ∧
    bits (.xori d a i) (fun j => x.getLsbD j != i.getLsbD (min j 9)) ∧
    bits (.shli d a k) (fun j => decide (k.toNat ≤ j) && x.getLsbD (j - k.toNat)) ∧
    bits (.shri d a k) (fun j => x.getLsbD (j + k.toNat)) ∧
    bits (.shai d a k) (fun j => x.getLsbD (min (j + k.toNat) 63))

/-- MIN, MAX, SLT, SEQ, SLTI and SEL (R459, R493, R496, R491), and NOP, which pushes nothing; a word of its opcode with a bit set below the opcode is no instruction (R467). -/
def Obligations.ComparisonsAndSelection : Prop :=
  ∀ (s : State) (d a b : Reg) (n w : Bool) (i : BitVec 10),
    let width : Nat := if w then 32 else 64
    let num (v : Word) : Int :=
      if n then ((v.toNat % 2 ^ width : Nat) : Int) else (BitVec.ofNat width v.toNat).toInt
    let word (r : Int) : Word := if w then (BitVec.ofInt 32 r).signExtend 64 else BitVec.ofInt 64 r
    let u := num (readReg s a)
    let v := num (readReg s b)
    exec (.min d a b n w) s = .next (advance (writeReg s d (word (if u ≤ v then u else v)))) ∧
    exec (.max d a b n w) s = .next (advance (writeReg s d (word (if u ≤ v then v else u)))) ∧
    exec (.slt d a b n w) s = .next (advance (writeReg s d (if u < v then 1 else 0))) ∧
    exec (.seq d a b w) s =
      .next (advance (writeReg s d (if (readReg s a).toNat % 2 ^ width = (readReg s b).toNat % 2 ^ width then 1 else 0))) ∧
    exec (.slti d a i) s = .next (advance (writeReg s d (if (readReg s a).toInt < i.toInt then 1 else 0))) ∧
    exec (.sel d a b) s = .next (advance (writeReg s d (if readReg s d = 0 then readReg s b else readReg s a))) ∧
    exec .nop s = .next (advance s) ∧ ∀ x, 0 < x → x < 2 ^ 24 → (decodeS (0x01000000 + x)).toOption = none

/-- CLZ, POPC, EXT, BFX, BFI, LEA, WIDX, LIL and LIS (R420, R478, R435, R409, R408, R454, R104, R457): the fields and counts, bit by
bit. Sizes of EXT are B, H and W; the width code 0 of a bit field means 64. Field 7 of WIDX is no instruction, and a supervisor PUTS
leaves WID_SHAPE as it is when its widths sum above 64.
HASH (R447): it mixes as the rule's five lines say, gives 0 for key 0 and seed 0, and for a fixed seed different keys give
different results. -/
def Obligations.FieldsAndCounts : Prop :=
  (∀ (s : State) (d a b : Reg) (n w : Bool) (z : BitVec 2) (h k : BitVec 3) (i : BitVec 17),
    let x := readReg s a
    let y := readReg s b
    let width : Nat := if w then 32 else 64
    let p : Nat := y.toNat % 64
    let q : Nat := if y.toNat / 64 % 64 = 0 then 64 else y.toNat / 64 % 64
    let gives (i : Instr) (f : Word → Prop) : Prop := ∃ v : Word, exec i s = .next (advance (writeReg s d v)) ∧ f v
    gives (.clz d a w) (fun v => v.toNat ≤ width ∧ (∀ j, j < v.toNat → x.getLsbD (width - 1 - j) = false) ∧
      (v.toNat < width → x.getLsbD (width - 1 - v.toNat) = true)) ∧
    gives (.popc d a w) (fun v => v.toNat = (List.range width).countP fun j => x.getLsbD j) ∧
    (z ≠ 3 → gives (.ext d a n z) (fun v => ∀ j, j < 64 →
      v.getLsbD j = if j < 8 * 2 ^ z.toNat then x.getLsbD j else (!n && x.getLsbD (8 * 2 ^ z.toNat - 1)))) ∧
    gives (.bfx d a b n) (fun v => ∀ j, j < 64 →
      v.getLsbD j = if j < q then x.getLsbD (p + j) else (!n && x.getLsbD (p + q - 1))) ∧
    gives (.bfi d a b) (fun v => ∀ j, j < 64 →
      v.getLsbD j = if p ≤ j ∧ j < p + q then x.getLsbD (j - p) else (readReg s d).getLsbD j) ∧
    gives (.lea d a b h) (fun v => v.toNat = (x.toNat + y.toNat * 2 ^ h.toNat) % 2 ^ 64) ∧
    gives (.lil d i) (fun v => v.toInt = i.toInt) ∧
    gives (.lis d i) (fun v => v.toNat = ((readReg s d).toNat * 2 ^ 17 + i.toNat) % 2 ^ 64) ∧
    (k ≠ 7 → gives (.widx d a k) (fun v =>
      let shape := ((curSlice s).map (·.widShape)).getD 0
      let wid (j : Nat) : Nat := shape.toNat / 2 ^ (6 * j) % 64
      let off : Nat := ((List.range k.toNat).map wid).sum
      v.toNat = x.toNat / 2 ^ off % 2 ^ (if k = 6 then 64 - off else wid k.toNat))) ∧
    (∀ c, c < 2 ^ 24 → c % 8 = 7 → (decodeS (0x28000000 + c)).toOption = none) ∧
    ((curCore s).sup = true → 64 < ((List.range 6).map fun j => x.toNat / 2 ^ (6 * j) % 64).sum →
      ∃ u, exec (.puts a 3) s = .next (advance u) ∧ sysRead u 3 = sysRead s 3 ∧ regsKept s u ∧ u.mem = s.mem)) ∧
  ((∀ (s : State) (d a b : Reg),
    let h1 := (readReg s a ^^^ readReg s b) * 0x9E3779B97F4A7C15
    let h2 := (h1 ^^^ (h1 >>> 29)) * 0xB7E151628AED2A6B
    exec (.hash d a b) s = .next (advance (writeReg s d (h2 ^^^ (h2 >>> 32))))) ∧
  hash64 0 0 = 0 ∧ ∀ seed : Word, Function.Bijective fun key => hash64 key seed)

/-- Branches, calls and jumps (R406, R410, R451, R80, R458): a taken one goes to a 64-byte boundary, counted in blocks from the block
of the instruction or named by a register; an untaken one goes on; CALL and JR.LINK put the next block's address into X63 and onto
Y; JR to another address traps with ALIGN and writes no link; LOOP counts down quietly.
REP (R88, R89, R90): where the word after it may be repeated, the core stands at that word with COUNT repeats to go (64 for 0), the
given steps, the word's own register numbers and the word itself; a word that may not be repeated raises ILLEGAL at the REP:
one of the control instructions, ERET, TRAP, BRK or IDLE, and one whose format has not a field that steps or whose stepped field is
64 or above.
A repeat takes its three register numbers by their steps, modulo 64, each time it goes on, and the n-th time ends it (R89). -/
def Obligations.BranchesJumpsAndRepeats : Prop :=
  (∀ (s : State) (a b : Reg) (o : BitVec 10) (far : BitVec 24),
    let x := readReg s a
    let y := readReg s b
    let block (v : Word) : Word := BitVec.ofNat 64 (v.toNat / 64 * 64)
    let near : Word := block (pcOf s) + BitVec.ofInt 64 (o.toInt * 64)
    let target : Word := block (pcOf s) + BitVec.ofInt 64 (far.toInt * 64)
    let link : Word := block (pcOf s) + 64
    let branch (i : Instr) (c : Prop) : Prop :=
      (c → ∃ t, exec i s = .next t ∧ Jumped s t near) ∧ (¬ c → exec i s = .next (advance s))
    branch (.beq a b o) (x = y) ∧ branch (.bne a b o) (x ≠ y) ∧
    branch (.blt a b o) (x.toInt < y.toInt) ∧ branch (.bge a b o) (y.toInt ≤ x.toInt) ∧
    branch (.bltn a b o) (x.toNat < y.toNat) ∧ branch (.bgen a b o) (y.toNat ≤ x.toNat) ∧
    (∃ t, exec (.br far) s = .next t ∧ Jumped s t target) ∧
    (∃ t, exec (.call far) s = .next t ∧ Jumped (writeReg s 63 link) t target) ∧
    (x.toNat % 64 = 0 → (∃ t, exec (.jr a false) s = .next t ∧ Jumped s t x) ∧
      ∃ t, exec (.jr a true) s = .next t ∧ Jumped (writeReg s 63 link) t x) ∧
    (x.toNat % 64 ≠ 0 → ∀ l, ∃ t, exec (.jr a l) s = .next t ∧ Trapped s t 0x02 (pcOf s) x 0) ∧
    (a.toNat ≠ 0 → a.toNat < 72 →
      let u := writeQuiet s a (x - 1)
      readReg u a = x - 1 ∧ regsKeptBut s u a ∧ (∀ r : Reg, 72 ≤ r.toNat → r.toNat < 76 → readReg u r = readReg s r) ∧
      (x ≠ 1 → ∃ t, exec (.loop a o) s = .next t ∧ Jumped u t near) ∧ (x = 1 → exec (.loop a o) s = .next (advance u)))) ∧
  (∀ (s u : State) (c : BitVec 6) (d a b : BitVec 5) (w : Nat),
    fetchWaits s (pcOf s + 4).toNat = false → fetchWord s (pcOf s + 4).toNat = .ok (u, w) →
    let n : Nat := if c.toNat = 0 then 64 else c.toNat
    (repeatOk w n d a b = true → ∃ t, exec (.rep c d a b) s = .next t ∧ pcOf t = pcOf s + 4 ∧
      (curCore t).rep = some { left := n, stepD := d, stepA := a, stepB := b, d := BitVec.ofNat 7 (w / 2 ^ 17)
                               a := BitVec.ofNat 7 (w / 2 ^ 10), b := BitVec.ofNat 7 (w / 2 ^ 3), ins := some w }) ∧
    (repeatOk w n d a b = false → exec (.rep c d a b) s = trapHere u 0x01 0) ∧
    (w < 2 ^ 32 → let op : Nat := w / 2 ^ 24
      (0x60 ≤ op ∧ op ≤ 0x6C) ∨ op ∈ [0xF0, 0xF1, 0xF5, 0xF6] ∨ (d ≠ 0 ∧ 64 ≤ w / 2 ^ 17 % 128) ∨
        (a ≠ 0 ∧ (64 ≤ w / 2 ^ 10 % 128 ∨ op = 0x38 ∨ op = 0x39)) ∨
        (b ≠ 0 ∧ (64 ≤ w / 2 ^ 3 % 128 ∨ (0x30 ≤ op ∧ op ≤ 0x39))) → repeatOk w n d a b = false)) ∧
  ((∀ (p q : RepRun), nextRepeat p = some q → 1 < p.left ∧ q.left = p.left - 1 ∧
    (q.stepD, q.stepA, q.stepB) = (p.stepD, p.stepA, p.stepB) ∧
    (p.stepD ≠ 0 → q.d.toNat = (p.d.toNat + p.stepD.toNat) % 64) ∧ (p.stepD = 0 → q.d = p.d) ∧
    (p.stepA ≠ 0 → q.a.toNat = (p.a.toNat + p.stepA.toNat) % 64) ∧ (p.stepA = 0 → q.a = p.a) ∧
    (p.stepB ≠ 0 → q.b.toNat = (p.b.toNat + p.stepB.toNat) % 64) ∧ (p.stepB = 0 → q.b = p.b)) ∧
  (∀ (n : Nat) (p : RepRun), p.left = n + 1 → (Nat.iterate (fun o => o.bind nextRepeat) n (some p)).isSome ∧
    Nat.iterate (fun o => o.bind nextRepeat) (n + 1) (some p) = none))

/-- END, YIELD, END.DONE and END.KILL (R97, R432, R554, R242): the core has no firing and is free for its scheduler; the slice keeps
its X and Q registers, is suspended at the next word after YIELD and not suspended after END, and retires after END.DONE and
END.KILL, which is for the supervisor alone.
SLICE_SCHEDULER_CHOICE (R83, R96, R97, R236, R269, R270): a core without a firing takes what is pending for it; with nothing pending it
starts, of its ready slices, one that no other ready slice of the core comes before in the key (earliest deadline, then the higher class,
then the lower slot), for deadlines within 2^47 of each other: a suspended firing goes on at its pc with its registers, an actor starts at
its entry with Y zero. -/
def Obligations.FiringsStartAndEnd : Prop :=
  (∀ (s : State) (l : Slice), curSlice s = some l → (curCore s).trap.info.getLsbD 63 = false →
    let free (t : State) : Prop := (curCore t).running = false ∧ (curCore t).slice = none ∧
      t.mem = s.mem ∧ ∀ k, k ≠ l.id → findSlice t k = findSlice s k
    let kept (m : Slice) : Prop := m.regs.x = (curCore s).regs.x ∧ m.regs.q = (curCore s).regs.q ∧ m.id = l.id
    (∃ t m, exec .endFiring s = .next t ∧ free t ∧ findSlice t l.id = some m ∧ kept m ∧ m.suspended = false ∧ m.state = l.state) ∧
    ((curCore s).sup = false → ∃ t m, exec .yield s = .next t ∧ free t ∧ findSlice t l.id = some m ∧ kept m ∧
      m.suspended = true ∧ m.regs.pc = pcOf (advance s) ∧ m.regs.y = (curCore s).regs.y) ∧
    (∃ t m, exec .endDone s = .next t ∧ free t ∧ findSlice t l.id = some m ∧ kept m ∧ m.suspended = false ∧ m.state = .retiring) ∧
    ((curCore s).sup = true → l.state ≠ .retired → ∃ t m, exec .endKill s = .next t ∧ findSlice t l.id = some m ∧
      m.state = .retiring ∧ m.killed = true ∧ (curCore t).running = false) ∧
    ((curCore s).sup = false → exec .endKill s = trapHere s 0x0D 0) ∧
    ((curCore s).sup = true → exec .yield s = trapHere s 0x01 0)) ∧
  ((∀ (s : State) (k : CoreId),
    let ready (m : Slice) : Prop := m ∈ s.slices ∧ m.core = k ∧ sliceReady (coreOf s k) m = true
    (candidate s k = none ↔ ∀ m, ¬ ready m) ∧
    (∀ l, candidate s k = some l → ready l ∧
      ∀ base : BitVec 48, (∀ m, ready m → (m.deadline - base).toNat < 2 ^ 47) → ∀ m, ready m → schedulesBefore m l = false)) ∧
  (∀ a b : Slice,
    (a.deadline = b.deadline → a.cls = b.cls → (schedulesBefore a b = true ↔ a.slot.toNat < b.slot.toNat)) ∧
    (a.deadline = b.deadline → a.cls ≠ b.cls → (schedulesBefore a b = true ↔ b.cls.toNat < a.cls.toNat)) ∧
    (a.deadline ≠ b.deadline → (schedulesBefore a b = true ↔ 2 ^ 47 ≤ (a.deadline - b.deadline).toNat))) ∧
  (∀ (s : State) (k : CoreId),
    ((coreOf s k).running = true → exec (.sliceSchedulerChoice k) s = .next s) ∧
    (∀ u, (coreOf s k).running = false → boundaryTrap { s with cur := k } = some u → exec (.sliceSchedulerChoice k) s = .next u) ∧
    let c := coreOf s k
    let nothing : Prop := c.running = false ∧ c.pendLost = [] ∧ c.pendLink = [] ∧ c.pendNode = [] ∧ dueRecord c = none ∧
      (c.pendBudget = false ∨ c.sup = true) ∧ c.supTraps = []
    (nothing → candidate s k = none → exec (.sliceSchedulerChoice k) s = .next s) ∧
    (∀ l, nothing → candidate s k = some l →
      let runs (t : State) : Prop := exec (.sliceSchedulerChoice k) s = .next t ∧ (coreOf t k).running = true ∧ (coreOf t k).sup = false ∧
        (coreOf t k).slice = some l.id ∧ (∀ j, j ≠ k → coreOf t j = coreOf s j) ∧ t.mem = s.mem ∧ t.chans = s.chans ∧ t.dies = s.dies
      (l.suspended = true → ∃ t, runs t ∧ (coreOf t k).regs = l.regs ∧
        ((coreOf t k).rep.isSome ↔ l.regs.repState.getLsbD 63 = true)) ∧
      (∀ a, l.suspended = false → readyActor (coreOf s k) l = some a → ∃ t, runs t ∧ (coreOf t k).regs.pc = a.entry ∧
        (coreOf t k).regs.x = l.regs.x ∧ (coreOf t k).regs.q = l.regs.q ∧ (∀ i : Fin 4, (coreOf t k).regs.y[i] = 0) ∧
        (coreOf t k).rep = none ∧ ∀ m, findSlice t l.id = some m → m.entryFired = true))))

/-- FADD, FSUB, FMUL and FMA (R436, R117, R118, R369): a NaN operand or an invalid operation gives 0x7FC00000 and sets NV for a
signalling NaN or an invalid operation; otherwise the exact value is rounded once, and OF, UF and NX are set as the rounding gives.
The result is zero-extended; nothing else changes.
FMIN, FMAX and FCMP (R441, R437): one NaN gives the other operand, two the canonical NaN, and of zeros −0 is the smaller; a
comparison with a NaN holds for UN alone; NV is set for a signalling NaN, and by LT and LE for any NaN.
FCVT (R438, R119 to R122, R369, Table 12.5): every kind gives its converted value and sets the flags of its conversion. To an
integer, a NaN or a value out of range sets NV and SAT; INT64 and U64 to FP32, and FP32 to BF16, FP16 and F8, round once, with OF, UF
and NX as the rounding gives, SAT where F8 saturates, and NV for a signalling NaN; from BF16, FP16 and F8 the value is the FP32 of
the number read, whatever the mode, and no flag is set but NV by a signalling NaN. -/
def Obligations.FloatOperations : Prop :=
  (∀ (s : State) (d a b : Reg) (r : BitVec 3),
    let f (x : Reg) : Machine.Num := decodeIeee fp32 ((readReg s x).toNat % 2 ^ 32)
    let mode : Rnd := rndOf (if r = 4 then (curCore s).regs.flags.toNat / 256 % 8 else r.toNat)
    let gives (i : Instr) (ops : List Machine.Num) (invalid : Prop) (v : Machine.Num) : Prop :=
      let nan := ∃ x ∈ ops, ∃ q, x = .nan q
      let signalling := ∃ x ∈ ops, x = .nan true
      (nan ∨ invalid → (signalling ∨ invalid →
        exec i s = .next (advance (writeReg (raising s 16) d 0x7FC00000))) ∧ (¬ (signalling ∨ invalid) →
        exec i s = .next (advance (writeReg s d 0x7FC00000)))) ∧
      (¬ (nan ∨ invalid) →
        let q := (roundNum fp32 mode v).1
        exec i s = .next (advance (writeReg
          (raising s (BitVec.ofNat 64 ((if q.ovf then 4 else 0) + (if q.uf then 2 else 0) + (if q.nx then 1 else 0)))) d
          (BitVec.ofNat 64 (q.code % 2 ^ 32)))))
    let opposed (x y : Machine.Num) : Prop := ∃ n, x = .inf n ∧ y = .inf (!n)
    let zeroTimesInf (x y : Machine.Num) : Prop := ∃ n m e, (x = .inf n ∧ y = .fin m 0 e) ∨ (y = .inf n ∧ x = .fin m 0 e)
    gives (.fadd d a b r) [f a, f b] (opposed (f a) (f b)) (addNum mode (f a) (f b)) ∧
    gives (.fsub d a b r) [f a, f b] (opposed (f a) (negNum (f b))) (addNum mode (f a) (negNum (f b))) ∧
    gives (.fmul d a b r) [f a, f b] (zeroTimesInf (f a) (f b)) (mulNum (f a) (f b)) ∧
    gives (.fma d a b r) [f a, f b, f d] (zeroTimesInf (f a) (f b) ∨ opposed (mulNum (f a) (f b)) (f d))
      (addNum mode (mulNum (f a) (f b)) (f d))) ∧
  (∀ (s : State) (d a b : Reg) (p : BitVec 3), p.toNat < 4 →
    let x : Machine.Num := decodeIeee fp32 ((readReg s a).toNat % 2 ^ 32)
    let y : Machine.Num := decodeIeee fp32 ((readReg s b).toNat % 2 ^ 32)
    let wide (r : Reg) : Word := BitVec.ofNat 64 ((readReg s r).toNat % 2 ^ 32)
    let nan (v : Machine.Num) : Bool := match v with | .nan _ => true | _ => false
    let signalling (v : Machine.Num) : Bool := match v with | .nan q => q | _ => false
    let flag (c : Bool) : State := raising s (if c then 16 else 0)
    let zeroSign (r : Reg) : Bool := (readReg s r).getLsbD 31
    let pick (i : Instr) (left : Bool) : Prop :=
      exec i s = .next (advance (writeReg (flag (signalling x || signalling y)) d
        (if nan x && nan y then 0x7FC00000 else if nan x then wide b else if nan y then wide a
          else if left then wide a else wide b)))
    pick (.fmin d a b) (ltNum x y || (!ltNum y x && zeroSign a)) ∧
    pick (.fmax d a b) (ltNum y x || (!ltNum x y && !zeroSign a)) ∧
    exec (.fcmp d a b p) s = .next (advance (writeReg
      (flag (if p = 1 ∨ p = 2 then nan x || nan y else signalling x || signalling y)) d
      (if p = 3 then (if nan x || nan y then 1 else 0)
       else if nan x || nan y then 0
       else if p = 0 then (if ltNum x y || ltNum y x then 0 else 1)
       else if p = 1 then (if ltNum x y then 1 else 0)
       else (if ltNum y x then 0 else 1))))) ∧
  (∀ (s : State) (d a : Reg) (k : BitVec 7) (r : BitVec 3),
    let x := readReg s a
    let mode : Rnd := rndOf (if r = 4 then (curCore s).regs.flags.toNat / 256 % 8 else r.toNat)
    let single : Machine.Num := decodeIeee fp32 (x.toNat % 2 ^ 32)
    let flags (sat nv ovf uf nx : Bool) : Word := BitVec.ofNat 64 ((if sat then 32 else 0) + (if nv then 16 else 0) +
      (if ovf then 4 else 0) + (if uf then 2 else 0) + (if nx then 1 else 0))
    let signalling (v : Machine.Num) : Bool := match v with | .nan q => q | _ => false
    let gives (f : Word) (w : Word) : Prop := exec (.fcvt d a k r) s = .next (advance (writeReg (raising s f) d w))
    let toInteger (width : Nat) (uns : Bool) : Prop :=
      let i := toInt mode width uns single
      gives (flags i.2.1 i.2.1 false false (i.2.2 && !i.2.1)) (BitVec.ofInt 64 i.1)
    let narrows (f : Fmt) (v : Machine.Num) : Prop :=
      let q := roundNum f mode v
      gives (flags q.2 (signalling v) q.1.ovf q.1.uf q.1.nx) (BitVec.ofNat 64 q.1.code)
    let widens (v : Machine.Num) : Prop :=
      gives (flags false (signalling v) false false false) (BitVec.ofNat 64 (roundNum fp32 .rne v).1.code)
    (k = 0 → toInteger 32 false) ∧ (k = 1 → toInteger 32 true) ∧ (k = 2 → toInteger 64 false) ∧
    (k = 3 → narrows fp32 (ofInt x.toInt)) ∧ (k = 4 → narrows fp32 (ofInt (x.toNat : Int))) ∧
    (k = 5 → narrows bf16 single) ∧ (k = 6 → narrows fp16 single) ∧ (k = 7 → narrows f8 single) ∧
    (k = 8 → widens (decodeIeee bf16 (x.toNat % 2 ^ 16))) ∧ (k = 9 → widens (decodeIeee fp16 (x.toNat % 2 ^ 16))) ∧
    (k = 10 → widens (decodeF8 (x.toNat % 2 ^ 8))))

/-- TRAP and BRK (R266, R516, R411, R91): the core takes the trap with the cause's own TRAP_PC, TRAP_ADDR and DETAIL. TRAP_ENTRY does
the same for any cause at any boundary.
ERET (R434, R268, R87): in supervisor mode it goes to TRAP_PC in the mode PMODE, within the repeat of a valid REP_STATE, with every
register kept; after a DEFERRED trap that interrupted nothing it ends the handler; a TRAP_PC that is no word address raises ALIGN,
and slice mode PRIV. -/
def Obligations.TrapsAndReturns : Prop :=
  ((∀ (s : State) (i : BitVec 16), ∃ t, exec (.trap i) s = .next t ∧ Trapped s t 0x0C (pcOf s + 4) 0 i) ∧
  (∀ (s : State) (j : BitVec 17), ∃ t, exec (.brk j) s = .next t ∧ Trapped s t 0x0B (pcOf s) 0 0) ∧
  (∀ (s : State) (k : CoreId) (cause : BitVec 8) (pc addr : Word) (detail : BitVec 16),
    ∃ t, exec (.trapEntry k cause pc addr detail 0) s = .next t ∧ Trapped { s with cur := k } t cause pc addr detail)) ∧
  (∀ (s : State),
    let g := (curCore s).trap
    let valid := (curCore s).regs.repState.getLsbD 63
    ((curCore s).sup = true → g.pc.toNat % 4 = 0 → g.cause.toNat % 256 ≠ 0x0E →
      ∃ t, exec .eret s = .next t ∧ pcOf t = g.pc ∧ (curCore t).sup = g.cause.getLsbD 8 ∧ regsKept s t ∧ specialsKept s t ∧
        (curCore t).rep.isSome = valid ∧
        (∀ p, (curCore t).rep = some p → p.left = (curCore s).regs.repState.toNat / 2 ^ 34 % 128) ∧
        (curCore t).trap = g ∧ OnlyCore s t) ∧
    ((curCore s).sup = true → g.pc.toNat % 4 = 0 → g.cause.toNat % 256 = 0x0E → g.info.getLsbD 8 = true →
      ∃ t, exec .eret s = .next t ∧ (curCore t).running = false ∧ (curCore t).slice = none) ∧
    ((curCore s).sup = true → g.pc.toNat % 4 ≠ 0 → ∃ t, exec .eret s = .next t ∧ Trapped s t 0x02 (pcOf s) g.pc 0) ∧
    ((curCore s).sup = false → ∃ t, exec .eret s = .next t ∧ Trapped s t 0x0D (pcOf s) 0 0))

/-- GETS (R446, R86, Table 3.3): each index reads its register; an index the table does not list raises ILLEGAL; a register marked SV
raises PRIV in slice mode. Registers of the slice read zero when none runs.
PUTS (R483, R86, R484, R104): in supervisor mode each register takes the bits its map gives, and no other register of the table
but it changes; FLAGS keeps RM under 4 to 7 and WID_SHAPE is not written when its widths sum above 64; in slice mode FLAGS is written
alike, SV registers raise PRIV, and the others are left alone without a trap. A BUDGET_LEFT without limit stays so. Nothing is pushed,
but by SLOT_MAP: it takes its fields, and the update of the die's map follows, with its status on Y (that a table refused leaves the
register written, and when a good one is in force, is log entry 44, DEDUCED).
SLOT_MAP_UPDATE and SLOT_MAP_TAKE_EFFECT (R72, R484): a table that can be read and has no reserved bit set waits for the first frame
that begins after the read and then is the map in force; a bad one leaves the old map and gives status 1. -/
def Obligations.SystemRegisters : Prop :=
  (∀ (s : State) (d : Reg) (i : BitVec 10),
    let c := curCore s
    let g := c.trap
    let slice (f : Slice → Word) : Option Word := some (match curSlice s with | some l => f l | none => 0)
    let value : Option Word :=
      match i.toNat with
      | 0x000 => some ((c.slice.getD 0).zeroExtend 64)
      | 0x001 => slice fun l => l.cohort.zeroExtend 64
      | 0x002 => slice fun l => l.wid
      | 0x003 => slice fun l => l.widShape
      | 0x004 => slice fun l => l.deadline.zeroExtend 64
      | 0x005 => slice fun l => match l.budget with | some b => b.zeroExtend 64 | none => 0xFFFFFFFFFFFF
      | 0x006 => slice fun l => l.cls.zeroExtend 64
      | 0x008 => some c.regs.flags
      | 0x00A => some c.regs.repState
      | 0x010 => some g.base | 0x011 => some g.cause | 0x012 => some g.pc | 0x013 => some g.addr | 0x014 => some g.info
      | 0x018 => some g.deferPc | 0x019 => some g.deferTag | 0x01A => some g.deferOpA | 0x01B => some g.deferOpB
      | 0x01C => some g.deferOpC | 0x01D => some g.deferOpD | 0x01E => some g.deferAddr | 0x01F => some g.deferProgress
      | 0x020 => slice fun l => l.cycles
      | 0x021 => some (BitVec.ofNat 64 s.ticks)
      | 0x030 => some c.regs.asid | 0x031 => some c.regs.ptBase
      | 0x032 => some (if c.sup then 1 else 0)
      | 0x040 => some (dieOf s (curDie s)).slotMap
      | 0x041 => some c.selvDomain
      | _ => none
    let sv : Bool := [0x0A, 0x10, 0x11, 0x12, 0x13, 0x14, 0x18, 0x19, 0x1A, 0x1B, 0x1C, 0x1D, 0x1E, 0x1F, 0x30, 0x31, 0x40,
      0x41].contains i.toNat
    (value = none → ∃ t, exec (.gets d i) s = .next t ∧ Trapped s t 0x01 (pcOf s) 0 0) ∧
    (∀ v, value = some v → (c.sup || !sv) = false → ∃ t, exec (.gets d i) s = .next t ∧ Trapped s t 0x0D (pcOf s) 0 0) ∧
    (∀ v, value = some v → (c.sup || !sv) = true → exec (.gets d i) s = .next (advance (writeReg s d v)))) ∧
  (∀ (s : State) (a : Reg) (i : BitVec 10),
    let v := readReg s a
    let there : List Nat := [0x00, 0x01, 0x02, 0x03, 0x04, 0x05, 0x06, 0x08, 0x0A, 0x10, 0x11, 0x12, 0x13, 0x14, 0x18, 0x19, 0x1A,
      0x1B, 0x1C, 0x1D, 0x1E, 0x1F, 0x20, 0x21, 0x30, 0x31, 0x32, 0x40, 0x41]
    let same (u : State) : Prop := (∀ j, j ∈ there → j ≠ i.toNat → sysRead u j = sysRead s j) ∧ regsKept s u ∧ u.mem = s.mem
    let takes (m : Word) : Prop := ∃ u, exec (.puts a i) s = .next (advance u) ∧ sysRead u i.toNat = v &&& m ∧ same u
    ((curCore s).sup = true → ∀ m, (i.toNat, m) ∈ ([(0x0A, 0x800001FFFFFBFFFF), (0x10, 0x00FFFFFFFFFFF000), (0x11, 0x1FF),
        (0x12, 0xFFFFFFFFFFFFFFFF), (0x13, 0xFFFFFFFFFFFFFFFF), (0x14, 0x80FFFFFFFFFFFFFF), (0x18, 0xFFFFFFFFFFFFFFFF),
        (0x19, 0x03FFFFFFFFFFFFFF), (0x1A, 0xFFFFFFFFFFFFFFFF), (0x1B, 0xFFFFFFFFFFFFFFFF), (0x1C, 0xFFFFFFFFFFFFFFFF),
        (0x1D, 0xFFFFFFFFFFFFFFFF), (0x1E, 0xFFFFFFFFFFFFFFFF), (0x1F, 0xFFFFFFFFFFFFFFFF), (0x30, 0xFFFF),
        (0x31, 0x000FFFFFFFFFF000), (0x41, 0xF)] : List (Nat × Word)) → takes m) ∧
    (∀ l, (curCore s).sup = true → curSlice s = some l →
      (i = 0x02 → takes 0xFFFFFFFFFFFFFFFF) ∧ (i = 0x04 → takes 0xFFFFFFFFFFFF) ∧ (i = 0x06 → takes 7) ∧
      (i = 0x05 → l.budget.isSome → takes 0xFFFFFFFFFFFF) ∧
      (i = 0x05 → l.budget = none → ∃ u, exec (.puts a i) s = .next (advance u) ∧ sysRead u 5 = 0xFFFFFFFFFFFF ∧ same u) ∧
      (i = 0x03 → ((List.range 6).map fun k => v.toNat / 2 ^ (6 * k) % 64).sum ≤ 64 → takes 0xFFFFFFFFF) ∧
      (i = 0x03 → 64 < ((List.range 6).map fun k => v.toNat / 2 ^ (6 * k) % 64).sum →
        ∃ u, exec (.puts a i) s = .next (advance u) ∧ sysRead u 3 = sysRead s 3 ∧ same u)) ∧
    (i = 0x40 → (curCore s).sup = true →
      let w : State := modDie s (curDie s) fun k => { k with slotMap := v &&& 0x000FFFFFFFFFFFC1 }
      ∃ u, exec (.slotMapUpdate s.cur) w = .next u ∧ exec (.puts a i) s = .next (advance u) ∧ sysRead u 0x40 = v &&& 0x000FFFFFFFFFFFC1 ∧
        (readReg u 72).toNat < 2 ∧ ∀ r : Reg, r.toNat < 72 → readReg u r = readReg s r) ∧
    (i = 0x08 → ∃ u, exec (.puts a i) s = .next (advance u) ∧ same u ∧ (∀ j, j < 6 → (sysRead u 8).getLsbD j = v.getLsbD j) ∧
      (sysRead u 8).toNat / 256 = (if v.toNat / 256 % 8 < 4 then v.toNat / 256 % 8 else (curCore s).regs.flags.toNat / 256 % 8) ∧
      (sysRead u 8).getLsbD 6 = false ∧ (sysRead u 8).getLsbD 7 = false) ∧
    ((curCore s).sup = true → i.toNat ∈ ([0x00, 0x01, 0x20, 0x21, 0x32] : List Nat) → exec (.puts a i) s = .next (advance s)) ∧
    (i.toNat ∉ there → ∃ t, exec (.puts a i) s = .next t ∧ Trapped s t 0x01 (pcOf s) 0 0) ∧
    ((curCore s).sup = false → i.toNat ∈ ([0x00, 0x01, 0x02, 0x03, 0x04, 0x05, 0x06, 0x20, 0x21, 0x32] : List Nat) →
      exec (.puts a i) s = .next (advance s)) ∧
    ((curCore s).sup = false → i.toNat ∈ there → i.toNat ∉ ([0x00, 0x01, 0x02, 0x03, 0x04, 0x05, 0x06, 0x08, 0x20, 0x21, 0x32] : List Nat) →
      ∃ t, exec (.puts a i) s = .next t ∧ Trapped s t 0x0D (pcOf s) 0 0)) ∧
  ((∀ (s : State) (k : CoreId),
    let d := dieOfCore k
    let v := (dieOf s d).slotMap.toNat
    let pa : Nat := v / 64 % 2 ^ 46 * 64
    let y (t : State) : Word := (coreOf t k).regs.y[0]
    (v % 2 = 0 → ∃ t, exec (.slotMapUpdate k) s = .next t ∧ y t = 0 ∧ t.mem = s.mem ∧
      (∀ i : Fin 5, (dieOf t d).slotsNext[i] = some [] ∧ (dieOf t d).slots[i] = slotRow (dieOf s d) i)) ∧
    (v % 2 = 1 → slotTable s d pa = none → ∃ t, exec (.slotMapUpdate k) s = .next t ∧ y t = 1 ∧ t.dies = s.dies ∧ t.mem = s.mem) ∧
    (v % 2 = 1 → ∀ u m, slotTable s d pa = some (u, m) → ∃ t, exec (.slotMapUpdate k) s = .next t ∧ y t = 0 ∧ t.mem = u.mem ∧
      (∀ i : Fin 5, (dieOf t d).slotsNext[i] = some m[i] ∧ (dieOf t d).slots[i] = slotRow (dieOf u d) i) ∧
      (dieOf t d).slotsFrame = (dieOf u d).cyc / 64) ∧
    (paThere s d pa = true → paKind pa ≠ .device → poisonedRange s d pa 320 = false →
      let bs := (homeRead s d pa 320).2
      ((∃ b ∈ bs, b.toNat / 16 % 8 ≠ 0) → slotTable s d pa = none) ∧
      ((∀ b ∈ bs, b.toNat / 16 % 8 = 0) → ∃ u m, slotTable s d pa = some (u, m) ∧ ∀ i : Fin 5, m[i] = (bs.drop (64 * i.val)).take 64))) ∧
  (∀ (s : State) (d : DieId),
    ((dieOf s d).cyc / 64 ≤ (dieOf s d).slotsFrame → exec (.slotMapTakeEffect d) s = .next s ∧
      ∀ i : Fin 5, slotRow (dieOf s d) i = (dieOf s d).slots[i]) ∧
    ((dieOf s d).slotsFrame < (dieOf s d).cyc / 64 → (∀ i : Fin 5, slotRow (dieOf s d) i = ((dieOf s d).slotsNext[i]).getD ((dieOf s d).slots[i])) ∧
      ∃ t, exec (.slotMapTakeEffect d) s = .next t ∧
      (∀ i : Fin 5, (dieOf t d).slots[i] = ((dieOf s d).slotsNext[i]).getD ((dieOf s d).slots[i]) ∧ (dieOf t d).slotsNext[i] = none) ∧
      t = { s with dies := t.dies } ∧ ∀ e, e ≠ d → dieOf t e = dieOf s e)))

/-- TLBI and IDLE (R513, R195, R371, R448): in supervisor mode every TLB and instruction cache of the module loses the entries and
blocks that the form names (ALL and ASID every block; PAGE those of its page and of the leaf that covers it), the entries it does not
name stay, and TLBI retires when no access translated before for the address space is still to perform, and else stays at the
instruction; IDLE goes on when no firing was interrupted and a candidate is ready, and else stops issue with
nothing else changed; in slice mode all raise PRIV.
PAGE_WALK, OWNERSHIP_RECALL, DIRTY_LINE_WRITE_BACK and DIAGONAL_FORWARD (R151, R190, R192, R193, R217, R224, R226): a walk takes its
place in the walker's list (the steps of a walk are log entry 70, DEDUCED); one that has its turn and whose access will go ahead leaves
its translation in the TLB that missed, one whose requests must wait is put off, and one that faults leaves nothing; a recall takes a line from its owner; a write-back leaves the line clean or gone, its dirty bytes at home,
or with the intermediate die of a diagonal route, whose oldest goes on to its home. -/
def Obligations.TranslationsAndLinesMove : Prop :=
  (∀ (s : State) (a b : Reg),
    let asid : BitVec 16 := BitVec.ofNat 16 (readReg s a).toNat
    let va := (readReg s b).toNat
    let dropped (u : State) (gone : TlbEntry → Bool) (goneLine : ILine → Prop) : Prop :=
      u.mem = s.mem ∧ regsKept s u ∧
        (∀ k, (coreOf u k).tlb = (coreOf s k).tlb.filter (fun e => !gone e) ∧
          (∀ b ∈ (coreOf u k).icache, b ∈ (coreOf s k).icache ∧ ¬ goneLine b) ∧
          coreOf u k = { coreOf s k with tlb := (coreOf u k).tlb, icache := (coreOf u k).icache }) ∧
        (∀ d, dieOf u d = { dieOf s d with tlb2 := (dieOf s d).tlb2.filter fun e => !gone e }) ∧
        (∀ e, engineOf u e = { engineOf s e with tlb := (engineOf s e).tlb.filter fun e => !gone e })
    let drops (i : Instr) (mine : RowOp → Prop) (gone : TlbEntry → Bool) (goneLine : ILine → Prop) : Prop :=
      ∃ u, dropped u gone goneLine ∧ ((∀ o ∈ translatedOps s, ¬ mine o) → exec i s = .next (advance u)) ∧
        ((∃ o ∈ translatedOps s, mine o) → exec i s = .next (modCore u fun c => { c with wait := some { arrived := true } }))
    let space (o : RowOp) : Prop := BitVec.ofNat 16 o.cmd.asid.toNat = asid
    let covers (e : TlbEntry) : Bool := e.asid == asid && decide (e.va ≤ va) && decide (va < e.va + e.span)
    ((curCore s).sup = true →
      drops .tlbiAll (fun _ => True) (fun _ => true) (fun _ => True) ∧
      drops (.tlbiAsid a) space (fun e => e.asid == asid) (fun _ => True) ∧
      (va / 2 ^ 48 % 256 = 0 → drops (.tlbiPage a b) space covers
        (fun b => b.asid = asid ∧ (b.va / 4096 = va / 4096 ∨ (b.base ≤ va ∧ va < b.base + b.span)))) ∧
      (va / 2 ^ 48 % 256 ≠ 0 → exec (.tlbiPage a b) s = .next (advance s)) ∧
      ((curCore s).slice = none → (candidate s s.cur).isSome → exec .idle s = .next (advance s)) ∧
      ((curCore s).slice ≠ none ∨ candidate s s.cur = none →
        exec .idle s = .next (modCore s fun c => { c with idle := true }))) ∧
    ((curCore s).sup = false → ∀ i, i ∈ ([.tlbiAll, .tlbiAsid a, .tlbiPage a b, .idle] : List Instr) →
      ∃ t, exec i s = .next t ∧ Trapped s t 0x0D (pcOf s) 0 0)) ∧
  (∀ (s : State) (k : CoreId),
    let free (l : Nat) : Prop := ∀ e ∈ s.cores, ∀ y ∈ e.2.l1, y.line = l → y.own = false
    (∀ (va : BitVec 64) (w : Bool),
      let u := whoSeq { s with cur := k }
      let m := dieOf s u.die
      let listed : Option (DieId × Walk) := ([0, 1, 2, 3] : List DieId).findSome? fun d =>
        ((dieOf s d).walks.find? fun y => y.core == k && y.va / 4096 == va.toNat / 4096).map fun y => (d, y)
      (listed = none → dieGone s u.die = true ∨ 2 ^ 48 ≤ va.toNat → exec (.pageWalk k va w) s = .next s) ∧
      (listed = none → dieGone s u.die = false → va.toNat < 2 ^ 48 →
        (∀ x ∈ m.walks, x.asid = u.asid16 → x.va / 4096 ≠ va.toNat / 4096) → ∃ t, exec (.pageWalk k va w) s = .next t ∧
          t = { s with dies := t.dies } ∧ (∀ e, e ≠ u.die → dieOf t e = dieOf s e) ∧
          dieOf t u.die = { m with walks := m.walks ++
            [{ core := k, asid := u.asid16, root := u.root, va := va.toNat, write := w, dom := whoDomain s u, tlb := .core }] }) ∧
      (∀ d x, listed = some (d, x) →
        (dieGone s d = true ∨ x ∉ activeWalks (dieOf s d) x.dom → exec (.pageWalk k va w) s = .next s) ∧
        (dieGone s d = false → x ∈ activeWalks (dieOf s d) x.dom →
          let who := walkWho d x
          let r := dropWalk s d x
          let check := checkAccess r who x.va 1 (if x.write then .store else .load) false fun _ _ => true
          (walkHeld s who x.va = true → exec (.pageWalk k va w) s = .next { s with stall := true }) ∧
          (walkHeld s who x.va = false → (∃ f, check = .error f) → exec (.pageWalk k va w) s = .next r) ∧
          (∀ u1 pa l, walkHeld s who x.va = false → check = .ok (u1, .phys pa l) → ∃ t, exec (.pageWalk k va w) s = .next t ∧
            t.sites = s.sites ∧ t.chans = s.chans ∧ t.slices = s.slices ∧ (∀ j, (coreOf t j).regs = (coreOf s j).regs) ∧
            let holds (e : TlbEntry) : Prop := e.asid = x.asid ∧ e.va ≤ x.va ∧ x.va < e.va + e.span
            (x.tlb = .core → ∃ e ∈ (coreOf t x.core).tlb, holds e) ∧
            ∀ g, x.tlb = .engine g → ∃ e ∈ (engineOf t g).tlb, holds e)))) ∧
    (∀ pa : BitVec 52,
      let l : Nat := pa.toNat / 64
      let d := dieOfCore k
      let far : Prop := diagonal d (homeDie s d (64 * l)) = true
      (free l → exec (.ownershipRecall pa) s = .next s) ∧
      (∃ t, exec (.ownershipRecall pa) s = .next t ∧ (∀ c x, x ∈ (coreOf t c).l1 → x.line = l → x.own = false) ∧ t.sites = s.sites ∧
        t.slices = s.slices) ∧
      (l1Find (coreOf s k) l = none → ∀ v, exec (.dirtyLineWriteBack k pa v) s = .next s) ∧
      (∀ x, l1Find (coreOf s k) l = some x → ∀ v, ∃ t, exec (.dirtyLineWriteBack k pa v) s = .next t ∧
        l1Find (coreOf t k) l = (if v then none else some { x with dirty := 0 }) ∧ t.slices = s.slices ∧ t.sites = s.sites ∧
        (x.dirty = 0 → t.mem = s.mem ∧ t.dies = s.dies) ∧
        (x.dirty ≠ 0 → free l →
          (unreachable s d (64 * l) = true → t.mem = s.mem) ∧
          (unreachable s d (64 * l) = false → ¬ far → t.mem = memMerge s.mem (64 * l) x.data x.dirty.toNat) ∧
          (unreachable s d (64 * l) = false → far → t.mem = s.mem ∧
            (dieOf t (viaDie d)).forwards = (dieOf s (viaDie d)).forwards ++ [{ core := k, home := homeDie s d (64 * l), line := l, data := x.data, dirty := x.dirty }])))) ∧
    (∀ d : DieId,
      ((dieOf s d).forwards = [] → exec (.diagonalForward d) s = .next s) ∧
      (∀ w ws, (dieOf s d).forwards = w :: ws → ∃ t, exec (.diagonalForward d) s = .next t ∧ (dieOf t d).forwards = ws ∧
        t.slices = s.slices ∧ t.sites = s.sites ∧
        (free w.line → t.cores = s.cores ∧
          t.mem = if unreachable s (dieOfCore w.core) (64 * w.line) then s.mem else memMerge s.mem (64 * w.line) w.data w.dirty.toNat))))

/-- LD, LDN and LDX (R452, R453, R281, R282, R126): a misaligned address traps with MISALIGN and an access the checks refuse with their
fault; otherwise the bytes at the address come, extended with the sign or with zeros, into X[d]. Poison reads as zero and counts, or
raises MEMERR in strict mode. A word load of an element page reads one element.
ST and STX (R504, R505, R151, R126): a misaligned address traps with MISALIGN, an access the checks refuse with their fault;
otherwise the low bytes of X[t] go to the target, and no register changes and nothing is pushed.
Cached memory (R151, R453, R505): the sequencer reads and writes what is neither a device register nor the window through its L1 at
the physical address. A line that is brought in holds the bytes of its home. A read gives the bytes of the line. A write changes no home
byte but what bringing the line in moves; the line holds the new bytes, and its others as they were, dirty where written; every other
line of the L1 stays. A read after a write of the same bytes gives those bytes. -/
def Obligations.LoadsAndStores : Prop :=
  (∀ (s : State) (d a b : Reg) (o : BitVec 8) (z : BitVec 2),
    let n : Nat := 2 ^ z.toNat
    let ext (zero : Bool) (bs : List Byte) : Word :=
      let v := leNat bs
      if zero then BitVec.ofNat 64 v
      else BitVec.ofInt 64 (if v % 2 ^ (8 * n) < 2 ^ (8 * n - 1) then (v : Int) else (v : Int) - 2 ^ (8 * n))
    let load (i : Instr) (va : Word) (zero : Bool) : Prop :=
      ((n = 4 → elementFmt s va = none) →
        (va.toNat % n ≠ 0 → ∃ t, exec i s = .next t ∧ Trapped s t 0x03 (pcOf s) va 0) ∧
        (va.toNat % n = 0 → ∀ f, seqAccess s va n .load = .error f → exec i s = trapHere s f.cause f.addr f.detail) ∧
        (va.toNat % n = 0 → ∀ u g, seqAccess s va n .load = .ok (u, g) →
          let v := settle u g .load
          (privDevice s g n = true → ∃ t, exec i s = .next t ∧ Trapped s t 0x0D (pcOf s) 0 0) ∧
          (privDevice s g n = false → targetHeld s g .load = true → exec i s = .next (holdRequest s g .load)) ∧
          (privDevice s g n = false → targetHeld s g .load = false →
            (targetPoisoned v g .load = false →
              exec i s = .next (advance (writeReg (seqRead v g n).1 d (ext zero (seqRead v g n).2)))) ∧
            (targetPoisoned v g .load = true → strictSlice v = false → exec i s = .next (advance (writeReg (countSq v) d 0))) ∧
            (targetPoisoned v g .load = true → strictSlice v = true → exec i s = trapHere v 0x13 va 0)))) ∧
      (n = 4 → ∀ fmt e, elementFmt s va = some fmt → fmtBytes fmt = some e → va.toNat % e = 0 →
        ∀ u g, seqAccess s va e .load true = .ok (u, g) → privDevice s g e = false → targetHeld s g .load = false →
          let v := settle u g .load
          targetPoisoned v g .load = false →
          let q := elementLoad fmt (leNat (seqRead v g e).2)
          exec i s = .next (advance (writeReg (raising (seqRead v g e).1 (flagBits q.2)) d
            (if zero then q.1.zeroExtend 64 else q.1.signExtend 64))))
    let off : Word := readReg s a + BitVec.ofInt 64 (o.toInt * n)
    let idx : Word := readReg s a + BitVec.ofNat 64 ((readReg s b).toNat * n)
    load (.ld d a o z) off false ∧ load (.ldn d a o z) off true ∧ ∀ zero, load (.ldx d a b zero z) idx zero) ∧
  (∀ (s : State) (x a b : Reg) (o : BitVec 8) (z : BitVec 2),
    let n : Nat := 2 ^ z.toNat
    let store (i : Instr) (va : Word) : Prop :=
      ((n = 4 → elementFmt s va = none) →
        (va.toNat % n ≠ 0 → ∃ t, exec i s = .next t ∧ Trapped s t 0x03 (pcOf s) va 0) ∧
        (va.toNat % n = 0 → ∀ f, seqAccess s va n .store = .error f → exec i s = trapHere s f.cause f.addr f.detail) ∧
        (va.toNat % n = 0 → ∀ u g, seqAccess s va n .store = .ok (u, g) → privDevice s g n = false →
          (targetHeld s g .store = true → exec i s = .next (holdRequest s g .store)) ∧
          (targetHeld s g .store = false →
            exec i s = .next (advance (seqWrite (settle u g .store) g (leBytes n (readReg s x).toNat)))))) ∧
      (n = 4 → ∀ fmt e, elementFmt s va = some fmt → fmtBytes fmt = some e → va.toNat % e = 0 →
        let q := elementStore fmt ((readReg s x).truncate 32)
        ∀ u g, seqAccess s va e .store true = .ok (u, g) → privDevice s g e = false → targetHeld s g .store = false →
          exec i s = .next (advance (raising (seqWrite (settle u g .store) g (leBytes e q.1)) (flagBits q.2))))
    store (.st x a o z) (readReg s a + BitVec.ofInt 64 (o.toInt * n)) ∧
    store (.stx x a b z) (readReg s a + BitVec.ofNat 64 ((readReg s b).toNat * n))) ∧
  ((∀ (u : State) (pa n : Nat) (l : Leaf) (bs : List Byte), paKind pa ≠ .device →
    seqRead u (.phys pa l) n = cachedRead u u.cur pa n ∧ seqWrite u (.phys pa l) bs = cachedWrite u u.cur pa bs) ∧
  (∀ (u : State) (c : CoreId) (k : Nat), l1Find (coreOf u c) k = none →
    ∃ y, l1Find (coreOf (l1Fill u c k) c) k = some y ∧ y.data = memBytes (l1Fill u c k).mem (64 * k) 64 ∧ y.dirty = 0 ∧
      y.own = false) ∧
  (∀ (u : State) (c : CoreId) (k : Nat) (x : L1Line), l1Find (coreOf u c) k = some x → l1Fill u c k = u) ∧
  (∀ (u : State) (c : CoreId) (pa n : Nat) (x : L1Line), l1Find (coreOf (l1Fill u c (pa / 64)) c) (pa / 64) = some x →
    cachedRead u c pa n = (l1Fill u c (pa / 64), (x.data.drop (pa % 64)).take n)) ∧
  (∀ (u : State) (c : CoreId) (pa : Nat) (bs : List Byte) (x : L1Line),
    l1Find (coreOf (l1Fill u c (pa / 64)) c) (pa / 64) = some x → x.data.length = 64 → pa % 64 + bs.length ≤ 64 →
    cachedRead (cachedWrite u c pa bs) c pa bs.length = (cachedWrite u c pa bs, bs)) ∧
  ∀ (u : State) (c : CoreId) (pa : Nat) (bs : List Byte) (x : L1Line),
    l1Find (coreOf (l1Fill u c (pa / 64)) c) (pa / 64) = some x → x.data.length = 64 → pa % 64 + bs.length ≤ 64 →
    let v := l1Fill u c (pa / 64)
    let t := cachedWrite u c pa bs
    t.mem = v.mem ∧ (∀ k, k ≠ pa / 64 → l1Find (coreOf t c) k = l1Find (coreOf v c) k) ∧
      (∀ k, k ≠ c → coreOf t k = coreOf v k) ∧
      ∃ y, l1Find (coreOf t c) (pa / 64) = some y ∧ y.own = x.own ∧ y.data.length = 64 ∧
        ∀ j, j < 64 →
          y.data[j]? = (if pa % 64 ≤ j ∧ j < pa % 64 + bs.length then bs[j - pa % 64]? else x.data[j]?) ∧
          y.dirty.getLsbD j = (x.dirty.getLsbD j || decide (pa % 64 ≤ j ∧ j < pa % 64 + bs.length)))

/-- Loads, stores and atomics of the scratchpad window (R155, R397, R412): the bytes are those of the core's own bank. A store and an
atomic change exactly the bytes at the address, and no other byte of memory. The regions are checked for a slice; supervisor code is
taken to be unchecked (log entry 7). (A bank whose element serves an SPFIFO makes them wait, R501.)
AMO, AMOW, CAS and CASW on any target (R397, R412, R219): a misaligned address traps, a refused access traps with its fault, a
poisoned line raises MEMERR; otherwise the old value comes into X[d], sign-extended from 4 bytes. A compare that fails is made with
the checks of a write and writes nothing; one that holds writes the low bytes of X[b]. -/
def Obligations.WindowAccessesAndAtomics : Prop :=
  (∀ (s : State) (d a b : Reg) (z : BitVec 2) (p : BitVec 3) (wide : Bool),
    Memory.wf s.mem = true →
    let va := readReg s a
    let at_ (n : Nat) (k : Acc) : Prop := va.toNat / 2 ^ 48 = 0xF0 ∧ va.toNat % 2 ^ 48 < 0x400000 ∧ va.toNat % n = 0 ∧
      checkManifest (whoSeq s) va.toNat n k = none ∧ fifoTaken s (0xE000000000000 + s.cur.toNat * 0x400000 + va.toNat % 0x400000) = false ∧
      s.poison.contains ((0xE000000000000 + s.cur.toNat * 0x400000 + va.toNat % 0x400000) / 64) = false
    let pa : Nat := 0xE000000000000 + s.cur.toNat * 0x400000 + va.toNat % 0x400000
    let n : Nat := 2 ^ z.toNat
    let m : Nat := if wide then 8 else 4
    let old : Nat := leNat (memBytes s.mem pa m)
    let x : Nat := (readReg s b).toNat % 2 ^ (8 * m)
    let int (v : Nat) : Int := if v < 2 ^ (8 * m - 1) then (v : Int) else (v : Int) - 2 ^ (8 * m)
    let new : Nat :=
      match p.toNat with
      | 0 => (old + x) % 2 ^ (8 * m)
      | 1 => if int x < int old then x else old
      | 2 => if int old < int x then x else old
      | 3 => old &&& x
      | 4 => old ||| x
      | 5 => old ^^^ x
      | 6 => x
      | _ => min old x
    let puts (u : State) (k v : Nat) : Prop := sameBytesBut s u pa k ∧ leNat (memBytes u.mem pa k) = v ∧ u.cores = s.cores ∧
      u.dies = s.dies
    let result : Word := BitVec.ofInt 64 (if wide then (old : Int) else int old)
    let want : Nat := (readReg s d).toNat % 2 ^ (8 * m)
    (at_ n .load → exec (.ldn d a 0 z) s = .next (advance (writeReg s d (BitVec.ofNat 64 (leNat (memBytes s.mem pa n)))))) ∧
    (at_ n .store → ∃ u, exec (.st b a 0 z) s = .next (advance u) ∧ puts u n ((readReg s b).toNat % 2 ^ (8 * n))) ∧
    (at_ m .atomic → ∃ u, exec (if wide then .amo d a b p else .amow d a b p) s = .next (advance (writeReg u d result)) ∧
      puts u m new) ∧
    (at_ m .atomic → ∃ u, exec (if wide then .cas d a b else .casw d a b) s = .next (advance (writeReg u d result)) ∧
      puts u m (if old = want then x else old))) ∧
  (∀ (s : State) (d a b : Reg) (p : BitVec 3) (wide : Bool),
    let n : Nat := if wide then 8 else 4
    let va := readReg s a
    let amo : Instr := if wide then .amo d a b p else .amow d a b p
    let cas : Instr := if wide then .cas d a b else .casw d a b
    let ext (v : Nat) : Word := if wide then BitVec.ofNat 64 v else (BitVec.ofNat 32 v).signExtend 64
    (va.toNat % n ≠ 0 → ∀ i, i ∈ [amo, cas] → ∃ t, exec i s = .next t ∧ Trapped s t 0x03 (pcOf s) va 0) ∧
    (va.toNat % n = 0 → ∀ f, seqAccess s va n .atomic = .error f → exec amo s = trapHere s f.cause f.addr f.detail) ∧
    (va.toNat % n = 0 → ∀ u g, seqAccess s va n .atomic = .ok (u, g) → privDevice s g n = false → targetHeld s g .atomic = false →
      let v := settle u g .atomic
      (targetPoisoned v g .atomic = true → exec amo s = trapHere v 0x13 va 0) ∧
      (targetPoisoned v g .atomic = false →
        let q := seqAtomic v g n fun old => some (amoOp n p.toNat old ((readReg s b).toNat % 2 ^ (8 * n)))
        exec amo s = .next (advance (writeReg q.1 d (ext q.2))))) ∧
    (va.toNat % n = 0 → ∀ u g, seqAccess s va n .atomic false false = .ok (u, g) → privDevice s g n = false →
      targetHeld s g .atomic = false →
      let v := settle u g .atomic
      (targetPoisoned v g .atomic = true → exec cas s = trapHere v 0x13 va 0) ∧
      (targetPoisoned v g .atomic = false →
        let q := seqAtomic v g n fun _ => none
        (q.2 ≠ (readReg s d).toNat % 2 ^ (8 * n) → exec cas s = .next (advance (writeReg q.1 d (ext q.2)))) ∧
        (q.2 = (readReg s d).toNat % 2 ^ (8 * n) → ∀ w h, seqAccess q.1 va n .atomic = .ok (w, h) → privDevice q.1 h n = false →
          targetHeld q.1 h .atomic = false → targetPoisoned (settle w h .atomic) h .atomic = false →
          let r := seqAtomic (settle w h .atomic) h n fun _ => some ((readReg s b).toNat % 2 ^ (8 * n))
          exec cas s = .next (advance (writeReg r.1 d (ext q.2)))))))

/-- PREF and FENCE (R480, R222): a prefetch that nothing forbids brings its line into the L1, and one that something forbids does nothing;
one whose line must be waited for is taken again. FENCE of any kinds: WB first, then WAIT stays at the instruction until what the core
sent has performed, then INV. WB leaves the lines of the slice's W and RW regions clean in the L1, INV drops those of its R and RW
regions, and either brings their dirty bytes to their home (or, towards a diagonal die, to the die between, whole) and changes no
other byte of memory, line of an L1 or register; this is said where no line is held for atomics and nothing is on its way over
another die.
RCSNAP (R487, R344, R345): the 64 counters go to memory and are cleared, and X[d] takes their sum; where another slice owns them,
nothing is written and X[d] is all ones. At a window address the 256 bytes hold the counters in order. -/
def Obligations.PrefetchFenceAndCounters : Prop :=
  (∀ (s : State) (a : Reg) (o : BitVec 8) (z : BitVec 2) (sc : BitVec 3),
    let va : Word := readReg s a + BitVec.ofInt 64 (o.toInt * 2 ^ z.toNat)
    let ok : Leaf → Nat → Bool := fun l pa => !l.bit 8 &&
      (match paKind pa with | .scratch _ => false | .annex _ => false | .device => false | _ => true)
    let check := checkAccess s (whoSeq s) va.toNat 1 .load false ok
    (va.toNat / 2 ^ 48 ≠ 0 → exec (.pref a o z) s = .next (advance s)) ∧
    (∀ f, va.toNat / 2 ^ 48 = 0 → check = .error f → exec (.pref a o z) s = .next (advance s)) ∧
    (∀ u g, va.toNat / 2 ^ 48 = 0 → check = .ok (u, g) →
      (targetPoisoned u g .load = true → exec (.pref a o z) s = .next (advance s)) ∧
      (targetPoisoned u g .load = false → targetHeld s g .load = true → exec (.pref a o z) s = .next (holdRequest s g .load)) ∧
      (targetPoisoned u g .load = false → targetHeld s g .load = false →
        exec (.pref a o z) s = .next (advance (l1Fill u s.cur (g.pa s.cur / 64))) ∧
          (l1Find (coreOf (l1Fill u s.cur (g.pa s.cur / 64)) s.cur) (g.pa s.cur / 64)).isSome)) ∧
    (∀ w i b, let u := if b then fenceWb s else s
      (w = false ∨ fenceDone u sc.toNat = true → exec (.fence w i b sc) s = .next (advance (if i then fenceInv u else u))) ∧
      (w = true → fenceDone u sc.toNat = false →
        ∃ t, exec (.fence w i b sc) s = .next t ∧ pcOf t = pcOf u ∧ regsKept u t ∧ OnlyCore u t)) ∧
    (Memory.wf s.mem = true → (∀ d, (dieOf s d).forwards = []) →
      (∀ e ∈ s.cores, ∀ x ∈ e.2.l1, x.own = false ∧ x.data.length = 64) →
      let lines (ok : Region → Bool) : List Nat :=
        regionLines s s.cur (curCore s).regs.ptBase (((curSlice s).map (·.regions)).getD []) ok
      let sent (ok : Region → Bool) (u : State) : Prop :=
        (∀ p, memByte u.mem p =
          match l1Find (curCore s) (p / 64) with
          | none => memByte s.mem p
          | some x =>
            if p / 64 ∈ lines ok ∧ x.dirty.getLsbD (p % 64) = true ∧ unreachable s (curDie s) (64 * (p / 64)) = false ∧
              diagonal (curDie s) (homeDie s (curDie s) (64 * (p / 64))) = false then (x.data[p % 64]?).getD 0
            else memByte s.mem p) ∧
        (∀ k ∈ lines ok, ∀ x, l1Find (curCore s) k = some x → x.dirty ≠ 0 → unreachable s (curDie s) (64 * k) = false →
          diagonal (curDie s) (homeDie s (curDie s) (64 * k)) = true →
          ({ core := s.cur, home := homeDie s (curDie s) (64 * k), line := k, data := x.data, dirty := x.dirty } : WriteBack) ∈
            (dieOf u (viaDie (curDie s))).forwards) ∧
        (∀ k, k ≠ s.cur → coreOf u k = coreOf s k) ∧ curCore u = { curCore s with l1 := (curCore u).l1 } ∧
        u.chans = s.chans ∧ u.slices = s.slices ∧ u.sites = s.sites ∧ u.placements = s.placements
      (sent writable (fenceWb s) ∧ ∀ k, l1Find (curCore (fenceWb s)) k =
        (l1Find (curCore s) k).map fun x => if k ∈ lines writable then { x with dirty := 0 } else x) ∧
      (sent readable (fenceInv s) ∧ ∀ k, l1Find (curCore (fenceInv s)) k =
        if k ∈ lines readable then none else l1Find (curCore s) k))) ∧
  (∀ (s : State) (d a : Reg),
    let va := readReg s a
    let c := curCore s
    let mine : Prop := c.counterOwner = none ∨ c.counterOwner = (curSlice s).map (·.id)
    let pa : Nat := 0xE000000000000 + s.cur.toNat * 0x400000 + va.toNat % 0x400000
    (va.toNat % 64 ≠ 0 → ∃ t, exec (.rcsnap d a) s = .next t ∧ Trapped s t 0x03 (pcOf s) va 0) ∧
    (va.toNat % 64 = 0 → linesBar s va 4 = none → ¬ mine →
      exec (.rcsnap d a) s = .next (advance (writeReg s d 0xFFFFFFFFFFFFFFFF))) ∧
    (va.toNat % 64 = 0 → linesBar s va 4 = none → mine →
      ∃ u, exec (.rcsnap d a) s = .next (advance (writeReg u d (BitVec.ofNat 64 (c.counters.toList.map (·.toNat)).sum))) ∧
        (curCore u).counters = Vector.replicate 64 0 ∧
        (Memory.wf s.mem = true → va.toNat / 2 ^ 48 = 0xF0 → sameBytesBut s u pa 256 ∧
          ∀ k, k < 64 → leNat (memBytes u.mem (pa + 4 * k) 4) = ((c.counters[k]?).getD 0).toNat)))

/-- SARM and SWAIT on a window address (R490, R167, R486): SARM gives the old GEN and writes TARGET, ARMED, and COUNT and GEN advanced by the
targets COUNT holds; with target 0 it only disarms. SWAIT gives GEN when it is not the expected one, and else polls in place up to 64 times and
then suspends its firing, which watches the word.
SYNC_ARRIVAL (R166, R167): the oldest arrival adds its bytes to COUNT of its sync word; an ARMED word with a TARGET takes TARGET off for
each generation reached, and a sum above the largest number leaves COUNT there and sets OVF; an arrival for an element that serves SPFIFO waits (R501). -/
def Obligations.SyncWordsAndBarriers : Prop :=
  (∀ (s : State) (d a b : Reg), Memory.wf s.mem = true →
    let va := readReg s a
    let e : Nat := (readReg s b).toNat % 2 ^ 32
    let pa : Nat := 0xE000000000000 + s.cur.toNat * 0x400000 + va.toNat % 0x400000
    let word (m : List Host.Cell) (k : Nat) : Nat := leNat (memBytes m (pa + 4 * k) 4)
    let count := word s.mem 1
    let gen := word s.mem 2
    let flags := word s.mem 3
    (va.toNat % 16 ≠ 0 → ∀ i, i ∈ ([.sarm d a b, .swait d a b] : List Instr) →
      ∃ t, exec i s = .next t ∧ Trapped s t 0x03 (pcOf s) va 0) ∧
    (va.toNat % 16 = 0 → va.toNat / 2 ^ 48 = 0xF0 → va.toNat % 2 ^ 48 < 0x400000 →
      checkManifest (whoSeq s) va.toNat 16 .atomic = none → fifoTaken s pa = false →
      (∃ u, exec (.sarm d a b) s = .next (advance (writeReg u d (BitVec.ofNat 64 gen))) ∧ sameBytesBut s u pa 16 ∧
        u.cores = s.cores ∧
        (e = 0 → word u.mem 0 = word s.mem 0 ∧ word u.mem 1 = count ∧ word u.mem 2 = gen ∧ word u.mem 3 = flags / 2 * 2) ∧
        (e ≠ 0 → word u.mem 0 = e ∧ word u.mem 1 = count % e ∧ word u.mem 2 = (gen + count / e) % 2 ^ 32 ∧
          word u.mem 3 = flags / 2 * 2 + 1)) ∧
      (gen ≠ e → exec (.swait d a b) s = .next (advance (writeReg s d (BitVec.ofNat 64 gen)))) ∧
      (gen = e → Polls s (.swait d a b) (.sync (va.toNat % 2 ^ 48))))) ∧
  (∀ (s : State), Invariant s →
    (s.arrivals = [] → exec .syncArrival s = .next s) ∧
    (∀ pa n rest, s.arrivals = (pa, n) :: rest →
      let target := memNat s.mem pa 4
      let count := memNat s.mem (pa + 4) 4
      let gen := memNat s.mem (pa + 8) 4
      let flags := memNat s.mem (pa + 12) 4
      (fifoTaken s pa = true → exec .syncArrival s = .next s) ∧
      (fifoTaken s pa = false → ∃ t, exec .syncArrival s = .next t ∧ t.arrivals = rest ∧ t.cores = s.cores ∧ t.sites = s.sites ∧ sameBytesBut s t (pa + 4) 12 ∧
        (flags % 2 = 0 ∨ target = 0 → memNat t.mem (pa + 4) 4 = min (count + n) 0xFFFFFFFF ∧ memNat t.mem (pa + 8) 4 = gen) ∧
        (flags % 2 = 1 → target ≠ 0 → count + n ≤ 0xFFFFFFFF → memNat t.mem (pa + 4) 4 = (count + n) % target ∧
          memNat t.mem (pa + 8) 4 = (gen + (count + n) / target) % 2 ^ 32) ∧
        (count + n ≤ 0xFFFFFFFF → memNat t.mem (pa + 12) 4 = flags) ∧
        (0xFFFFFFFF < count + n → memNat t.mem (pa + 12) 4 / 2 % 2 = 1 ∧ memNat t.mem (pa + 12) 4 % 2 = flags % 2))))

/-- BARR (R403, R404, R232): after the write-backs of a FENCE, the memory form counts one arrival in its word and gives the count it found;
the last arrival starts a new generation with no wait, and any other waits at the instruction until the generation has changed. The
fabric form traps at a gated site, gives 1 for a site of another panel, and for its own puts a control token on port L and waits until
one comes back. -/
def Obligations.BarriersCountArrivals : Prop :=
  (∀ (s : State) (d a b : Reg), (curCore s).wait = none →
    let va := readReg s a
    let n : Nat := (readReg s b).toNat % 2 ^ 32
    let u := fenceWb s
    let site : SiteId := BitVec.ofNat 14 va.toNat
    (n ≠ 0 → va.toNat % 8 ≠ 0 → ∃ t, exec (.barr d a b) s = .next t ∧ Trapped s t 0x03 (pcOf s) va 0) ∧
    (n ≠ 0 → va.toNat % 8 = 0 → ∀ s0 g0 v g, seqAccess s va 8 .atomic = .ok (s0, g0) → targetPoisoned s0 g0 .atomic = false →
      fenceDone u 6 = true → seqAccess u va 8 .atomic = .ok (v, g) → privDevice u g 8 = false → targetHeld u g .atomic = false →
      targetPoisoned (settle v g .atomic) g .atomic = false →
      let q := seqAtomic (settle v g .atomic) g 8 fun old => some
        (if n ≤ old % 2 ^ 32 + 1 then (old / 2 ^ 32 + 1) % 2 ^ 32 * 2 ^ 32 else old + 1)
      let w : WaitSt := { arrived := true, result := BitVec.ofNat 64 (q.2 % 2 ^ 32), gen := BitVec.ofNat 32 (q.2 / 2 ^ 32) }
      (n ≤ q.2 % 2 ^ 32 + 1 →
        exec (.barr d a b) s = .next (advance (writeReg (fenceInv q.1) d (BitVec.ofNat 64 (q.2 % 2 ^ 32))))) ∧
      (q.2 % 2 ^ 32 + 1 < n → exec (.barr d a b) s = .next (modCore q.1 fun c => { c with wait := some w }))) ∧
    (n = 0 → (siteOf s site).gated = false → fenceDone u 6 = true →
      (2 ^ 16 ≤ va.toNat ∨ siteOk site = false ∨ siteCore site ≠ s.cur →
        exec (.barr d a b) s = .next (advance (writeReg (fenceInv u) d 1))) ∧
      (va.toNat < 2 ^ 16 → siteOk site = true → siteCore site = s.cur → ∀ k : Nat, k = va.toNat / 2 ^ 14 % 4 → injFree u k site = true →
        exec (.barr d a b) s = .next (modCore (injPut k { kind := 5, seq := 0, eos := true, valid := 0, lanes := [] } u site) fun c =>
          { c with wait := some { arrived := true, fabric := true } }))) ∧
    (n = 0 → (siteOf s site).gated = true → ∃ t, exec (.barr d a b) s = .next t ∧ Trapped s t 0x10 (pcOf s) (site.zeroExtend 64) 0)) ∧
  (∀ (s : State) (d a b : Reg) (w : WaitSt), (curCore s).wait = some w → w.arrived = true →
    let va := readReg s a
    let site : SiteId := BitVec.ofNat 14 va.toNat
    (w.fabric = true →
      (controlOut s site = none → exec (.barr d a b) s = .next s) ∧
      (∀ k, controlOut s site = some k → ∃ u, exec (.barr d a b) s = .next (advance (writeReg (fenceInv u) d w.result)) ∧
        u.mem = s.mem ∧ u.cores = s.cores ∧ (chanOf u (chanKey site 9 k)).slots = dropControl (chanOf s (chanKey site 9 k)).slots)) ∧
    (w.fabric = false → ∀ u g, seqAccess s va 8 .atomic false false = .ok (u, g) → targetHeld s g .atomic = false →
      targetPoisoned u g .atomic = false →
      let q := seqAtomic u g 8 fun _ => none
      (q.2 / 2 ^ 32 ≠ w.gen.toNat → exec (.barr d a b) s = .next (advance (writeReg (fenceInv q.1) d w.result))) ∧
      (q.2 / 2 ^ 32 = w.gen.toNat → ∃ t, exec (.barr d a b) s = .next t ∧ pcOf t = pcOf s ∧ regsKept s t)))

/-- PUSHQ, DOCENT_PUSH and POPQ (R246, R248, R479, R482, Table 7.2): a push to a resident queue with room appends the value, a full
one gives FULL, a closed one CLOSED, one that is not there, or out of reach (log entry 90), NOQ; a push to a queue that is not
resident waits in the docent's list until its turn, which gives its status back: FULL and CLOSED change nothing, and a queue with room
holds the value in the queue RAM of its core or, when it is not resident, in the ring slot of its TAIL, with TAIL one higher and CLOSED
set by a closing push, and no other byte changed. POPQ takes the oldest entry of a queue of its own core into X[d] and its status
into X[b]. -/
def Obligations.QueuesAndDoorbells : Prop :=
  (∀ (s : State) (d a b : Reg) (c : Bool),
    let x := (readReg s a).toNat
    let q : BitVec 24 := BitVec.ofNat 24 x
    (curCore s).wait = none →
    (2 ^ 24 ≤ x ∨ queueDesc s q = none ∨ queueCutOff s q (queueDesc s q) = true → exec (.pushq d a b c) s = .next (advance (writeReg s d 4))) ∧
    (x < 2 ^ 24 → ∀ k, queueDesc s q = some k → queueCutOff s q (some k) = false →
      (k.closed = true → exec (.pushq d a b c) s = .next (advance (writeReg s d 3))) ∧
      (k.closed = false → ∀ r, residentQueue s q k = some r →
        (r.cap ≤ r.entries.length → exec (.pushq d a b c) s = .next (advance (writeReg s d 1))) ∧
        (r.entries.length < r.cap → ∃ u, exec (.pushq d a b c) s = .next (advance (writeReg u d 0)) ∧
          queueIn (coreOf u k.core) q = some { r with entries := r.entries ++ [readReg s b] } ∧
          (c = false → u.mem = s.mem ∧ ∀ p, p ≠ q → queueIn (coreOf u k.core) p = queueIn (coreOf s k.core) p))) ∧
      (k.closed = false → residentQueue s q k = none → ∃ t, exec (.pushq d a b c) s = .next t ∧ pcOf t = pcOf s ∧ regsKept s t ∧
        (dieOf t (queueDie q)).docent.held = (dieOf s (queueDie q)).docent.held ++ [(q, readReg s b, c, s.cur)] ∧ t.mem = s.mem))) ∧
  (∀ (s : State) (die : DieId) (q : BitVec 24) (v : Word) (c : Bool) (k : CoreId) (t : List (BitVec 24 × Word × Bool × CoreId)),
    (dieOf s die).docent.held = (q, v, c, k) :: t →
    let answers (st : Nat) (f : State → Prop) : Prop := ∃ u, exec (.docentPush die) s = .next u ∧ (dieOf u die).docent.held = t ∧
      (coreOf u k).wait = some { arrived := true, result := BitVec.ofNat 64 st, gen := 1 } ∧ f u
    (queueDesc s q = none → answers 4 fun u => u.mem = s.mem) ∧
    ∀ e, queueDesc s q = some e →
      (e.closed = true → answers 3 fun u => u.mem = s.mem ∧ ∀ p i, queueIn (coreOf u i) p = queueIn (coreOf s i) p) ∧
      (e.closed = false → ∀ r, residentQueue s q e = some r →
        (r.cap ≤ r.entries.length → answers 1 fun u => u.mem = s.mem ∧ queueIn (coreOf u e.core) q = some r) ∧
        (r.entries.length < r.cap → answers 0 fun u => queueIn (coreOf u e.core) q = some { r with entries := r.entries ++ [v] })) ∧
      (e.closed = false → residentQueue s q e = none →
        (2 ^ e.log2 ≤ (e.tail - e.head).toNat → answers 1 fun u => u.mem = s.mem) ∧
        ((e.tail - e.head).toNat < 2 ^ e.log2 → Memory.wf s.mem = true → (∀ d, (dieOf s d).forwards = []) →
          (∀ c ∈ s.cores, ∀ x ∈ c.2.l1, x.own = false) →
          let slot : Nat := e.ring + 8 * (e.tail.toNat % 2 ^ e.log2)
          (∀ a, a = slot ∨ a = e.pa → (∃ d, paKind a = .hbm d) ∧ unreachable s (queueDie q) a = false) →
          slot + 8 ≤ e.pa ∨ e.pa + 32 ≤ slot → answers 0 fun u =>
            leNat (memBytes u.mem slot 8) = v.toNat ∧ leNat (memBytes u.mem (e.pa + 8) 4) = e.head.toNat ∧
            leNat (memBytes u.mem (e.pa + 12) 4) = (e.tail.toNat + 1) % 2 ^ 32 ∧
            (∀ i, i < 64 → (BitVec.ofNat 64 (leNat (memBytes u.mem (e.pa + 16) 8))).getLsbD i =
              ((BitVec.ofNat 64 (leNat (memBytes s.mem (e.pa + 16) 8))).getLsbD i || (c && i == 27))) ∧
            ∀ a, (a < slot ∨ slot + 8 ≤ a) → (a < e.pa + 8 ∨ e.pa + 24 ≤ a) → memByte u.mem a = memByte s.mem a))) ∧
  (∀ (s : State) (d a b : Reg) (v : Word), (curCore s).wait = some { arrived := true, result := v, gen := 1 } → ∀ c,
    exec (.pushq d a b c) s = .next (advance (writeReg s d v))) ∧
  (∀ (s : State) (d a b : Reg) (k : QueueDesc),
    let x := (readReg s a).toNat
    let q : BitVec 24 := BitVec.ofNat 24 x
    (2 ^ 24 ≤ x ∨ queueDesc s q = none → exec (.popq d a b) s = .next (advance (writeReg (writeReg s d 0) b 4))) ∧
    (x < 2 ^ 24 → queueDesc s q = some k →
      (k.core ≠ s.cur ∨ residentQueue s q k = none →
        exec (.popq d a b) s = .next (advance (writeReg (writeReg s d 0) b 5))) ∧
      (k.core = s.cur → ∀ r, residentQueue s q k = some r →
        (r.entries = [] → exec (.popq d a b) s = .next (advance (writeReg (writeReg s d 0) b (if k.closed then 3 else 2)))) ∧
        (∀ e t, r.entries = e :: t → ∃ u, exec (.popq d a b) s = .next (advance (writeReg (writeReg u d e) b 0)) ∧
          queueIn (curCore u) q = some { r with entries := t, popped := r.popped + 1 } ∧ u.mem = s.mem ∧
          (curCore u).regs = (curCore s).regs))))

/-- DOORBELL and OVERRUN_CLEAR (R253, Table 7.6): a doorbell write that names the last index again, or comes to a page that is not enabled,
changes nothing but its list; one further ahead than the ring is long sets OVERRUN alone; one ahead admits the records of the
ring in order and moves LAST, counting those refused, and waits in the list where a record must be tried later; writes of one page
are handled in their order; the docent of a die that is gone holds the write. -/
def Obligations.DoorbellsAdmitRecordsInOrder : Prop :=
  ∀ (s : State) (d : DieId) (p : BitVec 8) (v : BitVec 32),
    let b := notifyOf s d p.toNat
    let n := (v - b.last).toNat
    let now (t : State) := notifyOf t d p.toNat
    (∃ t, exec (.overrunClear d p) s = .next t ∧ now t = { b with overrun := false } ∧ t = { s with dies := t.dies } ∧
      ∀ e, e ≠ d → dieOf t e = dieOf s e) ∧
    (let w : State := if b.todo.head? = some v then s else modNotify s d p.toNat fun k => { k with todo := k.todo ++ [v] };
      exec (.doorbell d p v) s = .next (if dieGone s d = true then w else handleDoorbell w d p.toNat)) ∧
    (b.todo = [] →
      (dieGone s d = true → ∃ t, exec (.doorbell d p v) s = .next t ∧ now t = { b with todo := [v] } ∧ t.slices = s.slices ∧ t.mem = s.mem) ∧
      (dieGone s d = false →
        (n = 0 ∨ b.en = false → ∃ t, exec (.doorbell d p v) s = .next t ∧ now t = b ∧ t.slices = s.slices ∧ t.mem = s.mem) ∧
        (n ≠ 0 → b.en = true → 2 ^ b.log2.toNat < n → ∃ t, exec (.doorbell d p v) s = .next t ∧ now t = { b with overrun := true } ∧
          t.slices = s.slices ∧ t.mem = s.mem) ∧
        (n ≠ 0 → b.en = true → n ≤ 2 ^ b.log2.toNat → ∃ t, exec (.doorbell d p v) s = .next t ∧
          (((now t).last = v ∧ (now t).todo = []) ∨
            ((now t).todo = [v] ∧ 0 < (v - (now t).last).toNat ∧ (v - (now t).last).toNat ≤ n))) ∧
        (n = 1 → b.en = true →
          let w : State := modNotify s d p.toNat fun k => { k with todo := [v] }
          ∀ u q, admitRecord w d (notifyOf w d p.toNat) b.last = (u, q) →
            (q = 2 ∨ q = 3 → exec (.doorbell d p v) s = .next u) ∧
            (q ≠ 2 → q ≠ 3 → (now u).refused ≠ 0xFFFFFFFF → ∃ t, exec (.doorbell d p v) s = .next t ∧ t.slices = u.slices ∧ t.mem = u.mem ∧
              (now t).last = (now u).last + 1 ∧ (now t).todo = [] ∧
              (now t).refused = (now u).refused + (if q = 4 ∨ q = 5 then 1 else 0)))))

/-- SPAWN (R99, R105, R107, R499): a misaligned record traps; one that is not well formed gives BADREC; one with no dependencies left to
wait for makes its slice at once and gives 0, once the spawner's write-backs have performed; one with DEPCOUNT above the releases that have come stays in the table of its key and
gives 1; a second spawn of a key gives BADREC.
NOTIFY and RELEASE (R107, R468 to R470): a release that comes before the record leaves an entry with balance −1, one that comes to
an entry takes one from its balance, and one that brings the balance to zero makes the slice and takes the entry away. NOTIFY gives 0
after the write-backs of its slice, 4 for a wrong die and 5 for one that is gone or cannot be reached, and traps when the key is
misaligned. -/
def Obligations.SpawnsAndReleases : Prop :=
  (∀ (s : State) (d a b : Reg),
    let va := readReg s a
    let place := readReg s b
    (va.toNat % 64 ≠ 0 → ∃ t, exec (.spawn d a b) s = .next t ∧ Trapped s t 0x03 (pcOf s) va 0) ∧
    (va.toNat % 64 = 0 → ∀ u g, seqAccess s va 64 .load = .ok (u, g) → privDevice s g 64 = false → targetHeld s g .load = false →
      targetPoisoned (settle u g .load) g .load = false →
      let v := (seqRead (settle u g .load) g 64).1
      let r := (seqRead (settle u g .load) g 64).2
      (recordOk r = false ∨ 128 ≤ place.toNat → exec (.spawn d a b) s = .next (advance (writeReg v d 4))) ∧
      ((curCore s).sup = true ∨ (bitsAt 0 48 (recWord r 1) ≠ 0 ∧
          bitsAt 48 3 (recWord r 0) ≤ ((curSlice v).map (·.cls.toNat)).getD 0) →
        recordOk r = true → place.toNat < 128 → ∀ w m e rs, spawnReads v r = .ok (w, m, e) →
        parseManifest 8 (recordsOf m) 0 [] = .ok rs →
        let x := cleanRegions w w.cur (curCore s).regs.ptBase rs readable
        let key := va.toNat
        writesDone x x.cur = true → cutOff x (curDie x) (keyDie key) = false →
        let dep : Nat := bitsAt 16 8 (recWord r 2)
        (pendFind x key = none → 0 < dep → (dieOf x (keyDie key)).pending.length < 4096 →
          ∃ y p, exec (.spawn d a b) s = .next (advance (writeReg y d 1)) ∧ pendFind y key = some p ∧ p.balance = dep ∧
            p.record = some r ∧ p.place = place ∧ y.slices = x.slices) ∧
        (pendFind x key = none → 4096 ≤ (dieOf x (keyDie key)).pending.length → 0 < dep →
          exec (.spawn d a b) s = .next (advance (writeReg x d 3))) ∧
        (∀ p, pendFind x key = some p → p.record.isSome → exec (.spawn d a b) s = .next (advance (writeReg x d 4))) ∧
        (∀ p, pendFind x key = some p → p.record = none → 0 < p.balance + dep →
          ∃ y q, exec (.spawn d a b) s = .next (advance (writeReg y d 1)) ∧ pendFind y key = some q ∧ q.balance = p.balance + dep ∧
            q.record = some r) ∧
        (pendFind x key = none → dep = 0 → ∀ k slot, place.toNat < 64 → k = BitVec.ofNat 6 place.toNat →
          dieGone x (dieOfCore k) = false → cutOff x (curDie x) (dieOfCore k) = false → (x.slices.filter (memberOf (BitVec.ofNat 16 (bitsAt 0 16 (recWord r 2))))).length < 64 →
          freeSlot x k = some slot →
          ∃ y l, exec (.spawn d a b) s = .next (advance (writeReg y d 0)) ∧ l ∈ y.slices ∧ l.core = k ∧ l.slot = slot ∧
            l.state = .created ∧ l.record = va ∧ l.wid.toNat = recWord r 5 ∧ l.regs.x[1] = va ∧
            l.id.toNat % 2 ^ 16 = k.toNat * 32 + slot.toNat)))) ∧
  (let released (x y : State) (v : Nat) : Prop :=
    (pendFind x v = none → (dieOf x (keyDie v)).pending.length < 4096 → ∃ p, pendFind y v = some p ∧ p.balance = -1 ∧ p.record = none) ∧
    (∀ p, pendFind x v = some p → p.record = none → ∃ q, pendFind y v = some q ∧ q.balance = p.balance - 1 ∧ q.record = none) ∧
    (∀ p, pendFind x v = some p → p.record.isSome → p.balance ≠ 1 →
      ∃ q, pendFind y v = some q ∧ q.balance = p.balance - 1 ∧ q.record = p.record) ∧
    (∀ p r u, pendFind x v = some p → p.record = some r → p.balance = 1 → p.notices.length ≤ 8 →
      tryCreate x (keyDie p.key) p.place p.spawnDie (entryBirth { p with balance := 0 } r) = .ok u →
      pendFind y v = none ∧ y.slices = u.slices)
  (∀ (s : State) (die : DieId) (key : Word), keyDie key.toNat = die → (dieOf s die).lost = false →
    (∀ p, pendFind s key.toNat = some p → p.key = key.toNat ∧ p.notices.length ≤ 8) →
    ∃ t, exec (.release die key) s = .next t ∧ released s t key.toNat) ∧
  (∀ (s : State) (d a b : Reg),
    let v := readReg s a
    let k := readReg s b
    (4 ≤ k.toNat ∨ k.toNat ≠ (keyDie v.toNat).toNat → exec (.notify d a b) s = .next (advance (writeReg s d 4))) ∧
    (k.toNat = (keyDie v.toNat).toNat →
      (v.toNat % 64 ≠ 0 → ∃ t, exec (.notify d a b) s = .next t ∧ Trapped s t 0x03 (pcOf s) v 0) ∧
      (v.toNat % 64 = 0 → dieGone s (keyDie v.toNat) = true ∨ cutOff s (curDie s) (keyDie v.toNat) = true →
        exec (.notify d a b) s = .next (advance (writeReg s d 5))) ∧
      (v.toNat % 64 = 0 → dieGone s (keyDie v.toNat) = false → cutOff s (curDie s) (keyDie v.toNat) = false →
        let x := cleanRegions s s.cur (curRoot s) (curRegions s) fun r => writable r && (r.action == 1 || r.action == 2)
        fenceDone x 6 = true → (∀ p, pendFind x v.toNat = some p → p.key = v.toNat ∧ p.notices.length ≤ 8) →
        (pendFind x v.toNat = none → (dieOf x (keyDie v.toNat)).pending.length < 4096) →
        ∃ y, exec (.notify d a b) s = .next (advance (writeReg y d 0)) ∧ released x y v.toNat))) ∧
  (∀ (s : State) (die : DieId), dueEntries s die = [] → exec (.pendingRetry die) s = .next s) ∧
  (∀ (s u : State) (die : DieId) (e : PendEntry) (r : List Byte), dueEntries s die = [e] → e.record = some r →
    tryCreate s (keyDie e.key) e.place e.spawnDie (entryBirth e r) = .ok u → exec (.pendingRetry die) s = .next (pendPut u e.key none)))

/-- SLICE_PLACEMENT and SLICE_ADMISSION (R94, R206, R207, R204, R205, R244, Table 6.5): placement reads manifest and actors and admits the
slice, or lets it wait; a slice that placement refuses is retired without running, and its cohort supervisor's list takes the trap, or
all waits for a place there. A slice may be admitted when its cohort is resident with room for its queues, the table of its die has
room for its records (log entry 92), and no record but its spawner's is of its address space, shares an address with one of its
regions (for the window, of its own core), and has a mode that conflicts. Admission takes a waiting one that may come, whose records
join the table. -/
def Obligations.SlicesArePlacedAndAdmitted : Prop :=
  let now (t : State) (i : BitVec 32) (f : Slice → Prop) : Prop := ∃ k, findSlice t i = some k ∧ f k
  (∀ (s u : State) (i : BitVec 32) (l : Slice) (rs : List Region) (acts : List Actor),
    findSlice s i = some l → l.state = .created → readPlacement s l = .ok (u, rs, acts) → findSlice u i = some l →
    let m : Slice := { l with regions := rs, actors := acts, sent := none }
    ∃ t, exec (.slicePlacement i) s = .next t ∧
      (mayAdmit u m = true → now t i (fun k => k.state = .resident ∧ k.regions = rs ∧ k.actors = acts) ∧
        (dieOf t (dieOfCore l.core)).conflicts = (dieOf u (dieOfCore l.core)).conflicts ++
          rs.map fun r => { slice := i, asid := l.regs.asid, core := l.core, region := r }) ∧
      (mayAdmit u m = false → now t i (fun k => k.state = .waiting ∧ k.regions = rs ∧ k.actors = acts) ∧ t.dies = u.dies)) ∧
  (∀ (s : State) (l : Slice), mayAdmit s l = true ↔
    let table := (dieOf s (dieOfCore l.core)).conflicts
    let writes (m : BitVec 3) : Prop := m = 1 ∨ m = 2
    cohortState s (dieOfCore l.core) l.cohort = 0 ∧ queuesFit s l.cohort = true ∧ table.length + l.regions.length ≤ 1024 ∧
      ∀ r ∈ l.regions, ∀ c ∈ table, some c.slice ≠ l.spawner → ¬ (l.regs.asid.toNat % 2 ^ 16 = c.asid.toNat % 2 ^ 16 ∧
        r.base < c.region.base + c.region.extent ∧ c.region.base < r.base + r.extent ∧
        (r.base / 2 ^ 48 = 0xF0 → c.core = l.core) ∧
        (writes r.mode ∨ writes c.region.mode ∨ (r.mode = 3 ∧ c.region.mode ≠ 3) ∨ (r.mode ≠ 3 ∧ c.region.mode = 3) ∨
          (r.mode = 4 ∧ c.region.mode = 4)))) ∧
  (∀ (s : State) (i : BitVec 32) (l : Slice) (r : Refused), findSlice s i = some l → l.state = .created → readPlacement s l = .error r →
    let k := superCore s l.cohort (dieOfCore l.core)
    (16 ≤ (coreOf s k).supTraps.length → exec (.slicePlacement i) s = .next s) ∧
    ((coreOf s k).supTraps.length < 16 → ∃ t x, exec (.slicePlacement i) s = .next t ∧
      now t i (fun m => m.state = .retired ∧ m.actors = []) ∧ (coreOf t k).supTraps = (coreOf s k).supTraps ++ [x] ∧
      x.cause = 0x01 ∧ x.slice = i ∧ x.addr = r.addr)) ∧
  (∀ (s : State) (i : BitVec 32), (∀ l, findSlice s i = some l → l.state ≠ .created) → exec (.slicePlacement i) s = .next s) ∧
  (∀ (s : State) (die : DieId),
    (∀ l, waitingOn s die = [l] → findSlice s l.id = some l →
      ∃ t, exec (.sliceAdmission die) s = .next t ∧
        (mayAdmit s l = false → now t l.id (fun k => k.state = .waiting) ∧ (dieOf t die).conflicts = (dieOf s die).conflicts) ∧
        (mayAdmit s l = true → now t l.id (fun k => k.state = .resident ∧ k.regions = l.regions) ∧
          (dieOf t die).conflicts = (dieOf s die).conflicts ++
            l.regions.map fun r => { slice := l.id, asid := l.regs.asid, core := l.core, region := r })))

/-- SLICE_RETIREMENT and FORWARD_NOTICE (R209, R210, R242, R433): a slice that ends with no active region and no held record is retired once
its write-backs have performed and its releases have been sent, and waits until then; a forward notice is handled once, by a prefetch
or by a copy into the scratchpad. -/
def Obligations.SlicesAreRetired : Prop :=
  let now (t : State) (i : BitVec 32) (f : Slice → Prop) : Prop := ∃ k, findSlice t i = some k ∧ f k
  (∀ (s : State) (i : BitVec 32),
    ((∀ l, findSlice s i = some l → l.state ≠ .retiring) → exec (.sliceRetirement i) s = .next s) ∧
    (∀ l, findSlice s i = some l → l.state = .retiring →
      (s.placements.any fun p => p.owner == i && p.active) = false → (coreOf s l.core).deferred = [] →
      let retires : Prop := ∃ t, exec (.sliceRetirement i) s = .next t ∧ now t i (fun k => k.state = .retired ∧ k.actors = [])
      (l.killed = true → retires) ∧
      (l.killed = false →
        let x := cleanRegions (freeBanks (discardOwned s i) l) l.core l.regs.ptBase l.regions fun r =>
          writable r && (r.action == 1 || r.action == 2)
        (writesDone x l.core = false → exec (.sliceRetirement i) s = .next x) ∧
        (writesDone x l.core = true → l.nsucc = 0 → retires) ∧
        (writesDone x l.core = true → ∀ y, (sendReleases l (l.nsucc - l.released) x l.released = (y, true) → retires) ∧
          (sendReleases l (l.nsucc - l.released) x l.released = (y, false) → exec (.sliceRetirement i) s = .next y))))) ∧
  (∀ (s : State) (i : BitVec 32) (l : Slice) (n : Notice) (ns : List Notice), findSlice s i = some l → l.state = .resident →
    l.notices = n :: ns →
    (n.region.fwdsp = false → ∃ t, exec (.forwardNotice i) s = .next t ∧ now t i (fun k => k.notices = ns)) ∧
    (n.region.fwdsp = true → ∀ u, copyRegion s l n = .ok u →
      ∃ t, exec (.forwardNotice i) s = .next t ∧ now t i (fun k => k.notices = ns) ∧ t.mem = u.mem ∧ t.poison = u.poison))

/-- CFLD and CFSW (R415 to R418): a catalogue entry that is not there, an origin that is none and a refused load give their status; a
load that is allowed writes the context of every site of its rectangle, wakes gated sites, and adds one placement of the issuing slice
that is not active, or waits for a slot of the core's domain. A switch to a number at which nothing is placed, or to a pattern that is
not the slice's, gives EMPTY; to its active pattern ACTIVE, unless DRAIN stopped it: then admission resumes with DONE; one over a pattern of another
live slice gives OWNED, over one that reaches beyond its sites SPAN, over one with a wavefront ARMED, in this order; one that nothing
bars and whose sites are quiet makes the pattern active, and waits while they are not. -/
def Obligations.LoadsAndSwitches : Prop :=
  ∀ (s : State) (d a b : Reg) (c : BitVec 2),
    let status (i : Instr) (u : State) (n : Nat) : Prop := exec i s = .next (advance (writeReg u d (BitVec.ofNat 64 n)))
    (curSlice s = none → status (.cfld d a b c) s 2 ∧ (∀ o, originOf (readReg s a) = some o → status (.cfsw d a c) s 5)) ∧
    (originOf (readReg s a) = none → status (.cfsw d a c) s 3) ∧
    (∀ l, curSlice s = some l →
      (2 ^ 16 ≤ (readReg s a).toNat → status (.cfld d a b c) s 2) ∧
      ((readReg s a).toNat < 2 ^ 16 → readImage s { whoSeq s with checked := false } (readReg s a).toNat = none →
        status (.cfld d a b c) s 2) ∧
      ((readReg s a).toNat < 2 ^ 16 → ∀ u im, readImage s { whoSeq s with checked := false } (readReg s a).toNat = some (u, im) →
        (originOf (readReg s b) = none → status (.cfld d a b c) u 3) ∧
        (∀ o, originOf (readReg s b) = some o →
          (∀ v, loadCheck u im o c = some v → exec (.cfld d a b c) s = .next (advance (writeReg u d v))) ∧
          (loadCheck u im o c = none → configSlots u (rectSites o im.rows im.cols) = false → exec (.cfld d a b c) s = .next s) ∧
          (loadCheck u im o c = none → configSlots u (rectSites o im.rows im.cols) = true →
            ∃ w, status (.cfld d a b c) w 0 ∧
              (∀ i, i < im.rows * im.cols → (siteOf w (siteAt im o i)).gated = false ∧
                ∃ x, (siteOf w (siteAt im o i)).ctxs[c.toNat]? = some (some x) ∧ x.owner = l.id ∧ x.origin = o) ∧
              ∃ p ∈ w.placements, p.origin = o ∧ p.ctx = c ∧ p.owner = l.id ∧ p.active = false ∧ p.rows = im.rows ∧ p.cols = im.cols))) ∧
      (∀ o, originOf (readReg s a) = some o → placementAt s o c = none → status (.cfsw d a c) s 5) ∧
      (∀ o p, originOf (readReg s a) = some o → placementAt s o c = some p →
        let there (q : Placement) : Prop := q ∈ s.placements ∧ q.active = true ∧ ∃ x ∈ q.sites, x ∈ p.sites
        let owned : Prop := ∃ q, there q ∧ q.owner ≠ l.id ∧ ∃ m, findSlice s q.owner = some m ∧ liveSlice m = true
        let spans : Prop := ∃ q, there q ∧ ∃ x ∈ q.sites, x ∉ p.sites
        let armed : Prop := ∃ q, there q ∧ q.armed ≠ none
        (p.owner ≠ l.id → status (.cfsw d a c) s 5) ∧
        (p.owner = l.id → p.active = true → p.drainOwn = true →
          ∃ w, status (.cfsw d a c) w 0 ∧ ∃ q ∈ w.placements, q.origin = o ∧ q.ctx = c ∧ q.stopped = false ∧ q.draining = false) ∧
        (p.owner = l.id → p.active = true → p.drainOwn = false → status (.cfsw d a c) s 1) ∧
        (p.owner = l.id → p.active = false →
          (owned → status (.cfsw d a c) s 6) ∧ (¬ owned → spans → status (.cfsw d a c) s 7) ∧
          (¬ owned → ¬ spans → armed → status (.cfsw d a c) s 8)) ∧
        (p.owner = l.id → p.active = false → ¬ owned → ¬ spans → ¬ armed →
          (readyToSwitch s p = false → exec (.cfsw d a c) s = .next s) ∧
          (readyToSwitch s p = true → ∃ w, status (.cfsw d a c) w 0 ∧
            (∃ q ∈ w.placements, q.origin = o ∧ q.ctx = c ∧ q.active = true) ∧
            ∀ x ∈ p.sites, (siteOf w x).on = true ∧ (siteOf w x).act = c))))

/-- CFWV, DRAIN and QWAIT (R419, R426, R427, R485, R486): DRAIN and QWAIT give PLACE for an operand that is no site, EMPTY where no region
is active or its owner is no live slice, OWNED for that of another live slice, and FROZEN for a frozen one;
CFWV of a pattern of the region's size arms the wavefront; DRAIN stops admission, sends its markers and gives DONE when they have left
and the region is quiet; QWAIT ends when the region is quiet, or complete, polls in place up to 64 times meanwhile, and then suspends
its firing, which watches the region. -/
def Obligations.RegionsAreDrainedAndAwaited : Prop :=
  ∀ (s : State) (d a b : Reg) (c : BitVec 2),
    let status (i : Instr) (u : State) (n : Nat) : Prop := exec i s = .next (advance (writeReg u d (BitVec.ofNat 64 n)))
    let both (n : Nat) : Prop := status (.drain d a) s n ∧ status (.qwait d a b) s n
    (originOf (readReg s a) = none → both 3) ∧
    (∀ o, originOf (readReg s a) = some o → activeRegion s o = none → both 5) ∧
    (∀ o p, originOf (readReg s a) = some o → activeRegion s o = some p → (curSlice s).map (·.id) ≠ some p.owner →
      ((∃ l m, curSlice s = some l ∧ findSlice s p.owner = some m ∧ liveSlice m = true) → both 6) ∧
      (¬ (∃ l m, curSlice s = some l ∧ findSlice s p.owner = some m ∧ liveSlice m = true) → both 5)) ∧
    (∀ o p, originOf (readReg s a) = some o → activeRegion s o = some p → (curSlice s).map (·.id) = some p.owner →
      (p.frozen = true → status (.drain d a) s 9 ∧ status (.qwait d a b) s 9) ∧
      (p.frozen = false →
        let met : Bool := if (readReg s b).getLsbD 0 then p.complete else reportedQuiet s p
        (drained s p = true → status (.drain d a) s 0) ∧
        (drained s p = false → p.draining = false → ∃ t, exec (.drain d a) s = .next t ∧ pcOf t = pcOf s ∧ t.cores = s.cores ∧
          ∃ q ∈ t.placements, q.origin = p.origin ∧ q.ctx = p.ctx ∧ q.stopped = true ∧ q.draining = true) ∧
        (drained s p = false → p.draining = true → exec (.drain d a) s = .next s) ∧
        (met = true → status (.qwait d a b) s 0) ∧
        (met = false → Polls s (.qwait d a b) (.region p.origin)))) ∧
    (originOf (readReg s b) = none → status (.cfwv d a b c) s 3) ∧
    (∀ o l, originOf (readReg s b) = some o → curSlice s = some l →
      ((∀ p, activeRegion s o = some p → p.owner ≠ l.id) → status (.cfwv d a b c) s 5) ∧
      (∀ p, activeRegion s o = some p → p.owner = l.id →
        2 ^ 16 ≤ (readReg s a).toNat ∨ readImage s { whoSeq s with checked := false } (readReg s a).toNat = none →
        status (.cfwv d a b c) s 2) ∧
      (∀ p u im, activeRegion s o = some p → p.owner = l.id → (readReg s a).toNat < 2 ^ 16 →
        readImage s { whoSeq s with checked := false } (readReg s a).toNat = some (u, im) →
        ((im.rows, im.cols) ≠ (p.rows, p.cols) → status (.cfwv d a b c) s 7) ∧
        ((im.rows, im.cols) = (p.rows, p.cols) → p.armed.isSome → status (.cfwv d a b c) s 8) ∧
        (∀ v, (im.rows, im.cols) = (p.rows, p.cols) → p.armed = none → loadCheck u im o c = some v →
          exec (.cfwv d a b c) s = .next (advance (writeReg u d v))) ∧
        ((im.rows, im.cols) = (p.rows, p.cols) → p.armed = none → loadCheck u im o c = none →
          configSlots u (rectSites o im.rows im.cols) = true →
          ∃ w, status (.cfwv d a b c) w 0 ∧ ∃ q ∈ w.placements, q.origin = o ∧ q.ctx = p.ctx ∧ q.armed = some c)))

/-- INJ and DRAW on a track of port L (R428, R429, R449, R450, R284): INJ puts a token with the descriptor's head and the 64 bytes at the
address on the track of its site, or of every site of its panel row that is not gated and of the core's domain, when each has a free
slot, and waits while one has none; where an entry port is declared the token joins its queue. With no address it only closes the entry
port declared there. DRAW takes the oldest token of the L output, gives its head, and stores its lanes where an address is given; an
empty open port is waited for, and an empty closed one, a bad descriptor, a site of another panel or domain and a gated site give their
status, the last with NODE pending (log entry 105). -/
def Obligations.InjectAndDraw : Prop :=
  ∀ (s : State) (d a b : Reg),
    let v := readReg s a
    let va := readReg s b
    let x : SiteId := BitVec.ofNat 14 v.toNat
    let t : Nat := v.toNat / 2 ^ 14 % 4
    let kind : Nat := v.toNat / 2 ^ 45 % 8
    let inKey := x.toNat * 128 + 4 * 8 + t
    let outKey := x.toNat * 128 + 9 * 8 + t
    let made (k : Token) (bytes : List Byte) : Prop :=
      k.kind.toNat = kind ∧ k.seq.toNat = v.toNat / 2 ^ 32 % 2 ^ 12 ∧ k.eos = v.getLsbD 44 ∧ k.valid.toNat = v.toNat / 2 ^ 16 % 2 ^ 16 ∧
        ∀ l, l < 16 → ((k.lanes[l]?).getD 0).toNat = leNat ((bytes.drop (4 * l)).take 4)
    let full (w : State) (key : Nat) : Prop :=
      4 ≤ (chanOf w key).slots.length + (chanOf w key).flight.length + (chanOf w key).freed
    let head (k : Token) (r : Word) : Prop :=
      r.toNat = k.kind.toNat * 2 ^ 45 + (if k.eos then 2 ^ 44 else 0) + k.seq.toNat * 2 ^ 32 + k.valid.toNat * 2 ^ 16
    let mine : Prop := siteOk x = true ∧ siteCore x = s.cur ∧ domainOf s x = coreDomain s s.cur
    (∀ r c, 2 ^ 48 ≤ v.toNat ∨ (kind ≠ 0 ∧ kind ≠ 5) ∨ (va = 0 ∧ c = false) →
      exec (.inj d a b r c) s = .next (advance (writeReg s d 2))) ∧
    (v.toNat < 2 ^ 48 → kind = 0 ∨ kind = 5 → va ≠ 0 → siteOk x = false ∨ siteCore x ≠ s.cur →
      ∀ r c, exec (.inj d a b r c) s = .next (advance (writeReg s d 1))) ∧
    (v.toNat < 2 ^ 48 → kind = 0 ∨ kind = 5 → va ≠ 0 → mine → ∀ c,
      ((siteOf s x).gated = true → ∃ u, exec (.inj d a b false c) s = .next u ∧ Trapped s u 0x10 (pcOf s) (x.zeroExtend 64) 0) ∧
      ((siteOf s x).gated = false → va.toNat % 64 ≠ 0 → ∃ u, exec (.inj d a b false c) s = .next u ∧ Trapped s u 0x03 (pcOf s) va 0) ∧
      ((siteOf s x).gated = false → va.toNat % 64 = 0 → ∀ u g, seqAccess s va 64 .load = .ok (u, g) → privDevice s g 64 = false →
        targetHeld s g .load = false → targetPoisoned (settle u g .load) g .load = false →
        let w := (seqRead (settle u g .load) g 64).1
        let bytes := (seqRead (settle u g .load) g 64).2
        (portAt w false x 4 t = none →
          (¬ full w inKey → ∃ y k, exec (.inj d a b false false) s = .next (advance (writeReg y d 0)) ∧ made k bytes ∧
            (∀ j, j ≠ inKey → chanOf y j = chanOf w j) ∧
            ((chanOf w inKey).flight = [] → (chanOf y inKey).slots = (chanOf w inKey).slots ++ [k]) ∧
            ((chanOf w inKey).flight ≠ [] → (chanOf y inKey).flight = (chanOf w inKey).flight ++ [(k, x, false)])) ∧
          (full w inKey → exec (.inj d a b false c) s = .next s)) ∧
        (∀ p i, portAt w false x 4 t = some (p, i) →
          let queue := entryKey p.ctx 4 (x, t)
          ((chanOf w queue).slots.length < 4 → ∃ y k, exec (.inj d a b false false) s = .next (advance (writeReg y d 0)) ∧ made k bytes ∧
            (chanOf y queue).slots = (chanOf w queue).slots ++ [k] ∧ ∀ j, j ≠ queue → chanOf y j = chanOf w j) ∧
          (4 ≤ (chanOf w queue).slots.length → exec (.inj d a b false c) s = .next s)))) ∧
    (v.toNat < 2 ^ 48 → kind = 0 ∨ kind = 5 → va = 0 → mine → (siteOf s x).gated = false →
      (portAt s false x 4 t = none → exec (.inj d a b false true) s = .next (advance (writeReg s d 0))) ∧
      (∀ p i, portAt s false x 4 t = some (p, i) → ∃ u, exec (.inj d a b false true) s = .next (advance (writeReg u d 0)) ∧
        u = { s with placements := u.placements } ∧ ∃ q ∈ u.placements, q.origin = p.origin ∧ q.ctx = p.ctx ∧ i ∈ q.closed)) ∧
    (v.toNat < 2 ^ 48 → kind = 0 ∨ kind = 5 → va ≠ 0 → siteOk x = true → siteCore x = s.cur →
      let there (y : SiteId) : Prop := (∃ j, j < 18 ∧ y = mkSite (siteDie x) (siteRow x) (siteCol x / 18 * 18 + j)) ∧
        (siteOf s y).gated = false ∧ domainOf s y = coreDomain s s.cur
      ((∀ y, ¬ there y) → ∀ c, ∃ u, exec (.inj d a b true c) s = .next u ∧ Trapped s u 0x10 (pcOf s) (x.zeroExtend 64) 0) ∧
      (va.toNat % 64 = 0 → ∀ u g, seqAccess s va 64 .load = .ok (u, g) → privDevice s g 64 = false → targetHeld s g .load = false →
        targetPoisoned (settle u g .load) g .load = false →
        let w := (seqRead (settle u g .load) g 64).1
        let bytes := (seqRead (settle u g .load) g 64).2
        let key (y : SiteId) : Nat := y.toNat * 128 + 4 * 8 + t
        (∃ y, there y) → (∀ y, there y → portAt w false y 4 t = none ∧ (chanOf w (key y)).flight = []) →
        ((∃ y, there y ∧ full w (key y)) → ∀ c, exec (.inj d a b true c) s = .next s) ∧
        ((∀ y, there y → ¬ full w (key y)) → ∃ z k, exec (.inj d a b true false) s = .next (advance (writeReg z d 0)) ∧ made k bytes ∧
          (∀ y, there y → (chanOf z (key y)).slots = (chanOf w (key y)).slots ++ [k]) ∧
          ∀ j, (∀ y, there y → j ≠ key y) → chanOf z j = chanOf w j))) ∧
    (2 ^ 16 ≤ v.toNat → exec (.draw d a b) s = .next (advance (writeReg s d (BitVec.ofNat 64 (2 * 2 ^ 56))))) ∧
    (v.toNat < 2 ^ 16 → ¬ mine → exec (.draw d a b) s = .next (advance (writeReg s d (BitVec.ofNat 64 (2 ^ 56))))) ∧
    (v.toNat < 2 ^ 16 → mine → (siteOf s x).gated = false → va = 0 →
      (∀ k rest, (chanOf s outKey).slots = k :: rest → ∃ u r, exec (.draw d a b) s = .next (advance (writeReg u d r)) ∧
        (chanOf u outKey).slots = rest ∧ (chanOf u outKey).freed = (chanOf s outKey).freed + 1 ∧ u.mem = s.mem ∧ u.cores = s.cores ∧
        head k r) ∧
      ((chanOf s outKey).slots = [] →
        ((∃ p i, portAt s true x 4 t = some (p, i) ∧ i ∈ p.closed) →
          exec (.draw d a b) s = .next (advance (writeReg s d (BitVec.ofNat 64 (3 * 2 ^ 56))))) ∧
        ((∀ p i, portAt s true x 4 t = some (p, i) → i ∉ p.closed) → Polls s (.draw d a b) (.output x (BitVec.ofNat 2 t))))) ∧
    (v.toNat < 2 ^ 16 → mine → (siteOf s x).gated = true → ∃ u, exec (.draw d a b) s = .next (advance (writeReg u d (BitVec.ofNat 64 (4 * 2 ^ 56)))) ∧
      u.chans = s.chans ∧ u.mem = s.mem ∧ ∀ l, curSlice s = some l →
        (curCore u).pendNode = (curCore s).pendNode ++ [{ site := x, catid := 0xFFFF, kind := 5, slice := l.id }]) ∧
    (v.toNat < 2 ^ 16 → mine → (siteOf s x).gated = false → va ≠ 0 →
      (va.toNat % 64 ≠ 0 → ∃ u, exec (.draw d a b) s = .next u ∧ Trapped s u 0x03 (pcOf s) va 0) ∧
      (va.toNat % 64 = 0 → ∀ k rest u g, (chanOf s outKey).slots = k :: rest → seqAccess s va 64 .store = .ok (u, g) →
        privDevice s g 64 = false → targetHeld s g .store = false →
        let lanes : List Byte := (List.range 16).flatMap fun l =>
          leBytes 4 (if k.kind = 0 ∨ k.kind = 5 then ((k.lanes[l]?).getD 0).toNat else 0)
        let z := seqWrite (settle u g .store) g lanes
        ∃ y r, exec (.draw d a b) s = .next (advance (writeReg y d r)) ∧ head k r ∧ y.mem = z.mem ∧ y.cores = z.cores ∧
          (chanOf y outKey).slots = (chanOf z outKey).slots.drop 1))

/-- SELV and CURD (R58, R423, R424, R492, Table 13.25): in supervisor mode ASSIGN gives every site of a free rectangle its domain, closes
the gateways of its links both ways, and leaves other sites and gateways, OPEN and CLOSE change one gateway, and a bad or a busy rectangle gives its status; in slice mode they raise PRIV. CURD reads
an item of a site the core may see, and wakes the site; a descriptor or an item that is none gives all ones. -/
def Obligations.DomainsAndCuratorState : Prop :=
  ∀ (s : State) (d a b : Reg),
    let v := (readReg s a).toNat
    let x : SiteId := BitVec.ofNat 14 v
    let m := (readReg s b).toNat
    let rows : Nat := v / 2 ^ 16 % 2 ^ 7
    let cols : Nat := v / 2 ^ 24 % 2 ^ 7
    let form : Prop := v < 2 ^ 31 ∧ v / 2 ^ 23 % 2 = 0 ∧ v / 2 ^ 14 % 4 = 0 ∧ m < 16 ∧ rows ≠ 0 ∧ cols ≠ 0
    let inside : Prop := siteRow x + rows ≤ 32 ∧ siteCol x + cols ≤ 72 ∧ dieGone s (siteDie x) = false
    let site (i j : Nat) : SiteId := mkSite (siteDie x) (siteRow x + i) (siteCol x + j)
    let busy : Prop := ∃ i j, i < rows ∧ j < cols ∧ siteBusy s (site i j) = true
    let all (i : Instr) (u : State) (n : Nat) : Prop := exec i s = .next (advance (writeReg u d (BitVec.ofNat 64 n)))
    let port : Nat := v / 2 ^ 16 % 4
    let track : Nat := v / 2 ^ 18 % 8
    let gate : Prop := v < 2 ^ 31 ∧ v / 2 ^ 21 % 2 ^ 10 = 0 ∧ v / 2 ^ 14 % 4 = 0 ∧ m < 16 ∧ track ≤ 3 ∧ siteOk x = true ∧
      ∀ y, neighbour x port = some y → siteDie y = siteDie x
    ((curCore s).sup = false → ∀ i, i ∈ ([.selvAssign d a b, .selvOpen d a b, .selvClose d a b] : List Instr) →
      ∃ t, exec i s = .next t ∧ Trapped s t 0x0D (pcOf s) 0 0) ∧
    ((curCore s).sup = true →
      (¬ form → all (.selvAssign d a b) s 3) ∧
      (form → ¬ inside → all (.selvAssign d a b) s 1) ∧
      (form → inside → busy → all (.selvAssign d a b) s 2) ∧
      (form → inside → ¬ busy → ∃ u, all (.selvAssign d a b) u 0 ∧ u.mem = s.mem ∧ u.cores = s.cores ∧
        (∀ i j, i < rows → j < cols → (domainOf u (site i j)).toNat = m) ∧
        (∀ y, (∀ i j, i < rows → j < cols → y ≠ site i j) → siteOf u y = siteOf s y) ∧
        ∀ g, g ∈ u.gateways ↔ g ∈ s.gateways ∧ ∀ i j p r, i < rows → j < cols → p < 4 → r < 4 →
          g ≠ (site i j).toNat * 32 + p * 4 + r ∧ ∀ y, neighbour (site i j) p = some y → g ≠ y.toNat * 32 + (p + 2) % 4 * 4 + r) ∧
      (gate → (∃ u, all (.selvOpen d a b) u 0 ∧ (∀ g, g ∈ u.gateways ↔ g ∈ s.gateways ∨ g = x.toNat * 32 + port * 4 + track) ∧
          u = { s with gateways := u.gateways }) ∧
        ∃ u, all (.selvClose d a b) u 0 ∧ u = { s with gateways := s.gateways.erase (x.toNat * 32 + port * 4 + track) })) ∧
    (5 < m ∨ 2 ^ 14 ≤ v ∨ siteOk x = false ∨ dieGone s (siteDie x) = true →
      exec (.curd d a b) s = .next (advance (writeReg s d 0xFFFFFFFFFFFFFFFF))) ∧
    (m ≤ 5 → v < 2 ^ 14 → siteOk x = true → dieGone s (siteDie x) = false →
      ((curCore s).sup = false → domainOf s x ≠ coreDomain s s.cur → ∃ t, exec (.curd d a b) s = .next t ∧ Trapped s t 0x0D (pcOf s) 0 0) ∧
      ((curCore s).sup = true ∨ (domainOf s x = coreDomain s s.cur ∧ (siteOf s x).gated = false) →
        ∃ u w, exec (.curd d a b) s = .next (advance (writeReg u d w)) ∧ (siteOf u x).drowsy = false ∧ u.mem = s.mem ∧ u.cores = s.cores ∧
          ((siteOf s x).gated = true → m ≠ 5 → w = 0) ∧
          ((siteOf s x).gated = false → m = 0 → w = (siteOf s x).fault) ∧
          ((siteOf s x).gated = false → m = 4 → w = (tblGet (dieOf s (siteDie x)).selvDrops (domainOf s x).toNat).getD 0) ∧
          ((siteOf s x).gated = false → 1 ≤ m → m ≤ 3 → ∀ i, i < 64 → (w.getLsbD i = true ↔ 64 * (m - 1) + i < 144 ∧
            (siteOf s (mkSite (siteDie x) (siteRow x / 8 * 8 + (64 * (m - 1) + i) / 18)
              (siteCol x / 18 * 18 + (64 * (m - 1) + i) % 18))).blocked = true)) ∧
          (m = 5 → w.toNat / 2 ^ 48 = (match activeCtx s x with | some c => c.catid.toNat | none => 0xFFFF) ∧
            w.getLsbD 10 = siteQuiet s x ∧ ∀ j, j < 4 → w.getLsbD (4 + j) = (((siteOf s x).ctxs[j]?).getD none).isSome) ∧
          (m = 5 → w.toNat / 2 ^ 12 % 16 = (siteOf s x).domain.toNat ∧ w.getLsbD 11 = (siteOf s x).frozen ∧
            w.getLsbD 9 = (siteOf s x).drowsy ∧ w.getLsbD 8 = (siteOf s x).gated ∧ w.toNat % 4 = (siteOf s x).act.toNat)))

/-- TTCLR, TTPAR, TTMASK and TTPOS (R322, R323, R325, R517): a free or an own tree is reset to its root alone; a node joins below a live
one, and what bars it gives its status; the mask of a live node is its own bit with the mask of its parent, and its position one
more than its parent's; a tree that is not the slice's reads as none.
TTPRUNE and PUBL (R229, R230, R327, R481, R518): a tree that is not the slice's, a number that is none and a node that is not live give
their status, and a misaligned descriptor traps; a prune waits for the commands that hold its cache, and one whose turn has come and whose
pages may be written leaves the chain of the node's path. PUBL of no bytes gives 0, waits while a command may still write there, gives 1 after one that faulted and 2 where a page is
no shadow page and for the window; a publication inverts VERSION in every entry of a leaf, here said of one leaf where no line is held
for atomics and nothing is on its way over another die, and leaves no line of what has become visible in an L1. -/
def Obligations.TreesAndPublication : Prop :=
  (∀ (s : State) (d a b : Reg) (t : BitVec 2),
    let x := (readReg s a).toNat
    let y := (readReg s b).toNat
    let r := treeOf s s.cur t
    let own : Prop := r.owner = some (curSliceId s)
    let live (n : Nat) : Prop := r.live.getLsbD n = true
    (r.owner = none ∨ own → ∃ u, exec (.ttclr d a t) s = .next (advance (writeReg u d 0)) ∧
      (treeOf u s.cur t).owner = some (curSliceId s) ∧ (treeOf u s.cur t).live = 1 ∧
      (treeOf u s.cur t).base.toNat = x % 2 ^ 48 ∧ ∀ k, k ≠ t → treeOf u s.cur k = treeOf s s.cur k) ∧
    (r.owner ≠ none → ¬ own → exec (.ttclr d a t) s = .next (advance (writeReg s d 3)) ∧
      exec (.ttpar d a b t) s = .next (advance (writeReg s d 3)) ∧ exec (.ttmask d a t) s = .next (advance (writeReg s d 0)) ∧
      exec (.ttpos d a t) s = .next (advance (writeReg s d 0xFFFFFFFFFFFFFFFF))) ∧
    (own →
      (63 < x ∨ 63 < y → exec (.ttpar d a b t) s = .next (advance (writeReg s d 5))) ∧
      (x = 0 → y ≤ 63 → exec (.ttpar d a b t) s = .next (advance (writeReg s d 4))) ∧
      (0 < x → x ≤ 63 → y ≤ 63 → x ≤ y ∨ ¬ live y → exec (.ttpar d a b t) s = .next (advance (writeReg s d 1))) ∧
      (x ≤ 63 → y < x → live y → live x → exec (.ttpar d a b t) s = .next (advance (writeReg s d 2))) ∧
      (x ≤ 63 → y < x → live y → ¬ live x → ∃ u, exec (.ttpar d a b t) s = .next (advance (writeReg u d 0)) ∧
        (treeOf u s.cur t).parentOf x = y ∧ (∀ n, n < 64 → (treeOf u s.cur t).live.getLsbD n = (r.live.getLsbD n || decide (n = x))) ∧
        ∀ n, n ≠ x → (treeOf u s.cur t).parentOf n = r.parentOf n) ∧
      (x ≤ 63 → live x → exec (.ttmask d a t) s = .next (advance (writeReg s d (r.mask x))) ∧
        exec (.ttpos d a t) s = .next (advance (writeReg s d (r.base.zeroExtend 64 + BitVec.ofNat 64 (r.depth x))))) ∧
      (63 < x ∨ ¬ live x → exec (.ttmask d a t) s = .next (advance (writeReg s d 0)) ∧
        exec (.ttpos d a t) s = .next (advance (writeReg s d 0xFFFFFFFFFFFFFFFF)))) ∧
    r.mask 0 = 1 ∧ r.depth 0 = 0 ∧
    ((∀ n, 0 < n → n < 64 → r.parentOf n < n) → ∀ n, 0 < n → n < 64 →
      (∀ i, i < 64 → (r.mask n).getLsbD i = (decide (i = n) || (r.mask (r.parentOf n)).getLsbD i)) ∧
      r.depth n = r.depth (r.parentOf n) + 1)) ∧
  (∀ (s : State) (d a b : Reg) (t : BitVec 2),
    let x := (readReg s a).toNat
    let y := readReg s b
    let r := treeOf s s.cur t
    let own : Prop := r.owner = some (curSliceId s)
    (¬ own → exec (.ttprune d a b t) s = .next (advance (writeReg s d 3))) ∧
    (own → 63 < x → exec (.ttprune d a b t) s = .next (advance (writeReg s d 5))) ∧
    (own → x ≤ 63 → r.live.getLsbD x = false → exec (.ttprune d a b t) s = .next (advance (writeReg s d 4))) ∧
    (own → x ≤ 63 → r.live.getLsbD x = true → y.toNat % 64 ≠ 0 → ∃ u, exec (.ttprune d a b t) s = .next u ∧ Trapped s u 0x03 (pcOf s) y 0) ∧
    (own → x ≤ 63 → r.live.getLsbD x = true → y.toNat % 64 = 0 →
      let w := whoNow s (curDie s)
      engCheckRange s w kvWrites y.toNat 64 = none → ∀ u tg, engCheck s w { acc := .engRead } y.toNat 64 = .ok (u, tg) →
      let home := memoryDie (curDie s) (tg.pa s.cur)
      let k : KvJob := { w := whoNow s home, strict := strictSlice s }
      let up : KvJob := { k with w := { k.w with checked := false }, hdr := .engRead }
      (kvBusy s (engineId home 18) y.toNat w.asid = true ∨ ((kvPlaces s k.w y.toNat).any fun p => backingHeld s k.w none p.1 p.2) = true →
        exec (.ttprune d a b t) s = .next (modCore s fun c => { c with wait := some { arrived := true } })) ∧
      (kvBusy s (engineId home 18) y.toNat w.asid = false →
      ((kvPlaces s k.w y.toNat).any fun p => backingHeld s k.w none p.1 p.2) = false → ∀ s1 bs, kvRead s k.w k.strict .engWrite y.toNat 64 = .ok (s1, bs) →
      kvOk bs = true → r.base.toNat + x + 1 ≤ (kvDesc bs).next → (kvDesc bs).next ≤ r.base.toNat + 64 →
      ∀ s2 ps s3, up.chain chainFuel s1 (kvDesc bs).head = .ok (s2, ps) →
      k.checkPages s2 (kvDesc bs).entry r.base.toNat (kvDesc bs).next ps = none →
      k.prune y.toNat r.base.toNat (kvDesc bs) (r.pathFrom 64 x).reverse ps s2 = .ok s3 →
      ∃ z, exec (.ttprune d a b t) s = .next (advance (writeReg z d 0)) ∧ z.mem = s3.mem ∧
        ∀ n, n < 64 → (treeOf z s.cur t).live.getLsbD n = decide (n ≤ r.depth x))) ∧
    (y = 0 → exec (.publ d a b) s = .next (advance (writeReg s d 0))) ∧
    (y ≠ 0 → ∀ f, formFault x y.toNat = some f ∨ (formFault x y.toNat = none ∧ checkManifest (whoSeq s) x y.toNat .publ = some f) →
      exec (.publ d a b) s = trapHere s f.cause f.addr f.detail) ∧
    (y ≠ 0 → formFault x y.toNat = none → checkManifest (whoSeq s) x y.toNat .publ = none →
      (x / 2 ^ 48 = 0xF0 →
        (publWaits s (curSliceId s) x y.toNat = true → exec (.publ d a b) s = .next s) ∧
        (publWaits s (curSliceId s) x y.toNat = false →
          exec (.publ d a b) s = .next (advance (writeReg s d (if publFaulted s x y.toNat then 1 else 2))))) ∧
      (x / 2 ^ 48 ≠ 0xF0 → ∀ ls,
        leavesOf s (curDie s) (curCore s).regs.ptBase.toNat (y.toNat / 4096 + 2) x (x + y.toNat) = .ok ls →
        (publWaits s (curSliceId s) x y.toNat = true → exec (.publ d a b) s = .next s) ∧
        (publWaits s (curSliceId s) x y.toNat = false →
          (publFaulted s x y.toNat = true → exec (.publ d a b) s = .next (advance (writeReg s d 1))) ∧
          (publFaulted s x y.toNat = false →
            ((∃ q ∈ ls, q.1.bit 9 = false) → exec (.publ d a b) s = .next (advance (writeReg s d 2))) ∧
            ((∀ q ∈ ls, q.1.bit 9 = true) → ∃ u, exec (.publ d a b) s = .next (advance (writeReg u d 0)) ∧
              (∀ q, ls = [q] → Memory.wf s.mem = true → (∀ e, (dieOf s e).forwards = []) →
                (∀ c ∈ s.cores, ∀ k ∈ c.2.l1, k.own = false) →
                let size : Nat := if q.1.span < 0x200000 then 0x1000 else if q.1.span < 0x40000000 then 0x200000 else 0x40000000
                let group : Nat := q.1.span / size
                let first : Nat := q.2 / (8 * group) * (8 * group)
                (∀ i, i < group → leNat (memBytes u.mem (first + 8 * i) 8) = leNat (memBytes s.mem (first + 8 * i) 8) ^^^ 1024) ∧
                sameBytesBut s u first (8 * group)) ∧
              ∀ q ∈ ls, ∀ c k, k ∈ (coreOf u c).l1 → k.line < hiddenBase q.1 / 64 ∨ (hiddenBase q.1 + q.1.span) / 64 ≤ k.line))))))

/-- The SX words at issue (R166, R309, R330, R536, R539 to R553, Table 12.6): a word whose answer is outstanding changes nothing; a word
whose checks hold stays at its address with its command on the way: operation, codes, the four operands from X[b] on, the issuing core,
slice and address, and the next MSGSEQ, to the engine that eng4 names (a stream to an engine of its own die, a KV word to the home
of its descriptor); XLOG raises PRIV in slice mode. -/
def Obligations.EngineWordsIssueTheirCommand : Prop :=
  ∀ (s : State) (e : BitVec 4) (b r : Reg),
    let A := readReg s b
    let B := readReg s (b + 1)
    let C := readReg s (b + 2)
    let D := readReg s (b + 3)
    let va (w : Word) : Nat := w.toNat % 2 ^ 56
    let die : DieId := e.truncate 2
    let sent (i : Instr) (u : State) (op : EngOp) (code : Nat) (target : EngineId) (record : List Byte) : Prop :=
      ∃ t x, exec i s = .next t ∧ t = modCore u (fun k => { k with msgSeq := k.msgSeq + 1, sx := some x }) ∧ x.reply = r ∧
        x.target = target ∧ x.cmd.op = op ∧ x.cmd.cmd6.toNat = code ∧ x.cmd.eng4 = e ∧
        (x.cmd.opA, x.cmd.opB, x.cmd.opC, x.cmd.opD) = (A, B, C, D) ∧ x.cmd.core = s.cur ∧ x.cmd.slice = curSliceId s ∧
        x.cmd.pc = pcOf s ∧ x.cmd.msgSeq = (curCore u).msgSeq ∧ x.cmd.payload = record ∧
        (x.cmd.asid, x.cmd.ptBase) = ((curCore s).regs.asid, (curCore s).regs.ptBase)
    let sync (v : Word) (lo en : Nat) : Prop := syncGate s (v.getLsbD en) (v.toNat / 2 ^ lo % 2 ^ 24) = none
    let cword : Prop := cwordGate s D = none
    let table (f : State → List Byte → Prop) : Prop := va A % 64 = 0 → ∀ u bs bad,
      engRead s (whoNow s die) { acc := .engRead } (va A) 64 = .ok (u, bs, bad) → (strictSlice s && bad.any id) = false →
        tableOk bs = true → f u bs
    let free (a n : Nat) : Prop := formFault a n = none ∧ checkManifest (whoSeq s) a n .engRead = none
    let index : Prop := va B % 4 = 0 ∧ (C.toNat % 2 ^ 32 = 0 ∨ free (va B) (4 * (C.toNat % 2 ^ 32)))
    let home (a : Acc) (f : EngineId → Prop) : Prop := va A % 64 = 0 → ∀ u tg,
      engCheck s (whoNow s (curDie s)) { acc := a } (va A) 64 = .ok (u, tg) → f (engineId (memoryDie (curDie s) (tg.pa s.cur)) 18)
    let all : List Instr := [.xcopyCopy e b r, .xcopyFill e b r, .xgatherPort e b r, .xgatherMem e b r, .xscatterWrite e b r,
      .xscatterAdd e b r, .xrowupd e b r, .xmigrate e b r, .xstream e b r, .xkvappAppend e b r, .xkvappEvict e b r, .xkvappFree e b r,
      .xkvsend e b r, .xreduceSum e b r, .xreduceMax e b r, .xreduceMin e b r, .xreduceGather e b r, .xprefBound e b r,
      .xprefUnbound e b r]
    ((curCore s).sx.isSome → ∀ i ∈ all, exec i s = .next s) ∧
    ((curCore s).sup = false → ∀ i, i ∈ ([.xlogAppend e b r, .xlogTrim e b r, .xlogStatus e b r] : List Instr) →
      ∃ t, exec i s = .next t ∧ Trapped s t 0x0D (pcOf s) 0 0) ∧
    ((curCore s).sx = none →
      (syncGate s (D.getLsbD 56) (C.toNat / 2 ^ 40 % 2 ^ 24) = none → cword →
        sent (.xcopyCopy e b r) s .copy 0 (engineId die 17) [] ∧ sent (.xcopyFill e b r) s .fill 1 (engineId die 17) []) ∧
      (sync C 32 56 → sent (.xprefBound e b r) s .prefBound 0 (engineId die 21) [] ∧
        sent (.xprefUnbound e b r) s .prefUnbound 1 (engineId die 21) []) ∧
      ((curCore s).sup = true → cword → sent (.xlogAppend e b r) s .logAppend 0 (engineId die 20) [] ∧
        sent (.xlogTrim e b r) s .logTrim 1 (engineId die 20) [] ∧ sent (.xlogStatus e b r) s .logStatus 2 (engineId die 20) []) ∧
      home .engWrite (fun t => appendGate s (sxCmd s .kvAppend 0 e b) = none → cword → sent (.xkvappAppend e b r) s .kvAppend 0 t []) ∧
      home .engWrite (fun t => va B % 8 = 0 → free (va B) (16 + 8 * (C.toNat % 2 ^ 32)) → cword →
        sent (.xkvappEvict e b r) s .kvEvict 1 t []) ∧
      home .engWrite (fun t => cword → sent (.xkvappFree e b r) s .kvFree 2 t []) ∧
      home .engRead (fun t => va B % 64 = 0 → cword → sent (.xkvsend e b r) s .kvSend 0 t []) ∧
      table (fun u bs => index → sync C 32 56 →
        (decodable (tableOf bs).fmt (D.toNat / 2 ^ 20 % 16) = true → sent (.xgatherPort e b r) u .gatherPort 0 (engineId die 16) bs) ∧
        sent (.xgatherMem e b r) u .gatherMem 1 (engineId die 16) bs) ∧
      table (fun u bs => index → sent (.xscatterWrite e b r) u .scatterWrite 0 (engineId die 16) bs ∧
        (decodable (tableOf bs).fmt 1 = true → sent (.xscatterAdd e b r) u .scatterAdd 1 (engineId die 16) bs) ∧
        (decodable (tableOf bs).fmt 1 = true → (tableOf bs).opt ≠ 0 → sent (.xrowupd e b r) u .rowUpd 0 (engineId die 16) bs)) ∧
      table (fun u bs => cword → sent (.xmigrate e b r) u .migrate 0 (engineId die 16) bs) ∧
      (va B % 8 = 0 → ∀ u bs bad,
        engRead s (whoNow s die) { acc := .engRead } (va B) (8 * (C.toNat / 2 ^ 32 % 16 + 1)) = .ok (u, bs, bad) →
        (strictSlice s && bad.any id) = false → cword →
        sent (.xreduceSum e b r) u .redSum 0 (engineId die 19) bs ∧ sent (.xreduceMax e b r) u .redMax 1 (engineId die 19) bs ∧
        sent (.xreduceMin e b r) u .redMin 2 (engineId die 19) bs ∧ sent (.xreduceGather e b r) u .redGather 3 (engineId die 19) bs) ∧
      (va A % 64 = 0 → ∀ u g, checkAccess s (whoSeq s) (va A) 64 .engRead false (fun l pa => seqPage l pa .load false) = .ok (u, g) →
        privDevice s g 64 = false → targetHeld s g .load = false → targetPoisoned (settle u g .load) g .load = false →
        let v := (seqRead (settle u g .load) g 64).1
        let c : Cmd := { sxCmd s .stream 0 e b with payload := (seqRead (settle u g .load) g 64).2 }
        streamOk c = true → syncGate v (c.field 4 28 1 == 1) (c.field 4 32 24) = none →
        (c.kind = 4 → c.base % 64 = 0 → engCheckRange v (whoNow v (curDie v)) { acc := .engRead } c.base 64 = none →
          sent (.xstream e b r) v .stream 0 (engineId (curDie s) e.toNat) c.payload) ∧
        (c.kind ≠ 4 → (c.kind = 2 → c.index % 4 = 0) → ∀ f k, firstPage v c = .ok (f, k) →
          streamRange v { c with esize := pageElem f c.form } (if f = 5 then some k else none) = none →
          firstGate v c = none →
          sent (.xstream e b r) v .stream 0 (engineId (curDie s) e.toNat) c.payload)))

/-- ENGINE_REPLY (R536, R71, Table 16.22): the answer to a core's outstanding SX word goes to X[r] with its MSGSEQ, and the core goes on. It is
BAD for operands past the limits of their entry, NODIE for a die that is gone, BUSY for a full engine or one that holds a deferred
record, and 0 for a command that joins its engine's queue. A stream engine answers in the domain's own class-1 slots (R71). -/
def Obligations.EnginesAnswer : Prop :=
  ∀ (s : State) (k : CoreId) (x : SxWait), (coreOf s k).sx = some x →
    let die := dieOfEngine x.target
    let u : State := { s with cur := k }
    let answered (y : State) (n : Nat) : Prop := (curCore y).sx = none ∧ y.cur = k ∧
      exec (.engineReply k) s = .next (advance (writeReg y x.reply (BitVec.ofNat 64 (n * 2 ^ 16 + x.cmd.msgSeq.toNat))))
    let cleared : State := modCore u fun c => { c with sx := none }
    let c : Cmd := { x.cmd with order := s.serial }
    (dieGone s die = false → intakeOpen u x.target k = false → exec (.engineReply k) s = .next s) ∧
    (dieGone s die = true ∨ intakeOpen u x.target k = true →
    (badCmd u die c = true → answered cleared 2) ∧
    (badCmd u die c = false → dieGone s die = true → answered cleared 3) ∧
    (badCmd u die c = false → dieGone s die = false → 64 ≤ loadOf u x.target ∨ (engineOf s x.target).held.isSome →
      answered cleared 1) ∧
    (badCmd u die c = false → dieGone s die = false → loadOf u x.target < 64 → (engineOf s x.target).held = none →
      (x.cmd.op ∉ ([.stream, .gatherPort, .prefBound, .prefUnbound] : List EngOp) → ∃ y, answered y 0 ∧
        (engineOf y x.target).queue = (engineOf s x.target).queue ++ [c] ∧ y.serial = s.serial + 1 ∧ y.mem = s.mem ∧
        (∀ j, j ≠ x.target → engineOf y j = engineOf s j) ∧ ∀ j, j ≠ k → coreOf y j = coreOf s j) ∧
      (x.cmd.op = .prefUnbound → ∃ y p, answered y 0 ∧ y.prefetches = s.prefetches ++ [p] ∧ p.eng = x.target ∧ p.cmd = c ∧
        p.page = x.cmd.opA.toNat % 2 ^ 56 ∧ p.stream = none) ∧
      (x.cmd.op = .prefBound → chaseOf u (engineId (dieOfCore x.cmd.core) (x.cmd.opB.toNat % 16)) = none → answered cleared 5) ∧
      (x.cmd.op = .stream ∨ x.cmd.op = .gatherPort → ∀ n, takePort u c = .error n → answered cleared n) ∧
      (x.cmd.op = .stream → ∀ p, takePort u c = .ok p → ∃ y w, answered y 0 ∧ w ∈ y.streams ∧ w.eng = x.target ∧ w.cmd = c ∧
        w.origin = p.origin ∧ w.ctx = p.ctx ∧ w.faulted = none)))

/-- What a source code of an E-word reads in a later stage (R373, Table 12.9): the stage registers, the loop counters, the constants, the
lane number, the low half of the owner's WID, VALID, and zero.
The integer E-words in a later stage (R522, R523, Tables 14.7 and 16.10): each valid lane of P[d] takes its result and nothing
else of the invocation changes. Operands are signed, or unsigned with N; a result is clamped with S.
The carry chain, VANC and VFSIGN in a later stage (R519, R521, R326, R529): without a carry in, VADDC and VSUBC leave the carry or
the borrow of each lane and VMULC the high half; VANC tells whether one live node is an ancestor of another, or itself, in the owner's
tree; VFSIGN gives the sign bit, and a NaN the canonical NaN. -/
def Obligations.IntegerLanes : Prop :=
  (∀ (s : State) (cx : Ctx) (k : Nat) (v : Inv), AtStage s cx k v → ∀ (c : Src) (l : Nat), l < 16 →
    srcLane s (stageEnv s cx v) c l =
      (if c.toNat < 4 then laneOf ((v.p[c.toNat]?).getD []) l
       else if c.toNat < 9 then 0
       else if c.toNat < 13 then (((siteOf s s.focus).cs[c.toNat - 9]?).getD 0)
       else if c.toNat < 21 then ((cx.ks[c.toNat - 13]?).getD 0)
       else if c = 21 then BitVec.ofNat 32 l
       else if c = 22 then (((findSlice s cx.owner).map fun l : Slice => l.wid).getD 0).truncate 32
       else if c = 24 then v.valid.zeroExtend 32
       else 0)) ∧
  (∀ (s : State) (cx : Ctx) (k : Nat) (v : Inv), AtStage s cx k v → computes v → k < 6 → ∀ (d : BitVec 2) (a b c : Src) (sat n : Bool) (p : BitVec 3),
    let lane (x : Src) (l : Nat) : W32 := srcLane s (stageEnv s cx v) x l
    let num (w : W32) : Int := if n then (w.toNat : Int) else w.toInt
    let clamp (r : Int) : Int :=
      if !sat then r else if n then max 0 (min r (2 ^ 32 - 1)) else max (-(2 ^ 31)) (min r (2 ^ 31 - 1))
    let gives (i : Instr) (f : Nat → W32) : Prop := ∃ t, exec i s = .next t ∧ LanesWritten s t k d v fun l w => w = f l
    let fits (i : Instr) (f : Nat → W32 → Prop) : Prop := ∃ t, exec i s = .next t ∧ LanesWritten s t k d v f
    let x (l : Nat) : W32 := lane a l
    let y (l : Nat) : W32 := lane b l
    let z (l : Nat) : W32 := lane c l
    let q (l : Nat) : Nat := (y l).toNat % 32
    let wide (l : Nat) : Nat := if (z l).toNat % 32 = 0 then 32 else (z l).toNat % 32
    let f (w : W32) : Machine.Num := decodeIeee fp32 w.toNat
    gives (.vnop d a) x ∧
    gives (.viadd d a b sat n) (fun l => BitVec.ofInt 32 (clamp (num (x l) + num (y l)))) ∧
    gives (.visub d a b sat n) (fun l => BitVec.ofInt 32 (clamp (num (x l) - num (y l)))) ∧
    gives (.vimul d a b sat n) (fun l => BitVec.ofInt 32 (clamp (num (x l) * num (y l)))) ∧
    gives (.vimulh d a b n) (fun l => BitVec.ofInt 32 (num (x l) * num (y l) / 2 ^ 32)) ∧
    gives (.vimad d a b c sat n) (fun l => BitVec.ofInt 32 (clamp (num (x l) * num (y l) + num (z l)))) ∧
    fits (.vand d a b) (fun l w => ∀ j, j < 32 → w.getLsbD j = ((x l).getLsbD j && (y l).getLsbD j)) ∧
    fits (.vor d a b) (fun l w => ∀ j, j < 32 → w.getLsbD j = ((x l).getLsbD j || (y l).getLsbD j)) ∧
    fits (.vxor d a b) (fun l w => ∀ j, j < 32 → w.getLsbD j = ((x l).getLsbD j != (y l).getLsbD j)) ∧
    fits (.vshl d a b) (fun l w => ∀ j, j < 32 → w.getLsbD j = (decide (q l ≤ j) && (x l).getLsbD (j - q l))) ∧
    fits (.vshr d a b) (fun l w => ∀ j, j < 32 → w.getLsbD j = (x l).getLsbD (j + q l)) ∧
    fits (.vsha d a b) (fun l w => ∀ j, j < 32 → w.getLsbD j = (x l).getLsbD (min (j + q l) 31)) ∧
    gives (.vimin d a b n) (fun l => if num (x l) ≤ num (y l) then x l else y l) ∧
    gives (.vimax d a b n) (fun l => if num (x l) ≤ num (y l) then y l else x l) ∧
    gives (.vicmp d a b p) (fun l =>
      let holds : Bool := match p.toNat with
        | 0 => x l == y l
        | 1 => x l != y l
        | 2 => decide ((x l).toInt < (y l).toInt)
        | 3 => decide ((y l).toInt ≤ (x l).toInt)
        | 4 => decide ((x l).toNat < (y l).toNat)
        | 5 => decide ((y l).toNat ≤ (x l).toNat)
        | 6 => ltNum (f (x l)) (f (y l))
        | _ => ltNum (f (y l)) (f (x l)) || eqNum (f (x l)) (f (y l))
      if holds then 1 else 0) ∧
    gives (.vsel d a b c) (fun l => if x l = 0 then z l else y l) ∧
    gives (.vhash d a b) (fun l =>
      let h1 := (x l ^^^ y l) * 0x9E3779B9
      let h2 := (h1 ^^^ (h1 >>> 15)) * 0xB7E15163
      h2 ^^^ (h2 >>> 16)) ∧
    fits (.vclz d a) (fun l w => w.toNat ≤ 32 ∧ (∀ j, j < w.toNat → (x l).getLsbD (31 - j) = false) ∧
      (w.toNat < 32 → (x l).getLsbD (31 - w.toNat) = true)) ∧
    fits (.vpopc d a) (fun l w => w.toNat = (List.range 32).countP fun j => (x l).getLsbD j) ∧
    fits (.vbfx d a b c n) (fun l w => ∀ j, j < 32 →
      w.getLsbD j = if j < wide l then (x l).getLsbD (q l + j) else (!n && (x l).getLsbD (q l + wide l - 1)))) ∧
  (∀ (s : State) (cx : Ctx) (k : Nat) (v : Inv), AtStage s cx k v → computes v → k < 6 → ∀ (d : BitVec 2) (a b c : Src) (o : Bool) (t : BitVec 2),
    let lane (x : Src) (l : Nat) : W32 := srcLane s (stageEnv s cx v) x l
    let x (l : Nat) : Nat := (lane a l).toNat
    let y (l : Nat) : Nat := (lane b l).toNat
    let z (l : Nat) : Nat := (lane c l).toNat
    let carries (i : Instr) (sum : Nat → Nat) (carry : Nat → Nat) : Prop := ∃ t w, exec i s = .next t ∧ PassedOn s t k w ∧
      (w.kind, w.seq, w.eos, w.valid) = (v.kind, v.seq, v.eos, v.valid) ∧
      ∀ l, l < 16 → v.valid.getLsbD l = true →
        (laneOf ((w.p[d.toNat]?).getD []) l).toNat = sum l ∧ (laneOf w.carry l).toNat = carry l
    let tree : Tree := treeOf s (siteCore cx.origin) t
    carries (.vaddc d a b o false) (fun l => (x l + y l) % 2 ^ 32) (fun l => (x l + y l) / 2 ^ 32) ∧
    carries (.vsubc d a b o false) (fun l => (x l + 2 ^ 32 - y l) % 2 ^ 32) (fun l => if x l < y l then 1 else 0) ∧
    carries (.vmulc d a b c o false) (fun l => (x l * y l + z l) % 2 ^ 32) (fun l => (x l * y l + z l) / 2 ^ 32) ∧
    (∃ u, exec (.vanc d a b t) s = .next u ∧ LanesWritten s u k d v fun l w =>
      w = if tree.owner = some cx.owner ∧ x l < 64 ∧ y l < 64 ∧ tree.live.getLsbD (x l) = true ∧ tree.live.getLsbD (y l) = true ∧
        (tree.mask (y l)).getLsbD (x l) = true then 1 else 0) ∧
    (∃ u, exec (.vfsign d a b t) s = .next u ∧ LanesWritten s u k d v fun l w =>
      if 0x7F800000 < x l % 2 ^ 31 then w = 0x7FC00000
      else (∀ j, j < 31 → w.getLsbD j = (lane a l).getLsbD j) ∧ w.getLsbD 31 =
        (if t = 0 then (lane b l).getLsbD 31 else if t = 1 then !(lane a l).getLsbD 31
         else if t = 2 then ((lane a l).getLsbD 31 != (lane b l).getLsbD 31) else false)))

/-- The float E-words in a later stage (R525, R526, R112, R115): each valid lane takes the correctly rounded sum, difference, product or
fused result, 0x7FC00000 for a NaN operand or an invalid operation, and with FZ a subnormal result becomes a zero of its sign. A
comparison with a NaN holds for UN alone.
The estimates in a later stage (R133 to R135, R528): the special values, and the powers on which they are exact. -/
def Obligations.FloatLanesAndEstimates : Prop :=
  (∀ (s : State) (cx : Ctx) (k : Nat) (v : Inv), AtStage s cx k v → computes v → k < 6 →
    ∀ (d : BitVec 2) (a b c : Src) (fz : Bool) (r : BitVec 3) (p : BitVec 2),
    let lane (x : Src) (l : Nat) : W32 := srcLane s (stageEnv s cx v) x l
    let f (x : Src) (l : Nat) : Machine.Num := decodeIeee fp32 (lane x l).toNat
    let mode : Rnd := rndOf r.toNat
    let flush (w : W32) : W32 := if fz && w.toNat / 2 ^ 23 % 2 ^ 8 == 0 then w &&& 0x80000000 else w
    let nan (x : Machine.Num) : Bool := match x with | .nan _ => true | _ => false
    let rounded (bad : Bool) (x : Machine.Num) (w : W32) : Prop :=
      w = if bad then 0x7FC00000 else flush (BitVec.ofNat 32 (roundNum fp32 mode x).1.code)
    let opposed (x y : Machine.Num) : Bool := match x, y with | .inf n, .inf m => n != m | _, _ => false
    let zeroTimesInf (x y : Machine.Num) : Bool :=
      match x, y with | .inf _, .fin _ 0 _ => true | .fin _ 0 _, .inf _ => true | _, _ => false
    let gives (i : Instr) (P : Nat → W32 → Prop) : Prop := ∃ t, exec i s = .next t ∧ LanesWritten s t k d v P
    gives (.vfadd d a b fz r) (fun l => rounded (nan (f a l) || nan (f b l) || opposed (f a l) (f b l)) (addNum mode (f a l) (f b l))) ∧
    gives (.vfsub d a b fz r) (fun l =>
      rounded (nan (f a l) || nan (f b l) || opposed (f a l) (negNum (f b l))) (addNum mode (f a l) (negNum (f b l)))) ∧
    gives (.vfmul d a b fz r) (fun l => rounded (nan (f a l) || nan (f b l) || zeroTimesInf (f a l) (f b l)) (mulNum (f a l) (f b l))) ∧
    gives (.vfma d a b c fz r) (fun l =>
      rounded (nan (f a l) || nan (f b l) || nan (f c l) || zeroTimesInf (f a l) (f b l) ||
        opposed (mulNum (f a l) (f b l)) (f c l)) (addNum mode (mulNum (f a l) (f b l)) (f c l))) ∧
    gives (.vfmin d a b) (fun l w => w = if nan (f a l) && nan (f b l) then 0x7FC00000 else if nan (f a l) then lane b l
      else if nan (f b l) then lane a l
      else if ltNum (f a l) (f b l) || (!ltNum (f b l) (f a l) && (lane a l).getLsbD 31) then lane a l else lane b l) ∧
    gives (.vfmax d a b) (fun l w => w = if nan (f a l) && nan (f b l) then 0x7FC00000 else if nan (f a l) then lane b l
      else if nan (f b l) then lane a l
      else if ltNum (f b l) (f a l) || (!ltNum (f a l) (f b l) && !(lane a l).getLsbD 31) then lane a l else lane b l) ∧
    gives (.vfcmp d a b p) (fun l w => w =
      if p = 3 then (if nan (f a l) || nan (f b l) then 1 else 0)
      else if nan (f a l) || nan (f b l) then 0
      else if p = 0 then (if ltNum (f a l) (f b l) || ltNum (f b l) (f a l) then 0 else 1)
      else if p = 1 then (if ltNum (f a l) (f b l) then 1 else 0)
      else (if ltNum (f b l) (f a l) then 0 else 1))) ∧
  (∀ (s : State) (cx : Ctx) (k : Nat) (v : Inv), AtStage s cx k v → computes v → k < 6 → ∀ (d : BitVec 2) (a : Src) (fz : Bool) (r : BitVec 3),
    let x (l : Nat) : Nat := (srcLane s (stageEnv s cx v) a l).toNat
    let isNan (l : Nat) : Prop := 0x7F800000 < x l % 2 ^ 31
    let gives (i : Instr) (P : Nat → W32 → Prop) : Prop := ∃ t, exec i s = .next t ∧ LanesWritten s t k d v P
    gives (.vfrcpe d a fz r) (fun l w =>
      (isNan l → w = 0x7FC00000) ∧ (x l % 2 ^ 31 = 0 → w.toNat = x l + 0x7F800000) ∧
      (x l % 2 ^ 31 = 0x7F800000 → w.toNat = x l - 0x7F800000) ∧
      ∀ e, 1 ≤ e → e ≤ 253 → x l % 2 ^ 31 = e * 2 ^ 23 → w.toNat = x l / 2 ^ 31 * 2 ^ 31 + (254 - e) * 2 ^ 23) ∧
    gives (.vfrsqe d a fz r) (fun l w =>
      (isNan l → w = 0x7FC00000) ∧ (2 ^ 31 < x l → x l ≤ 0xFF800000 → w = 0x7FC00000) ∧ (x l = 0 → w = 0x7F800000) ∧
      (x l = 2 ^ 31 → w = 0xFF800000) ∧ (x l = 0x7F800000 → w = 0) ∧
      ∀ e, e < 127 → x l = (2 * e + 1) * 2 ^ 23 → w.toNat = (190 - e) * 2 ^ 23) ∧
    gives (.vfexp2 d a fz r) (fun l w =>
      (isNan l → w = 0x7FC00000) ∧ (x l = 0xFF800000 → w = 0) ∧ (x l = 0x7F800000 → w = 0x7F800000) ∧
      (x l % 2 ^ 31 = 0 → w = 0x3F800000) ∧
      ∀ n : Int, -126 ≤ n → n ≤ 127 → (roundNum fp32 .rne (ofInt n)).1.code = x l → w = BitVec.ofInt 32 ((n + 127) * 2 ^ 23)))

/-- The converters in a later stage (R119 to R122, R136, R137, R139 to R141, R527, R530 to R532, Tables 16.14 and 16.20): each valid lane
takes its converted value: VFCVT by kind, VPQZ the P6 code in byte s of c, VPMUL the product with a P6 code, rounded once, and the
elementwise VRED the quotient by, or the sum with the logarithm of, a denominator.
A reducing VRED in stage 6 (R138, R532, R533, Table 16.20), said for one output of one track: stage 6 fires when that has a free slot
(R33); an invocation without EOS is absorbed and nothing goes on; the one with EOS ends the row in one token of kind 0, which is held
after stage 6 while its output has no room (log entry 103). SUMP gives the exact sum of the P6
values, in 32 bits, and the count of lanes in lanes 0 and 2; SUM adds lane by lane; MAX gives a value that no valid lane of the row
exceeds, or a NaN. -/
def Obligations.ConvertersAndReductions : Prop :=
  (∀ (s : State) (cx : Ctx) (k : Nat) (v : Inv), AtStage s cx k v → computes v → k < 6 →
    ∀ (d : BitVec 2) (a b c : Src) (fz : Bool) (r m : BitVec 3) (q : BitVec 2) (kind : BitVec 4),
    let lane (x : Src) (l : Nat) : W32 := srcLane s (stageEnv s cx v) x l
    let x (l : Nat) : Nat := (lane a l).toNat
    let y (l : Nat) : Nat := (lane b l).toNat
    let z (l : Nat) : Nat := (lane c l).toNat
    let mode : Rnd := rndOf r.toNat
    let fp (w : Nat) : Machine.Num := decodeIeee fp32 w
    let narrow (f : Fmt) (w : Nat) : Nat :=
      let code := (roundNum f mode (fp w)).1.code
      if fz && code / 2 ^ f.mant % 2 ^ f.expo == 0 then code / 2 ^ (f.mant + f.expo) * 2 ^ (f.mant + f.expo) else code
    let widen (n : Machine.Num) : Nat := (roundNum fp32 .rne n).1.code
    let nan (w : Nat) : Prop := 0x7F800000 < w % 2 ^ 31
    let p6 (w : Nat) : Nat := if w / 4 % 16 = 15 then 0 else (4 + w % 4) * 2 ^ (14 - w / 4 % 16)
    let byteOf (w n : Nat) : Nat := w / 2 ^ (8 * n) % 2 ^ 8
    let gives (i : Instr) (P : Nat → W32 → Prop) : Prop := ∃ t, exec i s = .next t ∧ LanesWritten s t k d v P
    gives (.vfcvt d a b c kind fz r) (fun l w =>
      (kind = 0 → w = BitVec.ofInt 32 (toInt mode 32 false (fp (x l))).1) ∧
      (kind = 1 → w.toNat = (roundNum fp32 mode (ofInt (lane a l).toInt)).1.code) ∧
      (kind = 2 → w = BitVec.ofInt 32 (toInt mode 32 true (fp (x l))).1) ∧
      (kind = 3 → w.toNat = (roundNum fp32 mode (ofInt (x l))).1.code) ∧
      (kind = 4 → w.toNat = narrow bf16 (y l) * 2 ^ 16 + narrow bf16 (x l)) ∧
      (kind = 5 → w.toNat = narrow fp16 (y l) * 2 ^ 16 + narrow fp16 (x l)) ∧
      (kind = 6 → w.toNat = z l / 2 ^ 16 * 2 ^ 16 + narrow f8 (y l) * 2 ^ 8 + narrow f8 (x l)) ∧
      (kind = 7 → w.toNat = narrow f8 (y l) * 2 ^ 24 + narrow f8 (x l) * 2 ^ 16 + z l % 2 ^ 16) ∧
      (kind = 8 → w.toNat = widen (decodeIeee bf16 (x l % 2 ^ 16))) ∧ (kind = 9 → w.toNat = widen (decodeIeee bf16 (x l / 2 ^ 16))) ∧
      (kind = 10 → w.toNat = widen (decodeIeee fp16 (x l % 2 ^ 16))) ∧ (kind = 11 → w.toNat = widen (decodeIeee fp16 (x l / 2 ^ 16))) ∧
      (kind = 12 → w.toNat = widen (decodeF8 (byteOf (x l) (y l % 4)))) ∧
      (kind = 13 → w.toNat = widen (.fin false (p6 (byteOf (x l) (y l % 4))) (-16)))) ∧
    gives (.vpqz d a c q) (fun l w =>
      let code := byteOf w.toNat q.toNat
      (∀ n, n < 4 → n ≠ q.toNat → byteOf w.toNat n = byteOf (z l) n) ∧
      (nan (x l) ∨ x l = 0xFF800000 → code = 0x3C) ∧ (¬ nan (x l) → x l < 2 ^ 31 ∨ x l = 2 ^ 31 → code = 0) ∧
      (2 ^ 31 < x l → x l < 0xFF800000 → ∀ n : Nat, 0 < n → n < 200 →
        let t := addNum .rne (fp (x l)) (ofInt n)
        ltNum t (ofInt 0) = false → ltNum t (ofInt 1) = true →
        let part : Nat := if ltNum t (fp 0x3E2E00D2) then 0 else if ltNum t (fp 0x3EEB3A9F) then 1 else if ltNum t (fp 0x3F335004) then 2
          else if ltNum t (fp 0x3F6829FB) then 3 else 4
        code = (if part = 4 then (if n ≤ 15 then 4 * (n - 1) else 0x3C) else if n < 15 then 4 * n + part else 0x3C))) ∧
    gives (.vpmul d a b q) (fun l w =>
      let code := byteOf (y l) q.toNat
      (nan (x l) → w = 0x7FC00000) ∧ (x l % 2 ^ 31 = 0x7F800000 → w.toNat = if code / 4 % 16 = 15 then 0x7FC00000 else x l) ∧
      (x l % 2 ^ 31 < 0x7F800000 → w.toNat = if code / 4 % 16 = 15 then 0 else widen (mulNum (fp (x l)) (.fin false (p6 code) (-16))))) ∧
    (4 ≤ m.toNat → gives (.vred d a b m fz r) (fun l w =>
      (m = 4 → y l = 0 → w = 0) ∧ (m = 4 → y l ≠ 0 → nan (x l) → w = 0x7FC00000) ∧
      (m = 4 → y l ≠ 0 → ¬ nan (x l) → w.toNat = widen (divNum (fp (x l)) (.fin false (y l) (-16)))) ∧
      (m = 5 → y l = 0 → w = 0xFF800000) ∧ (m = 5 → y l ≠ 0 → nan (x l) → w = 0x7FC00000) ∧
      (m = 5 → y l = 2 ^ 16 → ¬ nan (x l) → x l % 2 ^ 31 ≠ 0 → w.toNat = x l) ∧
      (m = 6 → y l = 0 ∨ x l % 2 ^ 8 / 4 % 16 = 15 → w = 0) ∧
      (m = 6 → y l ≠ 0 → x l % 2 ^ 8 / 4 % 16 ≠ 15 →
        w.toNat = widen (divNum (.fin false (p6 (x l % 2 ^ 8)) (-16)) (.fin false (y l) (-16))))))) ∧
  (∀ (s : State) (cx : Ctx) (v : Inv) (o : OutSel) (y : SiteId) (q z : Nat), AtStage s cx 6 v → computes v →
    outSels cx = [o] → o.width = 0 → hasFork cx = false → steerBack cx = none → cntlOf cx = none → (carryOf cx).1 = false →
    swmCopies cx o.port o.track = [] → outDest s s.focus o.port o.track false = some (y, q, z) →
    arcOf s s.focus 6 = none → ∀ (d : BitVec 2) (a b : Src) (r m : BitVec 3), m.toNat < 4 →
    let x := s.focus
    let i : Instr := .vred d a b m false r
    let key := chanKey y q z
    let lane (l : Nat) : W32 := srcLane s (stageEnv s cx v) a l
    let n := (siteOf s x).node
    let lanes : List Nat := (List.range 16).filter fun l => v.valid.getLsbD l
    let p6 (w : Nat) : Nat := if w / 4 % 16 = 15 then 0 else (4 + w % 4) * 2 ^ (14 - w / 4 % 16)
    let total : Nat := (if n.rowOpen then n.sum else 0) + (lanes.map fun l => p6 ((lane l).toNat % 2 ^ 8)).sum
    let counted : Nat := (if n.rowOpen then n.count else 0) + lanes.length
    let acc (l : Nat) : W32 := if n.rowOpen then laneOf n.acc l else 0
    (v.eos = false → outFree s x o.port o.track = true → ∃ t, exec i s = .next t ∧ arcOf t x 5 = none ∧ t.chans = s.chans ∧ t.mem = s.mem ∧
      (siteOf t x).node.rowOpen = true ∧ (siteOf t x).node.absorbed = (if n.rowOpen then n.absorbed else 0) + 1 ∧
      (m = 3 → (siteOf t x).node.sum = min 0xFFFFFFFF total ∧ (siteOf t x).node.count = counted)) ∧
    (outFree s x o.port o.track = false → v.eos = false → exec i s = .next s) ∧
    (outFree s x o.port o.track = false → v.eos = true → ∃ t w, exec i s = .next t ∧ arcOf t x 5 = none ∧ arcOf t x 6 = some w ∧
      w.kind = 0 ∧ w.seq = v.seq ∧ w.eos = true ∧ (siteOf t x).node.rowOpen = false ∧ t.chans = s.chans) ∧
    (v.eos = true → outFree s x o.port o.track = true → ∃ t k, exec i s = .next t ∧ arcOf t x 5 = none ∧
      (siteOf t x).node.rowOpen = false ∧ t.mem = s.mem ∧ (chanOf t key).flight = (chanOf s key).flight ++ [(k, x, false)] ∧
      (∀ j, j ≠ key → chanOf t j = chanOf s j) ∧ k.kind = 0 ∧ k.seq = v.seq ∧ k.eos = true ∧ (m = 3 → k.valid = 7) ∧
      (m ≠ 3 → k.valid = 0xFFFF) ∧
      (o.preg = d.toNat →
        (m = 3 → (laneOf k.lanes 0).toNat = min 0xFFFFFFFF total ∧ (laneOf k.lanes 2).toNat = counted % 2 ^ 32) ∧
        (m = 2 → ∀ l, l < 16 → laneOf k.lanes l = if v.valid.getLsbD l
          then (fpAdd (rndOf r.toNat) (decodeIeee fp32 (acc l).toNat) (decodeIeee fp32 (lane l).toNat)).1 else acc l) ∧
        (m = 0 → ((∃ l ∈ lanes, isNan32 (lane l) = true) → ∀ l, l < 16 → laneOf k.lanes l = 0x7FC00000) ∧
          (n.rowOpen = false → (∀ l ∈ lanes, isNan32 (lane l) = false) → ∀ j, j < 16 → ∀ l ∈ lanes,
            ltNum (decodeIeee fp32 (laneOf k.lanes j).toNat) (decodeIeee fp32 (lane l).toNat) = false)))))

/-- The flow words of one invocation in a later stage (R421, R430, R440, R442, R445, R477, R502, R508, R512): FORK and CNTL move a word, FILT
clears VALID where its predicate fails and STEER notes it, PERM and SPLAT move lanes, TAGSEQ numbers the token from the third loop
counter and ends its row, ECOUNT counts its lanes and drops those above 63, GEN writes the work identifiers of its invocation's number.
HOLEs and drain markers pass every word that computes without a change (R45, R258). -/
def Obligations.FlowWordsAndHoles : Prop :=
  (∀ (s : State) (cx : Ctx) (k : Nat) (v : Inv), AtStage s cx k v → computes v → k < 6 →
    ∀ (d : BitVec 2) (a b : Src) (e f : Bool) (p : BitVec 3) (n : BitVec 4) (m : BitVec 2),
    let lane (x : Src) (l : Nat) : W32 := srcLane s (stageEnv s cx v) x l
    let fp (w : W32) : Machine.Num := decodeIeee fp32 w.toNat
    let holds (x y : W32) : Bool := match p.toNat with
      | 0 => x == y
      | 1 => x != y
      | 2 => decide (x.toInt < y.toInt)
      | 3 => decide (y.toInt ≤ x.toInt)
      | 4 => decide (x.toNat < y.toNat)
      | 5 => decide (y.toNat ≤ x.toNat)
      | 6 => ltNum (fp x) (fp y)
      | _ => ltNum (fp y) (fp x) || eqNum (fp x) (fp y)
    let out (w : Inv) (l : Nat) : W32 := laneOf ((w.p[d.toNat]?).getD []) l
    let passes (i : Instr) (P : State → Inv → Prop) : Prop := ∃ t w, exec i s = .next t ∧ PassedOn s t k w ∧ P t w ∧ w.kind = v.kind ∧
      ∀ j, j < 4 → j ≠ d.toNat → (w.p[j]?).getD [] = (v.p[j]?).getD []
    let moved (w : Inv) : Prop := ∀ l, l < 16 → w.valid.getLsbD l = true → out w l = lane a l
    let head (w : Inv) : Prop := w.seq = v.seq ∧ w.eos = v.eos
    let from_ (l : Nat) : Nat := if m = 0 then (lane b l).toNat % 16 else if m = 1 then l ^^^ n.toNat else (l + n.toNat) % 16
    let big (l : Nat) : Bool := decide (64 ≤ (lane a l).toNat)
    let counter : W32 := ((siteOf s s.focus).cs[3]?).getD 0
    let core := siteCore s.focus
    passes (.fork d a) (fun t w => head w ∧ w.valid = v.valid ∧ moved w ∧ t.cores = s.cores) ∧
    passes (.cntl d a e f) (fun t w => head w ∧ w.valid = v.valid ∧ moved w ∧ t.cores = s.cores) ∧
    passes (.filt d a b p) (fun t w => head w ∧ moved w ∧ t.cores = s.cores ∧
      ∀ l, l < 16 → w.valid.getLsbD l = (v.valid.getLsbD l && holds (lane a l) (lane b l))) ∧
    passes (.steer d a b e p) (fun t w => head w ∧ w.valid = v.valid ∧ moved w ∧ t.cores = s.cores ∧
      ∀ l, l < 16 → w.mask.getLsbD l = holds (lane a l) (lane b l)) ∧
    passes (.perm d a b n e m) (fun t w => head w ∧ t.cores = s.cores ∧
      (∀ l, l < 16 → w.valid.getLsbD l = v.valid.getLsbD (if e then from_ l else l)) ∧
      ∀ l, l < 16 → w.valid.getLsbD l = true → out w l = lane a (from_ l)) ∧
    passes (.splat d a n) (fun t w => head w ∧ w.valid = v.valid ∧ t.cores = s.cores ∧ ∀ l, l < 16 → out w l = lane a n.toNat) ∧
    ((siteOf s s.focus).cs.length = 4 → passes (.tagseq d a) (fun t w => w.valid = v.valid ∧ moved w ∧ t.cores = s.cores ∧ w.eos = true ∧
      w.seq.toNat = counter.toNat % 4096 ∧ (((siteOf t s.focus).cs[3]?).getD 0).toNat = (counter.toNat % 4096 + 1) % 4096)) ∧
    ((∀ o, (coreOf s core).counterOwner = some o → o = cx.owner) → passes (.ecount d a) (fun t w => head w ∧ moved w ∧
      (coreOf t core).counterOwner = some cx.owner ∧
      (∀ l, l < 16 → w.valid.getLsbD l = (v.valid.getLsbD l && !big l)) ∧
      ∀ j, j < 64 → ((((coreOf t core).counters[j]?).getD 0).toNat = min 0xFFFFFFFF ((((coreOf s core).counters[j]?).getD 0).toNat +
        (List.range 16).countP fun l => v.valid.getLsbD l && decide ((lane a l).toNat = j))))) ∧
    (let node := (siteOf s s.focus).node
     let o := node.offset
     let j : Nat := v.gen
     let base : Nat := if e then (((findSlice s cx.owner).map fun l : Slice => l.wid.toNat).getD 0)
       else ((cx.ks[1]?).getD 0).toNat * 2 ^ 32 + ((cx.ks[0]?).getD 0).toNat
     passes (.gen d e f p) (fun t w => head w ∧ w.valid = v.valid ∧ t.cores = s.cores ∧
       ∀ l, l < 16 → (out w l).toNat =
         (let id := (base + (16 * j + l) * 2 ^ o) % 2 ^ 64
          if f then id / 2 ^ 32 else id % 2 ^ 32)))) ∧
  (∀ (s : State) (cx : Ctx) (k : Nat) (v : Inv), AtStage s cx k v → v.kind = 6 ∨ v.kind = 2 → k < 6 →
    ∀ (d : BitVec 2) (a b c : Src) (e f : Bool) (p : BitVec 3) (n : BitVec 4) (m : BitVec 2) (i : Instr),
    i ∈ ([.viadd d a b e f, .visub d a b e f, .vimul d a b e f, .vimulh d a b f, .vimad d a b c e f, .vand d a b, .vor d a b, .vxor d a b,
      .vshl d a b, .vshr d a b, .vsha d a b, .vimin d a b f, .vimax d a b f, .vicmp d a b p, .vsel d a b c, .vaddc d a b e f,
      .vsubc d a b e f, .vmulc d a b c e f, .vhash d a b, .vclz d a, .vpopc d a, .vbfx d a b c f, .vfadd d a b f p, .vfsub d a b f p,
      .vfmul d a b f p, .vfma d a b c f p, .vfmin d a b, .vfmax d a b, .vfcmp d a b m, .vfsign d a b m, .vfcvt d a b c n f p,
      .vfrcpe d a f p, .vfrsqe d a f p, .vfexp2 d a f p, .vpqz d a c m, .vpmul d a b m, .fork d a, .filt d a b p, .steer d a b e p,
      .perm d a b n e m, .splat d a n, .cntl d a e f, .ecount d a, .vanc d a b m] : List Instr) →
    ∃ t, exec i s = .next t ∧ PassedOn s t k v ∧ t.cores = s.cores)

/-- FIRST_STAGE_FIRING and STAGE_FIRING (R32, R33): a firing of a stage is the effect of the word of the site's active context that
stands in it, with the site in focus.
A first stage waits for its primary bundle, the other ports its word names and a free slot on every output, and then consumes one token
of each and computes (R32, R34, R35); said for VIADD of the primary word and a port q that is another than the primary one.
Every stage computes alike (R33, R34, R373): with the same lanes at its sources and the same VALID, an E-word that computes lane by
lane writes in the first stage, and sends from stage 6, the same valid lanes as it does in a stage between; the statements on lanes give
those. The first stage takes one token of each input it names and waits for a free slot on every output; stage 6 is said for a data
invocation, one output of one track, and a context without FORK, STEER, CNTL, carry or copies.
Stage 6 writes the enabled outputs of its context when every one has a free slot, and otherwise holds the invocation in the arc after
it until they have (R33, R42, R561; log entry 103); said for a data invocation, one output of one track, and a context without FORK,
STEER, CNTL, carry or copies. -/
def Obligations.StagesFireTheirWord : Prop :=
  (∀ (s : State) (x : SiteId) (k : BitVec 3) (cx : Ctx) (i : Instr), siteOk x = true → activeCtx s x = some cx →
    decodeE ((cx.ewords[k.toNat - 1]?).getD 0).toNat = .ok i →
    let u : State := { s with focus := x, focusStage := k.zeroExtend 5 }
    (k = 1 → siteKind x ≠ 2 → ∃ t, exec (.firstStageFiring x) s = .next t ∧ exec i u = .next t) ∧
    (2 ≤ k.toNat → k.toNat ≤ 6 → siteKind x = 0 → ∃ t, exec (.stageFiring x k) s = .next t ∧ exec i u = .next t)) ∧
  (∀ (s : State) (cx : Ctx) (d : BitVec 2) (q : Nat) (sat n : Bool), siteOk s.focus = true → siteKind s.focus = 0 →
    activeCtx s s.focus = some cx → mayFire s s.focus = true → s.focusStage = 1 → arcOf s s.focus 1 = none →
    primaryPort cx < 5 → primaryWidth cx = 0 → q < 5 → q ≠ primaryPort cx →
    let x := s.focus
    let i : Instr := .viadd d 0 (BitVec.ofNat 5 (q + 4)) sat n
    let keyP := chanKey x (primaryPort cx) (primaryTrack cx)
    let keyQ := chanKey x q (portTrack cx q)
    ((chanOf s keyP).slots = [] ∨ (chanOf s keyQ).slots = [] ∨ outsFree s x cx = false → exec i s = .next s) ∧
    (∀ h g ps qs, (chanOf s keyP).slots = h :: ps → (chanOf s keyQ).slots = g :: qs → outsFree s x cx = true → h.kind = 0 → g.kind = 0 →
      ∃ t w, exec i s = .next t ∧ arcOf t x 1 = some w ∧ (w.kind, w.seq, w.eos, w.valid) = (h.kind, h.seq, h.eos, h.valid) ∧
        (chanOf t keyP).slots = ps ∧ (chanOf t keyP).freed = (chanOf s keyP).freed + 1 ∧
        (chanOf t keyQ).slots = qs ∧ (chanOf t keyQ).freed = (chanOf s keyQ).freed + 1 ∧
        (∀ k, k ≠ keyP → k ≠ keyQ → chanOf t k = chanOf s k) ∧ t.mem = s.mem ∧ t.cores = s.cores ∧
        (sat = false → ∀ l, l < 16 → h.valid.getLsbD l = true →
          laneOf ((w.p[d.toNat]?).getD []) l = laneOf h.lanes l + laneOf g.lanes l))) ∧
  (∀ (s r : State) (cx cy : Ctx) (m : Nat) (y : Inv) (d : BitVec 2) (a b c a' b' c' : Src) (e f : Bool) (p : BitVec 3) (n : BitVec 4)
    (q : BitVec 2) (word : BitVec 2 → Src → Src → Src → Instr × List Src),
    word ∈ ([fun d a _ _ => (.vnop d a, [a]), fun d a b _ => (.viadd d a b e f, [a, b]), fun d a b _ => (.visub d a b e f, [a, b]),
      fun d a b _ => (.vimul d a b e f, [a, b]), fun d a b _ => (.vimulh d a b f, [a, b]),
      fun d a b c => (.vimad d a b c e f, [a, b, c]), fun d a b _ => (.vand d a b, [a, b]), fun d a b _ => (.vor d a b, [a, b]),
      fun d a b _ => (.vxor d a b, [a, b]), fun d a b _ => (.vshl d a b, [a, b]), fun d a b _ => (.vshr d a b, [a, b]),
      fun d a b _ => (.vsha d a b, [a, b]), fun d a b _ => (.vimin d a b f, [a, b]), fun d a b _ => (.vimax d a b f, [a, b]),
      fun d a b _ => (.vicmp d a b p, [a, b]), fun d a b c => (.vsel d a b c, [a, b, c]), fun d a b _ => (.vhash d a b, [a, b]),
      fun d a _ _ => (.vclz d a, [a]), fun d a _ _ => (.vpopc d a, [a]), fun d a b c => (.vbfx d a b c f, [a, b, c]),
      fun d a b _ => (.vfadd d a b f p, [a, b]), fun d a b _ => (.vfsub d a b f p, [a, b]), fun d a b _ => (.vfmul d a b f p, [a, b]),
      fun d a b c => (.vfma d a b c f p, [a, b, c]), fun d a b _ => (.vfmin d a b, [a, b]), fun d a b _ => (.vfmax d a b, [a, b]),
      fun d a b _ => (.vfcmp d a b q, [a, b]), fun d a b _ => (.vfsign d a b q, [a, b]),
      fun d a b c => (.vfcvt d a b c n f p, [a, b, c]), fun d a _ _ => (.vfrcpe d a f p, [a]), fun d a _ _ => (.vfrsqe d a f p, [a]),
      fun d a _ _ => (.vfexp2 d a f p, [a]), fun d a _ c => (.vpqz d a c q, [a, c]), fun d a b _ => (.vpmul d a b q, [a, b]),
      fun d a b _ => (.vred d a b 4 f p, [a, b]), fun d a b _ => (.vred d a b 5 f p, [a, b]), fun d a b _ => (.vred d a b 6 f p, [a, b]),
      fun d a _ _ => (.splat d a n, [a])] : List (BitVec 2 → Src → Src → Src → Instr × List Src)) →
    AtStage r cy m y → m < 6 → computes y →
    let alike (u : State) (g : StageEnv) : Prop := g.inv.valid = y.valid ∧ ∀ l, l < 16 → srcLane u g a l = srcLane r (stageEnv r cy y) a' l ∧
      srcLane u g b l = srcLane r (stageEnv r cy y) b' l ∧ srcLane u g c l = srcLane r (stageEnv r cy y) c' l
    let same (z : Lanes) : Prop := ∃ t w, exec (word d a' b' c').1 r = .next t ∧ arcOf t r.focus m = some w ∧
      ∀ l, l < 16 → y.valid.getLsbD l = true → laneOf z l = laneOf ((w.p[d.toNat]?).getD []) l
    let i : Instr := (word d a b c).1
    (∀ u v ports, siteOk s.focus = true → siteKind s.focus = 0 → activeCtx s s.focus = some cx → mayFire s s.focus = true →
      s.focusStage = 1 → arcOf s s.focus 1 = none → outsFree s s.focus cx = true →
      takeFirst s s.focus cx (word d a b c).2 false = .take u v ports → computes v →
      alike u { site := s.focus, cx := cx, inv := v, ports := ports } →
      ∃ t w, exec i s = .next t ∧ arcOf t s.focus 1 = some w ∧ (w.kind, w.seq, w.eos, w.valid) = (v.kind, v.seq, v.eos, v.valid) ∧
        t.chans = u.chans ∧ t.mem = s.mem ∧ t.cores = s.cores ∧ same ((w.p[d.toNat]?).getD [])) ∧
    (∀ v o z x t, AtStage s cx 6 v → arcOf s s.focus 6 = none → v.kind = 0 → outSels cx = [o] → o.width = 0 → o.preg = d.toNat →
      hasFork cx = false → steerBack cx = none → cntlOf cx = none → (carryOf cx).1 = false → swmCopies cx o.port o.track = [] →
      outDest s s.focus o.port o.track false = some (z, x, t) → outFree s s.focus o.port o.track = true → alike s (stageEnv s cx v) →
      ∃ u k, exec i s = .next u ∧ arcOf u s.focus 5 = none ∧
        (chanOf u (chanKey z x t)).flight = (chanOf s (chanKey z x t)).flight ++ [(k, s.focus, false)] ∧
        (∀ j, j ≠ chanKey z x t → chanOf u j = chanOf s j) ∧ (k.kind, k.seq, k.eos, k.valid) = (0, v.seq, v.eos, v.valid) ∧
        u.mem = s.mem ∧ u.cores = s.cores ∧ same k.lanes)) ∧
  (∀ (s : State) (cx : Ctx) (v : Inv) (o : OutSel) (y : SiteId) (p t : Nat) (d : BitVec 2), AtStage s cx 6 v → v.kind = 0 →
    outSels cx = [o] → o.width = 0 → hasFork cx = false → steerBack cx = none → cntlOf cx = none → (carryOf cx).1 = false →
    swmCopies cx o.port o.track = [] → outDest s s.focus o.port o.track false = some (y, p, t) →
    let i : Instr := .vnop d (d.zeroExtend 5)
    let key := chanKey y p t
    (outFree s s.focus o.port o.track = false →
      (arcOf s s.focus 6 = none → ∃ u, exec i s = .next u ∧ arcOf u s.focus 5 = none ∧ arcOf u s.focus 6 = some v ∧ u.chans = s.chans ∧
        u.mem = s.mem) ∧
      (arcOf s s.focus 6 ≠ none → exec i s = .next s)) ∧
    (outFree s s.focus o.port o.track = true → arcOf s s.focus 6 = none → ∃ u, exec i s = .next u ∧ arcOf u s.focus 5 = none ∧
      (chanOf u key).flight = (chanOf s key).flight ++
        [({ kind := 0, seq := v.seq, eos := v.eos, valid := v.valid, lanes := (v.p[o.preg]?).getD [] }, s.focus, false)] ∧
      (chanOf u key).slots = (chanOf s key).slots ∧ (∀ k, k ≠ key → chanOf u k = chanOf s k) ∧ u.mem = s.mem ∧ u.cores = s.cores))

/-- MERGE, BARN and CREDIT_TAKEN (R51, R52, R402, R461, R462): a plain MERGE takes the bundle that is there, and of two the one whose turn
it is; a loop-mode one takes the back edge first and a new bundle for a credit; BARN joins one control token of each masked port into
one; an initial token on the back edge becomes a credit.
ORDR, PACK and TOPK with their inner steps, and GEN (R46 to R48, R444, R445, R472 to R476, R514, R515): ORDR stores a fragment, gives
out the entry for NEXT when it is done, and takes none 2,048 or more ahead; PACK gathers the valid lanes and sends sixteen shuttles,
or fewer after 64 cycles; TOPK keeps a ranked row and sends it after its end; GEN makes an invocation while 16j is below N. -/
def Obligations.NodesMergeOrderAndPack : Prop :=
  (∀ (s : State) (cx : Ctx) (pa pb : Nat) (w : BitVec 2), siteOk s.focus = true → pa < 5 → pb < 5 → pa ≠ pb →
    let x := s.focus
    let a : Src := BitVec.ofNat 5 (pa + 4)
    let b : Src := BitVec.ofNat 5 (pb + 4)
    let offer (p : Nat) := mergeOffers s x p (portTrack cx p) w.toNat
    let taken (i : Instr) (p : Nat) (ts : List Token) (P : State → Prop) : Prop := ∃ t, exec i s = .next t ∧
      arcOf t x 1 = some (bundleInv ts) ∧ t.chans = (consumeBundle s x p (portTrack cx p) w.toNat).chans ∧ t.mem = s.mem ∧ P t
    firstReady s x = some cx →
    (∀ f, offer pa = some f → offer pb = none → taken (.merge a b w false) pa f fun t => (siteOf t x).node.turnB = true) ∧
    (∀ g, offer pa = none → offer pb = some g → taken (.merge a b w false) pb g fun t => (siteOf t x).node.turnB = false) ∧
    (∀ f g, offer pa = some f → offer pb = some g →
      ((siteOf s x).node.turnB = false → taken (.merge a b w false) pa f fun t => (siteOf t x).node.turnB = true) ∧
      ((siteOf s x).node.turnB = true → taken (.merge a b w false) pb g fun t => (siteOf t x).node.turnB = false)) ∧
    (∀ g h gs, offer pb = some g → g = h :: gs → h.kind ≠ 1 → taken (.merge a b w true) pb g fun t =>
      (siteOf t x).node.credits = (siteOf s x).node.credits) ∧
    (∀ f, offer pa = some f → offer pb = none → markerAt s x pb (portTrack cx pb) = false →
      (0 < (siteOf s x).node.credits → taken (.merge a b w true) pa f fun t =>
        (siteOf t x).node.credits + 1 = (siteOf s x).node.credits) ∧
      ((siteOf s x).node.credits = 0 → exec (.merge a b w true) s = .next s)) ∧
    (∀ h g, headTok s x 0 (portTrack cx 0) = some h → headTok s x 1 (portTrack cx 1) = some g → h.kind = 5 → g.kind = 5 →
      (∃ t k, exec (.barn false false false true true) s = .next t ∧ arcOf t x 1 = some k ∧ k.kind = 5 ∧ k.seq = h.seq ∧ k.eos = true ∧
        k.valid = 0 ∧ t.chans = (consumeTok (consumeTok s x 0 (portTrack cx 0)) x 1 (portTrack cx 1)).chans) ∧
      (headTok s x 2 (portTrack cx 2) = none → exec (.barn false false true true true) s = .next s)) ∧
    (mayFire s x = true → loopMerge cx = some (pb, w.toNat) → (siteOf s x).node.primed = 0 → (siteOf s x).node.credits < 15 →
      ∀ h ts, headBundle s x pb (portTrack cx pb) w.toNat = some (h :: ts) → h.kind = 1 →
        ∃ t, exec (.creditTaken x) s = .next t ∧ (siteOf t x).node.credits = (siteOf s x).node.credits + 1 ∧
          t.chans = (consumeBundle s x pb (portTrack cx pb) w.toNat).chans) ∧
    (mayFire s x = true → loopMerge cx = some (pb, w.toNat) → 0 < (siteOf s x).node.primed →
      ∃ t, exec (.creditTaken x) s = .next t ∧ (siteOf t x).node.credits = (siteOf s x).node.credits + 1 ∧
        (siteOf t x).node.primed + 1 = (siteOf s x).node.primed ∧ t.chans = s.chans)) ∧
  (∀ (s u : State) (cx : Ctx) (v : Inv) (ports : List (Nat × Token)), siteOk s.focus = true → firstReady s s.focus = some cx →
    let x := s.focus
    let n := (siteOf s x).node
    let cyc := (dieOf s (siteDie x)).cyc
    let out (t : State) : Option Inv := arcOf t x 1
    (takeFirst s x cx [] false = .take u v ports → v.kind = 0 →
      let ahead : Nat := (v.seq.toNat + 4096 - n.next.toNat) % 4096
      (2048 ≤ ahead → ∃ t, exec .ordr s = .next t ∧ (siteOf t x).frozen = true ∧ t.chans = s.chans) ∧
      (64 ≤ ahead → ahead < 2048 → exec .ordr s = .next s) ∧
      (ahead < 64 → (∀ e ∈ n.pend, e.seq ≠ v.seq) →
        (v.seq ≠ n.next ∨ v.eos = false → ∃ t e, exec .ordr s = .next t ∧ out t = none ∧ t.chans = u.chans ∧
          (siteOf t x).node.pend = (siteOf u x).node.pend ++ [e] ∧ e.seq = v.seq ∧ e.valid = v.valid ∧ e.done = v.eos) ∧
        (v.seq = n.next → v.eos = true → (siteOf u x).node = n → ∃ t w, exec .ordr s = .next t ∧ out t = some w ∧ w.kind = 0 ∧ w.seq = v.seq ∧
          w.eos = true ∧ w.valid = v.valid ∧ (siteOf t x).node.next = n.next + 1 ∧ t.chans = u.chans))) ∧
    (takeFirst s x cx [] false = .take u v ports → v.kind = 0 → (siteOf u x).node = n →
      let width := primaryWidth cx
      let lanes : List Nat := (List.range 16).filter fun l => v.valid.getLsbD l
      let part : List (List W32) := n.part ++ lanes.map fun l => (List.range (width + 1)).map fun j => laneOf ((v.p[j]?).getD []) l
      (part.length < 16 → ∃ t, exec .pack s = .next t ∧ out t = none ∧ (siteOf t x).node.part = part ∧ (siteOf t x).node.lastIn = cyc ∧
        t.chans = u.chans) ∧
      (16 ≤ part.length → ∃ t w, exec .pack s = .next t ∧ out t = some w ∧ w.kind = 0 ∧ w.seq = n.next ∧ w.eos = true ∧
        w.valid = 0xFFFF ∧ (siteOf t x).node.part = part.drop 16 ∧ (siteOf t x).node.next = n.next + 1 ∧
        ∀ l j, l < 16 → j ≤ width → j < 4 → laneOf ((w.p[j]?).getD []) l = ((part[l]?).bind fun q => q[j]?).getD 0)) ∧
    (holdsOp cx (fun i => i == .pack) = true → n.part ≠ [] → n.part.length ≤ 16 → n.lastIn + 64 ≤ cyc →
      ∃ t w, exec (.packTimeout x) s = .next t ∧ out t = some w ∧ w.seq = n.next ∧ (siteOf t x).node.part = [] ∧
        ∀ l, l < 16 → w.valid.getLsbD l = decide (l < n.part.length)) ∧
    (holdsOp cx (fun i => i == .ordr) = true → ordInput s x cx = false → ∀ e, n.pend.find? (fun q => q.seq == n.next && q.done) = some e →
      ∃ t w, exec (.ordrInternalFiring x) s = .next t ∧ out t = some w ∧ w.seq = n.next ∧ w.eos = true ∧ w.valid = e.valid ∧
        (siteOf t x).node.next = n.next + 1) ∧
    (∀ d a b sc, n.emit = [] → takeFirst s x cx [a, b] false = .take u v ports → v.kind = 0 →
      let e : StageEnv := { site := x, cx := cx, inv := v, ports := ports }
      let lanes : List Nat := (List.range 16).filter fun l => v.valid.getLsbD l
      let k : Nat := ((cx.ks[0]?).getD 0).toNat % 128
      let row := ((lanes.foldl (fun r l => rankInsert (srcLane u e a l, srcLane u e b l) r) n.row)).take k
      (v.eos = false → ∃ t, exec (.topk d a b sc) s = .next t ∧ (siteOf t x).node.row = row ∧ (siteOf t x).node.rowOpen = true ∧
        t.chans = u.chans) ∧
      (v.eos = true → ∃ t, exec (.topk d a b sc) s = .next t ∧ (siteOf t x).node.rowOpen = false ∧
        (siteOf t x).node.emit.length = (k + 15) / 16 ∧
        ∀ j w, (siteOf t x).node.emit[j]? = some w → w.seq = v.seq ∧ w.eos = decide (j + 1 = (k + 15) / 16) ∧
          ∀ l, l < 16 → (w.valid.getLsbD l = decide (16 * j + l < row.length)) ∧ ∀ q, row[16 * j + l]? = some q →
            laneOf ((w.p[d.toNat]?).getD []) l = if sc then q.1 else q.2)) ∧
    (∀ w ws, n.emit = w :: ws → ∃ t, exec (.topkEmit x) s = .next t ∧ out t = some w ∧ (siteOf t x).node.emit = ws) ∧
    (∀ d sl hi f, s.focusStage = 1 → (∀ p, activeAt s x = some p → p.draining = false) →
      let count : Nat := ((cx.ks[2]?).getD 0).toNat
      (count ≤ 16 * n.j → exec (.gen d sl hi f) s = .next s) ∧
      (16 * n.j < count → ∃ t w, exec (.gen d sl hi f) s = .next t ∧ out t = some w ∧ w.kind = 0 ∧ w.eos = true ∧
        w.seq.toNat = n.j % 4096 ∧ (∀ l, l < 16 → w.valid.getLsbD l = decide (16 * n.j + l < count)) ∧ (siteOf t x).node.j = n.j + 1)))

/-- SPLD, SPST, SPAMO and SPSYNC accept a token into the window, BANK_GRANT performs one lane of it, and ME_RESPONSE writes the answer
(R26, R158 to R160, R497, R498, R503): a lane whose offset is past the element or not of four bytes is dropped; a grant reads the word and
writes the operand, or the result of the operation, at its address alone; a full window accepts nothing; the oldest entry answers
when its accesses are done, with the words read in the valid lanes of its register and its other words as they came.
SPFIFO, LTAKE and LGIVE, ME_TOKEN_ACCEPT and LOCK_TIMEOUT (R161 to R164, R455, R456, R500, R501): SPFIFO takes a bundle while fewer than
K1 are held, and the oldest leaves with its lanes from the store; LTAKE waits for a lock token that another SEQ holds and takes a free
one; LGIVE of a lock its SEQ does not hold, and any LGIVE of a SEQ that holds nothing there (log 22), is a node fault; a valid lane
passed gives its hold back, and EOS frees every lock of its SEQ; a lock held for more than 16,384 ticks is a node fault. -/
def Obligations.MemoryElementsAndLocks : Prop :=
  ((∀ (s u : State) (cx : Ctx) (v : Inv) (ports : List (Nat × Token)) (d : BitVec 2) (a b : Src) (tg : Bool) (p sc : BitVec 3),
    let x := s.focus
    let win := (siteOf s x).win
    siteOk x = true → activeCtx s x = some cx → mayFire s x = true →
    (32 ≤ win.length → ∀ i, i ∈ ([.spld d a tg, .spst d a b tg, .spamo d a b tg p, .spsync sc] : List Instr) → exec i s = .next s) ∧
    (win.length < 32 → v.kind = 0 → canEmit s x (selWrites cx 1 v) = true →
      let e : StageEnv := { site := x, cx := cx, inv := v, ports := ports }
      let entered (i : Instr) (srcs : List Src) (operand : Nat → W32) : Prop := takeFirst s x cx srcs false = .take u v ports →
        ∃ t w, exec i s = .next t ∧ (siteOf t x).win = (siteOf u x).win ++ [w] ∧ t.mem = s.mem ∧
          (∀ l, l < 16 → w.valid.getLsbD l =
            (v.valid.getLsbD l && decide ((srcLane u e a l).toNat < 0x80000 ∧ (srcLane u e a l).toNat % 4 = 0))) ∧
          (∀ q ∈ w.accs, q.offset = (srcLane u e a q.lane).toNat ∧ q.operand = operand q.lane ∧ q.granted = false ∧
            w.valid.getLsbD q.lane = true) ∧
          ∀ l, l < 16 → w.valid.getLsbD l = true → ∃ q ∈ w.accs, q.lane = l
      entered (.spld d a tg) [a] (srcLane u e a) ∧ entered (.spst d a b tg) [a, b] (srcLane u e b) ∧
      entered (.spamo d a b tg p) [a, b] (srcLane u e b) ∧
      (takeFirst s x cx [] false = .take u v ports → ∃ t w, exec (.spsync sc) s = .next t ∧
        (siteOf t x).win = (siteOf u x).win ++ [w] ∧ w.accs = [] ∧ w.valid = v.valid ∧ t.mem = s.mem))) ∧
  (∀ (s : State) (x : SiteId) (bank : BitVec 4) (cx : Ctx) (i : Nat) (q : LaneAcc) (op : Instr), Memory.wf s.mem = true →
    activeCtx s x = some cx → siteKind x = 1 → dieGone s (siteDie x) = false → (stageOps cx).head? = some op →
    nextAccess (siteOf s x).win bank.toNat = some (i, q) →
    let pa := elementPa (siteCore x) (elementOf x) q.offset
    let old : W32 := BitVec.ofNat 32 (leNat (memBytes s.mem pa 4))
    let after (t : State) (w : W32) : Prop := sameBytesBut s t pa 4 ∧ leNat (memBytes t.mem pa 4) = w.toNat
    s.poison.contains (pa / 64) = false →
    (∀ d a tg, op = .spld d a tg → ∃ t, exec (.bankGrant x bank) s = .next t ∧ t.mem = s.mem ∧
      ∀ e, (siteOf s x).win[i]? = some e → ∃ f, (siteOf t x).win[i]? = some f ∧ f.words = e.words ++ [(q.lane, old)] ∧ f.valid = e.valid) ∧
    (∀ d a b tg, op = .spst d a b tg → ∃ t, exec (.bankGrant x bank) s = .next t ∧ after t q.operand) ∧
    (∀ d a b tg p, op = .spamo d a b tg p → ∃ t, exec (.bankGrant x bank) s = .next t ∧
      after t (BitVec.ofNat 32 (amoOp 4 p.toNat old.toNat q.operand.toNat)))) ∧
  (∀ (s : State) (x : SiteId) (cx : Ctx) (e : MeEntry) (rest : List MeEntry) (d : BitVec 2) (a : Src), activeCtx s x = some cx →
    siteKind x = 1 → dieGone s (siteDie x) = false → mayFire s x = true → (stageOps cx).head? = some (.spld d a false) →
    (siteOf s x).win = e :: rest →
    (e.done = none → exec (.meResponse x) s = .next s) ∧
    (e.done.isSome → canEmit s x (selWrites cx 0 (responseInv s.draws (.spld d a false) e)) = true →
      ∃ t, exec (.meResponse x) s = .next t ∧ (siteOf t x).win = rest ∧ t.mem = s.mem ∧
        t.chans = (emitAll s x (selWrites cx 0 (responseInv s.draws (.spld d a false) e))).chans)) ∧
  (∀ (n : Nat) (d : BitVec 2) (a : Src) (e : MeEntry) (h : Token) (hs : List Token), e.bundle = h :: hs → h.kind ≠ 6 → hs.length = 3 →
    let v := responseInv n (.spld d a false) e
    v.kind = h.kind ∧ v.seq = h.seq ∧ v.eos = h.eos ∧ v.valid = e.valid ∧
      (∀ j, j < 4 → j ≠ d.toNat → v.p[j]? = ((h :: hs)[j]?).map (·.lanes)) ∧
      ∀ l w, l < 16 → e.valid.getLsbD l = true → e.words.find? (fun q => q.1 == l) = some (l, w) →
        laneOf ((v.p[d.toNat]?).getD []) l = w)) ∧
  ((∀ (s : State) (cx : Ctx) (ts : List Token), siteOk s.focus = true → activeCtx s s.focus = some cx → mayFire s s.focus = true →
    let x := s.focus
    headBundle s x (primaryPort cx) (primaryTrack cx) (primaryWidth cx) = some ts → (∀ k ∈ ts, k.kind ≠ 3) →
    (((cx.ks[1]?).getD 0).toNat ≤ (siteOf s x).fifo.length → exec .spfifo s = .next s) ∧
    ((siteOf s x).fifo.length < ((cx.ks[1]?).getD 0).toNat → ∃ t, exec .spfifo s = .next t ∧
      (siteOf t x).fifo = (siteOf s x).fifo ++ [ts] ∧
      t.chans = (consumeBundle s x (primaryPort cx) (primaryTrack cx) (primaryWidth cx)).chans)) ∧
  (∀ (s : State) (x : SiteId) (cx : Ctx) (k : Token) (rest : List (List Token)), activeCtx s x = some cx → siteKind x = 1 →
    mayFire s x = true → (stageOps cx).head? = some .spfifo → (siteOf s x).fifo = [k] :: rest → k.kind = 0 →
    let place := ((siteOf s x).node.j - (siteOf s x).fifo.length) % ((cx.ks[1]?).getD 0).toNat
    let pa := fifoPa x cx place 0
    let blank : Token := { kind := 0, seq := 0, eos := false, valid := 0, lanes := [] }
    let out := selWrites cx 0 (tokensInv ({ k with lanes := bytesLanes (memBytes s.mem pa 64) } :: [blank, blank, blank]))
    s.poison.contains (pa / 64) = false →
    (canEmit s x out = true → ∃ t, exec (.meResponse x) s = .next t ∧ (siteOf t x).fifo = rest ∧ t.chans = (emitAll s x out).chans) ∧
    (canEmit s x out = false → exec (.meResponse x) s = .next s)) ∧
  (∀ (s u : State) (cx : Ctx) (v : Inv) (ports : List (Nat × Token)) (d : BitVec 2) (a : Src) (n : BitVec 3) (l : Nat),
    siteOk s.focus = true → activeCtx s s.focus = some cx → mayFire s s.focus = true →
    let x := s.focus
    let e : StageEnv := { site := x, cx := cx, inv := v, ports := ports }
    let off : Nat := (srcLane u e a l).toNat
    let isIt (k : Lock) : Prop := k.core = siteCore x ∧ k.me = n ∧ k.bank.toNat = off / 64 % 16 ∧
      k.tok.toNat = (off / 64 / 16 % 64) ^^^ (off / 64 / 1024 % 8)
    let none_ : Prop := ∀ k ∈ s.locks, ¬ (k.core = siteCore x ∧ k.me = n ∧ k.seq = v.seq)
    (takeFirst s x cx [a] false = .take u v ports → v.kind ≠ 2 → none_ → ∃ t, exec (.lgive d a n) s = .next t ∧ (siteOf t x).frozen = true ∧
      t.locks = s.locks) ∧
    (takeFirst s x cx [a] false = .take u v ports → v.kind = 0 → l < 16 → v.valid = BitVec.ofNat 16 (2 ^ l) → off < 0x80000 → off % 4 = 0 →
    ((∃ k ∈ s.locks, isIt k ∧ k.seq ≠ v.seq) → exec (.ltake d a n) s = .next s) ∧
    ((∀ k ∈ s.locks, ¬ isIt k) →
      (canEmit s x (selWrites cx 0 (putP v d (srcWord u e a))) = true → ∃ t k, exec (.ltake d a n) s = .next t ∧ t.locks = s.locks ++ [k] ∧
        isIt k ∧ k.seq = v.seq ∧ k.since = s.ticks ∧ k.lanes = v.valid ∧
        t.chans = (emitAll u x (selWrites cx 0 (putP v d (srcWord u e a)))).chans) ∧
      ∃ t, exec (.lgive d a n) s = .next t ∧ (siteOf t x).frozen = true ∧ t.locks = s.locks) ∧
    ((∃ k ∈ s.locks, isIt k ∧ k.seq = v.seq) → canEmit s x (selWrites cx 0 (putP v d (srcWord u e a))) = true →
      ∃ t, exec (.lgive d a n) s = .next t ∧ ∀ k, k ∈ t.locks ↔ k.lanes ≠ 0 ∧ ∃ b ∈ s.locks,
        k = if b.core = siteCore x ∧ b.me = n ∧ b.seq = v.seq then { b with lanes := if v.eos then 0 else b.lanes &&& ~~~ v.valid } else b))) ∧
  (∀ (s : State) (x : SiteId) (cx : Ctx) (d : BitVec 2) (a b : Src) (tg : Bool) (p sc : BitVec 3) (i : Instr), siteOk x = true →
    i ∈ ([.spld d a tg, .spst d a b tg, .spamo d a b tg p, .spfifo, .ltake d a sc, .lgive d a sc, .spsync sc] : List Instr) →
    activeCtx s x = some cx → siteKind x = 1 → (stageOps cx).head? = some i →
    ∃ t, exec (.meTokenAccept x) s = .next t ∧ exec i { s with focus := x, focusStage := 1 } = .next t) ∧
  (∀ (s : State) (x : SiteId) (k : Lock), siteKind x = 1 → (siteOf s x).on = true → (siteOf s x).frozen = false →
    s.locks = [k] → k.core = siteCore x → k.me.toNat = siteRow x % 8 →
    (k.since + 16384 < s.ticks → ∃ t, exec (.lockTimeout x) s = .next t ∧ (siteOf t x).frozen = true) ∧
    (s.ticks ≤ k.since + 16384 → exec (.lockTimeout x) s = .next s)))

/-- The roles of a matrix tile and its steps (R294 to R305, R460, R463 to R465): MLOAD takes a well-formed operand token while the shadow
plane is EMPTY (a HOLE too waits for that, log 104), and PLANE_READY ends the load; MSWAP makes a READY shadow the active plane, and a
FAULTED one is a node fault; a pass-mode swap that waits fires when its plane becomes READY; MROW takes a row, adds its products to row
C0 and steps C0, which ends a pass at ROWS; a control token is forwarded alone; MDRAIN and an automatic drain begin at the first row, and
each step of it sends a bundle in its output form; MCLR empties the rows.
What MROW adds to an accumulator (R141 to R144, R291, R300): the pairs of operands are the elements of the A row and of the column, a
pair with an invalid or poisoned lane none; an INT8 sum is exact and saturates once; a float sum is exact and rounded once to nearest
even, an exact zero −0 only when every product is; a NaN operand, an invalid sum, and an accumulator that holds a NaN give 0x7FC00000. -/
def Obligations.MatrixTilesLoadSwapAndDrain : Prop :=
  (∀ (s : State) (cx : Ctx), siteOk s.focus = true → tileReady s s.focus = some cx →
    let x := s.focus
    let t0 := (siteOf s x).tile
    let took (r : Nat) : State := roleTake s x cx r
    (∀ ts h, roleToken s x cx 1 = some ts → ts.head? = some h → h.kind = 0 →
      (t0.shadowState ≠ .empty → exec .mload s = .next s) ∧
      (t0.shadowState = .empty → loadTokenOk h = true → ∃ t, exec .mload s = .next t ∧ (siteOf t x).tile.shadowState = .loading ∧
        (siteOf t x).tile.shadow.ops = (List.range 4).map (laneOf h.lanes) ∧ (siteOf t x).tile.loadCol = 0 ∧
        (siteOf t x).tile.active = t0.active ∧ t.chans = (took 1).chans) ∧
      (t0.shadowState = .empty → loadTokenOk h = false → ∃ t, exec .mload s = .next t ∧ (siteOf t x).frozen = true)) ∧
    (∀ ts h, roleToken s x cx 1 = some ts → ts.head? = some h → h.kind = 6 → (t0.shadowState ≠ .empty → exec .mload s = .next s) ∧
      (t0.shadowState = .empty → ∃ t, exec .mload s = .next t ∧ (siteOf t x).tile = t0 ∧ t.chans = (took 1).chans)) ∧
    (roleToken s x cx 1 = none → exec .mload s = .next s) ∧
    (∀ ts, roleToken s x cx 2 = some ts →
      (t0.shadowState = .ready → ∃ t, exec (.mswap false) s = .next t ∧ (siteOf t x).tile.active = some t0.shadow ∧
        (siteOf t x).tile.shadowState = .empty ∧ t.chans = (took 2).chans) ∧
      (t0.shadowState = .faulted → ∃ t, exec (.mswap false) s = .next t ∧ (siteOf t x).frozen = true) ∧
      (t0.shadowState = .loading ∨ t0.shadowState = .empty → exec (.mswap false) s = .next s)) ∧
    (t0.swapPending = true → t0.shadowState = .faulted → ∃ t, exec (.mswap true) s = .next t ∧ (siteOf t x).frozen = true) ∧
    (t0.swapPending = true → t0.shadowState = .ready → ∃ t, exec (.planeReady x) s = .next t ∧ (siteOf t x).tile.active = some t0.shadow ∧
      (siteOf t x).tile.shadowState = .empty ∧ (siteOf t x).tile.swapPending = false) ∧
    (t0.swapPending = true → t0.shadowState = .ready → ∃ t, exec (.mswap true) s = .next t ∧
      (siteOf t x).tile.active = some t0.shadow ∧ (siteOf t x).tile.swapPending = false ∧ t.chans = s.chans) ∧
    (∀ (p : BitVec 2) ts h rest pl, roleToken s x cx 0 = some ts → ts = h :: rest → h.kind = 0 → h.valid ≠ 0 → rowsOpen s x cx = true →
      canEmit s x (forwardRow cx ts) = true → t0.active = some pl → (siteOf s x).cs.length = 4 → tileC s x 1 + 1 < 2 ^ 32 →
      (∀ k ∈ ts, k.kind = 0) → keysFrom 0 t0.rows = true →
      (pl.form = pairForm p → ∃ t, exec (.mrow p) s = .next t ∧
        (tileC s x 0 + 1 < tileRows cx → tileC t x 0 = tileC s x 0 + 1 ∧ tileC t x 1 = tileC s x 1) ∧
        (tileRows cx ≤ tileC s x 0 + 1 → tileC t x 0 = ((cx.cs[0]?).getD 0).toNat ∧ tileC t x 1 = tileC s x 1 + 1 ∧
          (roleOp cx 2 = some (.mswap true) → (siteOf t x).tile.swapPending = true)) ∧
        tblGet (siteOf t x).tile.rows (tileC s x 0) = some ((List.range 128).map fun j =>
          (accumulate pl.form (operandPairs pl (rowBytes ts) j) (laneOf ((tblGet t0.rows (tileC s x 0)).getD []) j)).1) ∧
        (∀ k, k ≠ tileC s x 0 → tblGet (siteOf t x).tile.rows k = tblGet t0.rows k) ∧
        t.chans = (emitAll (took 0) x (forwardRow cx ts)).chans) ∧
      (pl.form ≠ pairForm p → ∃ t, exec (.mrow p) s = .next t ∧ (siteOf t x).frozen = true)) ∧
    (∀ (p : BitVec 2) ts h, roleToken s x cx 0 = some ts → ts.head? = some h → rowsOpen s x cx = true →
      (canEmit s x (forwardRow cx ts) = false → exec (.mrow p) s = .next s) ∧
      (canEmit s x (forwardRow cx ts) = true →
        (h.kind = 5 → ∃ t, exec (.mrow p) s = .next t ∧ (siteOf t x).tile = t0 ∧ (siteOf t x).cs = (siteOf s x).cs ∧
          t.chans = (emitAll (took 0) x (forwardRow cx ts)).chans) ∧
        (h.kind ≠ 5 → t0.active = none → ∃ t, exec (.mrow p) s = .next t ∧ (siteOf t x).frozen = true))) ∧
    (∀ p, rowsOpen s x cx = false → exec (.mrow p) s = .next s) ∧
    (drainToken s x cx = true → (∀ c f, ∃ t, exec (.mdrain c f) s = .next t ∧
        (siteOf t x).tile.drain = some (((cx.cs[0]?).getD 0).toNat, 0) ∧ (siteOf t x).tile.drainDue = false ∧ t.chans = (took 3).chans) ∧
      ∃ t, exec .mclr s = .next t ∧ (siteOf t x).tile.rows = [] ∧ t.chans = (took 3).chans) ∧
    (drainToken s x cx = false → (∀ c f, exec (.mdrain c f) s = .next s) ∧ exec .mclr s = .next s) ∧
    (t0.drainDue = true → t0.drain = none → roleToken s x cx 3 = none → (siteOf s x).cs.length = 4 →
      ∃ t, exec (.autoDrain x) s = .next t ∧ (siteOf t x).tile.drain = some (((cx.cs[0]?).getD 0).toNat, 0) ∧
        (siteOf t x).tile.drainDue = false ∧ tileC t x 1 = 0) ∧
    (∀ r h c f, t0.drain = some (r, h) → h < 2 → roleOp cx 3 = some (.mdrain c f) → f ≠ 3 → f = 0 ∨ h = 0 → keysFrom 0 t0.rows = true →
      let row := (tblGet t0.rows r).getD []
      let held (j : Nat) : W32 := laneOf row j
      let bf (j : Nat) : Nat := (roundNum bf16 .rne (decodeIeee fp32 (held j).toNat)).1.code
      let byte (j : Nat) : Nat := if intRows cx t0 then (BitVec.ofInt 8 (max (-128) (min (held j).toInt 127))).toNat
        else (roundNum f8 .rne (decodeIeee fp32 (held j).toNat)).1.code
      let lane (k i : Nat) : W32 :=
        if f = 0 then held (64 * h + 4 * i + k) else if f = 1 then BitVec.ofNat 32 (bf (8 * i + 2 * k) + bf (8 * i + 2 * k + 1) * 2 ^ 16)
        else BitVec.ofNat 32 (byte (8 * i + 4 * k) + byte (8 * i + 4 * k + 1) * 2 ^ 8 + byte (8 * i + 4 * k + 2) * 2 ^ 16 +
          byte (8 * i + 4 * k + 3) * 2 ^ 24)
      let last : Prop := f ≠ 0 ∨ h = 1
      let v : Inv := { kind := 0, seq := BitVec.ofNat 12 r, eos := decide last, valid := 0xFFFF
                       p := (List.range (if f = 2 then 2 else 4)).map fun k => (List.range 16).map (lane k) }
      (canEmit s x (selWrites cx 1 v) = false → exec (.drainStep x) s = .next s) ∧
      (canEmit s x (selWrites cx 1 v) = true → ∃ t, exec (.drainStep x) s = .next t ∧ t.chans = (emitAll s x (selWrites cx 1 v)).chans ∧
        (siteOf t x).tile.drain = (if ¬ last then some (r, 1) else if r + 1 < tileRows cx then some (r + 1, 0) else none) ∧
        (c = true → last → tblGet (siteOf t x).tile.rows r = none) ∧ (c = false ∨ ¬ last → (siteOf t x).tile.rows = t0.rows))) ∧
    (dieGone s (siteDie x) = false → t0.shadowState = .loading →
      (∀ u, runLoad s x = .ok u → ∃ t, exec (.planeReady x) s = .next t ∧ t.mem = u.mem ∧
        (t0.swapPending = false → (siteOf t x).tile.shadowState = .ready ∧ (siteOf t x).tile.active = t0.active)) ∧
      (∀ u col f v, runLoad s x = .error (u, col, f) → sendRecord u (nodeRecord 0 cx.owner t0.shadow.ops col f) = some v →
        ∃ t, exec (.mloadColumnFault x) s = .next t ∧ (siteOf t x).tile.shadowState = .faulted)) ∧
    (t0.lastRefresh + 4000 ≤ s.ticks → ∃ t, exec (.accumulatorRefresh x) s = .next t ∧ (siteOf t x).tile.rows = t0.rows ∧
      (siteOf t x).tile.lastRefresh = s.ticks)) ∧
  ((∀ (p : Plane) (ts : List Token) (j k : Nat),
    let good (l : Nat) : Bool := ((ts[l / 16]?).any fun h => h.valid.getLsbD (l % 16)) && !p.poisoned.contains (48 * j + l)
    let rowLaneOf (l : Nat) : Nat := (laneOf (((ts[l / 16]?).map (·.lanes)).getD []) (l % 16)).toNat
    let colByte (b : Nat) : Nat := ((((p.cols[j]?).getD [])[b]?).getD 0).toNat
    (p.form ≠ 2 → k < 192 → (operandPairs p (rowBytes ts) j)[k]? = some (if good (k / 4) then
      some (rowLaneOf (k / 4) / 2 ^ (8 * (k % 4)) % 2 ^ 8, colByte k) else none)) ∧
    (p.form = 2 → k < 96 → (operandPairs p (rowBytes ts) j)[k]? = some (if good (k / 2) then
      some (rowLaneOf (k / 2) / 2 ^ (16 * (k % 2)) % 2 ^ 16, colByte (2 * k) + 256 * colByte (2 * k + 1)) else none)) ∧
    (operandPairs p (rowBytes ts) j).length = if p.form = 2 then 96 else 192) ∧
  (∀ (pairs : List (Option (Nat × Nat))) (acc : W32),
    let sum : Int := (pairs.map fun q => match q with
      | some (a, b) => (BitVec.ofNat 8 a).toInt * (BitVec.ofNat 8 b).toInt
      | none => 0).sum
    (accumulate 5 pairs acc).1.toInt = max (-(2 ^ 31)) (min (acc.toInt + sum) (2 ^ 31 - 1)) ∧
      ((accumulate 5 pairs acc).2.2 = true ↔ (accumulate 5 pairs acc).1.toInt ≠ acc.toInt + sum)) ∧
  (∀ (form : Nat) (pairs : List (Option (Nat × Nat))) (acc : W32), form = 2 ∨ form = 4 →
    let number (e : Nat) : Machine.Num := if form = 2 then decodeIeee bf16 e else decodeF8 e
    let products : List Machine.Num := pairs.map fun q => match q with
      | some (a, b) => mulNum (number a) (number b)
      | none => .fin false 0 0
    let nan (v : Machine.Num) : Bool := match v with | .nan _ => true | _ => false
    let got : W32 := (accumulate form pairs acc).1
    let units : Machine.Num → Int := fun v => match v with
      | .fin n m e => (if n then -1 else 1) * ((m * 2 ^ (e + 300).toNat : Nat) : Int)
      | _ => 0
    (nan (decodeIeee fp32 acc.toNat) = true → got = 0x7FC00000) ∧
    ((∃ v ∈ products, nan v = true) → got = 0x7FC00000) ∧
    (Machine.Num.inf true ∈ products → Machine.Num.inf false ∈ products → got = 0x7FC00000) ∧
    (∀ g, Machine.Num.inf g ∈ products → acc = BitVec.ofNat 32 ((if g then 0 else 2 ^ 31) + 0x7F800000) → got = 0x7FC00000) ∧
    (nan (decodeIeee fp32 acc.toNat) = false → (∀ v ∈ products, ∃ n m e, v = .fin n m e) →
      let total : Int := (products.map units).sum
      let zero : Bool := products.all fun v => match v with | .fin n _ _ => n | _ => false
      got.toNat = (roundNum fp32 .rne (addNum .rne (decodeIeee fp32 acc.toNat)
        (if total = 0 then .fin zero 0 0 else .fin (decide (total < 0)) total.natAbs (-300)))).1.code)))

/-- STAT and the steps of the statistics network (R145 to R148, R506, R507): when a tile ends, counts that are not all zero make one
statistics token, KIND 4, with the counts in lanes 0 to 6; a converter's oldest statistics token goes to the adder of
its scope, in a class-3 slot of its domain and not while its region is frozen; an adder that is no root sends its sums on; the root adds
its totals to the record, and a record that is misaligned kills it. -/
def Obligations.StatisticsFlowToTheRoot : Prop :=
  (∀ (s : State) (x : SiteId) (k : Nat), keysFrom 0 (siteOf s x).stats = true →
    let c := tileAt s x k
    let t := closeTile s x k
    tblGet (siteOf t x).stats k = none ∧
    ((∀ n ∈ c.counts, n = 0) → (siteOf t x).tiles = (siteOf s x).tiles) ∧
    ((∃ n ∈ c.counts, n ≠ 0) → ∃ q, (siteOf t x).tiles = (siteOf s x).tiles ++ [q] ∧ q.kind = 4 ∧ q.seq = c.seq ∧ q.eos = true ∧
      q.valid = 0x007F ∧ ∀ l, l < 7 → laneOf q.lanes l = BitVec.ofNat 32 ((c.counts[l]?).getD 0))) ∧
  (∀ (s : State) (x y : SiteId) (pl : Placement) (k : Token) (rest : List Token), (siteOf s x).tiles = k :: rest →
    activeAt s x = some pl → (statRoot s pl).isSome →
    statTarget s pl (((ctxAt s x pl.ctx).map (·.scope)).getD 0) 3 = some y → y ≠ x → (siteOf s y).statDead = false →
    ((siteOf s x).frozen = false → statSlot s x = true → ∃ t, exec (.statTokenSend x) s = .next t ∧ (siteOf t x).tiles = rest ∧
      ∀ i, i < 7 → (siteOf t y).adder[i]? = some (min 0xFFFFFFFF (((siteOf s y).adder[i]?).getD 0 + (laneOf k.lanes i).toNat))) ∧
    ((siteOf s x).frozen = true ∨ statSlot s x = false → exec (.statTokenSend x) s = .next s)) ∧
  (∀ (s : State) (x y : SiteId) (pl : Placement) (cx : Ctx), siteOk x = true → activeAt s x = some pl → ctxAt s x pl.ctx = some cx →
    statOf cx = some false → (∃ n ∈ (siteOf s x).adder, n ≠ 0) → statSlot s x = true →
    statTarget s pl cx.scope (innerLevel cx.scope - 1) = some y → y ≠ x → (siteOf s y).statDead = false →
    ∃ t, exec (.statAdderSend x) s = .next t ∧ (siteOf t x).adder = [] ∧
      (s.focus = x → exec (.stat false) s = .next t) ∧
      ∀ i, i < 7 → (siteOf t y).adder[i]? = some (min 0xFFFFFFFF (((siteOf s y).adder[i]?).getD 0 + ((siteOf s x).adder[i]?).getD 0))) ∧
  (∀ (s : State) (x : SiteId) (cx : Ctx) (l : Slice), siteOk x = true → activeCtx s x = some cx → statOf cx = some true →
    (∃ n ∈ (siteOf s x).adder, n ≠ 0) → (siteOf s x).statDead = false → findSlice s cx.owner = some l →
    let va : Nat := ((cx.ks[0]?).getD 0).toNat + ((cx.ks[1]?).getD 0).toNat % 2 ^ 24 * 2 ^ 32
    let counts := (siteOf s x).adder
    (va % 64 = 0 → backingHeld s (whoSlice s l (siteDie x)) none va 64 = false → ∀ u old, engAtomic s (whoSlice s l (siteDie x)) { acc := .engWrite, hidden := true, fmt := plainFmt } va 64
        (recordPlus counts) = .ok (u, old, false) →
      ∃ t, exec (.statRootUpdate x) s = .next t ∧ (siteOf t x).adder = [] ∧ t.mem = u.mem ∧ (s.focus = x → exec (.stat true) s = .next t)) ∧
    (va % 64 ≠ 0 → ∀ v, sendRecord s (nodeRecord 1 cx.owner [(cx.ks[0]?).getD 0, (cx.ks[1]?).getD 0] 0
        { cause := 0x03, addr := BitVec.ofNat 64 va }) = some v →
      ∃ t, exec (.statRootUpdate x) s = .next t ∧ (siteOf t x).statDead = true)) ∧
  (∀ (counts : List Nat) (old i : Nat), i < 7 →
    recordPlus counts old / 2 ^ (32 * i) % 2 ^ 32 = min 0xFFFFFFFF (old / 2 ^ (32 * i) % 2 ^ 32 + (counts[i]?).getD 0))

/-- The switch words (R40, R41, R70, R378, R511): a word moves the oldest token of its input to every output it names when each has a free
slot, and nothing otherwise; a branch that ends at a closed selvage has no wait, SWB goes by a gateway's way, and SWG moves the token
only when its input is the one whose turn it is: the lowest present one (MODE 1), the next present one after the last granted (MODES 0 and
2), or in MODE 2 the one that has not yet passed its EOS, though it be empty and others wait.
TOKEN_TRANSFER, SLOT_FREED, BOUNDARY_TRACK_TRANSFER and SELVAGE_DROP (R37, R38, R68, R69, R75 to R77): a token in flight becomes
present where its track has room; the producer sees a freed slot; a token crosses a die edge in a slot of class 4 of its domain, one a
cycle on a track; a token without a gateway is dropped and counted, on its own side too, and the first drop of a configuration period is a node fault
PORT_PROTOCOL at the site whose switch box sent it. -/
def Obligations.TokensMove : Prop :=
  (∀ (s : State) (i t m : BitVec 3) (o : BitVec 5) (k : Token) (rest : List Token), siteOk s.focus = true → i.toNat < 4 →
    let x := s.focus
    let src := chanKey x i.toNat t.toNat
    let ports : List Nat := [0, 1, 2, 3, 4].filter fun p => o.getLsbD p
    let moved (w : Instr) (gate : Bool) : Prop := ∃ u, exec w s = .next u ∧ u.mem = s.mem ∧ u.cores = s.cores ∧
      (∀ j, (chanOf u j).slots = if j = src then rest else (chanOf s j).slots) ∧
      (chanOf u src).freed = (chanOf s src).freed + 1 ∧
      ∀ p ∈ ports, ∀ y q r, outDest s x p t.toNat gate = some (y, q, r) → (k, x, gate) ∈ (chanOf u (chanKey y q r)).flight
    mayFire s x = true → (activeCtx s x).isSome → (chanOf s src).slots = k :: rest →
    ((∀ p ∈ ports, outFree s x p t.toNat = true) → moved (.swp i o t) false ∧ moved (.swm i o t) false) ∧
    ((∀ p ∈ ports, outFree s x p t.toNat true = true) → moved (.swb i o t) true) ∧
    ((∃ p ∈ ports, outFree s x p t.toNat = false) → exec (.swp i o t) s = .next s ∧ exec (.swm i o t) s = .next s) ∧
    ((∃ p ∈ ports, outFree s x p t.toNat true = false) → exec (.swb i o t) s = .next s) ∧
    (∀ p y, p < 4 → neighbour x p = some y → portAt s true x p t.toNat = none → domainOf s y ≠ domainOf s x →
      outFree s x p t.toNat = true) ∧
    (∀ cx, activeCtx s x = some cx → mergeInputs cx o t m = [i.toNat] → tblGet (siteOf s x).swgHold (o.toNat * 8 + t.toNat) = none →
      ((∀ p ∈ ports, outFree s x p t.toNat = true) → moved (.swg i o t m) false) ∧
      ((∃ p ∈ ports, outFree s x p t.toNat = false) → exec (.swg i o t m) s = .next s)) ∧
    (∀ cx, activeCtx s x = some cx → keysFrom 0 (siteOf s x).swgHold = true → keysFrom 0 (siteOf s x).swgLast = true →
      let key := o.toNat * 8 + t.toNat
      let present (j : Nat) : Prop := (chanOf s (chanKey x j t.toNat)).slots ≠ []
      let inputs := mergeInputs cx o t m
      let goes : Prop := moved (.swg i o t m) false ∧ ∃ u, exec (.swg i o t m) s = .next u ∧
        tblGet (siteOf u x).swgLast key = some i.toNat ∧
        tblGet (siteOf u x).swgHold key = if m = 2 ∧ k.eos = false then some i.toNat else none
      let stays : Prop := exec (.swg i o t m) s = .next s
      (∀ p ∈ ports, outFree s x p t.toNat = true) →
      (tblGet (siteOf s x).swgHold key = some i.toNat → goes) ∧
      (∀ h, tblGet (siteOf s x).swgHold key = some h → h ≠ i.toNat → stays) ∧
      (tblGet (siteOf s x).swgHold key = none → i.toNat ∈ inputs →
        (m = 1 ∨ tblGet (siteOf s x).swgLast key = none → (∀ j ∈ inputs, j < i.toNat → ¬ present j) → goes) ∧
        (m = 1 ∨ tblGet (siteOf s x).swgLast key = none → (∃ j ∈ inputs, j < i.toNat ∧ present j) → stays) ∧
        (∀ l, m ≠ 1 → tblGet (siteOf s x).swgLast key = some l →
          let before (j : Nat) : Prop := j ∈ inputs ∧ present j ∧ j ≠ i.toNat ∧
            (if l < i.toNat then l < j ∧ j < i.toNat else l < j ∨ j < i.toNat)
          ((∀ j, ¬ before j) → goes) ∧ ((∃ j, before j) → stays))))) ∧
  (∀ (s : State) (x src : SiteId) (p : BitVec 4) (t : BitVec 3) (k : Token) (gate : Bool) (rest : List (Token × SiteId × Bool)),
    Invariant s →
    let key := chanKey x p.toNat t.toNat
    let landed (i : Instr) : Prop := ∃ u, exec i s = .next u ∧ (chanOf u key).slots = (chanOf s key).slots ++ [k] ∧
      (chanOf u key).flight = rest ∧ (∀ j, j ≠ key → chanOf u j = chanOf s j) ∧ u.mem = s.mem ∧ u.cores = s.cores
    (∃ u, exec (.slotFreed x p t) s = .next u ∧ (chanOf u key).freed = (chanOf s key).freed - 1 ∧ (chanOf u key).slots = (chanOf s key).slots ∧
      ∀ j, j ≠ key → chanOf u j = chanOf s j) ∧
    (siteOk x = true → dieGone s (siteDie x) = false → (chanOf s key).flight = (k, src, gate) :: rest →
      (p.toNat < 5 → siteDie src = siteDie x → portAt s false x p.toNat t.toNat = none → p = 4 ∨ src = x ∨ domainOf s x = domainOf s src →
        k.kind ≠ 4 → k.kind ≠ 7 →
        ((chanOf s key).slots.length < 4 → landed (.tokenTransfer x p t)) ∧
        (4 ≤ (chanOf s key).slots.length → exec (.tokenTransfer x p t) s = .next s)) ∧
      (p.toNat < 4 → siteDie src ≠ siteDie x → dieGone s (siteDie src) = false → portAt s false x p.toNat t.toNat = none →
        domainOf s x = domainOf s src → k.kind ≠ 4 → k.kind ≠ 7 →
        let now := (dieOf s (siteDie src)).cyc
        (slotNow s (siteDie src) 4 (domainOf s src) = true → (chanOf s key).crossed ≠ some now → (chanOf s key).slots.length < 4 →
          landed (.boundaryTrackTransfer x p t) ∧
          ∃ u, exec (.boundaryTrackTransfer x p t) s = .next u ∧ (chanOf u key).crossed = some now) ∧
        (slotNow s (siteDie src) 4 (domainOf s src) = false ∨ (chanOf s key).crossed = some now →
          exec (.boundaryTrackTransfer x p t) s = .next s)) ∧
      ((p.toNat < 4 ∧ src ≠ x ∧ domainOf s x ≠ domainOf s src ∧ gate = false) ∨
          (10 ≤ p.toNat ∧ dieGone s (siteDie ((neighbour x (p.toNat - 10)).getD x)) = false) → dieGone s (siteDie src) = false →
        ∃ u, exec (.selvageDrop x p t) s = .next u ∧ (chanOf u key).flight = rest ∧ (chanOf u key).slots = (chanOf s key).slots ∧
          tblGet (dieOf u (siteDie src)).selvDrops (domainOf s src).toNat =
            some ((tblGet (dieOf s (siteDie src)).selvDrops (domainOf s src).toNat).getD 0 + 1) ∧
          ∀ pl, activeAt s src = some pl →
            (pl.dropReported = true → (siteOf u src).frozen = (siteOf s src).frozen ∧ (siteOf u src).fault = (siteOf s src).fault) ∧
            (pl.dropReported = false → (siteOf u src).frozen = true ∧
              ((siteOf s src).fault = 0 → (siteOf u src).fault.toNat % 256 = 3 ∧ (siteOf u src).fault.toNat / 2 ^ 26 % 8 = t.toNat ∧
                (siteOf u src).fault.toNat / 2 ^ 29 % 8 = if 10 ≤ p.toNat then p.toNat - 10 else facing p.toNat) ∧
              ∀ q ∈ u.placements, q.origin = pl.origin → q.ctx = pl.ctx → q.dropReported = true))))

/-- QUIET_REPORT, ENTRY_PORT_CLOSE and REGION_COMPLETION (R55, R56, R486, R507): a quiet region without a node fault is reported once, and
slices that watch it wake; an entry port closes when its source has ended or a queue that feeds it is closed and empty (R246; log entry 91 says which do); a region that is reported quiet, with every entry port closed, no bundle
waiting and every statistics count delivered, completes, and its exit ports close. -/
def Obligations.RegionsReportAndComplete : Prop :=
  ∀ (s : State) (o : SiteId) (pl : Placement), activeRegion s o = some pl →
    let its (t : State) (P : Placement → Prop) : Prop := (∃ q ∈ t.placements, q.origin = o ∧ q.ctx = pl.ctx) ∧
      ∀ q ∈ t.placements, q.origin = o → q.ctx = pl.ctx → P q
    let still (t : State) : Prop := t.sites = s.sites ∧ t.chans = s.chans ∧ t.mem = s.mem ∧ t.cores = s.cores ∧ t.dies = s.dies
    (pl.quiet = true ∨ pl.frozen = true ∨ pl.faultSite.isSome ∨ regionQuiet s pl = false → exec (.quietReport o) s = .next s) ∧
    (pl.quiet = false → pl.frozen = false → pl.faultSite = none → regionQuiet s pl = true → ∃ t, exec (.quietReport o) s = .next t ∧ still t ∧
      its t (fun q => q.quiet = true) ∧ ∀ l ∈ t.slices, l.watch = some (.region o) → l.woken = true) ∧
    (∀ (i : BitVec 8) q, pl.ports[i.toNat]? = some q →
      (q.exit = true ∨ i.toNat ∈ pl.closed ∨
          (i.toNat ∉ pl.sources ∧ upstreamClosed s pl q = false ∧ queueCloses s q.site q.port.toNat = false) →
        exec (.entryPortClose o i) s = .next s) ∧
      (q.exit = false → i.toNat ∉ pl.closed → i.toNat ∈ pl.sources ∨ upstreamClosed s pl q = true ∨ queueCloses s q.site q.port.toNat = true →
        ∃ t, exec (.entryPortClose o i) s = .next t ∧ still t ∧ t.slices = s.slices ∧
          its t fun k => i.toNat ∈ k.closed)) ∧
    (pl.complete = true ∨ pl.armed.isSome ∨ reportedQuiet s pl = false ∨ entriesClosed pl = false ∨ gensClosed s pl = false ∨
        queuesEmpty s pl = false ∨ (∃ x ∈ pl.sites, (siteOf s x).tiles ≠ [] ∨ ((siteOf s x).statDead = false ∧ ∃ n ∈ (siteOf s x).adder, n ≠ 0)) →
      exec (.regionCompletion o) s = .next s) ∧
    (pl.complete = false → pl.armed = none → reportedQuiet s pl = true → entriesClosed pl = true → gensClosed s pl = true →
      queuesEmpty s pl = true →
      (∀ x ∈ pl.sites, (siteOf s x).tiles = [] ∧ ((siteOf s x).statDead = true ∨ ∀ n ∈ (siteOf s x).adder, n = 0)) →
      ∃ t, exec (.regionCompletion o) s = .next t ∧ still t ∧
        its t fun q => q.complete = true ∧ ∀ i k, pl.ports[i]? = some k → k.exit = true → i ∈ q.closed)

/-- NODE_FAULT, NODE_RAISE and DEADLOCK_DETECTED (R57, R58, R275, R276, Table 8.6): a node that faults stops alone, with the first fault in
its register; 64 cycles without movement later the region freezes and NODE is pending at its owner's core; a region with held tokens
and no movement for 65,536 cycles, counted from the end of the last suspension, freezes with kind 6. No token moves or is lost. -/
def Obligations.FaultedRegionsFreeze : Prop :=
  (∀ (s : State) (x : SiteId) (kind : BitVec 8) (g p tr : BitVec 3) (q : BitVec 12),
    let stops : Prop := siteOk x = false ∨ (siteOf s x).on = false ∨ (siteOf s x).frozen = true ∨ kind = 0 ∨ 7 < kind.toNat
    (stops → exec (.nodeFault x kind g p tr q) s = .next s) ∧
    (¬ stops → ∃ t, exec (.nodeFault x kind g p tr q) s = .next t ∧ (siteOf t x).frozen = true ∧
      ((siteOf s x).fault ≠ 0 → (siteOf t x).fault = (siteOf s x).fault) ∧
      ((siteOf s x).fault = 0 → (siteOf t x).fault.toNat % 256 = kind.toNat ∧ (siteOf t x).fault.toNat / 2 ^ 26 % 8 = tr.toNat ∧
        (siteOf t x).fault.toNat / 2 ^ 29 % 8 = p.toNat ∧ (siteOf t x).fault.toNat / 2 ^ 32 % 16 = g.toNat ∧
        (siteOf t x).fault.toNat / 2 ^ 36 % 2 ^ 12 = q.toNat) ∧
      (∀ y, y ≠ x → siteOf t y = siteOf s y) ∧ t = { s with sites := t.sites, placements := t.placements } ∧
      ∀ k ∈ t.placements, k.active = true → x ∈ rectSites k.origin k.rows k.cols → k.faultSite.isSome)) ∧
  (∀ (s : State) (o : SiteId) (pl : Placement), activeRegion s o = some pl →
    let cyc := (dieOf s (siteDie o)).cyc
    let froze (t : State) (x : SiteId) (n : NodePend → Prop) : Prop := (∀ y ∈ pl.sites, (siteOf t y).frozen = true) ∧
      (∃ q ∈ t.placements, q.origin = o ∧ q.ctx = pl.ctx) ∧
      (∀ q ∈ t.placements, q.origin = o → q.ctx = pl.ctx → q.frozen = true ∧ q.raised = true ∧ q.faultSite = some x) ∧
      t.chans = s.chans ∧ t.mem = s.mem ∧
      ∀ l, findSlice s pl.owner = some l → l.state ≠ .retired →
        ∃ k, (coreOf t l.core).pendNode = (coreOf s l.core).pendNode ++ [k] ∧ k.site = x ∧ k.slice = pl.owner ∧ n k
    (∀ x, pl.faultSite = some x →
      (pl.raised = true ∨ cyc < pl.lastMove + 64 → exec (.nodeRaise o) s = .next s) ∧
      (pl.raised = false → pl.lastMove + 64 ≤ cyc → (∀ q ∈ s.placements, q.origin = o → q.ctx = pl.ctx → q = pl) →
        ∃ t, exec (.nodeRaise o) s = .next t ∧ froze t x fun k => k.kind.toNat = (siteOf s x).fault.toNat % 256)) ∧
    (pl.faultSite = none → exec (.nodeRaise o) s = .next s) ∧
    (pl.frozen = true ∨ pl.faultSite.isSome ∨ cyc < pl.lastMove + 65536 ∨ cyc < pl.countFrom + 65536 ∨
        regionQuiet s pl = true ∨ memoryBusy s pl = true →
      exec (.deadlockDetected o) s = .next s) ∧
    (pl.frozen = false → pl.faultSite = none → pl.lastMove + 65536 ≤ cyc → pl.countFrom + 65536 ≤ cyc →
      regionQuiet s pl = false → memoryBusy s pl = false →
      ∃ t, exec (.deadlockDetected o) s = .next t ∧ froze t o fun k => k.kind = 6))

/-- WAVEFRONT_INJECT and WAVEFRONT_SITE_SWITCH (R63, R64, R65, R419): an armed entry port that has closed and passed its last bundle injects
one configuration token that names the new context number; a site with one on every input, nothing in its stages and room on every
output takes the new context with its initial counters, and a site with a lone operand beside one stops with STRANDED. A loop-mode
MERGE switches on the token at its entry alone (the model's choice, log entry 21), and a token that comes round to a site that has
switched is consumed.
CONTEXT_SWITCH, BLOCK_SCHEDULER_CHOICE and QUANTUM_EXPIRY (R60, R61, R62): a pattern that has admitted bundles and has none left
waiting, or one that has had its quantum of 4,096 cycles, stops admission; once the region is reported quiet the pattern with most
shuttles waiting becomes active at every site; one whose contexts are not all resident is loaded first, into the context number that has
been active least recently. A choice falls on no pattern with fewer waiting than another. Log entry 20. -/
def Obligations.ContextsChange : Prop :=
  ((∀ (s : State) (o : SiteId) (i : BitVec 8) (pl : Placement) (k : BitVec 2) (q : Port), activeRegion s o = some pl → pl.armed = some k →
    pl.ports[i.toNat]? = some q →
    let ready : Prop := q.exit = false ∧ pl.frozen = false ∧ i.toNat ∉ pl.injected ∧ i.toNat ∈ pl.closed ∧
      ∀ c ∈ entryQueues s pl q, c = []
    (¬ ready → exec (.wavefrontInject o i) s = .next s) ∧
    (ready → q.width = 0 → ∃ t, exec (.wavefrontInject o i) s = .next t ∧
      (∀ x tr, trackAt q.site q.track.toNat = (x, tr) → ∃ c, c.kind = 3 ∧ c.lanes = [k.zeroExtend 32] ∧
        (chanOf t (chanKey x q.port.toNat tr)).flight = (c, q.site, true) :: (chanOf s (chanKey x q.port.toNat tr)).flight) ∧
      t.mem = s.mem ∧ t.sites = s.sites ∧ (∃ p ∈ t.placements, p.origin = o ∧ p.ctx = pl.ctx) ∧
      ∀ p ∈ t.placements, p.origin = o → p.ctx = pl.ctx → i.toNat ∈ p.injected)) ∧
  (∀ (s : State) (x : SiteId) (pl tp : Placement) (k : BitVec 2) (cx : Ctx), activeAt s x = some pl → pl.armed = some k →
    placementAt s pl.origin k = some tp → lowerRow x = false → (siteOf s x).frozen = false → ctxAt s x (siteOf s x).act = some cx →
    let n := siteOf s x
    let head (i : Nat × Nat) := headTok s x i.1 i.2
    let config (i : Nat × Nat) : Prop := ∃ h, head i = some h ∧ h.kind = 3
    let named (i : Nat × Nat) : Prop := ∃ h, head i = some h ∧ h.kind = 3 ∧ laneOf h.lanes 0 = k.zeroExtend 32
    let entry := (inputsOf cx).filter fun i => (loopMerge cx).all fun m => i.1 != m.1
    ((n.act = k ∧ ∃ i ∈ inputsOf cx, config i) ∨ (∃ i ∈ inputsOf cx, config i ∧ ¬ named i) →
      ∃ t, exec (.wavefrontSiteSwitch x) s = .next t ∧ (∃ i ∈ inputsOf cx, config i ∧ t.chans = (consumeTok s x i.1 i.2).chans) ∧
        t.mem = s.mem ∧ ∀ y, (siteOf t y).act = (siteOf s y).act) ∧
    (n.act ≠ k → (∀ i ∈ inputsOf cx, config i → named i) →
      ((∃ i ∈ inputsOf cx, named i) → (∃ i ∈ inputsOf cx, ∃ h, head i = some h ∧ h.kind ≠ 3) → mergeOf cx = none → cx.kind ≠ 2 →
        ∃ t, exec (.wavefrontSiteSwitch x) s = .next t ∧ (siteOf t x).frozen = true ∧ t.chans = s.chans ∧
          (n.fault = 0 → (siteOf t x).fault.toNat % 256 = 2)) ∧
      ((∃ i ∈ entry, ¬ named i) → (∀ i ∈ inputsOf cx, ∀ h, head i = some h → h.kind = 3) → exec (.wavefrontSiteSwitch x) s = .next s) ∧
      (inputsOf cx ≠ [] → (∀ i ∈ entry, named i) → (∀ i ∈ inputsOf cx, ∀ h, head i = some h → h.kind = 3) → siteIdle s pl x cx = true →
        (∀ p ∈ outTracks cx, nodeOutFree s x p = true) →
        ∃ t, exec (.wavefrontSiteSwitch x) s = .next t ∧ (siteOf t x).act = k ∧ (siteOf t x).on = true ∧
          (∀ a ∈ (siteOf t x).arcs.toList, a = none) ∧ (siteOf t x).cs = ((ctxAt s x k).map (·.cs)).getD [] ∧
          ∀ y, y ≠ x → y ≠ x + 128 → (siteOf t y).act = (siteOf s y).act)))) ∧
  ((∀ (s : State) (ps : List Placement) (b : Placement), bestPattern s ps = some b → b ∈ ps ∧
    ∀ p ∈ ps, waiting s p < waiting s b ∨ (waiting s p = waiting s b ∧ b.catid.toNat ≤ p.catid.toNat)) ∧
  (∀ (s : State) (o : SiteId) (pl : Placement), activeRegion s o = some pl →
    let cyc := (dieOf s (siteDie pl.origin)).cyc
    let its (t : State) (P : Placement → Prop) : Prop := (∃ q ∈ t.placements, q.origin = o ∧ q.ctx = pl.ctx) ∧
      (∀ q ∈ t.placements, q.origin = o → q.ctx = pl.ctx → P q) ∧ t.chans = s.chans ∧ t.mem = s.mem ∧ t.cores = s.cores
    (schedulerFree s pl = false → exec (.blockSchedulerChoice o) s = .next s ∧ exec (.quantumExpiry o) s = .next s) ∧
    (schedulerFree s pl = true → pl.stopped = false →
      (waiting s pl = 0 → pl.admitted ≠ [] → ∃ t, exec (.blockSchedulerChoice o) s = .next t ∧ its t fun q => q.stopped = true) ∧
      (0 < waiting s pl → exec (.blockSchedulerChoice o) s = .next s) ∧
      (pl.activeSince + 4096 ≤ cyc → ∃ t, exec (.quantumExpiry o) s = .next t ∧ its t fun q => q.stopped = true) ∧
      (cyc < pl.activeSince + 4096 → exec (.quantumExpiry o) s = .next s)) ∧
    (schedulerFree s pl = true → pl.stopped = true → reportedQuiet s pl = true → bestPattern s (boundHere s pl) = some pl →
      ∃ t, exec (.blockSchedulerChoice o) s = .next t ∧ its t fun q => q.stopped = false ∧ q.activeSince = cyc) ∧
    (∀ k tp, placementAt s o k = some tp → tp.saved = false → pl.ctx ≠ k →
      schedulerFree s pl = false ∨ pl.stopped = false ∨ reportedQuiet s pl = false → exec (.contextSwitch o k) s = .next s)) ∧
  (∀ (s : State) (o : SiteId) (k : BitVec 2) (tp : Placement), placementAt s o k = some tp → tp.saved = false →
    bestPattern s (boundHere s tp) = some tp →
    (∃ pl, activeRegion s o = some pl ∧ pl.ctx ≠ k ∧ schedulerFree s pl = true ∧ pl.stopped = true ∧ reportedQuiet s pl = true) ∨
      (∀ p ∈ s.placements, p.active = true → p.origin ≠ o ∧ ∀ x ∈ p.sites, x ∉ tp.sites) →
    let runs (t : State) (j : BitVec 2) : Prop := exec (.contextSwitch o k) s = .next t ∧
      (∃ q ∈ t.placements, q.origin = o ∧ q.ctx = j ∧ q.catid = tp.catid ∧ q.active = true ∧ q.stopped = false) ∧
      ∀ x ∈ tp.sites, (siteOf t x).act = j ∧ (siteOf t x).on = true
    ((∀ x ∈ tp.sites, (ctxAt s x k).isSome) → ∃ t, runs t k ∧ ∀ x ∈ tp.sites, (siteOf t x).cs = ((ctxAt s x k).map (·.cs)).getD []) ∧
    ((∃ x ∈ tp.sites, ctxAt s x k = none) → ∀ l j u, findSlice s tp.owner = some l → leastRecent s tp.sites = some j →
      reloadImage { s with placements := s.placements.filter fun p => !(p.origin == o && p.ctx == k) } l o j tp.catid.toNat
        (fun im => im.rows == tp.rows && im.cols == tp.cols) = some u →
      ∃ t, runs t j)) ∧
  (∀ (s : State) (xs : List SiteId) (j : BitVec 2), leastRecent s xs = some j →
    let there (k : BitVec 2) : Prop := ∃ x ∈ xs, (siteOf s x).on = true ∧ (siteOf s x).act = k
    ¬ there j ∧ ∀ k, ¬ there k → lastActive s xs j ≤ lastActive s xs k))

/-- PREEMPT_MARK, LAYER_BOUNDARY_DRAIN and DRAIN_MARKER_PASS (R255, R256, R257, R258): in co-located mode a ready slice of a higher class
and an earlier deadline marks the region; in split mode none does and none is drained. A marked region at its boundary stops admission and drains; a
processing element passes a marker by its first word, and a matrix tile once it stands on every input.
DRAIN_SAVE, FREEZE_SAVE and REGION_RESTORE (R259, R260, R264): a drained region goes into its owner's save image, leaves its sites and
is switched to the taking slice's pattern (from its own section, where that was saved too), or admits again when none takes it; a region of a slice that is swapped out is saved as
it stands; a saved region of a resident slice comes back to its own origin when its place is free. All three wait for the domain's
own class-2 slot (R71). -/
def Obligations.RegionsDrainSaveAndRestore : Prop :=
  ((∀ (s : State) (o : SiteId) (i : BitVec 32) (pl : Placement) (l w : Slice), activeRegion s o = some pl → findSlice s i = some l →
    findSlice s pl.owner = some w →
    let split := (dieOf s (siteDie o)).docent.split
    let marked (t : State) : Prop := (∃ q ∈ t.placements, q.origin = o ∧ q.ctx = pl.ctx) ∧
      (∀ q ∈ t.placements, q.origin = o → q.ctx = pl.ctx → q.preempt = some i) ∧
      t = { s with placements := t.placements }
    (split = true ∨ pl.frozen = true ∨ preempts s pl l = false ∨ l.cls.toNat ≤ w.cls.toNat ∨ earlier l.deadline w.deadline = false →
      exec (.preemptMark o i) s = .next s) ∧
    (split = false → pl.frozen = false → pl.preempt = none → (cohortAt s (dieOfCore w.core) w.cohort).isSome → preempts s pl l = true →
      ∃ t, exec (.preemptMark o i) s = .next t ∧ marked t)) ∧
  (∀ (s : State) (o : SiteId) (pl : Placement), activeRegion s o = some pl →
    let due : Prop := if pl.bport = 0xFF then waiting s pl = 0 ∨ pl.activeSince + 4096 ≤ (dieOf s (siteDie pl.origin)).cyc
      else ∃ n, 0 < n ∧ tblGet pl.admitted pl.bport = some n ∧ 0 < pl.bcount ∧ n % pl.bcount = 0
    let split := (dieOf s (siteDie pl.origin)).docent.split
    (pl.preempt = none ∨ pl.draining = true ∨ pl.frozen = true ∨ pl.armed.isSome ∨ split = true ∨ ¬ due →
      exec (.layerBoundaryDrain o) s = .next s) ∧
    (pl.preempt.isSome → pl.draining = false → pl.frozen = false → pl.armed = none → split = false → due →
      ∃ t, exec (.layerBoundaryDrain o) s = .next t ∧ t.mem = s.mem ∧ t.sites = s.sites ∧ t.cores = s.cores ∧
        (∃ q ∈ t.placements, q.origin = o ∧ q.ctx = pl.ctx) ∧
        (∀ q ∈ t.placements, q.origin = o → q.ctx = pl.ctx → q.stopped = true ∧ q.draining = true) ∧
        (∀ i q, entryPorts pl = [(i, q)] → q.width = 0 → ∀ x tr, trackAt q.site q.track.toNat = (x, tr) → ∃ m, m.kind = 2 ∧
          (chanOf t (chanKey x q.port.toNat tr)).flight = (m, q.site, true) :: (chanOf s (chanKey x q.port.toNat tr)).flight))) ∧
  (∀ (s : State) (x : SiteId) (cx : Ctx), siteOk x = true → activeCtx s x = some cx →
    ((∀ i ∈ inputsOf cx, markerAt s x i.1 i.2 = false) → exec (.drainMarkerPass x) s = .next s) ∧
    ((∃ i ∈ inputsOf cx, markerAt s x i.1 i.2 = true) → mayFire s x = true →
      (∀ i, siteKind x ≠ 2 → decodeE ((cx.ewords[0]?).getD 0).toNat = .ok i →
        ∃ t, exec (.drainMarkerPass x) s = .next t ∧ exec i { s with focus := x, focusStage := 1 } = .next t) ∧
      (siteKind x = 2 → (∃ i ∈ inputsOf cx, markerAt s x i.1 i.2 = false) → exec (.drainMarkerPass x) s = .next s) ∧
      (siteKind x = 2 → (∀ i ∈ inputsOf cx, markerAt s x i.1 i.2 = true) → (siteOf s x).tile.drain = none →
        (siteOf s x).tile.drainDue = false → (∀ p ∈ outTracks cx, nodeOutFree s x p = true) →
        ∃ t, exec (.drainMarkerPass x) s = .next t ∧ t.mem = s.mem ∧ (siteOf t x).tile = (siteOf s x).tile ∧
          t.chans = (emitAll ((inputsOf cx).foldl (fun u i => consumeTok u x i.1 i.2) s) x
            ((outTracks cx).map fun p => (p.1, p.2, markerTok))).chans)))) ∧
  ((∀ (s : State) (o : SiteId) (pl : Placement) (l : Slice), activeRegion s o = some pl → findSlice s pl.owner = some l →
    let saved (t : State) : Prop :=
      (∃ q ∈ t.placements, q.origin = o ∧ q.ctx = pl.ctx ∧ q.saved = true ∧ q.active = false ∧ q.preempt = none) ∧
      ∃ k, findSlice t pl.owner = some k ∧
        k.saved.map (fun e => (e.1, e.2.1)) = l.saved.map (fun e => (e.1, e.2.1)) ++ [(pl.origin, pl.ctx)]
    (pl.preempt = none ∨ pl.frozen = true ∨ pl.faultSite.isSome ∨ drained s pl = false ∨ curatorSlot s pl = false →
      exec (.drainSave o) s = .next s) ∧
    (pl.preempt.isSome → pl.frozen = false → pl.faultSite = none → drained s pl = true → curatorSlot s pl = true →
      (takerOf s pl = none → ∃ t, exec (.drainSave o) s = .next t ∧ t.mem = s.mem ∧
        ∃ q ∈ t.placements, q.origin = o ∧ q.ctx = pl.ctx ∧ q.stopped = false ∧ q.draining = false ∧ q.preempt = none) ∧
      (∀ k, takerOf s pl = some k → k.ctx ≠ pl.ctx → k.saved = false → ∃ t, exec (.drainSave o) s = .next t ∧ saved t ∧
        (∃ q ∈ t.placements, q.origin = o ∧ q.ctx = k.ctx ∧ q.active = true) ∧ ∀ x ∈ k.sites, (siteOf t x).act = k.ctx) ∧
      (∀ k, takerOf s pl = some k → k.ctx ≠ pl.ctx → k.saved = true → ∃ u, saved u ∧ (∀ x ∈ pl.sites, (siteOf u x).on = false) ∧
        ∀ w, findSlice u k.owner = some w → ∀ e, w.saved.find? (fun e => e.1 == k.origin && e.2.1 == k.ctx) = some e →
          exec (.drainSave o) s = .next ((restoreAt u w e).getD u))) ∧
    (l.state ≠ .swapped ∨ swappingOut s l = false ∨ curatorSlot s pl = false → exec (.freezeSave o) s = .next s) ∧
    (l.state = .swapped → swappingOut s l = true → curatorSlot s pl = true → ∃ t, exec (.freezeSave o) s = .next t ∧ saved t ∧
      ∀ x ∈ pl.sites, (siteOf t x).on = false ∧ ∀ a ∈ (siteOf t x).arcs.toList, a = none)) ∧
  (∀ (s : State) (i : BitVec 32),
    ((∀ l, findSlice s i = some l → l.state ≠ .resident ∨ l.saved = []) → exec (.regionRestore i) s = .next s) ∧
    (∀ l o k n m s1 bs s2 p, findSlice s i = some l → l.state = .resident → l.saved = [(o, k, n, m)] →
      loadBytes s (dieOfCore l.core) (((imagePa s l).getD 0) + n) m = (s1, bs) → reloadContext s1 l o k bs = some (s2, p) →
      (placeFree s2 p.sites = false ∨ curatorSlot s2 p = false → exec (.regionRestore i) s = .next s) ∧
      (∀ s3, placeFree s2 p.sites = true → curatorSlot s2 p = true → loadRegion (reloadOthers s2 l p bs) p bs = some s3 →
        ∃ t, exec (.regionRestore i) s = .next t ∧ t.placements = s3.placements ∧ t.sites = s3.sites ∧ t.chans = s3.chans ∧
          (∃ q ∈ t.placements, q.origin = p.origin ∧ q.ctx = p.ctx ∧ q.active = true ∧ q.saved = false) ∧
          (∀ x ∈ p.sites, (siteOf t x).act = p.ctx ∧ (siteOf t x).on = true) ∧
          ∀ q, findSlice t i = some q → q.saved = []))))

/-- ASYNC_CAUSE_TAKEN, BUDGET_EXPIRY and SUPERVISOR_TRAP_DELIVERY (R240, R266, R269, R270, R271, R273): at a boundary where causes may be
taken the first pending one of DIE_LOST, LINK, NODE, DEFERRED and BUDGET is taken, and the oldest trap of a supervisor's list after
them; at no other boundary is any.
DEFERRED_RECORD (R271, R273): the record an engine holds goes to the list of the core of its slice, or to the cohort's supervisor, when
there is a place, and is held until then. -/
def Obligations.AsynchronousCausesInOrder : Prop :=
  (∀ (s : State) (k : CoreId),
    let u : State := { s with cur := k }
    let c := coreOf s k
    let free : Prop := atBoundaryOf c = true
    let pc : Word := c.regs.pc + (if c.idle then 4 else 0)
    let id : BitVec 32 := c.slice.getD 0
    let took (t : State) (cause : BitVec 8) (addr : Word) (detail : BitVec 16) (inner : BitVec 8) (l : BitVec 32) (coh : Bool) : Prop :=
      (curCore t).trap.cause.toNat = cause.toNat + (if c.sup then 256 else 0) ∧ (curCore t).trap.pc = pc ∧ (curCore t).trap.addr = addr ∧
        (curCore t).trap.info.toNat = (if coh then 2 ^ 63 else 0) + l.toNat * 2 ^ 24 + detail.toNat * 2 ^ 8 + inner.toNat ∧
        (curCore t).sup = true ∧ pcOf t = c.trap.base + BitVec.ofNat 64 (cause.toNat * 64) ∧ regsKept u t ∧ OnlyCore u t
    let deferred (t : State) (r : DeferRec) : Prop := (curCore t).trap.deferPc = r.pc ∧ (curCore t).trap.deferAddr = r.addr ∧
      (curCore t).trap.deferProgress = r.progress ∧ (curCore t).trap.deferOpA = r.opA ∧ (curCore t).trap.deferOpB = r.opB ∧
      (curCore t).trap.deferOpC = r.opC ∧ (curCore t).trap.deferOpD = r.opD
    (¬ free → exec (.asyncCauseTaken k) s = .next s ∧ exec (.budgetExpiry k) s = .next s ∧ exec (.supervisorTrapDelivery k) s = .next s) ∧
    (free →
      (∀ d ds, c.pendLost = d :: ds → ∃ t, exec (.asyncCauseTaken k) s = .next t ∧ took t 0x12 0 (d.zeroExtend 16) 0 id false ∧
        (curCore t).pendLost = ds) ∧
      (∀ d n ds, c.pendLost = [] → c.pendLink = (d, n) :: ds → ∃ t, exec (.asyncCauseTaken k) s = .next t ∧
        took t 0x11 0 (d.zeroExtend 16) n id false ∧ (curCore t).pendLink = ds) ∧
      (∀ n ns, c.pendLost = [] → c.pendLink = [] → c.pendNode = n :: ns → ∃ t, exec (.asyncCauseTaken k) s = .next t ∧
        took t 0x0F (n.site.zeroExtend 64) n.catid n.kind n.slice false ∧ (curCore t).pendNode = ns) ∧
      (c.pendLost = [] → c.pendLink = [] → c.pendNode = [] →
        (∀ r, dueRecord c = some r → ∃ t, exec (.asyncCauseTaken k) s = .next t ∧ took t 0x0E r.addr 0 r.cause r.slice false ∧
          deferred t r ∧ (curCore t).deferred = c.deferred.erase r) ∧
        (dueRecord c = none → c.pendBudget = true → c.sup = false → c.running = true →
          (∃ t, exec (.asyncCauseTaken k) s = .next t ∧ took t 0x09 0 0 0 id false) ∧
          ∃ t, exec (.budgetExpiry k) s = .next t ∧ took t 0x09 0 0 0 id false ∧ (curCore t).pendBudget = false) ∧
        (dueRecord c = none → c.pendBudget = false ∨ c.sup = true → exec (.asyncCauseTaken k) s = .next s ∧ exec (.budgetExpiry k) s = .next s)) ∧
      (∀ e es, c.supTraps = e :: es → ∃ t, exec (.supervisorTrapDelivery k) s = .next t ∧
        took t e.cause e.addr 0 e.inner e.slice true ∧ (curCore t).supTraps = es ∧ ∀ r, e.record = some r → deferred t r) ∧
      (c.supTraps = [] → exec (.supervisorTrapDelivery k) s = .next s))) ∧
  (∀ (s : State) (e : EngineId),
    ((engineOf s e).held = none → exec (.deferredRecord e) s = .next s) ∧
    (∀ r, (engineOf s e).held = some r →
      (∀ l, findSlice s r.slice = some l → l.state ≠ .retired →
        (16 ≤ (coreOf s l.core).deferred.length → exec (.deferredRecord e) s = .next s) ∧
        ((coreOf s l.core).deferred.length < 16 → ∃ t, exec (.deferredRecord e) s = .next t ∧ (engineOf t e).held = none ∧
          (coreOf t l.core).deferred = (coreOf s l.core).deferred ++ [r] ∧ (∀ k, k ≠ l.core → coreOf t k = coreOf s k) ∧ t.mem = s.mem)) ∧
      (findSlice s r.slice = none →
        let k := superCore s 0 (dieOfCore (BitVec.ofNat 6 (r.slice.toNat / 32)))
        (16 ≤ (coreOf s k).supTraps.length → exec (.deferredRecord e) s = .next s) ∧
        ((coreOf s k).supTraps.length < 16 → ∃ t x, exec (.deferredRecord e) s = .next t ∧ (engineOf t e).held = none ∧
          (coreOf t k).supTraps = (coreOf s k).supTraps ++ [x] ∧ x.cause = 0x0E ∧ x.record = some r))))

/-- COHORT_SWAP_OUT and COHORT_SWAP_IN (R250, R251, Table 7.5): without a command nothing is swapped out; a command first sets STATE 1, then
takes the firings of resident members as they come to a boundary, and once their regions have been saved and the queues have left
the cores STATE is 2 and the command ends; of the cohorts that may come back (an eligible one, or one a command names) the first
one's members are resident again. -/
def Obligations.CohortsSwapOutAndIn : Prop :=
  ∀ (s : State) (d : DieId),
    let k := (dieOf s d).docent
    let st := cohortState s d k.cohort
    (k.busy = false ∨ k.cmd ≠ 1 → exec (.cohortSwapOut d) s = .next s) ∧
    (k.busy = true → k.cmd = 1 →
      (cohortAt s d k.cohort = none ∨ st = 2 → ∃ t, exec (.cohortSwapOut d) s = .next t ∧ (dieOf t d).docent.busy = false ∧
        t = { s with dies := t.dies }) ∧
      ((cohortAt s d k.cohort).isSome → st ≠ 1 → st ≠ 2 → exec (.cohortSwapOut d) s = .next (setCohortState s d k.cohort 1)) ∧
      ((cohortAt s d k.cohort).isSome → st = 1 →
        (∀ l, findSlice s l.id = some l → memberOf k.cohort l = true → l.state = .resident → mayTakeFiring s l = true →
          ∃ t, exec (.cohortSwapOut d) s = .next t ∧ (coreOf t l.core).slice ≠ some l.id ∧
            ∃ m, findSlice t l.id = some m ∧ m.state = .swapped) ∧
        ((∀ l ∈ s.slices, memberOf k.cohort l = true → l.state = .resident → mayTakeFiring s l = false) →
          ((∃ l ∈ s.slices, memberOf k.cohort l = true ∧ (l.state = .resident ∨ l.state = .retiring ∨ l.state = .created)) ∨
              (∃ l ∈ s.slices, memberOf k.cohort l = true ∧ l.state = .swapped ∧ ∃ p ∈ s.placements, p.owner = l.id ∧ p.active = true) →
            exec (.cohortSwapOut d) s = .next s) ∧
          ((∀ l ∈ s.slices, memberOf k.cohort l = true → (l.state = .swapped ∧ ∀ p ∈ s.placements, p.owner = l.id → p.active = false) ∨
              l.state = .waiting) →
            ∃ u, exec (.cohortSwapOut d) s = .next (endCommand (setCohortState u d k.cohort 2) d) ∧
              (dieOf (endCommand (setCohortState u d k.cohort 2) d) d).docent.busy = false ∧
              ∀ c q, q ∈ (coreOf u c).queues → q.cohort ≠ k.cohort)))) ∧
    (let asked : Option (BitVec 16) := if k.busy = true ∧ k.cmd = 2 then some k.cohort else none;
      (asked.isSome → st = 0 → ∃ t, exec (.cohortSwapIn d) s = .next t ∧ (dieOf t d).docent.busy = false ∧ t = { s with dies := t.dies }) ∧
      (asked = none ∨ st ≠ 0 →
        (mayComeBack s d asked = [] → exec (.cohortSwapIn d) s = .next s) ∧
        (∀ c, firstCohort s d (mayComeBack s d asked) = some c →
          cohortState s d c = 2 ∧ mayReturn s c = true ∧ (asked = some c ∨ eligible s d c = true) ∧
          ∃ t, exec (.cohortSwapIn d) s = .next t ∧ (asked = some c → (dieOf t d).docent.busy = false) ∧
            ∀ l, findSlice s l.id = some l → memberOf c l = true → l.state = .swapped →
              ∃ m, findSlice t l.id = some m ∧ m.state = .resident)))

/-- PC_POWER_DOWN, PC_SELF_REFRESH and PC_WAKE (R180, R181): an active pseudo-channel without a request for 256 cycles of 0.8 ns (21 ticks
by log entry 69) may power down, one without a request for 6,400 ticks goes to self refresh, and either wakes for a request, which starts
its timer again; nothing else changes, and memory keeps its contents.
DROWSY, DROWSY_WAKE and SITE_GATING (R283, R284): a site that has not fired for 2,048 cycles may grow drowsy with all it holds, and wakes
as it was; a site that holds a context or a token, and a memory element, is not gated; one that is gated keeps its domain alone. -/
def Obligations.UnitsSleepAndWake : Prop :=
  (∀ (s : State) (d : DieId) (p : BitVec 7),
    let state (t : State) := channelState t d p.toNat
    let since := lastRequest s d p
    let changes (i : Instr) (v : PcState) (at_ : Nat) : Prop := ∃ t, exec i s = .next t ∧ state t = v ∧ lastRequest t d p = at_ ∧
      (∀ q : BitVec 7, q ≠ p → channelState t d q.toNat = channelState s d q.toNat ∧ lastRequest t d q = lastRequest s d q) ∧
      t = { s with dies := t.dies } ∧ ∀ e, e ≠ d → dieOf t e = dieOf s e
    (state s ≠ .active ∨ s.ticks < since + 21 → exec (.pcPowerDown d p) s = .next s) ∧
    (state s = .active → since + 21 ≤ s.ticks → changes (.pcPowerDown d p) .powerDown since) ∧
    (state s = .selfRefresh ∨ s.ticks < since + 6400 → exec (.pcSelfRefresh d p) s = .next s) ∧
    (state s ≠ .selfRefresh → since + 6400 ≤ s.ticks → changes (.pcSelfRefresh d p) .selfRefresh since) ∧
    (state s = .active → exec (.pcWake d p) s = .next s) ∧
    (state s ≠ .active → changes (.pcWake d p) .active s.ticks)) ∧
  (∀ (s : State) (x : SiteId),
    let k := siteOf s x
    let idle : Prop := siteOk x = true ∧ k.lastFire + 2048 ≤ (dieOf s (siteDie x)).cyc
    let only (t : State) : Prop := t = { s with sites := t.sites } ∧ ∀ y, y ≠ x → siteOf t y = siteOf s y
    (¬ idle → exec (.drowsy x) s = .next s) ∧
    (idle → ∃ t, exec (.drowsy x) s = .next t ∧ siteOf t x = { k with drowsy := true } ∧ only t) ∧
    (∃ t, exec (.drowsyWake x) s = .next t ∧ siteOf t x = { k with drowsy := false } ∧ only t) ∧
    ((∃ i : Fin 4, k.ctxs[i].isSome) ∨ siteKind x = 1 ∨ siteOk x = false ∨ k.tile.rows ≠ [] ∨ siteBusy s x = true →
      exec (.siteGating x) s = .next s) ∧
    (siteOk x = true → siteKind x ≠ 1 → k.tile.rows = [] → siteBusy s x = false → ∃ t, exec (.siteGating x) s = .next t ∧
      (siteOf t x).gated = true ∧ (siteOf t x).domain = k.domain ∧ (siteOf t x).fault = 0 ∧ only t))

/-- HOST_ACCESS, BACK_INVALIDATE and PEER_ATOMIC (R220, R349, R350): through a port that is up the host reads and writes 8 bytes of HDM at
the home and then holds the line, until it gives it up or a peer's atomic takes it; in the host's own window it reads and writes its own
memory, and a write takes the copies cores hold; any other address, or one of a lost die, changes nothing. What is said of bytes is said
where no core holds the line for atomics.
ECC_ERROR and ERROR_COUNTER_CLEAR (R278, R280, Table 8.7, Table 8.8): a corrected error counts, up to the largest count; an
uncorrectable one poisons its line and is logged, at the die that holds the memory or whose port leads to it, and one in the lanes of a
token, on a track or in a buffer of a node (that a channel key names those is log entry 97), leaves a HOLE with its SEQ and EOS; an address of none of these does nothing; clearing sets one counter to zero.
SPDM_REQUEST and REGISTER_WRITE (R6, R349, R353, R359, R363, Tables 11.2, 11.4): through a port that is up a measurement is answered with its
bytes and their signature, index 0 with the certificate chain, an index that names none is not answered, and an exchange of the port's key
is kept; an access from outside reaches the mailbox at the leader's port, the power block at any, the device registers, or nothing; what lies at a die that cannot be reached is not (R346). -/
def Obligations.TheOutsideReachesTheModule : Prop :=
  (∀ (s : State) (pa : BitVec 52) (v : BitVec 64),
    let a : Nat := pa.toNat / 8 * 8
    let free (b : Nat) : Prop := ∀ e ∈ s.cores, ∀ x ∈ e.2.l1, x.line = b / 64 → x.own = false
    let up : Prop := ∃ e : DieId, 0 < (dieOf s e).lanes ∧ (dieOf s e).lost = false
    (hdmDie s a = none → paKind a ≠ .cxl → ∀ w, exec (.hostAccess pa w v) s = .next s) ∧
    (paKind a = .cxl → exec (.hostAccess pa false v) s = .next { s with hostReply := BitVec.ofNat 64 (memNat s.mem a 8) } ∧
      ∃ u, exec (.hostAccess pa true v) s = .next { u with mem := memWrite u.mem a (leBytes 8 v.toNat) } ∧
        ∀ c x, x ∈ (coreOf u c).l1 → x.line ≠ a / 64) ∧
    (∀ d, hdmDie s a = some d →
      (¬ up → ∀ w, exec (.hostAccess pa w v) s = .next s) ∧
      (up → free a →
        (∃ t, exec (.hostAccess pa true v) s = .next t ∧ t.hostLines = setInsert s.hostLines (a / 64) ∧
          t.mem = memWrite s.mem a (leBytes 8 v.toNat) ∧ t.cores = s.cores ∧ t.sites = s.sites ∧ t.slices = s.slices) ∧
        (a / 64 ∉ s.poison → ∃ t, exec (.hostAccess pa false v) s = .next t ∧ t.hostLines = setInsert s.hostLines (a / 64) ∧
          t.hostReply = BitVec.ofNat 64 (memNat s.mem a 8) ∧ t.mem = s.mem ∧ t.cores = s.cores ∧ t.slices = s.slices) ∧
        (a / 64 ∈ s.poison → ∃ t, exec (.hostAccess pa false v) s = .next t ∧ t.mem = s.mem ∧ a / 64 ∈ t.hostLines ∧
          (dieOf t d).err.lastUe = BitVec.ofNat 64 (a / 64 * 64) ∧ t.cores = s.cores))) ∧
    exec (.backInvalidate pa) s = .next { s with hostLines := s.hostLines.erase (pa.toNat / 64) } ∧
    (∀ (narrow : Bool) (op : BitVec 3),
      let n := if narrow then 4 else 8
      let b : Nat := pa.toNat / n * n
      let old := memNat s.mem b n
      (hdmDie s b = none → exec (.peerAtomic pa narrow op v) s = .next s) ∧
      (∀ d, hdmDie s b = some d → b / 64 ∈ s.poison → free b → ∃ t, exec (.peerAtomic pa narrow op v) s = .next t ∧
        t.mem = s.mem ∧ t.poison = s.poison ∧ t.peerReply = s.peerReply ∧ t.cores = s.cores ∧ t.slices = s.slices) ∧
      (∀ d, hdmDie s b = some d → b / 64 ∉ s.poison → free b → ∃ t, exec (.peerAtomic pa narrow op v) s = .next t ∧
        t.hostLines = s.hostLines.erase (b / 64) ∧ t.peerReply = BitVec.ofNat 64 old ∧ t.cores = s.cores ∧ t.slices = s.slices ∧
        t.mem = memWrite s.mem b (leBytes n (amoOp n op.toNat old (v.toNat % 2 ^ (8 * n))))))) ∧
  (∀ (s : State) (pa : BitVec 52) (d : DieId) (c : BitVec 2),
    let e := (dieOf s d).err
    let only (t : State) : Prop := t = { s with dies := t.dies, poison := t.poison } ∧ ∀ k, k ≠ d → dieOf t k = dieOf s k
    let counted (t : State) : Prop := only t ∧ t.poison = s.poison ∧
      (dieOf t d).err.ce.toNat = min (e.ce.toNat + 1) 0xFFFFFFFF ∧ (dieOf t d).err.ueReads = e.ueReads ∧ (dieOf t d).err.lastUe = e.lastUe
    (errorDie s pa.toNat = none → ∀ u, exec (.eccError (.line pa) u) s = .next s) ∧
    (errorDie s pa.toNat = some d →
      (∃ t, exec (.eccError (.line pa) false) s = .next t ∧ counted t) ∧
      ∃ t, exec (.eccError (.line pa) true) s = .next t ∧ only t ∧ (∀ l, l ∈ t.poison ↔ l ∈ s.poison ∨ l = pa.toNat / 64) ∧
        (dieOf t d).err = { e with lastUe := BitVec.ofNat 64 (pa.toNat / 64 * 64) }) ∧
    (∀ (key : BitVec 24) (i : BitVec 6),
      let x : SiteId := BitVec.ofNat 14 (key.toNat / 128)
      let at_ (t : State) : Option Token := (chanOf t key.toNat).slots[i.toNat]?
      (siteOk x = false → ∀ u, exec (.eccError (.token key i) u) s = .next s) ∧
      (siteOk x = true →
        (siteDie x = d → ∃ t, exec (.eccError (.token key i) false) s = .next t ∧ counted t) ∧
        (key.toNat / 8 % 16 = 14 → ∃ t, exec (.eccError (.token key i) true) s = .next t ∧ t.chans = s.chans ∧ t.mem = s.mem ∧
          (∀ y, y ≠ x → siteOf t y = siteOf s y) ∧
          (∀ v, key.toNat % 8 = 0 → i.toNat < 6 → (siteOf s x).arcs[i.toNat]? = some (some v) → v.kind ≠ 2 → v.kind ≠ 6 →
            (siteOf t x).arcs[i.toNat]? = some (some { v with kind := 6, valid := 0, p := [] })) ∧
          (∀ e, key.toNat % 8 = 1 → (siteOf s x).node.pend[i.toNat]? = some e →
            (siteOf t x).node.pend[i.toNat]? = some { e with words := [], valid := 0, hole := true }) ∧
          (key.toNat % 8 = 2 → (siteOf t x).node.part = []) ∧
          (∀ e h r, key.toNat % 8 = 3 → (siteOf s x).win[i.toNat]? = some e → e.bundle = h :: r → h.kind ≠ 2 → h.kind ≠ 6 →
            ∃ f, (siteOf t x).win[i.toNat]? = some f ∧ f.accs = [] ∧ f.valid = 0 ∧ f.done.isSome ∧ ∀ q ∈ f.bundle, q.kind = 6 ∧ q.lanes = [])) ∧
        (key.toNat / 8 % 16 ≠ 14 → (∀ k, at_ s = some k → k.kind = 2 ∨ k.kind = 6) → exec (.eccError (.token key i) true) s = .next s) ∧
        (∀ k, key.toNat / 8 % 16 ≠ 14 → at_ s = some k → k.kind ≠ 2 → k.kind ≠ 6 → ∃ t, exec (.eccError (.token key i) true) s = .next t ∧
          at_ t = some { k with kind := 6, valid := 0, lanes := [] } ∧ t = { s with chans := t.chans, sites := t.sites } ∧
          (∀ j, j ≠ i.toNat → (chanOf t key.toNat).slots[j]? = (chanOf s key.toNat).slots[j]?) ∧ ∀ y, y ≠ x → siteOf t y = siteOf s y))) ∧
    (∃ t, exec (.errorCounterClear d c) s = .next t ∧ only t ∧ t.poison = s.poison ∧
      (dieOf t d).err = { e with
        ce := if c = 0 then 0 else e.ce, ueReads := if c = 1 then 0 else e.ueReads, sqPoison := if c = 2 then 0 else e.sqPoison })) ∧
  (∀ (s : State) (d : DieId) (x : BitVec 8) (pa : BitVec 52) (v : BitVec 64),
    let gives (m : List Byte) : Prop := ∃ t, exec (.spdmRequest d (.measure x)) s = .next t ∧ t = { s with dies := t.dies } ∧
      dieOf t d = { dieOf s d with spdm := m ++ Config.identitySign d m }
    let up : Prop := 0 < (dieOf s d).lanes ∧ (dieOf s d).lost = false
    (¬ up → (∀ k, exec (.spdmRequest d k) s = .next s) ∧ ∀ z w, exec (.registerWrite ⟨some d, pa, z, w⟩ v) s = .next s) ∧
    (up →
      (∀ key, ∃ t, exec (.spdmRequest d (.ideKey key)) s = .next t ∧ t = { s with dies := t.dies } ∧
        dieOf t d = { dieOf s d with ideKey := key }) ∧
      (x = 0 → gives (Config.certChain d)) ∧
      (x = 1 → gives (leBytes 64 (Config.romVersion d).toNat)) ∧
      (x = 2 → (dieOf s d).firmware = true ∨ d = Config.leader → gives (leBytes 64 (dieOf s d).measure.toNat)) ∧
      (x = 2 → (dieOf s d).firmware = false → d ≠ Config.leader → gives (leBytes 64 0)) ∧
      (x = 3 → gives (leBytes 4 (Config.rollback d).toNat ++ leBytes 1 Config.leader.toNat)) ∧
      (3 < x.toNat → exec (.spdmRequest d (.measure x)) s = .next s) ∧
      (let a : Nat := pa.toNat / 8 * 8
       let put := exec (.registerWrite ⟨some d, pa, 3, true⟩ v) s
       let get := exec (.registerWrite ⟨some d, pa, 3, false⟩ v) s
       let answer (w : Word) : Prop := get = .next { s with hostReply := w }
       (d = Config.leader →
         (a = 0x10000 → put = .next { s with boot := { s.boot with imageHpa := v } } ∧ answer s.boot.imageHpa) ∧
         (a = 0x10008 → put = .next { s with boot := { s.boot with imageLen := v.truncate 32 } } ∧ answer (s.boot.imageLen.zeroExtend 64)) ∧
         (a = 0x10010 → put = .next (bootCmd s (v.truncate 2)) ∧ answer (s.boot.cmd.zeroExtend 64)) ∧
         (a = 0x10018 → put = .next s ∧ answer (BitVec.ofNat 64 (s.boot.status.toNat + 256 * diesUp s)))) ∧
       (let p : Nat := 0xD002000000000 + d.toNat * 0x1000 + (a - 0x20000)
        0x20000 ≤ a → a < 0x21000 →
         (unreachable s d p = true → put = .next s ∧ answer 0) ∧
         (unreachable s d p = false → put = .next (devWrite s p 8 v.toNat) ∧ (a = 0x20000 → put = exec (.pwrCeilWrite v) s))) ∧
       (a < 0x10000 ∨ (0x10020 ≤ a ∧ a < 0x20000) ∨ 0x21000 ≤ a ∨ (d ≠ Config.leader ∧ a < 0x20000) → put = .next s ∧ answer 0))) ∧
    (∀ z : BitVec 2,
      let n := 2 ^ z.toNat
      let a : Nat := pa.toNat / n * n
      (paKind a ≠ .device → ∀ w, exec (.registerWrite ⟨none, pa, z, w⟩ v) s = .next s) ∧
      let reached : Prop := ∃ e, 0 < (dieOf s e).lanes ∧ (dieOf s e).lost = false ∧ unreachable s e a = false
      (paKind a = .device → ¬ reached → ∀ w, exec (.registerWrite ⟨none, pa, z, w⟩ v) s = .next s) ∧
      (paKind a = .device → reached → exec (.registerWrite ⟨none, pa, z, true⟩ v) s = .next (devWrite s a n v.toNat) ∧
        exec (.registerWrite ⟨none, pa, z, false⟩ v) s = .next { s with hostReply := BitVec.ofNat 64 (leNat (devRead s a n)) })))

/-- LINK_RESEND, LINK_WAKE_RETRY and LINK_WAKE_COMPLETE (R10, R286, R287): a request without an answer for 2,000 ticks is sent again; over an
edge of two dies that are there a wake is retried after 800 ticks, and the third that fails makes LINK pending at each core with a held
request; a wake that succeeds ends it.
DIE_LOST (R288): a die without a heartbeat for 6,400 ticks, or whose training has failed three times in a row, is lost: its cores stop
and lose their L1, a line one of them held for atomics of another die is poisoned, an active region with a site there freezes, and no other that has one is chosen any more, what was
held for it has completed, and DIE_LOST is pending at every core of the dies that are left; a die is lost once. -/
def Obligations.LinksAndLostDies : Prop :=
  (∀ (s : State) (d e : DieId),
    let l := edgeOf s d e
    let there : Prop := d ≠ e ∧ diagonal d e = false ∧ (dieOf s d).lost = false ∧ (dieOf s e).lost = false
    let only (t : State) : Prop := (∀ k, k ≠ d → dieOf t k = dieOf s k) ∧ t.mem = s.mem ∧ t.sites = s.sites ∧ t.slices = s.slices ∧
      ∀ c, c ≠ e → edgeOf t d c = edgeOf s d c
    (l.request = none → exec (.linkResend d e) s = .next s) ∧
    (∀ r, l.request = some r →
      (s.ticks < r + 2000 → exec (.linkResend d e) s = .next s) ∧
      (r + 2000 ≤ s.ticks → ∃ t, exec (.linkResend d e) s = .next t ∧ only t ∧ t.cores = s.cores ∧
        edgeOf t d e = { l with request := some s.ticks, resends := l.resends + 1 })) ∧
    (¬ there → exec (.linkWakeRetry d e) s = .next s) ∧
    (there →
      (l.waking = false → ∃ t, exec (.linkWakeRetry d e) s = .next t ∧ only t ∧ t.cores = s.cores ∧
        edgeOf t d e = { l with waking := true, attempts := 1, since := s.ticks }) ∧
      (l.waking = true → s.ticks < l.since + 800 ∨ 3 < l.attempts → exec (.linkWakeRetry d e) s = .next s) ∧
      (l.waking = true → l.since + 800 ≤ s.ticks → l.attempts ≤ 3 → ∃ t, exec (.linkWakeRetry d e) s = .next t ∧ only t ∧
        edgeOf t d e = { l with attempts := l.attempts + 1, since := s.ticks } ∧
        (l.attempts < 3 → t.cores = s.cores) ∧
        (l.attempts = 3 → l.cores.Nodup → ∀ c, (coreOf t c).pendLink = (coreOf s c).pendLink ++ if c ∈ l.cores then [(e, 3)] else []))) ∧
    (∃ t, exec (.linkWakeComplete d e) s = .next t ∧ only t ∧ t.cores = s.cores ∧ (edgeOf t d e).waking = false ∧
      (edgeOf t d e).attempts = 0 ∧ (edgeOf t d e).cores = [] ∧ (edgeOf t d e).request = none)) ∧
  (∀ (s : State) (d : DieId),
    let due : Prop := (dieOf s d).beat + 6400 ≤ s.ticks ∨ 3 ≤ (dieOf s d).trainFails
    ((dieOf s d).lost = true ∨ ¬ due → exec (.dieLost d) s = .next s) ∧
    ((dieOf s d).lost = false → due → ∃ t, exec (.dieLost d) s = .next t ∧ (dieOf t d).lost = true ∧ t.mem = s.mem ∧ t.chans = s.chans ∧
      (dieOf t d).forwards = [] ∧ (∀ e, (edgeOf t e d).waking = false) ∧ (∀ l, l ∈ s.poison → l ∈ t.poison) ∧
      (∀ c, dieOfCore c = d → (coreOf t c).running = false ∧ (coreOf t c).l1 = [] ∧
        ∀ x ∈ (coreOf s c).l1, x.own = true → memoryDie d (64 * x.line) ≠ d → x.line ∈ t.poison) ∧
      (∀ c, dieOfCore c ≠ d → (dieOf s (dieOfCore c)).lost = false → (coreOf t c).pendLost = (coreOf s c).pendLost ++ [d]) ∧
      (∀ p ∈ s.placements, p.active = false → (∃ x ∈ p.sites, siteDie x = d) →
        ∀ q ∈ t.placements, q.origin = p.origin → q.ctx = p.ctx → q.frozen = true) ∧
      ∀ p ∈ s.placements, p.active = true → (∃ x ∈ p.sites, siteDie x = d) → ∀ x ∈ p.sites, (siteOf t x).frozen = true))

/-- STRETCH_INTERVAL, UNMET, UNMET_CLEAR and PWR_CEIL_WRITE (R354, R355, Table 11.2): an interval leaves its power and stretch; UNMET is set once
maximum stretch has not sufficed for 500 ticks and power is still above the ceiling, and stays until cleared; a ceiling from 250 to
1,000 is taken, another is not.
PS_TARGET_WRITE, PS_TRANSITION_DONE, PARK, UNPARK and REFUSED_CLEAR (R284, R356, R357, R358): a target starts a transition, is held during
one, and is ignored at 6 and 7; a park of a die with work sets REFUSED; a transition that has had its time ends in its target; parking
gates the empty sites and empties the scratchpads and TLBs, and a parked die comes back by PS4. -/
def Obligations.PowerAndParking : Prop :=
  (∀ (s : State) (p : BitVec 10) (g : BitVec 4) (v : BitVec 64),
    let q := s.power
    let above : Prop := g = 15 ∧ q.ceil.toNat < p.toNat
    let c := v.toNat % 1024
    (above → exec (.stretchInterval p g) s = .next { s with power := { q with
      power := p, stretch := g, overSince := some (q.overSince.getD s.ticks) } }) ∧
    (¬ above → exec (.stretchInterval p g) s = .next { s with power := { q with power := p, stretch := g, overSince := none } }) ∧
    (q.overSince = none ∨ q.power.toNat ≤ q.ceil.toNat → exec .unmet s = .next s) ∧
    (∀ t, q.overSince = some t →
      (t + 500 ≤ s.ticks → q.ceil.toNat < q.power.toNat → exec .unmet s = .next { s with power := { q with unmet := true } }) ∧
      (s.ticks < t + 500 → exec .unmet s = .next s)) ∧
    exec .unmetClear s = .next { s with power := { q with unmet := false } } ∧
    (250 ≤ c → c ≤ 1000 → exec (.pwrCeilWrite v) s = .next { s with power := { q with
      ceil := BitVec.ofNat 10 c, overSince := if q.power.toNat ≤ c then none else q.overSince } }) ∧
    (c < 250 ∨ 1000 < c → exec (.pwrCeilWrite v) s = .next s)) ∧
  (∀ (s : State) (d : DieId) (g : BitVec 3),
    let k := dieOf s d
    let goes (i : Instr) (m : Die) : Prop := ∃ t, exec i s = .next t ∧ dieOf t d = m ∧ (∀ e, e ≠ d → dieOf t e = dieOf s e) ∧
      t = { s with dies := t.dies }
    let steps : Nat := max k.psCurrent.toNat k.psTarget.toNat - min k.psCurrent.toNat k.psTarget.toNat
    let due : Prop := k.psBusy = true ∧ k.psSince + (if k.psTarget = 5 then 5000 else 200 + 2000 * steps) ≤ s.ticks
    let back : Prop := k.psBusy = true ∧ k.psCurrent = 5 ∧ k.psTarget ≠ 5 ∧ k.psSince + 12000 ≤ s.ticks
    let parked (i : Instr) : Prop := ∃ t, exec i s = .next t ∧ (dieOf t d).psCurrent = 5 ∧ (dieOf t d).psBusy = false ∧
      (dieOf t d).parked = true ∧ (dieOf t d).tlb2 = [] ∧ (∀ c, dieOfCore c = d → (coreOf t c).tlb = []) ∧
      (∀ x, siteDie x = d → if siteEmpty s x = true then siteOf t x = { gated := true, domain := (siteOf s x).domain }
        else siteOf t x = siteOf s x) ∧
      ∀ a, memByte t.mem a = if 0xE000000000000 + d.toNat * 0x4000000 ≤ a ∧ a < 0xE000000000000 + (d.toNat + 1) * 0x4000000 then 0
        else memByte s.mem a
    (5 < g.toNat → exec (.psTargetWrite d g) s = .next s) ∧
    (g.toNat ≤ 5 →
      (k.psBusy = true → goes (.psTargetWrite d g) { k with psHeld := some g }) ∧
      (k.psBusy = false → g = k.psCurrent → goes (.psTargetWrite d g) { k with psTarget := g }) ∧
      (k.psBusy = false → g ≠ k.psCurrent → g = 5 → mayPark s d = false → goes (.psTargetWrite d g) { k with psRefused := true }) ∧
      (k.psBusy = false → g ≠ k.psCurrent → g ≠ 5 →
        goes (.psTargetWrite d g) { k with psTarget := g, psBusy := true, psSince := s.ticks }) ∧
      (k.psBusy = false → g ≠ k.psCurrent → g = 5 → mayPark s d = true →
        goes (.psTargetWrite d g) { k with psTarget := 5, psBusy := true, parked := true, psSince := s.ticks } ∧
        goes (.park d) { k with psTarget := 5, psBusy := true, parked := true, psSince := s.ticks })) ∧
    (¬ due ∨ (k.psCurrent = 5 ∧ k.psTarget ≠ 5) → exec (.psTransitionDone d) s = .next s) ∧
    (k.psBusy = true → k.psTarget = 5 → ¬ due → exec (.park d) s = .next s) ∧
    (k.psBusy = true → k.psTarget ≠ 5 → goes (.park d) { k with psHeld := some 5 }) ∧
    (due → k.psCurrent ≠ 5 → k.psTarget ≠ 5 → k.psHeld = none →
      goes (.psTransitionDone d) { k with psCurrent := k.psTarget, psBusy := false }) ∧
    (Invariant s → keysFrom 0 s.sites = true → due → k.psTarget = 5 → k.psHeld = none →
      parked (.psTransitionDone d) ∧ parked (.park d)) ∧
    (¬ back → exec (.unpark d) s = .next s) ∧
    (back → k.psTarget ≠ 4 → goes (.unpark d) { k with psCurrent := 4, parked := false, psSince := s.ticks }) ∧
    (back → k.psTarget = 4 → k.psHeld = none →
      goes (.unpark d) { k with psCurrent := 4, parked := false, psSince := s.ticks, psBusy := false }) ∧
    goes (.refusedClear d) { k with psRefused := false })

/-- BOOT_LOAD and FOLLOWER_VERIFY (R359, R360, R361, R362, Table 11.4): a bad length or address gives 0x84; an image that fails a step of the
verification gives that step's status; one that passes gives 3, lies in the die's memory, is kept and measured, and every core of the die
starts at ENTRY in supervisor mode. A follower the leader reaches starts only an image it verifies itself, after a warm reset by the digest
of its own copy. Where the image lies, and that every core starts, is the model's choice (log entry 4). -/
def Obligations.VerifiedImagesStart : Prop :=
  (∀ (d : DieId) (img : List Byte) (len : Nat),
    let word (o : Nat) : Nat := leNat ((img.drop o).take 4)
    let key := (img.drop 0x400).take 512
    let form : Prop := word 0 = 0x4F414446 ∧ word 4 = len
    (¬ form → verifyImage d img len = 0x82) ∧
    (form → Config.sha512 key ≠ Config.rootKeyDigest d → verifyImage d img len = 0x83) ∧
    (form → Config.sha512 key = Config.rootKeyDigest d → word 8 < (Config.rollback d).toNat → verifyImage d img len = 0x81) ∧
    (form → Config.sha512 key = Config.rootKeyDigest d → (Config.rollback d).toNat ≤ word 8 →
      verifyImage d img len = if Config.pssValid key ((img.drop 0x200).take 512) (img.take 0x200 ++ img.drop 0x600) then 3 else 0x80)) ∧
  (∀ (s : State), Invariant s →
    let b := s.boot
    let n := b.imageLen.toNat
    let lead := Config.leader
    let img := hostBytes s b.imageHpa.toNat n
    let runs (t : State) (d : DieId) (im : List Byte) : Prop :=
      (∀ c, dieOfCore c = d → (coreOf t c).running = true ∧ (coreOf t c).sup = true ∧ (coreOf t c).slice = none ∧
        (coreOf t c).regs.pc = BitVec.ofNat 64 (leNat ((im.drop 0x10).take 8)) ∧ (coreOf t c).l1 = (coreOf s c).l1 ∧
        (coreOf t c).tlb = [bootEntry d]) ∧
      (dieOf t d).firmware = true ∧ (dieOf t d).measure = Config.sha512 im ∧
      (im.length ≤ 0x4000000 → ∀ i, i < im.length → memByte t.mem (d.toNat * 0x1800000000 + i) = (im[i]?).getD 0)
    let stops (v : BitVec 8) : Prop := exec .bootLoad s = .next { s with boot := { b with cmd := 1, status := v } }
    (b.status = 3 ∨ (dieOf s lead).lost = true → stops b.status) ∧
    (b.status ≠ 3 → (dieOf s lead).lost = false →
      (n = 0 ∨ 0x4000000 < n ∨ b.imageHpa.toNat % 4096 ≠ 0 → stops 0x84) ∧
      (n ≠ 0 → n ≤ 0x4000000 → b.imageHpa.toNat % 4096 = 0 →
        (verifyImage lead img n ≠ 3 → exec .bootLoad s = .next { s with
          mem := memWrite s.mem (imageBase lead) img, boot := { b with cmd := 1, status := verifyImage lead img n } }) ∧
        (verifyImage lead img n = 3 → ∃ t, exec .bootLoad s = .next t ∧ runs t lead img ∧
          t.boot = { b with cmd := 1, status := 3, kept := img, warm := false }))) ∧
    (∀ d,
      let own := imageIn s d b.kept.length
      let ready : Prop := b.status = 3 ∧ d ≠ lead ∧ (dieOf s d).lost = false ∧ (dieOf s d).firmware = false ∧
        (dieOf s lead).firmware = true ∧ ¬ (diagonal lead d = true ∧ (dieOf s (viaDie lead)).lost = true)
      (¬ ready → exec (.followerVerify d) s = .next s) ∧
      (ready → b.warm = true →
        (Config.sha512 own ≠ (dieOf s d).measure → exec (.followerVerify d) s = .next s) ∧
        (Config.sha512 own = (dieOf s d).measure → ∃ t, exec (.followerVerify d) s = .next t ∧ runs t d own ∧ t.mem = s.mem)) ∧
      (ready → b.warm = false →
        (verifyImage d b.kept b.kept.length ≠ 3 → exec (.followerVerify d) s = .next s) ∧
        (verifyImage d b.kept b.kept.length = 3 → ∃ t, exec (.followerVerify d) s = .next t ∧ runs t d b.kept))))

/-- Reset (R289, R359, Tables 2.8, 2.9, 3.5, 4.5, 8.1, 8.3, 8.4, 8.6, 8.8, 11.2, 11.4): the state after cold reset holds the reset values of
the registers the tables give one for, no slice, pending record, deferred record or supervisor trap, no context and no token, no
translation, no cached line and no poison, and the boot ROM waits for the host.
COLD_RESET, WARM_RESET and the mailbox's two commands (R289, R359, R362, Table 8.10): a cold reset leaves the state of State.reset but for
the annex with its log, the training of the links, and what is not the module's; a warm reset keeps memory, poison, the L1 lines, arrivals,
counters of time and errors, and the kept image, whose copy in HBM starts again when its digest is the recorded one. That HBM and
scratchpads then read as zero is the model's choice (log entry 1), and so is how training turns out (log entry 83). -/
def Obligations.ResetsKeepWhatTheyKeep : Prop :=
  (let s := State.reset
  (∀ k : CoreId, (coreOf s k).trap = {} ∧ (coreOf s k).regs.flags = 0 ∧ (coreOf s k).regs.repState = 0 ∧ (coreOf s k).selvDomain = 0 ∧
    (coreOf s k).running = false ∧ (coreOf s k).deferred = [] ∧ (coreOf s k).supTraps = [] ∧ (coreOf s k).queues = [] ∧
    (coreOf s k).tlb = [] ∧ (coreOf s k).icache = [] ∧ (coreOf s k).l1 = [] ∧ ∀ i : Fin 64, (coreOf s k).counters[i] = 0) ∧
  (∀ d : DieId, (dieOf s d).lost = false ∧ (dieOf s d).slotMap = 0 ∧ (dieOf s d).pending = [] ∧ (dieOf s d).conflicts = [] ∧
    (dieOf s d).tlb2 = [] ∧ (dieOf s d).docent = {} ∧ (dieOf s d).err = {} ∧ (dieOf s d).psTarget = 0 ∧ (dieOf s d).psCurrent = 0 ∧
    (dieOf s d).psBusy = false ∧ (dieOf s d).psRefused = false ∧ (dieOf s d).firmware = false) ∧
  (∀ x : SiteId, (siteOf s x).fault = 0 ∧ (siteOf s x).on = false ∧ ∀ i : Fin 4, (siteOf s x).ctxs[i] = none) ∧
  (s.slices, s.chans, s.placements, s.locks, s.engines, s.streams) = ([], [], [], [], [], []) ∧ s.poison = [] ∧ s.ticks = 0 ∧
  s.power.ceil = 1000 ∧ s.power.power = 0 ∧ s.power.stretch = 0 ∧ s.power.unmet = false ∧
  s.boot.status = 1 ∧ s.boot.imageHpa = 0 ∧ s.boot.imageLen = 0 ∧ s.boot.cmd = 0) ∧
  ((∀ (s : State), Invariant s →
    ∃ t, exec .coldReset s = .next t ∧ exec .bootColdResetCmd s = .next t ∧
      t = { State.reset with
        mem := t.mem, dies := t.dies, boot := { hostMem := s.boot.hostMem }, agenda := s.agenda, draws := s.draws + 6, serial := s.serial } ∧
      (∀ d, dieOf t d = { logHead := (dieOf s d).logHead, logTail := (dieOf s d).logTail, annexWritten := (dieOf s d).annexWritten,
                          trainFails := trainTries s.draws d, lanes := portLanes (s.draws + 3) d }) ∧
      ∀ a, ((∃ d, paKind a = .annex d) ∨ paKind a = .cxl → memByte t.mem a = memByte s.mem a) ∧
        ((∃ d, paKind a = .hbm d) ∨ (∃ c, paKind a = .scratch c) → memByte t.mem a = 0)) ∧
  (∀ (s : State) (i : Instr), i = .warmReset ∨ i = .bootWarmResetCmd →
    let lead := Config.leader
    let img := imageIn (clearWarm s) lead s.boot.kept.length
    let again : Prop := img ≠ [] ∧ Config.sha512 img = (dieOf s lead).measure ∧ (dieOf s lead).lost = false
    ∃ t, exec i s = .next t ∧ t.slices = [] ∧ t.placements = [] ∧ t.sites = [] ∧ t.chans = [] ∧ t.streams = [] ∧ t.engines = [] ∧
      t.ticks = s.ticks ∧ t.boot.kept = s.boot.kept ∧ t.power = {} ∧ t.arrivals = s.arrivals ∧
      (∀ c, (coreOf t c).sup = true ∧ (coreOf t c).deferred = [] ∧ (coreOf t c).trap = {}) ∧
      (∀ d, (dieOf t d).cyc = (dieOf s d).cyc ∧ (dieOf t d).err = (dieOf s d).err ∧ (dieOf t d).logHead = (dieOf s d).logHead ∧
        (dieOf t d).logTail = (dieOf s d).logTail ∧ (dieOf t d).pending = [] ∧ (dieOf t d).conflicts = []) ∧
      ((∀ d, (dieOf s d).forwards = []) → t.mem = s.mem ∧ t.poison = s.poison ∧ ∀ c, (coreOf t c).l1 = (coreOf s c).l1) ∧
      (¬ again → t.boot.status = 1 ∧ ∀ c, (coreOf t c).running = false ∧ (coreOf t c).tlb = []) ∧
      (again → t.boot.status = 3 ∧ ∀ c, dieOfCore c = lead → (coreOf t c).running = true ∧ (coreOf t c).tlb = [bootEntry lead] ∧
        (coreOf t c).regs.pc = BitVec.ofNat 64 (leNat ((img.drop 0x10).take 8)))))

/-- ENGINE_COMMAND_COMPLETE and COMPLETION_WORD (R204, R272, R537, R538, Table 16.23): an engine that holds a deferred record, or whose die
is gone, waits; one that performs commands whole takes the oldest, and a fault gives its record; a gallery engine performs the row
operation that holds the oldest lock, or ends a command with no index left. The completion word holds MSGSEQ, the status and the
result, and is written after the command's last write, checked as an engine write; what a faulted command writes, or one whose word
faults, joins its slice's faulted ranges (R203).
XPREF_PAGE (R313, R314, R549): a prefetch that has no page left, or its count made, ends; otherwise the next page's lines become
resident and it goes on to the page its header names. -/
def Obligations.CommandsEndWithTheirWord : Prop :=
  (∀ (s : State) (e : EngineId),
    let d := dieOfEngine e
    let k := engineOf s e
    let waits : Prop := k.held.isSome ∨ dieGone s d = true
    (waits → exec (.engineCommandComplete e) s = .next s ∧ exec (.completionWord e) s = .next s) ∧
    (¬ waits → e.toNat % 32 ≠ 16 →
      (k.queue = [] → exec (.engineCommandComplete e) s = .next s) ∧
      (∀ c rest, k.queue = c :: rest →
        let r := runCmd s c d
        let after := engineOf r.s e
        ((∃ p ∈ cmdDest s e c, backingHeld s (whoCmd c d) (some c.order) p.1 p.2 = true) → exec (.engineCommandComplete e) s = .next s) ∧
        ((∀ p ∈ cmdDest s e c, backingHeld s (whoCmd c d) (some c.order) p.1 p.2 = false) →
          ∃ t, exec (.engineCommandComplete e) s = .next t ∧ t.mem = r.s.mem ∧
            (engineOf t e).queue = after.queue.filter (fun g => g.order != c.order) ∧
            (cwordOf c = 0 → (engineOf t e).done = after.done) ∧
            (cwordOf c ≠ 0 → r.flt = none → (engineOf t e).done = after.done ++ [(c, BitVec.ofNat 8 r.status, r.result)] ∧
              (engineOf t e).held = after.held) ∧
            (cwordOf c ≠ 0 → r.flt.isSome → (engineOf t e).done = after.done ++ [(c, 1, r.result)]) ∧
            (r.flt.isSome → ∀ l, findSlice r.s c.slice = some l → ∃ l' u, findSlice t c.slice = some l' ∧ u.mem = r.s.mem ∧
              l'.faulted = l.faulted ++ cmdDest u e c)))) ∧
    (¬ waits → e.toNat % 32 = 16 →
      (∀ o rest, k.rowLocks = o :: rest → writeHeld s (whoEngine o.cmd e) o.cmd = false → ∃ t, exec (.engineCommandComplete e) s = .next t ∧ (engineOf t e).rowLocks = rest ∧
        t.sites = s.sites) ∧
      (∀ c, k.rowLocks = [] → k.queue = [c] → c.out = false → c.fault = none → c.rowCount ≤ c.progress → c.op ≠ .gatherPort →
        gatherStream s c = none → ∃ t, exec (.engineCommandComplete e) s = .next t ∧ (engineOf t e).queue = [])) ∧
    (k.done = [] → exec (.completionWord e) s = .next s) ∧
    (¬ waits → ∀ c st res rest, k.done = (c, st, res) :: rest →
      let word : Nat := c.msgSeq.toNat + st.toNat * 2 ^ 16 + res % 2 ^ 40 * 2 ^ 24
      let rule : EngRule := { acc := .engWrite, fmt := plainFmt }
      (∀ u old, engAtomic s (whoCmd c d) rule (cwordOf c) 8 (fun _ => word) = .ok (u, old, false) →
        ∃ t, exec (.completionWord e) s = .next t ∧ t.mem = u.mem ∧ (engineOf t e).done = rest) ∧
      (∀ f, engAtomic s (whoCmd c d) rule (cwordOf c) 8 (fun _ => word) = .error f →
        ∃ t, exec (.completionWord e) s = .next t ∧ t.mem = s.mem ∧ (engineOf t e).done = rest ∧
          (st ≠ 1 → ∀ l, findSlice s c.slice = some l → ∃ l', findSlice t c.slice = some l' ∧
            l'.faulted = l.faulted ++ cmdDest s e c)))) ∧
  (∀ (s : State) (e : EngineId),
    let waits : Prop := (engineOf s e).held.isSome ∨ dieGone s (dieOfEngine e) = true
    (waits ∨ (∀ p ∈ s.prefetches, p.eng ≠ e) → exec (.xprefPage e) s = .next s) ∧
    (¬ waits → ∀ p rest, s.prefetches = p :: rest → p.eng = e → (∀ q ∈ rest, q.cmd.order ≠ p.cmd.order) →
      (prefetchOver s p = true → ∃ t, exec (.xprefPage e) s = .next t ∧ t.prefetches = rest ∧ t.mem = s.mem) ∧
      (p.stream = none → prefetchOver s p = false → p.cmd.opC.getLsbD 56 = false →
        let w := whoCmd p.cmd (dieOfEngine e)
        ∀ s1 bs bad s2, engRead s w { acc := .engRead } p.page 64 = .ok (s1, bs, bad) → (∀ b ∈ bad, b = false) →
          residentRange s1 w p.page (64 + prefetchBytes s p) = .ok s2 →
          ∃ t q, exec (.xprefPage e) s = .next t ∧ t.prefetches = q :: rest ∧ q.page = leNat (bs.take 7) ∧ q.count = p.count + 1 ∧
            q.cmd = p.cmd ∧ t.resident = s2.resident ∧ t.mem = s2.mem)))

/-- ROW_LOCK_GRANT, MIGRATION_FORWARD and MARKER_CLEAR (R335, R338, R339): the first operation whose row is free waits while a stream
is bound to the backing it would write (R228), else it is read, takes its row's lock, or is to be forwarded where a marker stands; one to be forwarded joins the operations of the engine at its row's new place; a
marker stays while its table has an operation in flight; a migration onto a marker resolves its row again later. No two locks an engine grants are on one row. -/
def Obligations.RowsAreLockedAndForwarded : Prop :=
  ∀ (s : State) (e : EngineId),
    let k := engineOf s e
    (grantable k = none → exec (.rowLockGrant e) s = .next s) ∧
    (∀ o, grantable k = some o →
      o ∈ k.rowWait ∧ (∀ l ∈ k.rowLocks, l.pa ≠ o.pa) ∧
      (o.reads = true → writeHeld s (whoEngine o.cmd e) o.cmd = true → exec (.rowLockGrant e) s = .next s) ∧
      (o.reads = true → writeHeld s (whoEngine o.cmd e) o.cmd = false → ∃ t, exec (.rowLockGrant e) s = .next t ∧ (engineOf t e).rowWait = k.rowWait.erase o ∧
        (engineOf t e).rowLocks = k.rowLocks ∧ t.sites = s.sites) ∧
      (o.reads = false → (∃ m ∈ k.markers, m.old = o.pa) → ∃ t, exec (.rowLockGrant e) s = .next t ∧ t.mem = s.mem ∧
        engineOf t e = { k with rowWait := k.rowWait.erase o, forward := k.forward ++ [o] }) ∧
      (o.reads = false → (∀ m ∈ k.markers, m.old ≠ o.pa) → o.cmd.op ≠ .migrate ∨ destMarked s o = false →
        ∃ t, exec (.rowLockGrant e) s = .next t ∧ t = { s with engines := t.engines } ∧
          engineOf t e = { k with rowWait := k.rowWait.erase o, rowLocks := k.rowLocks ++ [o] } ∧ ∀ j, j ≠ e → engineOf t j = engineOf s j) ∧
      (o.reads = false → (∀ m ∈ k.markers, m.old ≠ o.pa) → o.cmd.op = .migrate → destMarked s o = true →
        ∃ t, exec (.rowLockGrant e) s = .next t ∧ t = { s with engines := t.engines } ∧
          (engineOf t e).rowWait = k.rowWait.erase o ∧ (engineOf t e).rowLocks = k.rowLocks)) ∧
    (k.forward = [] → exec (.migrationForward e) s = .next s) ∧
    (∀ o rest, k.forward = o :: rest →
      ((∀ m ∈ k.markers, m.old ≠ o.pa) → ∃ t, exec (.migrationForward e) s = .next t ∧
        engineOf t e = { k with forward := rest, rowWait := k.rowWait ++ [o] } ∧ t = { s with engines := t.engines }) ∧
      (∀ m, k.markers.find? (fun m => m.old == o.pa) = some m →
        let h := engineId (memoryDie (dieOfEngine e) m.newPa) 16
        ∃ t, exec (.migrationForward e) s = .next t ∧ (engineOf t e).forward = rest ∧
          (engineOf t h).rowWait = (engineOf s h).rowWait ++ [{ o with va := m.newVa, pa := m.newPa }] ∧ t = { s with engines := t.engines })) ∧
    (∃ t, exec (.markerClear e) s = .next t ∧ t = { s with engines := t.engines } ∧
      engineOf t e = { k with markers := k.markers.filter fun m => inFlight s m.table m.asid })

/-- STREAM_BUNDLE_DELIVERY, STREAM_WRITE, SCORE_ADD_LANE and STREAM_DEFERRED_FAULT (R71, R170, R171, R174, R175, R176, R203, R274): in a class-1 slot of its domain the stream that is first at
its engine delivers its next bundle at its port's queue when that has room, takes a bundle of a closed or filled exit port, or adds
one lane's weight; a turn that faults stops the stream, which holds its port, and posts its record. An affine bundle has 16 shuttles of
WIDTH + 1 lane units in visit order, SEQ0 and up, EOS 1 and VALID where a shuttle has elements; a write stores the elements of the
valid lanes, encoded, where their visits stand; a score is the word of the position's page plus the weight, rounded once. What is said
of lanes is said of pages that are not F8C, and of a score on the cache's first page. -/
def Obligations.StreamsMoveBundles : Prop :=
  ∀ (s : State) (e : EngineId) (x : Stream), s.streams.find? (fun u => u.eng == e) = some x →
    let gone (t : State) : Prop := ∀ u ∈ t.streams, u.cmd.order ≠ x.cmd.order
    let c := x.cmd
    let w := whoEngine c x.eng
    let per := c.perShuttle
    (∀ pl q, streamPort s x = some (pl, q) → q.width = 0 →
      let key (n : Nat) : Nat := chanKey (trackAt q.site q.track.toNat).1 n (trackAt q.site q.track.toNat).2
      let ek := entryKey pl.ctx q.port.toNat (trackAt q.site q.track.toNat)
      let out := chanOf s (key (q.port.toNat + 5))
      (q.exit = false → (chanOf s ek).slots.length < 4 → ∀ m, nextBundle s x = some m → m.flt = none →
        (∀ k, m.tokens = [k] → chanOf m.s ek = chanOf s ek → ∃ t, exec (.streamBundleDelivery e) s = .next t ∧
          (chanOf t ek).slots = (chanOf s ek).slots ++ [k] ∧ t.mem = m.s.mem ∧ (m.fin = false → m.t ∈ t.streams ∧ t.sites = m.s.sites)) ∧
        (m.fin = true → m.t.cmd.order = x.cmd.order → (∃ t, exec (.streamBundleDelivery e) s = .next t ∧ gone t))) ∧
      (q.exit = true → x.cmd.op = .stream → pl.active = true →
        ((x.cmd.kind = 1 ∧ x.codes = []) ∨ (x.cmd.kind = 4 ∧ x.started = true ∧ x.lanes = []) → x.port ∈ pl.closed → out.slots = [] → out.flight = [] →
          let i : Instr := if x.cmd.kind = 1 then .streamWrite e else .scoreAddLane e
          ∃ t, exec i s = .next t ∧ gone t ∧ t.chans = s.chans) ∧
        (x.cmd.kind = 1 → ∀ h hs, out.slots = h :: hs →
          (∀ p ∈ x.cmd.visited, backingHeld s (whoEngine x.cmd e) (some x.cmd.order) p.1 p.2 = false) →
          let m := writeBundle (noteMove (takeExit s q) q.site) x [h]
          m.flt = none → m.fin = false → ∃ t, exec (.streamWrite e) s = .next t ∧ t.mem = m.s.mem ∧ m.t ∈ t.streams ∧
            (h.kind ≠ 0 → h.kind ≠ 1 → h.kind ≠ 6 → t.mem = s.mem ∧ (chanOf t (key (q.port.toNat + 5))).slots = hs)) ∧
        (x.cmd.kind = 1 → x.cmd.width = 0 → x.cmd.form ≤ 8 → f8cGeom s w c = none → ∀ h, h.kind = 0 →
          let first := x.bundles * 16 * per
          let b := 8 * formBytes c.form
          let es : List (Nat × Nat) := (List.range (16 * per)).filterMap fun j =>
            if first + j < c.total ∧ h.valid.getLsbD (j / per) = true then
              some (first + j, (laneOf h.lanes (j / per)).toNat / 2 ^ (b * (j % per)) % 2 ^ b) else none
          let rule : EngRule := { acc := .engWrite, hidden := true, fmt := fun f => f != 5 && encodable f c.form && pageElem f c.form == c.esize }
          let put (r : Except Flt State) (p : Nat × Nat) : Except Flt State := r.bind fun u =>
            let va := elemVa c.base c.esize (c.visit p.1)
            engWrite u w rule c.sync va (leBytes c.esize (encodeElem (((peekFmt u w va).map (·.1)).getD 0) c.form p.2).1)
          ∀ u, es.foldl put (.ok s) = .ok u → (writeBundle s x [h]).flt = none ∧ (writeBundle s x [h]).s = u) ∧
        (x.cmd.kind = 4 → x.started = true →
          (∀ p w ls s1 x1, x.lanes = (p, w) :: ls → scoreLane s x p.toNat w = .ok (s1, x1) →
            ∃ t, exec (.scoreAddLane e) s = .next t ∧ t.mem = s1.mem ∧ { x1 with lanes := ls, done := x.done + 1 } ∈ t.streams) ∧
          (∀ p w ls f, x.lanes = (p, w) :: ls → scoreLane s x p.toNat w = .error f → (engineOf s e).held = none → x.stats = [] →
            ∃ t r, exec (.streamDeferredFault e) s = .next t ∧ r.cause = f.cause ∧ r.addr = f.addr ∧ r.slice = x.cmd.slice ∧
              r.msgSeq = x.cmd.msgSeq ∧ (∃ y ∈ t.streams, y.cmd.order = x.cmd.order ∧ y.faulted = some r) ∧
              ∀ l, findSlice s x.cmd.slice = some l → (∃ l', findSlice t x.cmd.slice = some l' ∧
                  l'.faulted = l.faulted ++ streamDest s x.cmd x.eng) ∧
                (l.state ≠ .retired → (coreOf s l.core).deferred.length < 16 →
                  (coreOf t l.core).deferred = (coreOf s l.core).deferred ++ [r]))))) ∧
    (c.kind = 0 → c.op = .stream → c.form ≤ 8 → (peekFmt s w c.base).map (·.1) ≠ some 5 →
      let first := 16 * x.bundles * per
      let n := min (16 * per) (c.total - first)
      let g := readVisits w c ((List.range n).map fun j => (elemVa c.base c.esize (c.visit (first + j)), none)) { s := s }
      first < c.total → g.flt = none → ∃ m, nextBundle s x = some m ∧ m.flt = none ∧ m.s = g.s ∧
        (m.fin = true ↔ c.total ≤ first + 16 * per) ∧ m.tokens.length = c.width + 1 ∧
        ∀ u, u ≤ c.width → ∃ k, m.tokens[u]? = some k ∧ k.kind = 0 ∧ k.seq = BitVec.ofNat 12 (c.seq0 + x.bundles) ∧ k.eos = true ∧
          ∀ i, i < 16 →
            let vs := (g.vals.drop (i * per)).take per
            (k.valid.getLsbD i = true ↔ vs ≠ [] ∧ none ∉ vs) ∧
            (k.valid.getLsbD i = true → laneOf k.lanes i =
              BitVec.ofNat 32 (leNat (((vs.drop (u * formCount c.form)).take (formCount c.form)).flatMap fun v =>
                leBytes (formBytes c.form) (v.getD 0))))) ∧
    (∀ va s1 e0,
      let rule : EngRule := { acc := .engRead, annex := true, fmt := fun f => f != 5 && decodable f c.form && pageElem f c.form == c.esize }
      engReadNat s w rule va c.esize = .ok (s1, e0, false) → annexBlank s1 w va false = false →
        ∃ ks, readVisit s w c (va, none) =
          .ok (s1, some (decodeElem (((peekFmt s1 w va).map (·.1)).getD 0) c.form e0).1, ks)) ∧
    (∀ (p : Nat) (wt : W32) s1 ds, x.page = 0 → kvRead s w c.strict .engRead c.base 64 = .ok (s1, ds) → annexBlank s1 w c.base false = false →
      ((kvDesc ds).head = 0 → scoreLane s x p wt = .ok (s1, { x with page := 0, stats := addCount x.stats 5 1 })) ∧
      (∀ s2 bs, (kvDesc ds).head ≠ 0 → kvRead s1 w c.strict .engRead (kvDesc ds).head 64 = .ok (s2, bs) →
        annexBlank s2 w (kvDesc ds).head false = false → p < (kvPage bs).first + 64 →
        let hd := kvPage bs
        let a := hd.score + 4 * (p - hd.first)
        (p < hd.first ∨ hd.pvalid.testBit (p - hd.first) = false ∨ hd.score = 0 →
          scoreLane s x p wt = .ok (s2, { x with page := (kvDesc ds).head, stats := addCount x.stats 5 1 })) ∧
        (hd.first ≤ p → hd.pvalid.testBit (p - hd.first) = true → hd.score ≠ 0 → backingHeld s2 w (some c.order) a 4 = false →
          ∀ s3 old, engAtomic s2 w { acc := .engWrite, hidden := true, fmt := fun f => f == 0 || f == 1 } a 4
              (fun v => (rne32 (addNum .rne (decodeIeee fp32 v) (decodeIeee fp32 wt.toNat))).toNat) c.sync = .ok (s3, old, false) →
            scoreLane s x p wt = .ok (s3, { x with page := (kvDesc ds).head })))) ∧
    ((engineOf s e).held.isSome → exec (.streamDeferredFault e) s = .next s) ∧
    (streamPort s x = none → (∀ y ∈ s.streams, y.eng = e → y = x) →
      exec (.streamBundleDelivery e) s = .next s ∧ exec (.streamWrite e) s = .next s ∧ exec (.scoreAddLane e) s = .next s ∧
        exec (.streamDeferredFault e) s = .next s)

/-- A step runs the decoded word (R79, R89, R364, R372, R378): when the turn at the head of the agenda is of a core that has something to run
and no cause to take, the step is the effect of the S-word at its pc, in a repeat of the word REP has read with its fields stepped, or the
trap ILLEGAL where that word decodes to nothing; a turn of a stage, of a switch box or of a unit is the effect of the word or the step it
names. A turn whose access must wait is put off with what it asks for (a walk, a link, a channel, a slot), and the free choice takes its
place (R71, R181, R193, R287); then time passes. A firing is charged first what has passed since its last turn (R239). -/
def Obligations.AStepRunsTheDecodedWord : Prop :=
  ∀ (s : State) (ts : List Turn),
    let does (o : Out) : Prop :=
      (∀ t, o = .next t → t.stall = false → step s = .next (timePasses t)) ∧
      (∀ t, o = .next t → t.stall = true → step s = Outcome.thenNext (freeTurn (putAsks s t.asks)) timePasses)
    (s.agenda = [] → step s = Outcome.thenNext (freeTurn s) timePasses) ∧
    (∀ k, s.agenda = .seq k :: ts →
      let u0 : State := { s with agenda := ts, cur := k }
      let u := charge u0 0
      let v := chargeTurn u
      dieGone u0 (dieOfCore k) = false → (curCore u0).running = true → (curCore u).sx = none → leavingMember u = none →
      boundaryTrap u = none → (curCore u).idle = false →
      (∀ p w, (curCore u).rep = some p → p.ins = some w → nextWord v = .ok (v, repeatWord w p)) ∧
      (fetchWaits v (pcOf v).toNat = true → ((curCore v).rep.bind (·.ins)) = none → does (.next (joinWalk v (whoSeq v) (pcOf v).toNat false))) ∧
      (fetchWaits v (pcOf v).toNat = false ∨ ((curCore v).rep.bind (·.ins)).isSome →
        (∀ f, nextWord v = .error f → does (trapHere v f.cause f.addr f.detail)) ∧
        ∀ r w, nextWord v = .ok (r, w) → (∀ i, decodeS w = .ok i → does (exec i r)) ∧
          (∀ e, decodeS w = .error e → does (trapHere r 0x01 0)))) ∧
    (∀ (x : SiteId) (k : BitVec 3) (cx : Ctx) (i : Instr), s.agenda = .stage x k :: ts →
      activeCtx { s with agenda := ts } x = some cx →
      decodeE ((cx.ewords[if siteKind x = 2 then k.toNat else k.toNat - 1]?).getD 0).toNat = .ok i →
      does (exec i { s with agenda := ts, focus := x, focusStage := k.zeroExtend 5 })) ∧
    (∀ (x : SiteId) (n : BitVec 5) (cx : Ctx) (i : Instr), s.agenda = .switch x n :: ts →
      activeCtx { s with agenda := ts } x = some cx → (cx.sw[n.toNat]?).getD 0 ≠ 0 →
      decodeSw ((cx.sw[n.toNat]?).getD 0).toNat = .ok i →
      does (exec i { s with agenda := ts, focus := x, focusStage := n })) ∧
    (∀ i, s.agenda = .event i :: ts → does (exec i { s with agenda := ts }))

/-- Some words and the instructions the encoding tables make of them (Tables 12.1 to 12.12). -/
def Obligations.TheTablesWordsDecode : Prop :=
  (decodeS 0x400A080A).toOption = some (.ld 5 2 2 2) ∧ (decodeS 0x630613FE).toOption = some (.beq 3 4 0x3FE) ∧
  (decodeS 0x380A91A2).toOption = some (.lil 5 0x091A2) ∧ (decodeS 0x390B6789).toOption = some (.lis 5 0x16789) ∧
  (decodeS 0x5400002E).toOption = some (.fence true false true 6) ∧ (decodeS 0x10060417).toOption = some (.add 3 1 2 true true true) ∧
  (decodeS 0x70060411).toOption = some (.fadd 3 1 2 1) ∧ (decodeS 0x6A102100).toOption = some (.rep 4 1 1 0) ∧
  (decodeS 0x520A1838).toOption = some (.cas 5 6 7) ∧ (decodeE 0x3681E300).toOption = some (.vfma 1 0 15 3 false 0) ∧
  (decodeE 0x02808003).toOption = some (.viadd 1 0 4 true true) ∧ (decodeSw 0x5988).toOption = some (.swm 3 6 1) ∧
  (decodeSw 0x180C).toOption = none ∧ (decodeS 0x00000000).toOption = none ∧ (decodeS 0x01000001).toOption = none

/-- Decode of encode (R364 to R378): every S-word (the first 126 rows of the opcode table), E-word (the next 66) and switch word (the next 4)
has an encoding, of 32 or 16 bits, and a well-formed one decodes from it, with every operand at every value it may have. -/
def Obligations.EncodedInstructionsDecode : Prop :=
  ∀ i : Instr, i.wellFormed = true →
    (∀ w, encodeS i = some w → decodeS w = .ok i) ∧ (∀ w, encodeE i = some w → decodeE w = .ok i) ∧
    (∀ w, encodeSw i = some w → decodeSw w = .ok i) ∧
    (i.ctorIdx < 126 → ∃ w, encodeS i = some w ∧ w < 2 ^ 32) ∧
    (126 ≤ i.ctorIdx → i.ctorIdx < 192 → ∃ w, encodeE i = some w ∧ w < 2 ^ 32) ∧
    (192 ≤ i.ctorIdx → i.ctorIdx < 196 → ∃ w, encodeSw i = some w ∧ w < 2 ^ 16)

/-- Each word has one meaning (R364, R365, R372 to R375, R378): a word that decodes gives a well-formed instruction, and that instruction's
encoding is the word, so no bit of it is passed over. -/
def Obligations.DecodedWordsEncodeBack : Prop :=
  (∀ w, w < 2 ^ 32 → ∀ i, decodeS w = .ok i → i.wellFormed = true ∧ encodeS i = some w) ∧
  (∀ w, w < 2 ^ 32 → ∀ i, decodeE w = .ok i → i.wellFormed = true ∧ encodeE i = some w) ∧
  (∀ w, w < 2 ^ 16 → ∀ i, decodeSw w = .ok i → i.wellFormed = true ∧ encodeSw i = some w)

/-- The state after reset meets the machine's invariant. -/
def Obligations.ResetMeetsTheInvariant : Prop := Invariant State.reset

/-- Every step keeps the machine's invariant: home memory stays in its canonical form, with rising addresses and no byte listed that reads
zero, the tracks stay listed in rising order, and no access that must wait is left half done, whatever agent moves. -/
def Obligations.EveryStepKeepsTheInvariant : Prop := ∀ s t : State, Invariant s → step s = .next t → Invariant t

/-- No instruction stops (R20): every S-word, E-word, switch word and step of the hardware answers a next state from every state, but
for a word of a stage or a switch box at a column the fabric does not have. -/
def Obligations.NoInstructionStops : Prop := ∀ (i : Instr) (s : State), siteOk s.focus = true → ∃ t, exec i s = .next t
end

