-- ==== Sys2Proof/Laws/State.lean ====
section
/-!
SUPPORT. What the named updates of the state leave as it was: one lemma for each field and update.
-/
namespace Sys2Proof.Machine

@[simp] theorem setCore_mem (s : State) (c : CoreId) (k : Core) : (setCore s c k).mem = s.mem := rfl
@[simp] theorem setCore_poison (s : State) (c : CoreId) (k : Core) : (setCore s c k).poison = s.poison := rfl
@[simp] theorem setCore_resident (s : State) (c : CoreId) (k : Core) : (setCore s c k).resident = s.resident := rfl
@[simp] theorem setCore_hostLines (s : State) (c : CoreId) (k : Core) : (setCore s c k).hostLines = s.hostLines := rfl
@[simp] theorem setCore_dies (s : State) (c : CoreId) (k : Core) : (setCore s c k).dies = s.dies := rfl
@[simp] theorem setCore_slices (s : State) (c : CoreId) (k : Core) : (setCore s c k).slices = s.slices := rfl
@[simp] theorem setCore_sites (s : State) (c : CoreId) (k : Core) : (setCore s c k).sites = s.sites := rfl
@[simp] theorem setCore_chans (s : State) (c : CoreId) (k : Core) : (setCore s c k).chans = s.chans := rfl
@[simp] theorem setCore_placements (s : State) (c : CoreId) (k : Core) : (setCore s c k).placements = s.placements := rfl
@[simp] theorem setCore_gateways (s : State) (c : CoreId) (k : Core) : (setCore s c k).gateways = s.gateways := rfl
@[simp] theorem setCore_locks (s : State) (c : CoreId) (k : Core) : (setCore s c k).locks = s.locks := rfl
@[simp] theorem setCore_streams (s : State) (c : CoreId) (k : Core) : (setCore s c k).streams = s.streams := rfl
@[simp] theorem setCore_prefetches (s : State) (c : CoreId) (k : Core) : (setCore s c k).prefetches = s.prefetches := rfl
@[simp] theorem setCore_engines (s : State) (c : CoreId) (k : Core) : (setCore s c k).engines = s.engines := rfl
@[simp] theorem setCore_arrivals (s : State) (c : CoreId) (k : Core) : (setCore s c k).arrivals = s.arrivals := rfl
@[simp] theorem setCore_power (s : State) (c : CoreId) (k : Core) : (setCore s c k).power = s.power := rfl
@[simp] theorem setCore_boot (s : State) (c : CoreId) (k : Core) : (setCore s c k).boot = s.boot := rfl
@[simp] theorem setCore_ticks (s : State) (c : CoreId) (k : Core) : (setCore s c k).ticks = s.ticks := rfl
@[simp] theorem setCore_hostReply (s : State) (c : CoreId) (k : Core) : (setCore s c k).hostReply = s.hostReply := rfl
@[simp] theorem setCore_peerReply (s : State) (c : CoreId) (k : Core) : (setCore s c k).peerReply = s.peerReply := rfl
@[simp] theorem setCore_cur (s : State) (c : CoreId) (k : Core) : (setCore s c k).cur = s.cur := rfl
@[simp] theorem setCore_focus (s : State) (c : CoreId) (k : Core) : (setCore s c k).focus = s.focus := rfl
@[simp] theorem setCore_focusStage (s : State) (c : CoreId) (k : Core) : (setCore s c k).focusStage = s.focusStage := rfl
@[simp] theorem setCore_agenda (s : State) (c : CoreId) (k : Core) : (setCore s c k).agenda = s.agenda := rfl
@[simp] theorem setCore_draws (s : State) (c : CoreId) (k : Core) : (setCore s c k).draws = s.draws := rfl
@[simp] theorem setCore_serial (s : State) (c : CoreId) (k : Core) : (setCore s c k).serial = s.serial := rfl
@[simp] theorem setCore_stall (s : State) (c : CoreId) (k : Core) : (setCore s c k).stall = s.stall := rfl
@[simp] theorem setCore_asks (s : State) (c : CoreId) (k : Core) : (setCore s c k).asks = s.asks := rfl

@[simp] theorem modCore_mem (s : State) (f : Core → Core) : (modCore s f).mem = s.mem := rfl
@[simp] theorem modCore_poison (s : State) (f : Core → Core) : (modCore s f).poison = s.poison := rfl
@[simp] theorem modCore_resident (s : State) (f : Core → Core) : (modCore s f).resident = s.resident := rfl
@[simp] theorem modCore_hostLines (s : State) (f : Core → Core) : (modCore s f).hostLines = s.hostLines := rfl
@[simp] theorem modCore_dies (s : State) (f : Core → Core) : (modCore s f).dies = s.dies := rfl
@[simp] theorem modCore_slices (s : State) (f : Core → Core) : (modCore s f).slices = s.slices := rfl
@[simp] theorem modCore_sites (s : State) (f : Core → Core) : (modCore s f).sites = s.sites := rfl
@[simp] theorem modCore_chans (s : State) (f : Core → Core) : (modCore s f).chans = s.chans := rfl
@[simp] theorem modCore_placements (s : State) (f : Core → Core) : (modCore s f).placements = s.placements := rfl
@[simp] theorem modCore_gateways (s : State) (f : Core → Core) : (modCore s f).gateways = s.gateways := rfl
@[simp] theorem modCore_locks (s : State) (f : Core → Core) : (modCore s f).locks = s.locks := rfl
@[simp] theorem modCore_streams (s : State) (f : Core → Core) : (modCore s f).streams = s.streams := rfl
@[simp] theorem modCore_prefetches (s : State) (f : Core → Core) : (modCore s f).prefetches = s.prefetches := rfl
@[simp] theorem modCore_engines (s : State) (f : Core → Core) : (modCore s f).engines = s.engines := rfl
@[simp] theorem modCore_arrivals (s : State) (f : Core → Core) : (modCore s f).arrivals = s.arrivals := rfl
@[simp] theorem modCore_power (s : State) (f : Core → Core) : (modCore s f).power = s.power := rfl
@[simp] theorem modCore_boot (s : State) (f : Core → Core) : (modCore s f).boot = s.boot := rfl
@[simp] theorem modCore_ticks (s : State) (f : Core → Core) : (modCore s f).ticks = s.ticks := rfl
@[simp] theorem modCore_hostReply (s : State) (f : Core → Core) : (modCore s f).hostReply = s.hostReply := rfl
@[simp] theorem modCore_peerReply (s : State) (f : Core → Core) : (modCore s f).peerReply = s.peerReply := rfl
@[simp] theorem modCore_cur (s : State) (f : Core → Core) : (modCore s f).cur = s.cur := rfl
@[simp] theorem modCore_focus (s : State) (f : Core → Core) : (modCore s f).focus = s.focus := rfl
@[simp] theorem modCore_focusStage (s : State) (f : Core → Core) : (modCore s f).focusStage = s.focusStage := rfl
@[simp] theorem modCore_agenda (s : State) (f : Core → Core) : (modCore s f).agenda = s.agenda := rfl
@[simp] theorem modCore_draws (s : State) (f : Core → Core) : (modCore s f).draws = s.draws := rfl
@[simp] theorem modCore_serial (s : State) (f : Core → Core) : (modCore s f).serial = s.serial := rfl
@[simp] theorem modCore_stall (s : State) (f : Core → Core) : (modCore s f).stall = s.stall := rfl
@[simp] theorem modCore_asks (s : State) (f : Core → Core) : (modCore s f).asks = s.asks := rfl

@[simp] theorem setDie_mem (s : State) (d : DieId) (k : Die) : (setDie s d k).mem = s.mem := rfl
@[simp] theorem setDie_poison (s : State) (d : DieId) (k : Die) : (setDie s d k).poison = s.poison := rfl
@[simp] theorem setDie_resident (s : State) (d : DieId) (k : Die) : (setDie s d k).resident = s.resident := rfl
@[simp] theorem setDie_hostLines (s : State) (d : DieId) (k : Die) : (setDie s d k).hostLines = s.hostLines := rfl
@[simp] theorem setDie_cores (s : State) (d : DieId) (k : Die) : (setDie s d k).cores = s.cores := rfl
@[simp] theorem setDie_slices (s : State) (d : DieId) (k : Die) : (setDie s d k).slices = s.slices := rfl
@[simp] theorem setDie_sites (s : State) (d : DieId) (k : Die) : (setDie s d k).sites = s.sites := rfl
@[simp] theorem setDie_chans (s : State) (d : DieId) (k : Die) : (setDie s d k).chans = s.chans := rfl
@[simp] theorem setDie_placements (s : State) (d : DieId) (k : Die) : (setDie s d k).placements = s.placements := rfl
@[simp] theorem setDie_gateways (s : State) (d : DieId) (k : Die) : (setDie s d k).gateways = s.gateways := rfl
@[simp] theorem setDie_locks (s : State) (d : DieId) (k : Die) : (setDie s d k).locks = s.locks := rfl
@[simp] theorem setDie_streams (s : State) (d : DieId) (k : Die) : (setDie s d k).streams = s.streams := rfl
@[simp] theorem setDie_prefetches (s : State) (d : DieId) (k : Die) : (setDie s d k).prefetches = s.prefetches := rfl
@[simp] theorem setDie_engines (s : State) (d : DieId) (k : Die) : (setDie s d k).engines = s.engines := rfl
@[simp] theorem setDie_arrivals (s : State) (d : DieId) (k : Die) : (setDie s d k).arrivals = s.arrivals := rfl
@[simp] theorem setDie_power (s : State) (d : DieId) (k : Die) : (setDie s d k).power = s.power := rfl
@[simp] theorem setDie_boot (s : State) (d : DieId) (k : Die) : (setDie s d k).boot = s.boot := rfl
@[simp] theorem setDie_ticks (s : State) (d : DieId) (k : Die) : (setDie s d k).ticks = s.ticks := rfl
@[simp] theorem setDie_hostReply (s : State) (d : DieId) (k : Die) : (setDie s d k).hostReply = s.hostReply := rfl
@[simp] theorem setDie_peerReply (s : State) (d : DieId) (k : Die) : (setDie s d k).peerReply = s.peerReply := rfl
@[simp] theorem setDie_cur (s : State) (d : DieId) (k : Die) : (setDie s d k).cur = s.cur := rfl
@[simp] theorem setDie_focus (s : State) (d : DieId) (k : Die) : (setDie s d k).focus = s.focus := rfl
@[simp] theorem setDie_focusStage (s : State) (d : DieId) (k : Die) : (setDie s d k).focusStage = s.focusStage := rfl
@[simp] theorem setDie_agenda (s : State) (d : DieId) (k : Die) : (setDie s d k).agenda = s.agenda := rfl
@[simp] theorem setDie_draws (s : State) (d : DieId) (k : Die) : (setDie s d k).draws = s.draws := rfl
@[simp] theorem setDie_serial (s : State) (d : DieId) (k : Die) : (setDie s d k).serial = s.serial := rfl
@[simp] theorem setDie_stall (s : State) (d : DieId) (k : Die) : (setDie s d k).stall = s.stall := rfl
@[simp] theorem setDie_asks (s : State) (d : DieId) (k : Die) : (setDie s d k).asks = s.asks := rfl

@[simp] theorem modDie_mem (s : State) (d : DieId) (f : Die → Die) : (modDie s d f).mem = s.mem := rfl
@[simp] theorem modDie_poison (s : State) (d : DieId) (f : Die → Die) : (modDie s d f).poison = s.poison := rfl
@[simp] theorem modDie_resident (s : State) (d : DieId) (f : Die → Die) : (modDie s d f).resident = s.resident := rfl
@[simp] theorem modDie_hostLines (s : State) (d : DieId) (f : Die → Die) : (modDie s d f).hostLines = s.hostLines := rfl
@[simp] theorem modDie_cores (s : State) (d : DieId) (f : Die → Die) : (modDie s d f).cores = s.cores := rfl
@[simp] theorem modDie_slices (s : State) (d : DieId) (f : Die → Die) : (modDie s d f).slices = s.slices := rfl
@[simp] theorem modDie_sites (s : State) (d : DieId) (f : Die → Die) : (modDie s d f).sites = s.sites := rfl
@[simp] theorem modDie_chans (s : State) (d : DieId) (f : Die → Die) : (modDie s d f).chans = s.chans := rfl
@[simp] theorem modDie_placements (s : State) (d : DieId) (f : Die → Die) : (modDie s d f).placements = s.placements := rfl
@[simp] theorem modDie_gateways (s : State) (d : DieId) (f : Die → Die) : (modDie s d f).gateways = s.gateways := rfl
@[simp] theorem modDie_locks (s : State) (d : DieId) (f : Die → Die) : (modDie s d f).locks = s.locks := rfl
@[simp] theorem modDie_streams (s : State) (d : DieId) (f : Die → Die) : (modDie s d f).streams = s.streams := rfl
@[simp] theorem modDie_prefetches (s : State) (d : DieId) (f : Die → Die) : (modDie s d f).prefetches = s.prefetches := rfl
@[simp] theorem modDie_engines (s : State) (d : DieId) (f : Die → Die) : (modDie s d f).engines = s.engines := rfl
@[simp] theorem modDie_arrivals (s : State) (d : DieId) (f : Die → Die) : (modDie s d f).arrivals = s.arrivals := rfl
@[simp] theorem modDie_power (s : State) (d : DieId) (f : Die → Die) : (modDie s d f).power = s.power := rfl
@[simp] theorem modDie_boot (s : State) (d : DieId) (f : Die → Die) : (modDie s d f).boot = s.boot := rfl
@[simp] theorem modDie_ticks (s : State) (d : DieId) (f : Die → Die) : (modDie s d f).ticks = s.ticks := rfl
@[simp] theorem modDie_hostReply (s : State) (d : DieId) (f : Die → Die) : (modDie s d f).hostReply = s.hostReply := rfl
@[simp] theorem modDie_peerReply (s : State) (d : DieId) (f : Die → Die) : (modDie s d f).peerReply = s.peerReply := rfl
@[simp] theorem modDie_cur (s : State) (d : DieId) (f : Die → Die) : (modDie s d f).cur = s.cur := rfl
@[simp] theorem modDie_focus (s : State) (d : DieId) (f : Die → Die) : (modDie s d f).focus = s.focus := rfl
@[simp] theorem modDie_focusStage (s : State) (d : DieId) (f : Die → Die) : (modDie s d f).focusStage = s.focusStage := rfl
@[simp] theorem modDie_agenda (s : State) (d : DieId) (f : Die → Die) : (modDie s d f).agenda = s.agenda := rfl
@[simp] theorem modDie_draws (s : State) (d : DieId) (f : Die → Die) : (modDie s d f).draws = s.draws := rfl
@[simp] theorem modDie_serial (s : State) (d : DieId) (f : Die → Die) : (modDie s d f).serial = s.serial := rfl
@[simp] theorem modDie_stall (s : State) (d : DieId) (f : Die → Die) : (modDie s d f).stall = s.stall := rfl
@[simp] theorem modDie_asks (s : State) (d : DieId) (f : Die → Die) : (modDie s d f).asks = s.asks := rfl

@[simp] theorem setSlice_mem (s : State) (l : Slice) : (setSlice s l).mem = s.mem := rfl
@[simp] theorem setSlice_poison (s : State) (l : Slice) : (setSlice s l).poison = s.poison := rfl
@[simp] theorem setSlice_resident (s : State) (l : Slice) : (setSlice s l).resident = s.resident := rfl
@[simp] theorem setSlice_hostLines (s : State) (l : Slice) : (setSlice s l).hostLines = s.hostLines := rfl
@[simp] theorem setSlice_cores (s : State) (l : Slice) : (setSlice s l).cores = s.cores := rfl
@[simp] theorem setSlice_dies (s : State) (l : Slice) : (setSlice s l).dies = s.dies := rfl
@[simp] theorem setSlice_sites (s : State) (l : Slice) : (setSlice s l).sites = s.sites := rfl
@[simp] theorem setSlice_chans (s : State) (l : Slice) : (setSlice s l).chans = s.chans := rfl
@[simp] theorem setSlice_placements (s : State) (l : Slice) : (setSlice s l).placements = s.placements := rfl
@[simp] theorem setSlice_gateways (s : State) (l : Slice) : (setSlice s l).gateways = s.gateways := rfl
@[simp] theorem setSlice_locks (s : State) (l : Slice) : (setSlice s l).locks = s.locks := rfl
@[simp] theorem setSlice_streams (s : State) (l : Slice) : (setSlice s l).streams = s.streams := rfl
@[simp] theorem setSlice_prefetches (s : State) (l : Slice) : (setSlice s l).prefetches = s.prefetches := rfl
@[simp] theorem setSlice_engines (s : State) (l : Slice) : (setSlice s l).engines = s.engines := rfl
@[simp] theorem setSlice_arrivals (s : State) (l : Slice) : (setSlice s l).arrivals = s.arrivals := rfl
@[simp] theorem setSlice_power (s : State) (l : Slice) : (setSlice s l).power = s.power := rfl
@[simp] theorem setSlice_boot (s : State) (l : Slice) : (setSlice s l).boot = s.boot := rfl
@[simp] theorem setSlice_ticks (s : State) (l : Slice) : (setSlice s l).ticks = s.ticks := rfl
@[simp] theorem setSlice_hostReply (s : State) (l : Slice) : (setSlice s l).hostReply = s.hostReply := rfl
@[simp] theorem setSlice_peerReply (s : State) (l : Slice) : (setSlice s l).peerReply = s.peerReply := rfl
@[simp] theorem setSlice_cur (s : State) (l : Slice) : (setSlice s l).cur = s.cur := rfl
@[simp] theorem setSlice_focus (s : State) (l : Slice) : (setSlice s l).focus = s.focus := rfl
@[simp] theorem setSlice_focusStage (s : State) (l : Slice) : (setSlice s l).focusStage = s.focusStage := rfl
@[simp] theorem setSlice_agenda (s : State) (l : Slice) : (setSlice s l).agenda = s.agenda := rfl
@[simp] theorem setSlice_draws (s : State) (l : Slice) : (setSlice s l).draws = s.draws := rfl
@[simp] theorem setSlice_serial (s : State) (l : Slice) : (setSlice s l).serial = s.serial := rfl
@[simp] theorem setSlice_stall (s : State) (l : Slice) : (setSlice s l).stall = s.stall := rfl
@[simp] theorem setSlice_asks (s : State) (l : Slice) : (setSlice s l).asks = s.asks := rfl

@[simp] theorem modSlice_mem (s : State) (i : BitVec 32) (f : Slice → Slice) : (modSlice s i f).mem = s.mem := rfl
@[simp] theorem modSlice_poison (s : State) (i : BitVec 32) (f : Slice → Slice) : (modSlice s i f).poison = s.poison := rfl
@[simp] theorem modSlice_resident (s : State) (i : BitVec 32) (f : Slice → Slice) : (modSlice s i f).resident = s.resident := rfl
@[simp] theorem modSlice_hostLines (s : State) (i : BitVec 32) (f : Slice → Slice) : (modSlice s i f).hostLines = s.hostLines := rfl
@[simp] theorem modSlice_cores (s : State) (i : BitVec 32) (f : Slice → Slice) : (modSlice s i f).cores = s.cores := rfl
@[simp] theorem modSlice_dies (s : State) (i : BitVec 32) (f : Slice → Slice) : (modSlice s i f).dies = s.dies := rfl
@[simp] theorem modSlice_sites (s : State) (i : BitVec 32) (f : Slice → Slice) : (modSlice s i f).sites = s.sites := rfl
@[simp] theorem modSlice_chans (s : State) (i : BitVec 32) (f : Slice → Slice) : (modSlice s i f).chans = s.chans := rfl
@[simp] theorem modSlice_placements (s : State) (i : BitVec 32) (f : Slice → Slice) : (modSlice s i f).placements = s.placements := rfl
@[simp] theorem modSlice_gateways (s : State) (i : BitVec 32) (f : Slice → Slice) : (modSlice s i f).gateways = s.gateways := rfl
@[simp] theorem modSlice_locks (s : State) (i : BitVec 32) (f : Slice → Slice) : (modSlice s i f).locks = s.locks := rfl
@[simp] theorem modSlice_streams (s : State) (i : BitVec 32) (f : Slice → Slice) : (modSlice s i f).streams = s.streams := rfl
@[simp] theorem modSlice_prefetches (s : State) (i : BitVec 32) (f : Slice → Slice) : (modSlice s i f).prefetches = s.prefetches := rfl
@[simp] theorem modSlice_engines (s : State) (i : BitVec 32) (f : Slice → Slice) : (modSlice s i f).engines = s.engines := rfl
@[simp] theorem modSlice_arrivals (s : State) (i : BitVec 32) (f : Slice → Slice) : (modSlice s i f).arrivals = s.arrivals := rfl
@[simp] theorem modSlice_power (s : State) (i : BitVec 32) (f : Slice → Slice) : (modSlice s i f).power = s.power := rfl
@[simp] theorem modSlice_boot (s : State) (i : BitVec 32) (f : Slice → Slice) : (modSlice s i f).boot = s.boot := rfl
@[simp] theorem modSlice_ticks (s : State) (i : BitVec 32) (f : Slice → Slice) : (modSlice s i f).ticks = s.ticks := rfl
@[simp] theorem modSlice_hostReply (s : State) (i : BitVec 32) (f : Slice → Slice) : (modSlice s i f).hostReply = s.hostReply := rfl
@[simp] theorem modSlice_peerReply (s : State) (i : BitVec 32) (f : Slice → Slice) : (modSlice s i f).peerReply = s.peerReply := rfl
@[simp] theorem modSlice_cur (s : State) (i : BitVec 32) (f : Slice → Slice) : (modSlice s i f).cur = s.cur := rfl
@[simp] theorem modSlice_focus (s : State) (i : BitVec 32) (f : Slice → Slice) : (modSlice s i f).focus = s.focus := rfl
@[simp] theorem modSlice_focusStage (s : State) (i : BitVec 32) (f : Slice → Slice) : (modSlice s i f).focusStage = s.focusStage := rfl
@[simp] theorem modSlice_agenda (s : State) (i : BitVec 32) (f : Slice → Slice) : (modSlice s i f).agenda = s.agenda := rfl
@[simp] theorem modSlice_draws (s : State) (i : BitVec 32) (f : Slice → Slice) : (modSlice s i f).draws = s.draws := rfl
@[simp] theorem modSlice_serial (s : State) (i : BitVec 32) (f : Slice → Slice) : (modSlice s i f).serial = s.serial := rfl
@[simp] theorem modSlice_stall (s : State) (i : BitVec 32) (f : Slice → Slice) : (modSlice s i f).stall = s.stall := rfl
@[simp] theorem modSlice_asks (s : State) (i : BitVec 32) (f : Slice → Slice) : (modSlice s i f).asks = s.asks := rfl

@[simp] theorem setSite_mem (s : State) (i : SiteId) (k : Site) : (setSite s i k).mem = s.mem := rfl
@[simp] theorem setSite_poison (s : State) (i : SiteId) (k : Site) : (setSite s i k).poison = s.poison := rfl
@[simp] theorem setSite_resident (s : State) (i : SiteId) (k : Site) : (setSite s i k).resident = s.resident := rfl
@[simp] theorem setSite_hostLines (s : State) (i : SiteId) (k : Site) : (setSite s i k).hostLines = s.hostLines := rfl
@[simp] theorem setSite_cores (s : State) (i : SiteId) (k : Site) : (setSite s i k).cores = s.cores := rfl
@[simp] theorem setSite_dies (s : State) (i : SiteId) (k : Site) : (setSite s i k).dies = s.dies := rfl
@[simp] theorem setSite_slices (s : State) (i : SiteId) (k : Site) : (setSite s i k).slices = s.slices := rfl
@[simp] theorem setSite_chans (s : State) (i : SiteId) (k : Site) : (setSite s i k).chans = s.chans := rfl
@[simp] theorem setSite_placements (s : State) (i : SiteId) (k : Site) : (setSite s i k).placements = s.placements := rfl
@[simp] theorem setSite_gateways (s : State) (i : SiteId) (k : Site) : (setSite s i k).gateways = s.gateways := rfl
@[simp] theorem setSite_locks (s : State) (i : SiteId) (k : Site) : (setSite s i k).locks = s.locks := rfl
@[simp] theorem setSite_streams (s : State) (i : SiteId) (k : Site) : (setSite s i k).streams = s.streams := rfl
@[simp] theorem setSite_prefetches (s : State) (i : SiteId) (k : Site) : (setSite s i k).prefetches = s.prefetches := rfl
@[simp] theorem setSite_engines (s : State) (i : SiteId) (k : Site) : (setSite s i k).engines = s.engines := rfl
@[simp] theorem setSite_arrivals (s : State) (i : SiteId) (k : Site) : (setSite s i k).arrivals = s.arrivals := rfl
@[simp] theorem setSite_power (s : State) (i : SiteId) (k : Site) : (setSite s i k).power = s.power := rfl
@[simp] theorem setSite_boot (s : State) (i : SiteId) (k : Site) : (setSite s i k).boot = s.boot := rfl
@[simp] theorem setSite_ticks (s : State) (i : SiteId) (k : Site) : (setSite s i k).ticks = s.ticks := rfl
@[simp] theorem setSite_hostReply (s : State) (i : SiteId) (k : Site) : (setSite s i k).hostReply = s.hostReply := rfl
@[simp] theorem setSite_peerReply (s : State) (i : SiteId) (k : Site) : (setSite s i k).peerReply = s.peerReply := rfl
@[simp] theorem setSite_cur (s : State) (i : SiteId) (k : Site) : (setSite s i k).cur = s.cur := rfl
@[simp] theorem setSite_focus (s : State) (i : SiteId) (k : Site) : (setSite s i k).focus = s.focus := rfl
@[simp] theorem setSite_focusStage (s : State) (i : SiteId) (k : Site) : (setSite s i k).focusStage = s.focusStage := rfl
@[simp] theorem setSite_agenda (s : State) (i : SiteId) (k : Site) : (setSite s i k).agenda = s.agenda := rfl
@[simp] theorem setSite_draws (s : State) (i : SiteId) (k : Site) : (setSite s i k).draws = s.draws := rfl
@[simp] theorem setSite_serial (s : State) (i : SiteId) (k : Site) : (setSite s i k).serial = s.serial := rfl
@[simp] theorem setSite_stall (s : State) (i : SiteId) (k : Site) : (setSite s i k).stall = s.stall := rfl
@[simp] theorem setSite_asks (s : State) (i : SiteId) (k : Site) : (setSite s i k).asks = s.asks := rfl

@[simp] theorem modSite_mem (s : State) (i : SiteId) (f : Site → Site) : (modSite s i f).mem = s.mem := rfl
@[simp] theorem modSite_poison (s : State) (i : SiteId) (f : Site → Site) : (modSite s i f).poison = s.poison := rfl
@[simp] theorem modSite_resident (s : State) (i : SiteId) (f : Site → Site) : (modSite s i f).resident = s.resident := rfl
@[simp] theorem modSite_hostLines (s : State) (i : SiteId) (f : Site → Site) : (modSite s i f).hostLines = s.hostLines := rfl
@[simp] theorem modSite_cores (s : State) (i : SiteId) (f : Site → Site) : (modSite s i f).cores = s.cores := rfl
@[simp] theorem modSite_dies (s : State) (i : SiteId) (f : Site → Site) : (modSite s i f).dies = s.dies := rfl
@[simp] theorem modSite_slices (s : State) (i : SiteId) (f : Site → Site) : (modSite s i f).slices = s.slices := rfl
@[simp] theorem modSite_chans (s : State) (i : SiteId) (f : Site → Site) : (modSite s i f).chans = s.chans := rfl
@[simp] theorem modSite_placements (s : State) (i : SiteId) (f : Site → Site) : (modSite s i f).placements = s.placements := rfl
@[simp] theorem modSite_gateways (s : State) (i : SiteId) (f : Site → Site) : (modSite s i f).gateways = s.gateways := rfl
@[simp] theorem modSite_locks (s : State) (i : SiteId) (f : Site → Site) : (modSite s i f).locks = s.locks := rfl
@[simp] theorem modSite_streams (s : State) (i : SiteId) (f : Site → Site) : (modSite s i f).streams = s.streams := rfl
@[simp] theorem modSite_prefetches (s : State) (i : SiteId) (f : Site → Site) : (modSite s i f).prefetches = s.prefetches := rfl
@[simp] theorem modSite_engines (s : State) (i : SiteId) (f : Site → Site) : (modSite s i f).engines = s.engines := rfl
@[simp] theorem modSite_arrivals (s : State) (i : SiteId) (f : Site → Site) : (modSite s i f).arrivals = s.arrivals := rfl
@[simp] theorem modSite_power (s : State) (i : SiteId) (f : Site → Site) : (modSite s i f).power = s.power := rfl
@[simp] theorem modSite_boot (s : State) (i : SiteId) (f : Site → Site) : (modSite s i f).boot = s.boot := rfl
@[simp] theorem modSite_ticks (s : State) (i : SiteId) (f : Site → Site) : (modSite s i f).ticks = s.ticks := rfl
@[simp] theorem modSite_hostReply (s : State) (i : SiteId) (f : Site → Site) : (modSite s i f).hostReply = s.hostReply := rfl
@[simp] theorem modSite_peerReply (s : State) (i : SiteId) (f : Site → Site) : (modSite s i f).peerReply = s.peerReply := rfl
@[simp] theorem modSite_cur (s : State) (i : SiteId) (f : Site → Site) : (modSite s i f).cur = s.cur := rfl
@[simp] theorem modSite_focus (s : State) (i : SiteId) (f : Site → Site) : (modSite s i f).focus = s.focus := rfl
@[simp] theorem modSite_focusStage (s : State) (i : SiteId) (f : Site → Site) : (modSite s i f).focusStage = s.focusStage := rfl
@[simp] theorem modSite_agenda (s : State) (i : SiteId) (f : Site → Site) : (modSite s i f).agenda = s.agenda := rfl
@[simp] theorem modSite_draws (s : State) (i : SiteId) (f : Site → Site) : (modSite s i f).draws = s.draws := rfl
@[simp] theorem modSite_serial (s : State) (i : SiteId) (f : Site → Site) : (modSite s i f).serial = s.serial := rfl
@[simp] theorem modSite_stall (s : State) (i : SiteId) (f : Site → Site) : (modSite s i f).stall = s.stall := rfl
@[simp] theorem modSite_asks (s : State) (i : SiteId) (f : Site → Site) : (modSite s i f).asks = s.asks := rfl

@[simp] theorem setEngine_mem (s : State) (e : EngineId) (k : Engine) : (setEngine s e k).mem = s.mem := rfl
@[simp] theorem setEngine_poison (s : State) (e : EngineId) (k : Engine) : (setEngine s e k).poison = s.poison := rfl
@[simp] theorem setEngine_resident (s : State) (e : EngineId) (k : Engine) : (setEngine s e k).resident = s.resident := rfl
@[simp] theorem setEngine_hostLines (s : State) (e : EngineId) (k : Engine) : (setEngine s e k).hostLines = s.hostLines := rfl
@[simp] theorem setEngine_cores (s : State) (e : EngineId) (k : Engine) : (setEngine s e k).cores = s.cores := rfl
@[simp] theorem setEngine_dies (s : State) (e : EngineId) (k : Engine) : (setEngine s e k).dies = s.dies := rfl
@[simp] theorem setEngine_slices (s : State) (e : EngineId) (k : Engine) : (setEngine s e k).slices = s.slices := rfl
@[simp] theorem setEngine_sites (s : State) (e : EngineId) (k : Engine) : (setEngine s e k).sites = s.sites := rfl
@[simp] theorem setEngine_chans (s : State) (e : EngineId) (k : Engine) : (setEngine s e k).chans = s.chans := rfl
@[simp] theorem setEngine_placements (s : State) (e : EngineId) (k : Engine) : (setEngine s e k).placements = s.placements := rfl
@[simp] theorem setEngine_gateways (s : State) (e : EngineId) (k : Engine) : (setEngine s e k).gateways = s.gateways := rfl
@[simp] theorem setEngine_locks (s : State) (e : EngineId) (k : Engine) : (setEngine s e k).locks = s.locks := rfl
@[simp] theorem setEngine_streams (s : State) (e : EngineId) (k : Engine) : (setEngine s e k).streams = s.streams := rfl
@[simp] theorem setEngine_prefetches (s : State) (e : EngineId) (k : Engine) : (setEngine s e k).prefetches = s.prefetches := rfl
@[simp] theorem setEngine_arrivals (s : State) (e : EngineId) (k : Engine) : (setEngine s e k).arrivals = s.arrivals := rfl
@[simp] theorem setEngine_power (s : State) (e : EngineId) (k : Engine) : (setEngine s e k).power = s.power := rfl
@[simp] theorem setEngine_boot (s : State) (e : EngineId) (k : Engine) : (setEngine s e k).boot = s.boot := rfl
@[simp] theorem setEngine_ticks (s : State) (e : EngineId) (k : Engine) : (setEngine s e k).ticks = s.ticks := rfl
@[simp] theorem setEngine_hostReply (s : State) (e : EngineId) (k : Engine) : (setEngine s e k).hostReply = s.hostReply := rfl
@[simp] theorem setEngine_peerReply (s : State) (e : EngineId) (k : Engine) : (setEngine s e k).peerReply = s.peerReply := rfl
@[simp] theorem setEngine_cur (s : State) (e : EngineId) (k : Engine) : (setEngine s e k).cur = s.cur := rfl
@[simp] theorem setEngine_focus (s : State) (e : EngineId) (k : Engine) : (setEngine s e k).focus = s.focus := rfl
@[simp] theorem setEngine_focusStage (s : State) (e : EngineId) (k : Engine) : (setEngine s e k).focusStage = s.focusStage := rfl
@[simp] theorem setEngine_agenda (s : State) (e : EngineId) (k : Engine) : (setEngine s e k).agenda = s.agenda := rfl
@[simp] theorem setEngine_draws (s : State) (e : EngineId) (k : Engine) : (setEngine s e k).draws = s.draws := rfl
@[simp] theorem setEngine_serial (s : State) (e : EngineId) (k : Engine) : (setEngine s e k).serial = s.serial := rfl
@[simp] theorem setEngine_stall (s : State) (e : EngineId) (k : Engine) : (setEngine s e k).stall = s.stall := rfl
@[simp] theorem setEngine_asks (s : State) (e : EngineId) (k : Engine) : (setEngine s e k).asks = s.asks := rfl

@[simp] theorem modEngine_mem (s : State) (e : EngineId) (f : Engine → Engine) : (modEngine s e f).mem = s.mem := rfl
@[simp] theorem modEngine_poison (s : State) (e : EngineId) (f : Engine → Engine) : (modEngine s e f).poison = s.poison := rfl
@[simp] theorem modEngine_resident (s : State) (e : EngineId) (f : Engine → Engine) : (modEngine s e f).resident = s.resident := rfl
@[simp] theorem modEngine_hostLines (s : State) (e : EngineId) (f : Engine → Engine) : (modEngine s e f).hostLines = s.hostLines := rfl
@[simp] theorem modEngine_cores (s : State) (e : EngineId) (f : Engine → Engine) : (modEngine s e f).cores = s.cores := rfl
@[simp] theorem modEngine_dies (s : State) (e : EngineId) (f : Engine → Engine) : (modEngine s e f).dies = s.dies := rfl
@[simp] theorem modEngine_slices (s : State) (e : EngineId) (f : Engine → Engine) : (modEngine s e f).slices = s.slices := rfl
@[simp] theorem modEngine_sites (s : State) (e : EngineId) (f : Engine → Engine) : (modEngine s e f).sites = s.sites := rfl
@[simp] theorem modEngine_chans (s : State) (e : EngineId) (f : Engine → Engine) : (modEngine s e f).chans = s.chans := rfl
@[simp] theorem modEngine_placements (s : State) (e : EngineId) (f : Engine → Engine) : (modEngine s e f).placements = s.placements := rfl
@[simp] theorem modEngine_gateways (s : State) (e : EngineId) (f : Engine → Engine) : (modEngine s e f).gateways = s.gateways := rfl
@[simp] theorem modEngine_locks (s : State) (e : EngineId) (f : Engine → Engine) : (modEngine s e f).locks = s.locks := rfl
@[simp] theorem modEngine_streams (s : State) (e : EngineId) (f : Engine → Engine) : (modEngine s e f).streams = s.streams := rfl
@[simp] theorem modEngine_prefetches (s : State) (e : EngineId) (f : Engine → Engine) : (modEngine s e f).prefetches = s.prefetches := rfl
@[simp] theorem modEngine_arrivals (s : State) (e : EngineId) (f : Engine → Engine) : (modEngine s e f).arrivals = s.arrivals := rfl
@[simp] theorem modEngine_power (s : State) (e : EngineId) (f : Engine → Engine) : (modEngine s e f).power = s.power := rfl
@[simp] theorem modEngine_boot (s : State) (e : EngineId) (f : Engine → Engine) : (modEngine s e f).boot = s.boot := rfl
@[simp] theorem modEngine_ticks (s : State) (e : EngineId) (f : Engine → Engine) : (modEngine s e f).ticks = s.ticks := rfl
@[simp] theorem modEngine_hostReply (s : State) (e : EngineId) (f : Engine → Engine) : (modEngine s e f).hostReply = s.hostReply := rfl
@[simp] theorem modEngine_peerReply (s : State) (e : EngineId) (f : Engine → Engine) : (modEngine s e f).peerReply = s.peerReply := rfl
@[simp] theorem modEngine_cur (s : State) (e : EngineId) (f : Engine → Engine) : (modEngine s e f).cur = s.cur := rfl
@[simp] theorem modEngine_focus (s : State) (e : EngineId) (f : Engine → Engine) : (modEngine s e f).focus = s.focus := rfl
@[simp] theorem modEngine_focusStage (s : State) (e : EngineId) (f : Engine → Engine) : (modEngine s e f).focusStage = s.focusStage := rfl
@[simp] theorem modEngine_agenda (s : State) (e : EngineId) (f : Engine → Engine) : (modEngine s e f).agenda = s.agenda := rfl
@[simp] theorem modEngine_draws (s : State) (e : EngineId) (f : Engine → Engine) : (modEngine s e f).draws = s.draws := rfl
@[simp] theorem modEngine_serial (s : State) (e : EngineId) (f : Engine → Engine) : (modEngine s e f).serial = s.serial := rfl
@[simp] theorem modEngine_stall (s : State) (e : EngineId) (f : Engine → Engine) : (modEngine s e f).stall = s.stall := rfl
@[simp] theorem modEngine_asks (s : State) (e : EngineId) (f : Engine → Engine) : (modEngine s e f).asks = s.asks := rfl

@[simp] theorem setChan_mem (s : State) (k : Nat) (c : Chan) : (setChan s k c).mem = s.mem := rfl
@[simp] theorem setChan_poison (s : State) (k : Nat) (c : Chan) : (setChan s k c).poison = s.poison := rfl
@[simp] theorem setChan_resident (s : State) (k : Nat) (c : Chan) : (setChan s k c).resident = s.resident := rfl
@[simp] theorem setChan_hostLines (s : State) (k : Nat) (c : Chan) : (setChan s k c).hostLines = s.hostLines := rfl
@[simp] theorem setChan_cores (s : State) (k : Nat) (c : Chan) : (setChan s k c).cores = s.cores := rfl
@[simp] theorem setChan_dies (s : State) (k : Nat) (c : Chan) : (setChan s k c).dies = s.dies := rfl
@[simp] theorem setChan_slices (s : State) (k : Nat) (c : Chan) : (setChan s k c).slices = s.slices := rfl
@[simp] theorem setChan_sites (s : State) (k : Nat) (c : Chan) : (setChan s k c).sites = s.sites := rfl
@[simp] theorem setChan_placements (s : State) (k : Nat) (c : Chan) : (setChan s k c).placements = s.placements := rfl
@[simp] theorem setChan_gateways (s : State) (k : Nat) (c : Chan) : (setChan s k c).gateways = s.gateways := rfl
@[simp] theorem setChan_locks (s : State) (k : Nat) (c : Chan) : (setChan s k c).locks = s.locks := rfl
@[simp] theorem setChan_streams (s : State) (k : Nat) (c : Chan) : (setChan s k c).streams = s.streams := rfl
@[simp] theorem setChan_prefetches (s : State) (k : Nat) (c : Chan) : (setChan s k c).prefetches = s.prefetches := rfl
@[simp] theorem setChan_engines (s : State) (k : Nat) (c : Chan) : (setChan s k c).engines = s.engines := rfl
@[simp] theorem setChan_arrivals (s : State) (k : Nat) (c : Chan) : (setChan s k c).arrivals = s.arrivals := rfl
@[simp] theorem setChan_power (s : State) (k : Nat) (c : Chan) : (setChan s k c).power = s.power := rfl
@[simp] theorem setChan_boot (s : State) (k : Nat) (c : Chan) : (setChan s k c).boot = s.boot := rfl
@[simp] theorem setChan_ticks (s : State) (k : Nat) (c : Chan) : (setChan s k c).ticks = s.ticks := rfl
@[simp] theorem setChan_hostReply (s : State) (k : Nat) (c : Chan) : (setChan s k c).hostReply = s.hostReply := rfl
@[simp] theorem setChan_peerReply (s : State) (k : Nat) (c : Chan) : (setChan s k c).peerReply = s.peerReply := rfl
@[simp] theorem setChan_cur (s : State) (k : Nat) (c : Chan) : (setChan s k c).cur = s.cur := rfl
@[simp] theorem setChan_focus (s : State) (k : Nat) (c : Chan) : (setChan s k c).focus = s.focus := rfl
@[simp] theorem setChan_focusStage (s : State) (k : Nat) (c : Chan) : (setChan s k c).focusStage = s.focusStage := rfl
@[simp] theorem setChan_agenda (s : State) (k : Nat) (c : Chan) : (setChan s k c).agenda = s.agenda := rfl
@[simp] theorem setChan_draws (s : State) (k : Nat) (c : Chan) : (setChan s k c).draws = s.draws := rfl
@[simp] theorem setChan_serial (s : State) (k : Nat) (c : Chan) : (setChan s k c).serial = s.serial := rfl
@[simp] theorem setChan_stall (s : State) (k : Nat) (c : Chan) : (setChan s k c).stall = s.stall := rfl
@[simp] theorem setChan_asks (s : State) (k : Nat) (c : Chan) : (setChan s k c).asks = s.asks := rfl

@[simp] theorem modChan_mem (s : State) (k : Nat) (f : Chan → Chan) : (modChan s k f).mem = s.mem := rfl
@[simp] theorem modChan_poison (s : State) (k : Nat) (f : Chan → Chan) : (modChan s k f).poison = s.poison := rfl
@[simp] theorem modChan_resident (s : State) (k : Nat) (f : Chan → Chan) : (modChan s k f).resident = s.resident := rfl
@[simp] theorem modChan_hostLines (s : State) (k : Nat) (f : Chan → Chan) : (modChan s k f).hostLines = s.hostLines := rfl
@[simp] theorem modChan_cores (s : State) (k : Nat) (f : Chan → Chan) : (modChan s k f).cores = s.cores := rfl
@[simp] theorem modChan_dies (s : State) (k : Nat) (f : Chan → Chan) : (modChan s k f).dies = s.dies := rfl
@[simp] theorem modChan_slices (s : State) (k : Nat) (f : Chan → Chan) : (modChan s k f).slices = s.slices := rfl
@[simp] theorem modChan_sites (s : State) (k : Nat) (f : Chan → Chan) : (modChan s k f).sites = s.sites := rfl
@[simp] theorem modChan_placements (s : State) (k : Nat) (f : Chan → Chan) : (modChan s k f).placements = s.placements := rfl
@[simp] theorem modChan_gateways (s : State) (k : Nat) (f : Chan → Chan) : (modChan s k f).gateways = s.gateways := rfl
@[simp] theorem modChan_locks (s : State) (k : Nat) (f : Chan → Chan) : (modChan s k f).locks = s.locks := rfl
@[simp] theorem modChan_streams (s : State) (k : Nat) (f : Chan → Chan) : (modChan s k f).streams = s.streams := rfl
@[simp] theorem modChan_prefetches (s : State) (k : Nat) (f : Chan → Chan) : (modChan s k f).prefetches = s.prefetches := rfl
@[simp] theorem modChan_engines (s : State) (k : Nat) (f : Chan → Chan) : (modChan s k f).engines = s.engines := rfl
@[simp] theorem modChan_arrivals (s : State) (k : Nat) (f : Chan → Chan) : (modChan s k f).arrivals = s.arrivals := rfl
@[simp] theorem modChan_power (s : State) (k : Nat) (f : Chan → Chan) : (modChan s k f).power = s.power := rfl
@[simp] theorem modChan_boot (s : State) (k : Nat) (f : Chan → Chan) : (modChan s k f).boot = s.boot := rfl
@[simp] theorem modChan_ticks (s : State) (k : Nat) (f : Chan → Chan) : (modChan s k f).ticks = s.ticks := rfl
@[simp] theorem modChan_hostReply (s : State) (k : Nat) (f : Chan → Chan) : (modChan s k f).hostReply = s.hostReply := rfl
@[simp] theorem modChan_peerReply (s : State) (k : Nat) (f : Chan → Chan) : (modChan s k f).peerReply = s.peerReply := rfl
@[simp] theorem modChan_cur (s : State) (k : Nat) (f : Chan → Chan) : (modChan s k f).cur = s.cur := rfl
@[simp] theorem modChan_focus (s : State) (k : Nat) (f : Chan → Chan) : (modChan s k f).focus = s.focus := rfl
@[simp] theorem modChan_focusStage (s : State) (k : Nat) (f : Chan → Chan) : (modChan s k f).focusStage = s.focusStage := rfl
@[simp] theorem modChan_agenda (s : State) (k : Nat) (f : Chan → Chan) : (modChan s k f).agenda = s.agenda := rfl
@[simp] theorem modChan_draws (s : State) (k : Nat) (f : Chan → Chan) : (modChan s k f).draws = s.draws := rfl
@[simp] theorem modChan_serial (s : State) (k : Nat) (f : Chan → Chan) : (modChan s k f).serial = s.serial := rfl
@[simp] theorem modChan_stall (s : State) (k : Nat) (f : Chan → Chan) : (modChan s k f).stall = s.stall := rfl
@[simp] theorem modChan_asks (s : State) (k : Nat) (f : Chan → Chan) : (modChan s k f).asks = s.asks := rfl

@[simp] theorem modPlacement_mem (s : State) (o : SiteId) (c : BitVec 2) (f : Placement → Placement) : (modPlacement s o c f).mem = s.mem := rfl
@[simp] theorem modPlacement_poison (s : State) (o : SiteId) (c : BitVec 2) (f : Placement → Placement) : (modPlacement s o c f).poison = s.poison := rfl
@[simp] theorem modPlacement_resident (s : State) (o : SiteId) (c : BitVec 2) (f : Placement → Placement) : (modPlacement s o c f).resident = s.resident := rfl
@[simp] theorem modPlacement_hostLines (s : State) (o : SiteId) (c : BitVec 2) (f : Placement → Placement) : (modPlacement s o c f).hostLines = s.hostLines := rfl
@[simp] theorem modPlacement_cores (s : State) (o : SiteId) (c : BitVec 2) (f : Placement → Placement) : (modPlacement s o c f).cores = s.cores := rfl
@[simp] theorem modPlacement_dies (s : State) (o : SiteId) (c : BitVec 2) (f : Placement → Placement) : (modPlacement s o c f).dies = s.dies := rfl
@[simp] theorem modPlacement_slices (s : State) (o : SiteId) (c : BitVec 2) (f : Placement → Placement) : (modPlacement s o c f).slices = s.slices := rfl
@[simp] theorem modPlacement_sites (s : State) (o : SiteId) (c : BitVec 2) (f : Placement → Placement) : (modPlacement s o c f).sites = s.sites := rfl
@[simp] theorem modPlacement_chans (s : State) (o : SiteId) (c : BitVec 2) (f : Placement → Placement) : (modPlacement s o c f).chans = s.chans := rfl
@[simp] theorem modPlacement_gateways (s : State) (o : SiteId) (c : BitVec 2) (f : Placement → Placement) : (modPlacement s o c f).gateways = s.gateways := rfl
@[simp] theorem modPlacement_locks (s : State) (o : SiteId) (c : BitVec 2) (f : Placement → Placement) : (modPlacement s o c f).locks = s.locks := rfl
@[simp] theorem modPlacement_streams (s : State) (o : SiteId) (c : BitVec 2) (f : Placement → Placement) : (modPlacement s o c f).streams = s.streams := rfl
@[simp] theorem modPlacement_prefetches (s : State) (o : SiteId) (c : BitVec 2) (f : Placement → Placement) : (modPlacement s o c f).prefetches = s.prefetches := rfl
@[simp] theorem modPlacement_engines (s : State) (o : SiteId) (c : BitVec 2) (f : Placement → Placement) : (modPlacement s o c f).engines = s.engines := rfl
@[simp] theorem modPlacement_arrivals (s : State) (o : SiteId) (c : BitVec 2) (f : Placement → Placement) : (modPlacement s o c f).arrivals = s.arrivals := rfl
@[simp] theorem modPlacement_power (s : State) (o : SiteId) (c : BitVec 2) (f : Placement → Placement) : (modPlacement s o c f).power = s.power := rfl
@[simp] theorem modPlacement_boot (s : State) (o : SiteId) (c : BitVec 2) (f : Placement → Placement) : (modPlacement s o c f).boot = s.boot := rfl
@[simp] theorem modPlacement_ticks (s : State) (o : SiteId) (c : BitVec 2) (f : Placement → Placement) : (modPlacement s o c f).ticks = s.ticks := rfl
@[simp] theorem modPlacement_hostReply (s : State) (o : SiteId) (c : BitVec 2) (f : Placement → Placement) : (modPlacement s o c f).hostReply = s.hostReply := rfl
@[simp] theorem modPlacement_peerReply (s : State) (o : SiteId) (c : BitVec 2) (f : Placement → Placement) : (modPlacement s o c f).peerReply = s.peerReply := rfl
@[simp] theorem modPlacement_cur (s : State) (o : SiteId) (c : BitVec 2) (f : Placement → Placement) : (modPlacement s o c f).cur = s.cur := rfl
@[simp] theorem modPlacement_focus (s : State) (o : SiteId) (c : BitVec 2) (f : Placement → Placement) : (modPlacement s o c f).focus = s.focus := rfl
@[simp] theorem modPlacement_focusStage (s : State) (o : SiteId) (c : BitVec 2) (f : Placement → Placement) : (modPlacement s o c f).focusStage = s.focusStage := rfl
@[simp] theorem modPlacement_agenda (s : State) (o : SiteId) (c : BitVec 2) (f : Placement → Placement) : (modPlacement s o c f).agenda = s.agenda := rfl
@[simp] theorem modPlacement_draws (s : State) (o : SiteId) (c : BitVec 2) (f : Placement → Placement) : (modPlacement s o c f).draws = s.draws := rfl
@[simp] theorem modPlacement_serial (s : State) (o : SiteId) (c : BitVec 2) (f : Placement → Placement) : (modPlacement s o c f).serial = s.serial := rfl
@[simp] theorem modPlacement_stall (s : State) (o : SiteId) (c : BitVec 2) (f : Placement → Placement) : (modPlacement s o c f).stall = s.stall := rfl
@[simp] theorem modPlacement_asks (s : State) (o : SiteId) (c : BitVec 2) (f : Placement → Placement) : (modPlacement s o c f).asks = s.asks := rfl

end Sys2Proof.Machine
end

