-- ==== Sys2Proof/Laws/Table.lean ====
section
/-!
SUPPORT. The laws of sparse stores and of home memory: a read after a write, what a write leaves alone, and that every memory
operation keeps the canonical form.
-/
namespace Sys2Proof.Machine

/-! ### Sparse stores -/

/-- A look-up after an update. -/
theorem tblGet_tblSet {α : Type} (t : Tbl α) (i j : Nat) (v : α) :
    tblGet (tblSet t i v) j = if i = j then some v else tblGet t j := by
  induction t with
  | nil => simp only [tblSet, tblGet]; split_ifs <;> rfl
  | cons e t ih =>
    obtain ⟨k, w⟩ := e
    simp only [tblSet]
    split
    · simp only [tblGet]; split_ifs <;> first | rfl | omega
    · split
      · subst_vars; simp only [tblGet]; split_ifs <;> rfl
      · simp only [tblGet, ih]; split_ifs <;> first | rfl | omega

/-- A lower bound on the keys may be lowered. -/
theorem keysFrom_mono {α : Type} {lo hi : Nat} {t : Tbl α} (h : keysFrom hi t = true) (hl : lo ≤ hi) : keysFrom lo t = true := by
  cases t with
  | nil => rfl
  | cons e t =>
    simp only [keysFrom, Bool.and_eq_true, decide_eq_true_eq] at h ⊢
    exact ⟨by omega, h.2⟩

/-- Keys below the bound are not listed. -/
theorem tblGet_below {α : Type} {lo i : Nat} {t : Tbl α} (h : keysFrom lo t = true) (hi : i < lo) : tblGet t i = none := by
  cases t with
  | nil => rfl
  | cons e t =>
    simp only [keysFrom, Bool.and_eq_true, decide_eq_true_eq] at h
    simp only [tblGet]
    split_ifs <;> first | rfl | omega

/-- An update keeps the keys rising. -/
theorem keysFrom_tblSet {α : Type} {lo i : Nat} {t : Tbl α} {v : α} (h : keysFrom lo t = true) (hi : lo ≤ i) :
    keysFrom lo (tblSet t i v) = true := by
  induction t generalizing lo with
  | nil => simp [tblSet, keysFrom, hi]
  | cons e t ih =>
    simp only [keysFrom, Bool.and_eq_true, decide_eq_true_eq] at h
    simp only [tblSet]
    split
    · simp only [keysFrom, Bool.and_eq_true, decide_eq_true_eq]
      exact ⟨hi, by omega, h.2⟩
    · split
      · subst_vars; simp only [keysFrom, Bool.and_eq_true, decide_eq_true_eq]; exact ⟨hi, h.2⟩
      · simp only [keysFrom, Bool.and_eq_true, decide_eq_true_eq]
        exact ⟨h.1, ih h.2 (by omega)⟩

/-- A removal keeps the keys rising. -/
theorem keysFrom_tblErase {α : Type} {lo i : Nat} {t : Tbl α} (h : keysFrom lo t = true) : keysFrom lo (tblErase t i) = true := by
  induction t generalizing lo with
  | nil => rfl
  | cons e t ih =>
    simp only [keysFrom, Bool.and_eq_true, decide_eq_true_eq] at h
    simp only [tblErase]
    split
    · simp only [keysFrom, Bool.and_eq_true, decide_eq_true_eq]; exact h
    · split
      · exact keysFrom_mono h.2 (by omega)
      · simp only [keysFrom, Bool.and_eq_true, decide_eq_true_eq]; exact ⟨h.1, ih h.2⟩

/-- A look-up after a removal, where the keys rise. -/
theorem tblGet_tblErase {α : Type} {lo : Nat} {t : Tbl α} (h : keysFrom lo t = true) (i j : Nat) :
    tblGet (tblErase t i) j = if i = j then none else tblGet t j := by
  induction t generalizing lo with
  | nil => simp [tblErase, tblGet]
  | cons e t ih =>
    simp only [keysFrom, Bool.and_eq_true, decide_eq_true_eq] at h
    simp only [tblErase]
    split
    · simp only [tblGet]; split_ifs <;> first | rfl | omega
    · split
      · subst_vars
        by_cases hj : e.1 = j
        · subst hj; simp only [if_true]; exact tblGet_below h.2 (by omega)
        · rw [if_neg hj]
          by_cases hl : j < e.1
          · rw [tblGet_below h.2 (by omega)]; simp [tblGet, hj, hl]
          · simp [tblGet, hj, hl]
      · simp only [tblGet, ih h.2]; split_ifs <;> first | rfl | omega

/-! ### Home memory -/

/-- The canonical form in its two parts. -/
theorem memory_wf_iff {m : List Host.Cell} :
    Memory.wf m = true ↔ keysFrom 0 m = true ∧ ∀ c ∈ m, c.2 ≠ blankByte := by
  simp [Memory.wf]

/-- The entries of an updated store are the new one or old ones. -/
theorem mem_tblSet {α : Type} {t : Tbl α} {i : Nat} {v : α} {e : Nat × α} (h : e ∈ tblSet t i v) : e = (i, v) ∨ e ∈ t := by
  induction t with
  | nil => simpa [tblSet] using h
  | cons f t ih =>
    simp only [tblSet] at h
    split at h
    · simpa using h
    · split at h
      · rcases List.mem_cons.1 h with h | h
        · exact .inl h
        · exact .inr (List.mem_cons_of_mem _ h)
      · rcases List.mem_cons.1 h with h | h
        · exact .inr (h ▸ List.mem_cons_self)
        · exact (ih h).imp_right (List.mem_cons_of_mem _)

/-- The entries that a removal leaves are old ones. -/
theorem mem_tblErase {α : Type} {t : Tbl α} {i : Nat} {e : Nat × α} (h : e ∈ tblErase t i) : e ∈ t := by
  induction t with
  | nil => simp [tblErase] at h
  | cons f t ih =>
    simp only [tblErase] at h
    split at h
    · exact h
    · split at h
      · exact List.mem_cons_of_mem _ h
      · rcases List.mem_cons.1 h with h | h
        · exact h ▸ List.mem_cons_self
        · exact List.mem_cons_of_mem _ (ih h)

/-- Writing one byte keeps the canonical form. -/
theorem memPut_wf {m : List Host.Cell} (h : Memory.wf m = true) (a : Nat) (b : Byte) : Memory.wf (memPut m a b) = true := by
  rw [memory_wf_iff] at *
  unfold memPut
  split
  · exact ⟨keysFrom_tblErase h.1, fun c hc => h.2 c (mem_tblErase hc)⟩
  · refine ⟨keysFrom_tblSet h.1 (Nat.zero_le _), fun c hc => ?_⟩
    rcases mem_tblSet hc with rfl | hc
    · assumption
    · exact h.2 c hc

/-- Writing bytes keeps the canonical form. -/
theorem memWrite_wf {m : List Host.Cell} (h : Memory.wf m = true) (a : Nat) (bs : List Byte) :
    Memory.wf (memWrite m a bs) = true := by
  induction bs generalizing m a with
  | nil => exact h
  | cons b bs ih => exact ih (memPut_wf h a b) _

/-- Writing the bytes a mask names keeps the canonical form. -/
theorem memMerge_wf {m : List Host.Cell} (h : Memory.wf m = true) (a : Nat) (bs : List Byte) (k : Nat) :
    Memory.wf (memMerge m a bs k) = true := by
  induction bs generalizing m a k with
  | nil => exact h
  | cons b bs ih =>
    simp only [memMerge]
    refine ih ?_ _ _
    split
    · exact memPut_wf h a b
    · exact h

/-- Entries taken out leave rising keys. -/
theorem keysFrom_filter {α : Type} {lo : Nat} {t : Tbl α} (p : Nat × α → Bool) (h : keysFrom lo t = true) :
    keysFrom lo (t.filter p) = true := by
  induction t generalizing lo with
  | nil => rfl
  | cons e t ih =>
    simp only [keysFrom, Bool.and_eq_true, decide_eq_true_eq] at h
    rw [List.filter_cons]
    split
    · simp only [keysFrom, Bool.and_eq_true, decide_eq_true_eq]; exact ⟨h.1, ih h.2⟩
    · exact keysFrom_mono (ih h.2) (by omega)

/-- Blanking a part of memory keeps the canonical form. -/
theorem filter_wf {m : List Host.Cell} (p : Host.Cell → Bool) (h : Memory.wf m = true) : Memory.wf (m.filter p) = true := by
  rw [memory_wf_iff] at *
  exact ⟨keysFrom_filter p h.1, fun c hc => h.2 c (List.mem_filter.1 hc).1⟩

/-- A byte read after one byte has been written. -/
theorem memByte_memPut {m : List Host.Cell} (h : Memory.wf m = true) (a i : Nat) (b : Byte) :
    memByte (memPut m a b) i = if a = i then b else memByte m i := by
  rw [memory_wf_iff] at h
  unfold memByte memPut
  split
  · rw [tblGet_tblErase h.1]; split <;> simp_all
  · rw [tblGet_tblSet]; split <;> rfl

/-- A byte outside those written reads as before. -/
theorem memByte_memWrite_out {m : List Host.Cell} (h : Memory.wf m = true) (a i : Nat) (bs : List Byte)
    (hi : i < a ∨ a + bs.length ≤ i) : memByte (memWrite m a bs) i = memByte m i := by
  induction bs generalizing m a with
  | nil => rfl
  | cons b bs ih =>
    simp only [List.length_cons] at hi
    simp only [memWrite]
    rw [ih (memPut_wf h a b) (a + 1) (by omega), memByte_memPut h, if_neg (by omega)]

/-- A byte read after bytes have been written over it. -/
theorem memByte_memWrite_in {m : List Host.Cell} (h : Memory.wf m = true) (a i : Nat) (bs : List Byte) (hi : i < bs.length) :
    memByte (memWrite m a bs) (a + i) = bs[i] := by
  induction bs generalizing m a i with
  | nil => simp at hi
  | cons b bs ih =>
    simp only [memWrite]
    cases i with
    | zero =>
      rw [memByte_memWrite_out (memPut_wf h a b) _ _ _ (by omega), memByte_memPut h, if_pos (by omega)]; rfl
    | succ i =>
      have := ih (memPut_wf h a b) (a + 1) i (by simpa using hi)
      rw [show a + (i + 1) = a + 1 + i by omega]
      simpa using this

end Sys2Proof.Machine
end

