-- ==== Sys2Proof/Laws/Parts.lean ====
section
/-!
SUPPORT. The parts of the state by number: each reads back as it was put, and the others as before; and the register files: what
a write, a push and going on do to each register (Table 3.1, R83, R89).
-/
namespace Sys2Proof.Machine

/-! ### Cores, dies, sites, engines -/

/-- A core after one has been put. -/
theorem coreOf_setCore (s : State) (c k : CoreId) (x : Core) :
    coreOf (setCore s c x) k = if c = k then x else coreOf s k := by
  simp only [coreOf, setCore, tblGet_tblSet, BitVec.toNat_inj]
  split <;> rfl

/-- A die after one has been put. -/
theorem dieOf_setDie (s : State) (d k : DieId) (x : Die) : dieOf (setDie s d x) k = if d = k then x else dieOf s k := by
  simp only [dieOf, setDie, tblGet_tblSet, BitVec.toNat_inj]
  split <;> rfl

/-- A site after one has been put. -/
theorem siteOf_setSite (s : State) (i k : SiteId) (x : Site) : siteOf (setSite s i x) k = if i = k then x else siteOf s k := by
  simp only [siteOf, setSite, tblGet_tblSet, BitVec.toNat_inj]
  split <;> rfl

/-- An engine after one has been put. -/
theorem engineOf_setEngine (s : State) (e k : EngineId) (x : Engine) :
    engineOf (setEngine s e x) k = if e = k then x else engineOf s k := by
  simp only [engineOf, setEngine, tblGet_tblSet, BitVec.toNat_inj]
  split <;> rfl

@[simp] theorem coreOf_setCore_self (s : State) (c : CoreId) (x : Core) : coreOf (setCore s c x) c = x := by simp [coreOf_setCore]
@[simp] theorem dieOf_setDie_self (s : State) (d : DieId) (x : Die) : dieOf (setDie s d x) d = x := by simp [dieOf_setDie]
@[simp] theorem siteOf_setSite_self (s : State) (i : SiteId) (x : Site) : siteOf (setSite s i x) i = x := by
  simp [siteOf_setSite]
@[simp] theorem engineOf_setEngine_self (s : State) (e : EngineId) (x : Engine) : engineOf (setEngine s e x) e = x := by
  simp [engineOf_setEngine]

@[simp] theorem coreOf_setDie (s : State) (d : DieId) (x : Die) (k : CoreId) : coreOf (setDie s d x) k = coreOf s k := rfl
@[simp] theorem coreOf_modDie (s : State) (d : DieId) (f : Die → Die) (k : CoreId) : coreOf (modDie s d f) k = coreOf s k := rfl
@[simp] theorem dieOf_setCore (s : State) (c : CoreId) (x : Core) (d : DieId) : dieOf (setCore s c x) d = dieOf s d := rfl
@[simp] theorem dieOf_modCore (s : State) (f : Core → Core) (d : DieId) : dieOf (modCore s f) d = dieOf s d := rfl
@[simp] theorem coreOf_modSite (s : State) (i : SiteId) (f : Site → Site) (k : CoreId) : coreOf (modSite s i f) k = coreOf s k := rfl
@[simp] theorem findSlice_modCore (s : State) (f : Core → Core) (i : BitVec 32) : findSlice (modCore s f) i = findSlice s i := rfl

/-- The step's core after it has been changed. -/
@[simp] theorem curCore_modCore (s : State) (f : Core → Core) : curCore (modCore s f) = f (curCore s) := by
  simp [curCore, modCore]

/-- Another core after the step's core has been changed. -/
theorem coreOf_modCore_other (s : State) (f : Core → Core) {k : CoreId} (h : k ≠ s.cur) :
    coreOf (modCore s f) k = coreOf s k := by
  simp [modCore, coreOf_setCore, Ne.symm h]

/-- Two changes of the step's core are one. -/
@[simp] theorem modCore_modCore (s : State) (f g : Core → Core) : modCore (modCore s f) g = modCore s (g ∘ f) := by
  have put : ∀ (t : Tbl Core) (i : Nat) (v w : Core), tblSet (tblSet t i v) i w = tblSet t i w := by
    intro t i v w
    induction t with
    | nil => simp [tblSet]
    | cons e t ih =>
      simp only [tblSet]
      by_cases h1 : i < e.1
      · simp [h1, tblSet]
      · by_cases h2 : i = e.1
        · simp [h2, tblSet]
        · simp [h1, h2, tblSet, ih]
  simp [modCore, setCore, curCore, coreOf, tblGet_tblSet, put]

@[simp] theorem curDie_modCore (s : State) (f : Core → Core) : curDie (modCore s f) = curDie s := rfl

/-- The running slice does not change where the core keeps it. -/
theorem curSlice_modCore (s : State) (f : Core → Core) (h : (f (curCore s)).slice = (curCore s).slice) :
    curSlice (modCore s f) = curSlice s := by
  show (curCore (modCore s f)).slice.bind (findSlice s) = _
  rw [curCore_modCore, h]; rfl

/-- Its identifier as well. -/
theorem curSliceId_modCore (s : State) (f : Core → Core) (h : (f (curCore s)).slice = (curCore s).slice) :
    curSliceId (modCore s f) = curSliceId s := by
  simp [curSliceId, h]

/-! ### Register files -/

/-- A read after a change of the step's core that keeps its slice. -/
theorem readReg_modCore (s : State) (f : Core → Core) (h : (f (curCore s)).slice = (curCore s).slice) (r : Reg) :
    readReg (modCore s f) r =
      readFile (f (curCore s)).regs (((curSlice s).map (·.wid)).getD 0) ((curSliceId s).zeroExtend 64)
        (dieOf s (curDie s)).cyc r := by
  simp [readReg, curSlice_modCore s f h, curSliceId_modCore s f h]

/-- X0 reads as zero. -/
@[simp] theorem readFile_zero (g : SeqRegs) (a b c : Word) : readFile g a b c 0 = 0 := by simp [readFile]

/-- A register reads as written: every X but X0, and every Q. -/
theorem readFile_putFile_self (g : SeqRegs) (a b c v : Word) {d : Reg} (h0 : d ≠ 0) (h : d.toNat < 72) :
    readFile (putFile g d v) a b c d = v := by
  have h0' : d.toNat ≠ 0 := fun e => h0 (BitVec.eq_of_toNat_eq (by simpa using e))
  unfold readFile putFile
  by_cases hx : d.toNat < 64
  · simp [h0', hx]
  · have : d.toNat - 64 < 8 := by omega
    simp [h0', hx, h, this]

/-- Every other X and Q register reads as before. -/
theorem readFile_putFile_other (g : SeqRegs) (a b c v : Word) {d r : Reg} (hr : r.toNat < 72) (hne : r ≠ d) :
    readFile (putFile g d v) a b c r = readFile g a b c r := by
  have hne' : r.toNat ≠ d.toNat := fun e => hne (BitVec.eq_of_toNat_eq e)
  unfold readFile putFile
  by_cases h0 : r.toNat = 0
  · simp [h0]
  · by_cases hx : r.toNat < 64
    · simp only [h0, hx, if_false, if_true]
      split_ifs <;> simp [Ne.symm hne']
    · simp only [h0, hx, hr, if_false, if_true]
      have : d.toNat - 64 = r.toNat - 64 → ¬ 64 ≤ d.toNat := by omega
      split_ifs <;> first | rfl | (rw [Vector.getElem?_setIfInBounds, if_neg (by omega)])

/-- A push leaves the X and Q registers. -/
theorem readFile_pushFile (g : SeqRegs) (a b c v : Word) {r : Reg} (hr : r.toNat < 72) :
    readFile (pushFile g v) a b c r = readFile g a b c r := by
  simp only [readFile, pushFile, hr, if_true]

@[simp] theorem putFile_y (g : SeqRegs) (d : Reg) (v : Word) : (putFile g d v).y = g.y := by unfold putFile; split_ifs <;> rfl
@[simp] theorem putFile_pc (g : SeqRegs) (d : Reg) (v : Word) : (putFile g d v).pc = g.pc := by unfold putFile; split_ifs <;> rfl
@[simp] theorem putFile_flags (g : SeqRegs) (d : Reg) (v : Word) : (putFile g d v).flags = g.flags := by
  unfold putFile; split_ifs <;> rfl
@[simp] theorem putFile_repState (g : SeqRegs) (d : Reg) (v : Word) : (putFile g d v).repState = g.repState := by
  unfold putFile; split_ifs <;> rfl
@[simp] theorem putFile_asid (g : SeqRegs) (d : Reg) (v : Word) : (putFile g d v).asid = g.asid := by
  unfold putFile; split_ifs <;> rfl
@[simp] theorem putFile_ptBase (g : SeqRegs) (d : Reg) (v : Word) : (putFile g d v).ptBase = g.ptBase := by
  unfold putFile; split_ifs <;> rfl

/-- What going on to the next instruction can do to a core (R89, R92): the register files but REP_STATE and the pc stay. -/
theorem advanceCore_cases (c : Core) :
    (c.rep = none ∧ advanceCore c = { c with regs := { c.regs with pc := c.regs.pc + 4 }, wait := none }) ∨
    (∃ p q, c.rep = some p ∧ nextRepeat p = some q ∧ advanceCore c = { c with rep := some q, wait := none }) ∨
    (∃ p, c.rep = some p ∧ nextRepeat p = none ∧ advanceCore c = { c with
      rep := none, wait := none,
      regs := { c.regs with pc := c.regs.pc + 4, repState := c.regs.repState &&& 0x7FFFFFFFFFFFFFFF } }) := by
  unfold advanceCore
  cases h : c.rep with
  | none => exact .inl ⟨rfl, by simp⟩
  | some p =>
    cases hn : nextRepeat p with
    | none => exact .inr (.inr ⟨p, rfl, hn, by simp [hn]⟩)
    | some q => exact .inr (.inl ⟨p, q, rfl, hn, by simp [hn]⟩)

/-- Going on keeps the slice. -/
@[simp] theorem advanceCore_slice (c : Core) : (advanceCore c).slice = c.slice := by
  rcases advanceCore_cases c with ⟨-, h⟩ | ⟨p, q, -, -, h⟩ | ⟨p, -, -, h⟩ <;> rw [h]

/-- Going on keeps the register files. -/
theorem readFile_advanceCore (c : Core) (a b e : Word) (r : Reg) :
    readFile (advanceCore c).regs a b e r = readFile c.regs a b e r := by
  rcases advanceCore_cases c with ⟨-, h⟩ | ⟨p, q, -, -, h⟩ | ⟨p, -, -, h⟩ <;> rw [h] <;> rfl

end Sys2Proof.Machine
end

