-- ==== Sys2Proof/Tests/Slice0.lean ====
section
/-!
SUPPORT. Tests: ill-formed terms that WellFormed refuses, one word of every row of the opcode table written from the spec's encoding
tables, steps on small states, and for every statement states and operands that meet its hypotheses.
-/
namespace Sys2Proof.Tests
open Sys2Proof.Machine
set_option Elab.async false

/-! ### Small states -/

/-- The state an outcome gives. -/
def next (o : Out) : State := match o with | .next s => s | _ => State.reset

/-- The outcome is a next state. -/
def goes (o : Out) : Bool := match o with | .next _ => true | _ => false

/-- A computation succeeds with a value that passes a check. -/
def okWith {ε α : Type} (e : Except ε α) (p : α → Bool) : Bool := match e with | .ok a => p a | .error _ => false

/-- There is a value, and it passes a check. -/
def hasWith {α : Type} (e : Option α) (p : α → Bool) : Bool := match e with | some a => p a | none => false

/-- Every die runs the firmware, and its port has trained. -/
def booted : State :=
  { State.reset with dies := [0, 1, 2, 3].map fun i => (i, ({ firmware := true, lanes := 16 } : Die)) }

/-- Core 0 runs supervisor code. -/
def super : State := modCore booted fun c => { c with running := true, sup := true }

/-- A slice with the window and a range of HBM in its manifest. -/
def aSlice : Slice :=
  { id := 0x10000, core := 0, slot := 0, state := .resident, record := 0, deadline := 100, cls := 1, strict := false
    budget := some 5000, cohort := 1, entryDesc := 0, manifest := 0, wid := 0x123, widShape := 0x105, succ := 0, nsucc := 0
    regions := [{ base := 0x1000, extent := 0x100000, mode := 2 }, { base := 0xF0000000000000, extent := 0x400000, mode := 2 }] }

/-- A firing of the slice runs on core 0. -/
def user : State :=
  { modCore booted fun c => { c with running := true, sup := false, slice := some 0x10000 } with slices := [aSlice] }

/-- The state with X[r] = v. -/
def withX (s : State) (r : Reg) (v : Word) : State :=
  modCore s fun c => { c with regs := { c.regs with x := c.regs.x.setIfInBounds r.toNat v } }

/-- The state with registers 5, 6 and 7 set. -/
def with567 (s : State) (a b c : Word) : State := withX (withX (withX s 5 a) 6 b) 7 c

/-- Memory holds bytes from an address on. -/
def withMem (s : State) (a : Nat) (bs : List Byte) : State := { s with mem := memWrite s.mem a bs }

/-- A 1 GiB page at virtual address 0 with the given permission and format bits, at 0x4000_0000 in HBM; with SHADOW at
0x8000_0000. -/
def paged (s : State) (bits : Nat) : State :=
  let t := withMem (withMem s 0x10000 (leBytes 8 0x11001)) 0x11000 (leBytes 8 ((if bits / 512 % 2 = 1 then 0x80000000 else 0x40000000) + bits))
  modCore t fun c => { c with regs := { c.regs with ptBase := 0x10000 } }

/-- An address of the window. -/
def win (o : Nat) : Word := BitVec.ofNat 64 (0xF0000000000000 + o)

/-- A program of words at address 0 in the instruction cache. -/
def withCode (s : State) (ws : List Nat) : State :=
  modCore s fun c => { c with icache := [{ asid := 0, va := 0, data := (ws.flatMap fun w => leBytes 4 w) ++ List.replicate (64 - 4 * ws.length) 0 }] }

/-- One word of each row, its fields put at the places Tables 12.1 to 12.6 give. -/
theorem test_decode_sequencer_words_1 : [
    (0x01000000, .nop), (0x100A184D, .add 5 6 9 true false true), (0x110A184D, .sub 5 6 9 true false true),
    (0x120A184D, .mul 5 6 9 true false true), (0x130A184C, .mulh 5 6 9 true false), (0x140A184C, .div 5 6 9 true false),
    (0x150A184C, .rem 5 6 9 true false), (0x160A1849, .and 5 6 9 true), (0x170A1849, .or 5 6 9 true),
    (0x180A1849, .xor 5 6 9 true), (0x190A1849, .shl 5 6 9 true), (0x1A0A1849, .shr 5 6 9 true),
    (0x1B0A1849, .sha 5 6 9 true), (0x1C0A184C, .min 5 6 9 true false), (0x1D0A184C, .max 5 6 9 true false),
    (0x1E0A184C, .slt 5 6 9 true false), (0x1F0A1849, .seq 5 6 9 true), (0x200A1848, .sel 5 6 9),
    (0x210A1801, .clz 5 6 true), (0x220A1801, .popc 5 6 true), (0x230A1805, .ext 5 6 true 1), (0x240A184C, .bfx 5 6 9 true),
    (0x250A1848, .bfi 5 6 9), (0x260A184B, .lea 5 6 9 3), (0x270A1848, .hash 5 6 9), (0x280A1803, .widx 5 6 3),
    (0x300A1AA5, .addi 5 6 0x2A5), (0x310A1AA5, .andi 5 6 0x2A5), (0x320A1AA5, .ori 5 6 0x2A5),
    (0x330A1AA5, .xori 5 6 0x2A5), (0x340A1825, .shli 5 6 0x25), (0x350A1825, .shri 5 6 0x25)
  ].all (fun p : Nat × Instr => (decodeS p.1).toOption == some p.2) = true := by decide

/-- One word of each row, its fields put at the places Tables 12.1 to 12.6 give. -/
theorem test_decode_sequencer_words_2 : [
    (0x360A1825, .shai 5 6 0x25), (0x370A1AA5, .slti 5 6 0x2A5), (0x380BA2B3, .lil 5 0x1A2B3), (0x390BA2B3, .lis 5 0x1A2B3),
    (0x400A1A95, .ld 5 6 0xA5 1), (0x410A1A95, .ldn 5 6 0xA5 1), (0x420A1A95, .st 5 6 0xA5 1),
    (0x430A184D, .ldx 5 6 9 true 1), (0x440A1849, .stx 5 6 9 1), (0x45001695, .pref 5 0xA5 1), (0x460A1848, .swait 5 6 9),
    (0x470A1848, .sarm 5 6 9), (0x500A184B, .amo 5 6 9 3), (0x510A184B, .amow 5 6 9 3), (0x520A1848, .cas 5 6 9),
    (0x530A1848, .casw 5 6 9), (0x5400002B, .fence true false true 3), (0x550A1848, .barr 5 6 9), (0x560A1848, .publ 5 6 9),
    (0x570A1800, .rcsnap 5 6), (0x60F12345, .br 0xF12345), (0x61F12345, .call 0xF12345), (0x62001401, .jr 5 true),
    (0x630A1AA5, .beq 5 6 0x2A5), (0x640A1AA5, .bne 5 6 0x2A5), (0x650A1AA5, .blt 5 6 0x2A5), (0x660A1AA5, .bge 5 6 0x2A5),
    (0x670A1AA5, .bltn 5 6 0x2A5), (0x680A1AA5, .bgen 5 6 0x2A5), (0x690A02A5, .loop 5 0x2A5),
    (0x6A946A08, .rep 0x25 3 0xA 1), (0x6B000000, .endFiring)
  ].all (fun p : Nat × Instr => (decodeS p.1).toOption == some p.2) = true := by decide

/-- One word of each row, its fields put at the places Tables 12.1 to 12.6 give. -/
theorem test_decode_sequencer_words_3 : [
    (0x6B000001, .endDone), (0x6B000002, .endKill), (0x6C000000, .yield), (0x700A1849, .fadd 5 6 9 1),
    (0x710A184B, .fsub 5 6 9 3), (0x720A184B, .fmul 5 6 9 3), (0x730A184B, .fma 5 6 9 3), (0x740A1848, .fmin 5 6 9),
    (0x750A1848, .fmax 5 6 9), (0x760A184B, .fcmp 5 6 9 3), (0x770A184A, .fcvt 5 6 9 2), (0x780A1848, .spawn 5 6 9),
    (0x790A1849, .pushq 5 6 9 true), (0x7A0A1848, .popq 5 6 9), (0x7B0A1848, .notify 5 6 9), (0x800A1849, .cfld 5 6 9 1),
    (0x810A1801, .cfsw 5 6 1), (0x820A1849, .cfwv 5 6 9 1), (0x830A1800, .drain 5 6), (0x840A1848, .qwait 5 6 9),
    (0x850A184A, .inj 5 6 9 true false), (0x860A1848, .draw 5 6 9), (0x870A1848, .selvAssign 5 6 9),
    (0x870A1849, .selvOpen 5 6 9), (0x870A184A, .selvClose 5 6 9), (0x880A1848, .curd 5 6 9),
    (0x90200286, .xcopyCopy 2 5 6), (0x90204286, .xcopyFill 2 5 6), (0x91200286, .xgatherPort 2 5 6),
    (0x91204286, .xgatherMem 2 5 6), (0x92200286, .xscatterWrite 2 5 6), (0x92204286, .xscatterAdd 2 5 6)
  ].all (fun p : Nat × Instr => (decodeS p.1).toOption == some p.2) = true := by decide

/-- One word of each row, its fields put at the places Tables 12.1 to 12.6 give. -/
theorem test_decode_sequencer_words_4 : [
    (0x93200286, .xrowupd 2 5 6), (0x94200286, .xmigrate 2 5 6), (0x95500286, .xstream 5 5 6),
    (0x96000286, .xkvappAppend 0 5 6), (0x96004286, .xkvappEvict 0 5 6), (0x96008286, .xkvappFree 0 5 6),
    (0x97000286, .xkvsend 0 5 6), (0x98200286, .xlogAppend 2 5 6), (0x98204286, .xlogTrim 2 5 6),
    (0x98208286, .xlogStatus 2 5 6), (0x99200286, .xreduceSum 2 5 6), (0x99204286, .xreduceMax 2 5 6),
    (0x99208286, .xreduceMin 2 5 6), (0x9920C286, .xreduceGather 2 5 6), (0x9A200286, .xprefBound 2 5 6),
    (0x9A204286, .xprefUnbound 2 5 6), (0xA00A1849, .ttpar 5 6 9 1), (0xA10A1801, .ttclr 5 6 1),
    (0xA20A1801, .ttmask 5 6 1), (0xA30A1801, .ttpos 5 6 1), (0xA40A1849, .ttprune 5 6 9 1), (0xF000BEEF, .trap 0xBEEF),
    (0xF1000000, .eret), (0xF20A0021, .gets 5 0x21), (0xF3001408, .puts 5 8), (0xF4000000, .tlbiAll),
    (0xF4001401, .tlbiAsid 5), (0xF4001432, .tlbiPage 5 6), (0xF501A2B3, .brk 0x1A2B3), (0xF6000000, .idle)
  ].all (fun p : Nat × Instr => (decodeS p.1).toOption == some p.2) = true := by decide

/-- One word of each row, its fields put at the places Tables 12.8 and 12.10 give. -/
theorem test_decode_element_words_1 : [
    (0x008C0000, .vnop 1 3), (0x028D4002, .viadd 1 3 0xA true false), (0x048D4002, .visub 1 3 0xA true false),
    (0x068D4002, .vimul 1 3 0xA true false), (0x088D4001, .vimulh 1 3 0xA true), (0x0A8D4102, .vimad 1 3 0xA 1 true false),
    (0x0C8D4000, .vand 1 3 0xA), (0x0E8D4000, .vor 1 3 0xA), (0x108D4000, .vxor 1 3 0xA), (0x128D4000, .vshl 1 3 0xA),
    (0x148D4000, .vshr 1 3 0xA), (0x168D4000, .vsha 1 3 0xA), (0x188D4001, .vimin 1 3 0xA true),
    (0x1A8D4001, .vimax 1 3 0xA true), (0x1C8D400C, .vicmp 1 3 0xA 3), (0x1E8D4100, .vsel 1 3 0xA 1),
    (0x208D4008, .vaddc 1 3 0xA true false), (0x228D4008, .vsubc 1 3 0xA true false),
    (0x248D4108, .vmulc 1 3 0xA 1 true false), (0x268D4000, .vhash 1 3 0xA), (0x288C0000, .vclz 1 3),
    (0x2A8C0000, .vpopc 1 3), (0x2C8D4101, .vbfx 1 3 0xA 1 true), (0x308D400B, .vfadd 1 3 0xA true 3),
    (0x328D400B, .vfsub 1 3 0xA true 3), (0x348D400B, .vfmul 1 3 0xA true 3), (0x368D410B, .vfma 1 3 0xA 1 true 3),
    (0x388D4000, .vfmin 1 3 0xA), (0x3A8D4000, .vfmax 1 3 0xA), (0x3C8D4020, .vfcmp 1 3 0xA 2),
    (0x3E8D4020, .vfsign 1 3 0xA 2), (0x408D4169, .vfcvt 1 3 0xA 1 6 true 1), (0x428C000B, .vfrcpe 1 3 true 3)
  ].all (fun p : Nat × Instr => (decodeE p.1).toOption == some p.2) = true := by decide

/-- One word of each row, its fields put at the places Tables 12.8 and 12.10 give. -/
theorem test_decode_element_words_2 : [
    (0x448C000B, .vfrsqe 1 3 true 3), (0x468C000B, .vfexp2 1 3 true 3), (0x488C0A20, .vpqz 1 3 0xA 2),
    (0x4A8D4020, .vpmul 1 3 0xA 2), (0x4C8C0030, .vred 1 3 0 3 false 0), (0x608C0000, .fork 1 3),
    (0x628D4003, .filt 1 3 0xA 3), (0x648D400B, .steer 1 3 0xA true 3), (0x6614E005, .merge 5 7 1 true),
    (0x68000000, .pack), (0x6A8C4004, .perm 1 3 2 0 true 0), (0x6C8C0005, .splat 1 3 5), (0x6E8C0000, .tagseq 1 3),
    (0x70000000, .ordr), (0x72800083, .gen 1 true false 3), (0x748C0002, .cntl 1 3 true false), (0x76000001, .stat true),
    (0x788D4001, .topk 1 3 0xA true), (0x908C0080, .spld 1 3 true), (0x928D4080, .spst 1 3 0xA true),
    (0x948D4083, .spamo 1 3 0xA true 3), (0x96000000, .spfifo), (0x988C0003, .ltake 1 3 3), (0x9A8C0003, .lgive 1 3 3),
    (0x9C000003, .spsync 3), (0xB0000000, .mload), (0xB2000001, .mswap true), (0xB4000010, .mrow 1),
    (0xB6000050, .mdrain true 1), (0xB8000000, .mclr), (0xC08D4002, .vanc 1 3 0xA 2), (0xC28C0000, .ecount 1 3),
    (0xC4000017, .barn true false true true true)
  ].all (fun p : Nat × Instr => (decodeE p.1).toOption == some p.2) = true := by decide

/-- One word of each kind (Table 12.11). -/
theorem test_decode_switch_words : [
    (0x1908, .swp 3 4 1), (0x58C8, .swm 3 3 1), (0x9C09, .swg 3 0x10 1 1), (0xD888, .swb 3 2 1)
  ].all (fun p : Nat × Instr => (decodeSw p.1).toOption == some p.2) = true := by decide

/-! ### Well-formedness -/

/-- A term that each check of WellFormed refuses. -/
theorem test_ill_formed_terms_are_refused :
    ([.add 73 1 2 false false false, .add 3 79 2 false false false, .add 3 1 127 false false false, .ext 3 1 false 3, .widx 3 1 7,
      .fence false false false 0, .loop 0 1, .loop 72 1, .fadd 3 1 2 5, .fcmp 3 1 2 4, .fcvt 3 1 11 0, .gets 3 7, .puts 3 0x3FF,
      .xcopyCopy 0 0 3, .xcopyCopy 0 61 3, .viadd 0 25 0 false false, .vicmp 0 0 0 6, .vfcvt 0 0 0 0 14 false 0,
      .vfcvt 0 0 1 0 0 false 0, .vred 0 0 0 7 false 0, .vred 0 0 1 0 false 0, .vred 0 0 0 3 true 0, .perm 0 0 0 0 false 3,
      .perm 0 0 0 1 false 0, .perm 0 0 1 0 false 1, .vfsign 0 0 1 1, .vfadd 0 0 0 false 4, .swp 5 1 0, .swp 0 0 0, .swp 0 1 4,
      .merge 4 4 0 false, .merge 3 5 0 false] : List Instr).all (fun i => !i.wellFormed) = true := by decide

/-! ### One step on a small state -/

/-- R395: the largest number and one wraps without S, and stays with it. -/
theorem test_add_wraps_and_clamps :
    let s := with567 super 0x7FFFFFFFFFFFFFFF 1 0
    (readReg (next (exec (.add 8 5 6 false false false) s)) 8 = 0x8000000000000000) ∧
      readReg (next (exec (.add 8 5 6 false true false) s)) 8 = 0x7FFFFFFFFFFFFFFF := by decide

/-- R425, R488: the quotient of the most negative number by minus one wraps, and a zero divisor gives all ones and the dividend. -/
theorem test_division_corners :
    let s := with567 super 0x8000000000000000 0xFFFFFFFFFFFFFFFF 0
    readReg (next (exec (.div 8 5 6 false false) s)) 8 = 0x8000000000000000 ∧ readReg (next (exec (.rem 8 5 6 false false) s)) 8 = 0 ∧
      readReg (next (exec (.div 8 5 7 false false) s)) 8 = 0xFFFFFFFFFFFFFFFF ∧
      readReg (next (exec (.rem 8 5 7 false false) s)) 8 = 0x8000000000000000 := by decide

/-- R83: a result goes onto Y, older results move down. -/
theorem test_results_are_pushed :
    let s := with567 super 3 4 0
    let t := next (exec (.sub 8 5 6 false false false) (next (exec (.add 8 5 6 false false false) s)))
    readReg t 72 = 0xFFFFFFFFFFFFFFFF ∧ readReg t 73 = 7 ∧ pcOf t = 8 := by decide

/-- R80, R406: a taken branch counts in blocks of 64 bytes from the block of the instruction. -/
theorem test_branches_count_blocks :
    let s := modCore (with567 super 9 9 0) fun c => { c with regs := { c.regs with pc := 0x104 } }
    pcOf (next (exec (.beq 5 6 0x3FF) s)) = 0xC0 ∧ pcOf (next (exec (.bne 5 6 0x3FF) s)) = 0x108 := by decide

/-- R266, Table 8.2: TRAP saves the next word's address, and fetch goes on at TRAP_BASE + 0x0C × 64. -/
theorem test_trap_enters_its_vector :
    let s := modCore user fun c => { c with trap := { c.trap with base := 0x7000 }, regs := { c.regs with pc := 0x40 } }
    let t := next (exec (.trap 0x1234) s)
    pcOf t = 0x7300 ∧ (curCore t).trap.pc = 0x44 ∧ (curCore t).trap.cause = 0x0C ∧ (curCore t).sup = true ∧
      (curCore t).trap.info = 0x10000123400 := by decide

/-- R268: ERET goes back to TRAP_PC in the mode PMODE. -/
theorem test_eret_returns :
    let s := modCore super fun c => { c with trap := { c.trap with pc := 0x44, cause := 0x0C } }
    pcOf (next (exec .eret s)) = 0x44 ∧ (curCore (next (exec .eret s))).sup = false := by decide

/-- R155, R505: a store into the window and a load from it. -/
theorem test_window_store_and_load :
    let s := with567 user (win 0x40) 0x11223344AABBCCDD 0
    let t := next (exec (.st 6 5 0 2) s)
    memByte t.mem 0xE000000000043 = 0xAA ∧ memByte t.mem 0xE000000000044 = 0 ∧
      readReg (next (exec (.ld 8 5 0 1) t)) 8 = 0xFFFFFFFFFFFFCCDD := by decide +kernel

/-- R397: AMOADD of four bytes returns the old value with its sign. -/
theorem test_amow_returns_the_old_value :
    let s := withMem (with567 user (win 0x40) 3 0) 0xE000000000040 [0xFF, 0xFF, 0xFF, 0xFF]
    let t := next (exec (.amow 8 5 6 0) s)
    readReg t 8 = 0xFFFFFFFFFFFFFFFF ∧ memNat t.mem 0xE000000000040 4 = 2 := by decide +kernel

/-- R453, R188: a load of an address no entry maps traps with XLATE and the level. -/
theorem test_unmapped_load_traps :
    let t := next (exec (.ld 8 5 0 3) (with567 (paged super 7) 0x40000000 0 0))
    (curCore t).trap.cause = 0x104 ∧ (curCore t).trap.addr = 0x40000000 ∧ (curCore t).trap.info = 0x100 := by decide +kernel

/-- R436, R117: 1.5 + 2.5 is 4, and 1 + 2^-24 is rounded and inexact. -/
theorem test_fadd_rounds :
    let s := with567 super 0x3FC00000 0x40200000 0
    let r := with567 super 0x3F800000 0x33800000 0
    readReg (next (exec (.fadd 8 5 6 0) s)) 8 = 0x40800000 ∧ readReg (next (exec (.fadd 8 5 6 0) r)) 8 = 0x3F800000 ∧
      (curCore (next (exec (.fadd 8 5 6 0) r))).regs.flags = 1 ∧ (curCore (next (exec (.fadd 8 5 6 0) s))).regs.flags = 0 := by
  decide +kernel

/-- R524: the example of the entry, VIADD.S P1, P0, K0 in lane 3, in stage 2. -/
theorem test_viadd_example :
    let cx : Ctx := { catid := 1, kind := 0, owner := 0x10000, origin := 0, ks := [0x20] }
    let v : Inv := { kind := 0, seq := 1, eos := false, valid := 8, p := [[0, 0, 0, 0x7FFFFFF0], [], [], []] }
    let n : Site := { ctxs := Vector.replicate 4 (some cx), on := true, arcs := (Vector.replicate 6 none).setIfInBounds 0 (some v) }
    let s : State := { booted with focus := 0, focusStage := 2, sites := [(0, n)] }
    (decodeE 0x0281A002).toOption = some (.viadd 1 0 13 true false) ∧
      (arcOf (next (exec (.viadd 1 0 13 true false) s)) 0 2).map (fun w => laneOf ((w.p[1]?).getD []) 3) = some 0x7FFFFFFF := by
  decide +kernel

/-- A step fetches, decodes and runs the word at the pc. -/
theorem test_step_runs_the_word_after_reset :
    goes (step (State.reset.withFetchWord 32 0x10060417)) = true ∧ goes (step (State.reset.withFetchWord 32 0x0281A002)) = true ∧
      goes (step (State.reset.withFetchWord 16 0x5988)) = true := by decide +kernel

/-! ### Witnesses: states and operands that meet the hypotheses of the statements -/

/-- IntegerArithmetic: a divisor that is not zero, and the two results. -/
theorem witness_quotient_and_remainder :
    let s := with567 super 7 2 0
    readReg s 6 ≠ 0 ∧ goes (exec (.div 8 5 6 false false) s) = true ∧ goes (exec (.rem 9 5 6 false false) s) = true := by decide

/-- FieldsAndCounts: the last code of EXT and of WIDX that is none excluded. -/
theorem witness_field_codes : (2 : BitVec 2) ≠ 3 ∧ (6 : BitVec 3) ≠ 7 := by decide

/-- BranchesJumpsAndRepeats: each condition holds and fails, a jump is aligned and misaligned, LOOP goes on and ends. -/
theorem witness_branches :
    let s := with567 super 0x40 0x41 1
    readReg s 5 ≠ readReg s 6 ∧ readReg s 5 = readReg s 5 ∧ (readReg s 5).toInt < (readReg s 6).toInt ∧
      ¬ (readReg s 6).toInt < (readReg s 5).toInt ∧ (readReg s 5).toNat < (readReg s 6).toNat ∧ ¬ (readReg s 6).toNat < (readReg s 5).toNat ∧
      (readReg s 5).toNat % 64 = 0 ∧ (readReg s 6).toNat % 64 ≠ 0 ∧
      ((5 : Reg).toNat ≠ 0 ∧ (5 : Reg).toNat < 72 ∧ readReg s 5 ≠ 1) ∧ readReg s 7 = 1 := by decide

/-- BranchesJumpsAndRepeats: the word after REP may be repeated, and may not; a repeat with three executions left ends. -/
theorem witness_repeats :
    let s := withCode super [0x6A102100, 0x10060417]
    let z := withCode super [0x6A102100, 0]
    okWith (fetchWord s (pcOf s + 4).toNat) (fun q => repeatOk q.2 4 1 1 0) = true ∧
      okWith (fetchWord z (pcOf z + 4).toNat) (fun q => !repeatOk q.2 4 1 1 0) = true ∧
      hasWith (nextRepeat { left := 3, stepD := 1, stepA := 0, stepB := 31, d := 63, a := 5, b := 40 })
        (fun q => q.left == 2 && q.d == 0 && q.a == 5 && q.b == 7) = true := by decide +kernel

/-- FiringsStartAndEnd: a running firing, in slice mode and with a supervisor for END.KILL. -/
theorem witness_firings_end :
    curSlice user = some aSlice ∧ (curCore user).trap.info.getLsbD 63 = false ∧ (curCore user).sup = false ∧
      (let s := modCore user fun c => { c with sup := true }
       (curCore s).sup = true ∧ (curSlice s).map (·.state) = some .resident ∧ (SliceState.resident ≠ .retired)) := by decide

/-- An actor without input queues. -/
def anActor : Actor := { desc := 0x100, entry := 0x8000, ins := [], outs := [] }

/-- Core 0 has no firing; the slice has one ready actor. -/
def idleUser : State :=
  { modCore booted fun c => { c with sup := false } with slices := [{ aSlice with actors := [anActor] }] }

/-- FiringsStartAndEnd: a core without a candidate, one with an actor to start, and one with a firing to resume. -/
theorem witness_scheduler :
    (coreOf idleUser 0).running = false ∧ candidate idleUser 0 = some { aSlice with actors := [anActor] } ∧
      readyActor (coreOf idleUser 0) { aSlice with actors := [anActor] } = some anActor ∧ candidate State.reset 0 = none ∧
      hasWith (candidate { idleUser with slices := [{ aSlice with suspended := true }] } 0) (fun l => l.suspended) = true ∧
      (let c := coreOf idleUser 0
       c.pendLost = [] ∧ c.pendLink = [] ∧ c.pendNode = [] ∧ dueRecord c = none ∧ c.pendBudget = false ∧ c.supTraps = [] ∧
        (∀ m ∈ idleUser.slices, (m.deadline - 0).toNat < 2 ^ 47)) ∧
      (boundaryTrap { modCore idleUser fun c => { c with pendLost := [3] } with cur := 0 }).isSome = true ∧
      (let a := { aSlice with deadline := 1 }
       let b := { aSlice with cls := 2 }
       let d := { aSlice with slot := 1 }
       let far := { aSlice with deadline := 100 - 2 ^ 47 }
       schedulesBefore a aSlice = true ∧ schedulesBefore aSlice a = false ∧ schedulesBefore b aSlice = true ∧
        schedulesBefore aSlice d = true ∧ schedulesBefore far aSlice = true ∧ schedulesBefore aSlice far = true) := by decide +kernel

/-- FloatOperations: a NaN, a signalling one, an invalid sum and product, and plain values; every predicate, a conversion of each
kind. -/
theorem witness_floats :
    decodeIeee fp32 0x7FC00000 = .nan false ∧ decodeIeee fp32 0x7F800001 = .nan true ∧ decodeIeee fp32 0x7F800000 = .inf false ∧
      decodeIeee fp32 0xFF800000 = .inf true ∧ (match decodeIeee fp32 0x80000000 with | .fin _ m _ => m == 0 | _ => false) = true ∧
      decodeIeee bf16 0x7F81 = .nan true ∧ decodeF8 0x80 = .fin true 0 (-9) ∧ decodeIeee fp16 0x7C01 = .nan true ∧
      (match decodeIeee bf16 0x3F80 with | .fin false _ _ => true | _ => false) = true := by decide +kernel

/-- TrapsAndReturns: a return, one from a DEFERRED trap that interrupted nothing, one to a bad address, and one in slice mode. -/
theorem witness_returns :
    let t (pc : Word) (cause : Word) (info : Word) : State := modCore super fun c => { c with trap := { c.trap with pc := pc, cause := cause, info := info } }
    ((curCore (t 0x44 0x0C 0)).sup = true ∧ (curCore (t 0x44 0x0C 0)).trap.pc.toNat % 4 = 0 ∧ (curCore (t 0x44 0x0C 0)).trap.cause.toNat % 256 ≠ 0x0E) ∧
      ((curCore (t 0x44 0x0E 0x100)).trap.cause.toNat % 256 = 0x0E ∧ (curCore (t 0x44 0x0E 0x100)).trap.info.getLsbD 8 = true) ∧
      (curCore (t 0x46 0x0C 0)).trap.pc.toNat % 4 ≠ 0 ∧ (curCore user).sup = false ∧
      (let s := modCore (t 0x44 0x0C 0) fun c => { c with regs := { c.regs with repState := 0x8000000C00000000 } }
       (curCore s).regs.repState.getLsbD 63 = true) := by decide

/-- SystemRegisters: a readable register in each mode, one for the supervisor alone, one that is none; a budget; widths that fit and
that do not. -/
theorem witness_system_registers :
    sysRead user 2 = 0x123 ∧ sysRead super 0x10 = 0 ∧ sysIndexOk 7 = false ∧ sysIndexOk 0x41 = true ∧ (curCore super).sup = true ∧
      (let s := modCore user fun c => { c with sup := true }
       (curCore s).sup = true ∧ curSlice s = some aSlice ∧ aSlice.budget.isSome ∧
        (curSlice { s with slices := [{ aSlice with budget := none }] }).map (·.budget) = some none) ∧
      (let f (v : Word) : Nat := ((List.range 6).map fun k => v.toNat / 2 ^ (6 * k) % 64).sum
       f 0x105 ≤ 64 ∧ 64 < f 0xFFFFFFFFF) := by decide +kernel

/-- SystemRegisters: no table, a table that can be read, one with a reserved bit, one at an address that is none; a frame that has
begun and one that has not. -/
theorem witness_slot_maps :
    let m (v : Word) (bs : List Byte) : State := withMem (modDie super 0 fun d => { d with slotMap := v }) 0x1000 bs
    (dieOf (m 0x1000 []) 0).slotMap.toNat % 2 = 0 ∧ (slotTable (m 0x1001 [1, 2]) 0 0x1000).isSome = true ∧
      slotTable (m 0x1001 [0x10]) 0 0x1000 = none ∧ paThere (m 0x1001 [0x10]) 0 0x1000 = true ∧ paKind 0x1000 ≠ .device ∧
      poisonedRange (m 0x1001 [0x10]) 0 0x1000 320 = false ∧ slotTable super 0 0xF000000000000 = none ∧
      (dieOf (modDie super 0 fun d => { d with cyc := 64 }) 0).slotsFrame < (dieOf (modDie super 0 fun d => { d with cyc := 64 }) 0).cyc / 64 ∧
      (dieOf super 0).cyc / 64 ≤ (dieOf super 0).slotsFrame := by decide +kernel

/-- TranslationsAndLinesMove: a page that is in no window and one that is; a candidate and none; a walk that goes ahead and one that
faults; a line held, one not held, one on its way round a diagonal. -/
theorem witness_lines :
    let held : State := modCore super fun c => { c with l1 := [{ line := 0x1000, data := List.replicate 64 1, dirty := 1 }] }
    let far : State := modCore super fun c => { c with l1 := [{ line := 0x4800000000 / 64, data := List.replicate 64 1, dirty := 1 }] }
    ((0x1000 : Nat) / 2 ^ 48 % 256 = 0 ∧ (win 0).toNat / 2 ^ 48 % 256 ≠ 0) ∧ (candidate super super.cur = none ∧ (curCore super).slice = none) ∧
      (candidate (modCore idleUser fun c => { c with sup := true, running := true }) 0).isSome = true ∧
      okWith (checkAccess (paged super 7) { whoSeq (paged super 7) with checked := false } 0x1234 1 .load false fun _ _ => true)
        (fun q => match q.2 with | .phys _ _ => true | _ => false) = true ∧
      okWith (checkAccess super { whoSeq super with checked := false } 0x1234 1 .load false fun _ _ => true) (fun _ => true) = false ∧
      l1Find (coreOf super 0) 0x1000 = none ∧ (l1Find (coreOf held 0) 0x1000).isSome = true ∧ unreachable held 0 0x40000 = false ∧
      diagonal 0 (homeDie super 0 0x40000) = false ∧ diagonal 0 (homeDie super 0 0x4800000000) = true ∧ unreachable far 0 0x4800000000 = false ∧
      unreachable (modDie held 3 fun d => { d with lost := true }) 0 0x4800000000 = true := by decide +kernel

/-- TranslationsAndLinesMove: an operation of the gallery's that was translated before; walks that take their place, that find one of their
page there, that wait for their turn behind 64 others or for a sleeping channel, that go ahead and that fault. -/
theorem witness_listed_walks :
    let p := paged super 7
    let x : Walk := { core := 0, asid := 0, root := 0x10000, va := 0x1234, write := false, dom := 0 }
    let other : Walk := { x with core := 1, va := 0x5000 }
    let with_ (ws : List Walk) (s : State) : State := modDie s 0 fun d => { d with walks := ws }
    let listed (s : State) (va : Nat) : Option (DieId × Walk) := ([0, 1, 2, 3] : List DieId).findSome? fun d =>
      ((dieOf s d).walks.find? fun y => y.core == 0 && y.va / 4096 == va / 4096).map fun y => (d, y)
    let cmd : Cmd := sxCmd user .gatherPort 0 0 5
    let op : RowOp := { cmd := cmd, eng := 16, row := 0, pa := 0x40004000, va := 0x4000 }
    translatedOps { p with engines := [(16, { rowLocks := [op] })] } = [op] ∧ translatedOps p = [] ∧
      listed p 0x1234 = none ∧ listed (with_ [x] p) 0x1FFF = some (0, x) ∧ dieGone p 0 = false ∧ (whoSeq p).die = 0 ∧
      dieGone (modDie p 0 fun d => { d with lost := true }) 0 = true ∧
      (∀ y ∈ (dieOf (with_ [other] p) 0).walks, y.asid = (whoSeq p).asid16 → y.va / 4096 ≠ 1) ∧
      x ∈ activeWalks (dieOf (with_ [x] p) 0) 0 ∧ x ∉ activeWalks (dieOf (with_ (List.replicate 64 other ++ [x]) p) 0) 0 ∧
      walkHeld (with_ [x] p) (walkWho 0 x) x.va = false ∧
      okWith (checkAccess (dropWalk (with_ [x] p) 0 x) (walkWho 0 x) x.va 1 .load false fun _ _ => true)
        (fun q => match q.2 with | .phys _ _ => true | _ => false) = true ∧
      okWith (checkAccess (dropWalk (with_ [x] super) 0 x) (walkWho 0 { x with root := 0 }) x.va 1 .load false fun _ _ => true)
        (fun _ => true) = false ∧
      walkHeld (modDie (with_ [x] p) 0 fun d => { d with pcs := (List.range 128).map fun i => (i, .powerDown) }) (walkWho 0 x) x.va = true := by
  decide +kernel

/-- LoadsAndStores: an aligned access and a misaligned one, a refused one, a poisoned line with and without strict mode, an element
page, a line brought in. -/
theorem witness_loads_and_stores :
    let s := with567 user (win 0x40) 5 0
    let p := with567 (paged user 0x1F) 0x1040 5 0
    let e := with567 (paged user (0x1F + 2 ^ 54 * 3)) 0x1040 5 0
    let bad := { p with poison := [0x40001040 / 64] }
    elementFmt s (readReg s 5) = none ∧ okWith (seqAccess s (readReg s 5) 4 .load) (fun q => !privDevice s q.2 4 && !targetHeld s q.2 .load && !targetPoisoned q.1 q.2 .load) = true ∧
      okWith (seqAccess s (readReg s 5) 4 .store) (fun q => !privDevice s q.2 4 && !targetHeld s q.2 .store) = true ∧
      (win 0x41).toNat % 4 ≠ 0 ∧ okWith (seqAccess p 0x900000 4 .load) (fun _ => true) = false ∧
      okWith (seqAccess bad 0x1040 4 .load) (fun q => targetPoisoned q.1 q.2 .load) = true ∧ strictSlice bad = false ∧
      strictSlice { bad with slices := [{ aSlice with strict := true }] } = true ∧
      (elementFmt e 0x1040 = some 3 ∧ fmtBytes 3 = some 2 ∧
        okWith (seqAccess e 0x1042 2 .load true) (fun q => !privDevice e q.2 2 && !targetHeld e q.2 .load && !targetPoisoned q.1 q.2 .load) = true ∧
        okWith (seqAccess e 0x1042 2 .store true) (fun q => !privDevice e q.2 2 && !targetHeld e q.2 .store) = true) ∧
      hasWith (l1Find (coreOf (l1Fill p 0 0x1000) 0) 0x1000) (fun x => x.data.length == 64) = true ∧ 0x4003C % 64 + 4 ≤ 64 := by decide +kernel

/-- WindowAccessesPerformAtTheBank: the lowest and the highest address of each size. -/
theorem witness_window_accesses :
    let at_ (va : Word) (n : Nat) (k : Acc) : Bool := va.toNat / 2 ^ 48 == 0xF0 && decide (va.toNat % 2 ^ 48 < 0x400000) && va.toNat % n == 0 &&
      checkManifest (whoSeq user) va.toNat n k == none && !user.poison.contains ((0xE000000000000 + va.toNat % 0x400000) / 64)
    Memory.wf user.mem = true ∧ (at_ (win 0) 1 .load && at_ (win 0x3FFFF8) 8 .load && at_ (win 0) 4 .store && at_ (win 0x3FFFF8) 8 .store &&
      at_ (win 0) 8 .atomic && at_ (win 0x3FFFFC) 4 .atomic) = true := by decide +kernel

/-- AtomicsReturnTheOldValue: an atomic that is admitted, one that is refused, one on a poisoned line, a compare that fails. -/
theorem witness_atomics :
    let p := paged user 0x1F
    let bad := { p with poison := [0x40001040 / 64] }
    okWith (seqAccess p 0x1040 8 .atomic) (fun q => !privDevice p q.2 8 && !targetHeld p q.2 .atomic && !targetPoisoned q.1 q.2 .atomic) = true ∧
      okWith (seqAccess p 0x900000 8 .atomic) (fun _ => true) = false ∧ (0x1041 : Nat) % 4 ≠ 0 ∧
      okWith (seqAccess bad 0x1040 8 .atomic) (fun q => targetPoisoned q.1 q.2 .atomic) = true ∧
      okWith (seqAccess p 0x1040 8 .atomic false false) (fun q => (seqAtomic q.1 q.2 8 fun _ => none).2 != 7) = true := by decide +kernel

/-- PrefetchFenceAndCounters: a prefetch that is forbidden, one of a poisoned line, one that goes ahead; a fence with nothing to wait
for and with something; counters that are free, owned, and another's. -/
theorem witness_prefetch_fence_and_counters :
    let p := paged user 0x1F
    let ok : Leaf → Nat → Bool := fun l pa => !l.bit 8 &&
      (match paKind pa with | .scratch _ => false | .annex _ => false | .device => false | _ => true)
    let check (s : State) (va : Nat) := checkAccess s (whoSeq s) va 1 .load false ok
    (win 0).toNat / 2 ^ 48 ≠ 0 ∧ okWith (check p 0x900000) (fun _ => true) = false ∧
      okWith (check p 0x1040) (fun q => match q.2 with | .phys pa _ => !poisoned q.1 0 pa && (q.1.stall == false) | _ => false) = true ∧
      okWith (check { p with poison := [0x40001040 / 64] } 0x1040) (fun q => match q.2 with | .phys pa _ => poisoned q.1 0 pa | _ => false) = true ∧
      fenceDone user 6 = true ∧
      fenceDone { user with chans := [(32, { flight := [({ kind := 0, seq := 0, eos := false, valid := 1, lanes := [] }, 0, false)] })] } 6 = false ∧
      linesBar user (win 0) 4 = none ∧ (win 0).toNat % 64 = 0 ∧ (win 4).toNat % 64 ≠ 0 ∧ (curCore user).counterOwner = none ∧
      (curCore (modCore user fun c => { c with counterOwner := some 7 })).counterOwner ≠ some aSlice.id := by decide +kernel

/-- SyncWordsAndBarriers: a sync word's address, its last and one past the window; SWAIT with an equal and an other generation. -/
theorem witness_sync_words :
    let s := with567 user (win 0x3FFFF0) 0 7
    let u := with567 super (win 0x40) 0 7
    Memory.wf s.mem = true ∧ (readReg s 5).toNat % 16 = 0 ∧ (readReg s 5).toNat / 2 ^ 48 = 0xF0 ∧ (readReg s 5).toNat % 2 ^ 48 < 0x400000 ∧
      checkManifest (whoSeq s) (readReg s 5).toNat 16 .atomic = none ∧ (win 0x48).toNat % 16 ≠ 0 ∧ memNat s.mem 0xE0000003FFFF8 4 = 0 ∧
      (readReg s 6).toNat = 0 ∧ (readReg s 7).toNat ≠ 0 ∧
      ((curCore u).sup = true ∧ memNat u.mem 0xE000000000048 4 = (readReg u 6).toNat) := by decide +kernel

/-- SyncWordsAndBarriers: an arrival that is not the last and one that is; the fabric form at a site of another panel. -/
theorem witness_barriers :
    let s := with567 user (win 0x40) 2 1
    (curCore s).wait = none ∧ (readReg s 6).toNat ≠ 0 ∧ (readReg s 5).toNat % 8 = 0 ∧ (win 0x44).toNat % 8 ≠ 0 ∧
      okWith (seqAccess s (readReg s 5) 8 .atomic) (fun q => !targetPoisoned q.1 q.2 .atomic) = true ∧ fenceDone (fenceWb s) 6 = true ∧
      okWith (seqAccess (fenceWb s) (readReg s 5) 8 .atomic) (fun q => !privDevice (fenceWb s) q.2 8 && !targetHeld (fenceWb s) q.2 .atomic &&
        !targetPoisoned q.1 q.2 .atomic) = true ∧
      (let old := memNat s.mem 0xE000000000040 4
       old + 1 < (readReg s 6).toNat ∧ (readReg s 7).toNat ≤ old + 1) ∧
      (siteOf s 20).gated = false ∧ siteCore 20 ≠ s.cur ∧ (readReg s 0).toNat % 2 ^ 32 = 0 := by decide +kernel

/-- A state in which an arrival of 8 bytes waits at a sync word of core 0. -/
def arriving (words : List Nat) : State :=
  { withMem super 0xE000000000040 (words.flatMap fun w => leBytes 4 w) with arrivals := [(0xE000000000040, 8)] }

/-- SyncWordsAndBarriers: an unarmed word, an armed one, and one whose count cannot hold the sum. -/
theorem witness_sync_arrivals :
    (∀ w ∈ [[0, 0, 0, 0], [4, 0, 0, 1], [0, 0xFFFFFFFF, 0, 0]], keysFrom 0 (arriving w).chans = true ∧ Memory.wf (arriving w).mem = true ∧
      (arriving w).arrivals = [(0xE000000000040, 8)]) ∧
      memNat (arriving [0, 0, 0, 0]).mem 0xE00000000004C 4 % 2 = 0 ∧ memNat (arriving [4, 0, 0, 1]).mem 0xE00000000004C 4 % 2 = 1 ∧
      memNat (arriving [4, 0, 0, 1]).mem 0xE000000000040 4 ≠ 0 ∧ 0xFFFFFFFF < memNat (arriving [0, 0xFFFFFFFF, 0, 0]).mem 0xE000000000044 4 + 8 ∧
      super.arrivals = [] := by decide +kernel

/-- Queue 0 with the third word of its descriptor, and what core 0 holds of it. -/
def queued (w2 : Nat) (ram : List QueueRam) : State :=
  withMem (modDie (modCore (with567 user 0 9 0x1000000) fun c => { c with queues := ram }) 0 fun d => { d with docent := { d.docent with qdir := 0x20001 } })
    0x20000 (leBytes 8 0x30000 ++ leBytes 8 0 ++ leBytes 8 w2 ++ leBytes 8 0)

/-- A queue of 16 entries in the queue RAM, n of them in use. -/
def ramQueue (n : Nat) : QueueRam := { qid := 0, entries := List.replicate n 7, cap := 16, cohort := 0, popped := 0 }

/-- QueuesAndDoorbells: no queue, a closed one, a resident one with room, full, empty and not empty, one that is not resident. -/
theorem witness_queues :
    let open_ := 0x5000000
    let res := 0x15000000
    queueDesc user 0 = none ∧ hasWith (queueDesc (queued 0xD000000 []) 0) (fun k => k.closed) = true ∧
      hasWith (queueDesc (queued res [ramQueue 15]) 0) (fun k => !k.closed && k.core == 0 &&
        hasWith (residentQueue (queued res [ramQueue 15]) 0 k) (fun r => r.entries.length < r.cap)) = true ∧
      hasWith (queueDesc (queued res [ramQueue 16]) 0) (fun k => hasWith (residentQueue (queued res [ramQueue 16]) 0 k) (fun r => r.cap ≤ r.entries.length)) = true ∧
      hasWith (queueDesc (queued res [ramQueue 0]) 0) (fun k => hasWith (residentQueue (queued res [ramQueue 0]) 0 k) (fun r => r.entries.isEmpty)) = true ∧
      hasWith (queueDesc (queued open_ []) 0) (fun k => !k.closed && (residentQueue (queued open_ []) 0 k).isNone) = true ∧
      (curCore (queued res [])).wait = none ∧ (readReg (queued res []) 5).toNat < 2 ^ 24 ∧ 2 ^ 24 ≤ (readReg (queued res []) 7).toNat ∧
      (let s := modDie user 0 fun d => { d with docent := { d.docent with held := [(0, 9, false, 0)] } }
       (dieOf s 0).docent.held = [(0, 9, false, 0)]) ∧
      (let s := modCore user fun c => { c with wait := some { arrived := true, result := 4, gen := 1 } }
       (curCore s).wait = some { arrived := true, result := 4, gen := 1 }) := by decide +kernel

/-- The bytes of a task record with DEPCOUNT n and entry at 0x2000. -/
def aRecord (n : Nat) : List Byte :=
  leBytes 8 (2 ^ 56) ++ leBytes 8 0x1000 ++ leBytes 8 (n * 2 ^ 16 + 1) ++ leBytes 8 0x2000 ++ leBytes 8 0 ++ leBytes 8 0x77 ++ leBytes 8 0 ++ leBytes 8 0

/-- A notify page of die 0 with a ring of two records. -/
def notified (en : Bool) : State :=
  withMem (modNotify super 0 3 fun b => { b with en := en, log2 := 1, maxClass := 7, ringPa := 0x40000, ringVa := 0x40000 }) 0x40000 (aRecord 0)

/-- QueuesAndDoorbells: a write to a page, enabled and not, one ahead, further than the ring, again; a parked die. -/
theorem witness_doorbells :
    (notifyOf (notified true) 0 3).todo = [] ∧ dieGone (notified true) 0 = false ∧ (notifyOf (notified false) 0 3).en = false ∧
      ((0 : BitVec 32) - (notifyOf (notified true) 0 3).last).toNat = 0 ∧ ((1 : BitVec 32) - (notifyOf (notified true) 0 3).last).toNat = 1 ∧
      2 ^ (notifyOf (notified true) 0 3).log2.toNat < ((3 : BitVec 32) - (notifyOf (notified true) 0 3).last).toNat ∧
      dieGone (modDie (notified true) 0 fun d => { d with parked := true }) 0 = true ∧
      (let w : State := modNotify (notified true) 0 3 fun k => { k with todo := [1] }
       let q := (admitRecord w 0 (notifyOf w 0 3) 0).2
       q ≠ 2 ∧ q ≠ 3) ∧
      (let w : State := modNotify { notified true with slices := (List.range 64).flatMap fun k => (List.range 32).map fun j =>
          { aSlice with id := BitVec.ofNat 32 (k * 32 + j), core := BitVec.ofNat 6 k, slot := BitVec.ofNat 5 j } } 0 3 fun k => { k with todo := [1] }
       let q := (admitRecord w 0 (notifyOf w 0 3) 0).2
       q = 2 ∨ q = 3) := by decide +kernel

/-- A record at 0x1000 of the paged HBM, for SPAWN by the supervisor. -/
def spawning (r : List Byte) : State := withMem (with567 (paged super 0x1F) 0x1000 1 0x80) 0x40001000 r

/-- The state after SPAWN's reads. -/
def spawnX (r : List Byte) : State :=
  match seqAccess (spawning r) 0x1000 64 .load with
  | .ok (u, g) =>
    match spawnReads (seqRead u g 64).1 r with
    | .ok (w, _, _) => w
    | .error _ => State.reset
  | .error _ => State.reset

/-- SpawnsAndReleases: a record that is good, one that is not, with and without dependencies, a table that knows the key and one that
does not. -/
theorem witness_spawns :
    let s := spawning (aRecord 2)
    let add (e : PendEntry) (x : State) : State := modDie x 0 fun d => { d with pending := [e] }
    okWith (seqAccess s 0x1000 64 .load) (fun q => !privDevice s q.2 64 && !targetHeld s q.2 .load && !targetPoisoned q.1 q.2 .load) = true ∧
      recordOk (aRecord 2) = true ∧ recordOk (aRecord 0) = true ∧ recordOk (List.replicate 64 0) = false ∧ (readReg s 6).toNat < 64 ∧
      128 ≤ (readReg s 7).toNat ∧ (0x1020 : Nat) % 64 ≠ 0 ∧ (curCore s).sup = true ∧
      okWith (spawnReads s (aRecord 2)) (fun q => okWith (parseManifest 8 (recordsOf q.2.1) 0 []) fun _ => true) = true ∧
      pendFind (spawnX (aRecord 2)) 0x1000 = none ∧ (dieOf (spawnX (aRecord 2)) (keyDie 0x1000)).pending.length < 4096 ∧
      bitsAt 16 8 (recWord (aRecord 2) 2) = 2 ∧ bitsAt 16 8 (recWord (aRecord 0) 2) = 0 ∧
      dieGone (spawnX (aRecord 0)) (dieOfCore 1) = false ∧ ((spawnX (aRecord 0)).slices.filter (memberOf 1)).length < 64 ∧
      (freeSlot (spawnX (aRecord 0)) 1).isSome = true ∧
      hasWith (pendFind (add { key := 0x1000, balance := 1, record := some (aRecord 2) } (spawnX (aRecord 2))) 0x1000) (fun p => p.record.isSome) = true ∧
      hasWith (pendFind (add { key := 0x1000, balance := -1 } (spawnX (aRecord 2))) 0x1000) (fun p => p.record.isNone && decide (0 < p.balance + 2)) = true := by
  decide +kernel

/-- SpawnsAndReleases: releases of a key without an entry, with one that waits, with one that has its last release to come, with one
that waits for a slot; NOTIFY to the right, a wrong and a lost die; entries that are due and none. -/
theorem witness_releases :
    let s (e : PendEntry) : State := modDie user 0 fun d => { d with pending := [e] }
    let e (b : Int) (r : Option (List Byte)) : PendEntry := { key := 0x1000, balance := b, record := r, place := 1 }
    keyDie 0x1000 = 0 ∧ (dieOf user 0).lost = false ∧ pendFind user 0x1000 = none ∧
      hasWith (pendFind (s (e (-1) none)) 0x1000) (fun p => p.key == 0x1000 && p.record.isNone && decide (p.notices.length ≤ 8)) = true ∧
      hasWith (pendFind (s (e 2 (some (aRecord 2)))) 0x1000) (fun p => p.record.isSome && decide (1 < p.balance)) = true ∧
      hasWith (pendFind (s (e 0 (some (aRecord 2)))) 0x1000) (fun p => p.record.isSome && decide (p.balance ≤ 0)) = true ∧
      okWith (tryCreate (s (e 1 (some (aRecord 2)))) 0 1 0 (entryBirth (e 0 (some (aRecord 2))) (aRecord 2))) (fun _ => true) = true ∧
      (let n := with567 user 0x1000 0 1
       (readReg n 6).toNat = (keyDie (readReg n 5).toNat).toNat ∧ (readReg n 7).toNat ≠ (keyDie (readReg n 5).toNat).toNat ∧
         (readReg n 5).toNat % 64 = 0 ∧ dieGone n 0 = false ∧ dieGone (modDie n 0 fun d => { d with lost := true }) 0 = true ∧
         fenceDone (cleanRegions n n.cur (curRoot n) (curRegions n) fun r => writable r && (r.action == 1 || r.action == 2)) 6 = true) ∧
      dueEntries user 0 = [] ∧ dueEntries (s (e 0 (some (aRecord 0)))) 0 = [e 0 (some (aRecord 0))] ∧
      okWith (tryCreate (s (e 0 (some (aRecord 0)))) 0 1 0 (entryBirth (e 0 (some (aRecord 0))) (aRecord 0))) (fun _ => true) = true := by
  decide +kernel

/-- A slice that has been created and not placed, its actor descriptor at 0x2000. -/
def created : State :=
  { withMem (paged super 0x1F) 0x40002000 (leBytes 8 0x8000 ++ List.replicate 56 0) with slices := [{ aSlice with
      state := .created, entryDesc := 0x2000, regs := { ptBase := 0x10000 } }] }

/-- The state with its one slice changed. -/
def withSlice (s : State) (f : Slice → Slice) : State := { s with slices := s.slices.map f }

/-- SlicesArePlacedAdmittedAndRetired: a created slice that may be admitted, one that waits and may, one that may not, one that
retires, one with a forward notice. -/
theorem witness_slice_life :
    let region : Region := { base := 0x1000, extent := 0x1000, mode := 1 }
    let conflict (s : State) : State := modDie s 0 fun d => { d with conflicts := [{ slice := 0x10001, asid := 0, core := 0, region := region }] }
    let waits : State := withSlice user fun l => { l with state := .waiting }
    okWith (readPlacement created { aSlice with state := .created, entryDesc := 0x2000, regs := { ptBase := 0x10000 } })
        (fun q => mayAdmit q.1 { aSlice with regions := q.2.1, actors := q.2.2 }) = true ∧
      (waitingOn waits 0).map (·.id) = [0x10000] ∧ hasWith (findSlice waits 0x10000) (fun l => mayAdmit waits l) = true ∧
      hasWith (findSlice (conflict waits) 0x10000) (fun l => !mayAdmit (conflict waits) l) = true ∧
      (let r : State := withSlice user fun l => { l with state := .retiring }
       hasWith (findSlice r 0x10000) (fun l => l.state == .retiring && l.nsucc == 0 && (coreOf r l.core).deferred.isEmpty &&
         !(r.placements.any fun p => p.owner == l.id && p.active)) = true) ∧
      (let n : State := withSlice user fun l => { l with notices := [{ region := region, asid := 0, ptBase := 0 }] }
       hasWith (findSlice n 0x10000) (fun l => l.state == .resident && l.notices.length == 1 && l.notices.all fun x => !x.region.fwdsp) = true) := by
  decide +kernel

/-- A site with nothing on it. -/
def aSite : Site := {}

/-- An invocation. -/
def anInv : Machine.Inv := { kind := 0, seq := 0, eos := false, valid := 1, p := [[], [], [], []] }

/-- The state with some bytes in the memory at a virtual address of the pages of `catalogued`. -/
def image (catid rows cols : Nat) : List Byte := leBytes 2 catid ++ [BitVec.ofNat 8 rows, BitVec.ofNat 8 cols] ++ List.replicate 60 0

/-- A run-time catalogue of two patterns without records: 5 of one site at 0x1000, 6 of two sites at 0x1040. -/
def catalogued (s : State) : State :=
  let p := paged s 0x1F
  let entry (catid cols va : Nat) : List Byte := leBytes 2 catid ++ [1, BitVec.ofNat 8 cols] ++ leBytes 4 0 ++ leBytes 8 va
  withMem (withMem (withMem p (0x10000 + 8 * 0x1FE) (leBytes 8 0x11001)) 0x40000000
    (leBytes 4 0x4B524341 ++ leBytes 4 2 ++ List.replicate 56 0 ++ entry 5 1 0xFF0000001000 ++ entry 6 2 0xFF0000001040))
    0x40001000 (image 5 1 1 ++ image 6 1 2)

/-- The slice with the catalogue: X[5] = 5, X[6] = site 20, X[7] = 6. -/
def loading : State := catalogued (with567 user 5 20 6)

/-- What the loader reads of an image. -/
def imageOf (s : State) (catid : Nat) : Option (State × Image) := readImage s { whoSeq s with checked := false } catid

/-- A placement of pattern 5 in context 0 at site 20. -/
def placed : Placement := { origin := 20, rows := 1, cols := 1, ctx := 0, catid := 5, owner := 0x10000, ports := [], primes := [], bport := 255, bcount := 0 }

/-- LoadsAndSwitches: without a slice; an origin that is none; an identifier past the catalogue, one it lacks, one it has; a load that
may be done and one that may not; a placement of another slice, one that drains, one that runs, one barred, quiet and not. -/
theorem witness_loads_and_switches :
    let at_ (p : Placement) : State := { loading with placements := [p] }
    let act : Placement := { placed with active := true }
    curSlice super = none ∧ originOf (readReg loading 6) = some 20 ∧ originOf (win 0) = none ∧ 2 ^ 16 ≤ (win 0).toNat ∧
      (imageOf loading 9).isNone ∧ (curSlice loading).isSome ∧
      hasWith (imageOf loading 5) (fun q => loadCheck q.1 q.2 20 0 == none && configSlots q.1 (rectSites 20 q.2.rows q.2.cols) &&
        (loadCheck q.1 q.2 71 0 == none) && (loadCheck { q.1 with sites := [(20, { aSite with on := true })] } q.2 20 0).isSome) = true ∧
      placementAt (at_ placed) 20 0 = some placed ∧ ({ placed with owner := 9 } : Placement).owner ≠ 0x10000 ∧
      placementAt (at_ { act with draining := true }) 20 0 = some { act with draining := true } ∧ act.draining = false ∧
      switchBar (at_ placed) 0x10000 placed = none ∧ readyToSwitch (at_ placed) placed = true ∧
      (let busy : State := { at_ placed with chans := [(20 * 128 + 32, { slots := [{ kind := 0, seq := 0, eos := false, valid := 1, lanes := [] }] })] }
       switchBar busy 0x10000 placed = none ∧ readyToSwitch busy placed = false) := by decide +kernel

/-- RegionsAreDrainedAndAwaited: no region, a frozen one, one that has drained and one that has not, a quiet and a complete one; CFWV
without a region, with an image of the size and of an other size, with a wavefront armed and without. -/
theorem witness_regions_drain :
    let act : Placement := { placed with active := true }
    let at_ (p : Placement) : State := { catalogued (with567 user 20 0 1) with placements := [p] }
    let own (p : Placement) : Bool := match ownRegion (at_ p) 20 with | .ok q => q == p | .error _ => false
    (match ownRegion user 20 with | .ok _ => false | .error n => n == 5) = true ∧ own act = true ∧ own { act with frozen := true } = true ∧
      drained (at_ { act with draining := true, quiet := true }) { act with draining := true, quiet := true } = true ∧
      drained (at_ act) act = false ∧ act.draining = false ∧ reportedQuiet (at_ { act with quiet := true }) { act with quiet := true } = true ∧
      own { act with complete := true } = true ∧ (curCore (modCore (at_ act) fun c => { c with sup := true })).sup = true ∧
      (let l : State := { loading with placements := [act] }
       activeRegion user 20 = none ∧ activeRegion l 20 = some act ∧ act.armed = none ∧
       hasWith (imageOf l 5) (fun q => (q.2.rows, q.2.cols) == (1, 1) && loadCheck q.1 q.2 20 1 == none &&
         configSlots q.1 (rectSites 20 q.2.rows q.2.cols)) = true ∧
       hasWith (imageOf l 6) (fun q => (q.2.rows, q.2.cols) != (1, 1)) = true ∧
       activeRegion { loading with placements := [{ act with armed := some 1 }] } 20 = some { act with armed := some 1 }) := by decide +kernel

/-- InjectAndDraw: descriptors that are none, a site of the core and one that is not, gated and not, a track with room and one that is
full, an output with a token and without, an empty port that has closed. -/
theorem witness_inject_and_draw :
    let s := paged user 0x1F
    let x : SiteId := 0
    let k : Token := { kind := 5, seq := 3, eos := true, valid := 1, lanes := [7] }
    let full : Chan := { slots := [], flight := List.replicate 4 (k, 0, false), freed := 0 }
    let q : Port := { exit := true, site := 0, port := 4, track := 0, width := 0 }
    siteOk x = true ∧ siteCore x = s.cur ∧ domainOf s x = coreDomain s s.cur ∧ siteCore 20 ≠ s.cur ∧ (siteOf s x).gated = false ∧
      (siteOf { s with sites := [(0, { aSite with gated := true })] } x).gated = true ∧
      okWith (seqAccess s 0x1000 64 .load) (fun g => !privDevice s g.2 64 && !targetHeld s g.2 .load && !targetPoisoned g.1 g.2 .load &&
        (portAt (seqRead g.1 g.2 64).1 false x 4 0).isNone && ((chanOf (seqRead g.1 g.2 64).1 32).slots.length +
          (chanOf (seqRead g.1 g.2 64).1 32).flight.length + (chanOf (seqRead g.1 g.2 64).1 32).freed < 4)) = true ∧
      (let f := { s with chans := [(32, full)] }
       okWith (seqAccess f 0x1000 64 .load) (fun g => decide (4 ≤ (chanOf (seqRead g.1 g.2 64).1 32).flight.length)) = true) ∧
      (chanOf { s with chans := [(72, { full with slots := [k], flight := [] })] } 72).slots = [k] ∧
      okWith (seqAccess { s with chans := [(72, { full with slots := [k], flight := [] })] } 0x1000 64 .store)
        (fun g => !privDevice s g.2 64 && !targetHeld s g.2 .store) = true ∧
      (let e : State := { s with placements := [{ placed with origin := 0, active := true, ports := [q], closed := [0] }] }
       hasWith (portAt e true 0 4 0) (fun p => p.1.closed.contains p.2) = true ∧ (chanOf e 72).slots = []) := by decide +kernel

/-- DomainsAndCuratorState: a rectangle of one site, at the edge, past it, busy and free; a gateway between two sites; items 0, 4, 5 and 6
of a site, gated and not, of the core's domain and of another. -/
theorem witness_domains :
    let form (v m : Nat) : Bool := decide (v < 2 ^ 31) && v / 2 ^ 23 % 2 == 0 && v / 2 ^ 14 % 4 == 0 && decide (m < 16) &&
      v / 2 ^ 16 % 2 ^ 7 != 0 && v / 2 ^ 24 % 2 ^ 7 != 0
    let v := 20 + 2 ^ 16 + 2 ^ 24
    let other : State := { user with sites := [(20, { aSite with domain := 3 })] }
    form v 15 = true ∧ form v 16 = false ∧ form 20 0 = false ∧ siteRow 20 + 1 ≤ 32 ∧ siteCol 20 + 1 ≤ 72 ∧ 72 < siteCol 71 + 2 ∧
      dieGone user (siteDie 20) = false ∧ siteBusy user 20 = false ∧
      siteBusy { user with sites := [(20, { aSite with arcs := Vector.replicate 6 (some anInv) })] } 20 = true ∧
      (∀ y, neighbour 20 1 = some y → siteDie y = siteDie 20) ∧ (neighbour 20 1).isSome = true ∧ siteOk 20 = true ∧ siteOk 72 = false ∧
      dieGone (modDie user 0 fun d => { d with lost := true }) 0 = true ∧ domainOf other 20 ≠ coreDomain other other.cur ∧
      domainOf user 20 = coreDomain user user.cur ∧ (siteOf user 20).gated = false ∧
      (siteOf { user with sites := [(20, { aSite with gated := true })] } 20).gated = true := by decide +kernel

/-- A deferred record of an engine of core 0 for a slice. -/
def aDefer (k : BitVec 32) : DeferRec :=
  { pc := 0, cmd := 0, eng := 0, msgSeq := 1, slice := 0xFFFF + k, opA := 0, opB := 0, opC := 0, opD := 0, addr := 0, progress := 0, cause := 4 }

/-- Core 0 with a tree of the slice: nodes 0, 1 and 2, both below the root. -/
def withTree (s : State) : State :=
  modCore s fun c => { c with trees := c.trees.setIfInBounds 0 { live := 7, base := 0, owner := some 0x10000 } }

/-- A KV cache of one page at 0x2000 and 0x3000 with four positions. -/
def aCache : State :=
  withMem (withMem (withTree (paged (with567 user 2 0x2000 3) 0x1F)) 0x40002000
    (leBytes 8 0x3000 ++ leBytes 8 0x3000 ++ leBytes 8 0 ++ leBytes 8 4 ++ leBytes 8 64 ++ leBytes 8 0 ++ leBytes 8 0 ++ leBytes 8 0))
    0x40003000 (leBytes 8 0 ++ leBytes 8 (4 * 2 ^ 48) ++ leBytes 8 15 ++ leBytes 8 0)

/-- Whether a prune of node 2 of the cache may go ahead. -/
def prunes (s : State) : Bool :=
  let w := whoNow s (curDie s)
  let r := treeOf s s.cur 0
  match engCheck s w { acc := .engRead } 0x2000 64 with
  | .error _ => false
  | .ok (_, tg) =>
    let home := memoryDie (curDie s) (tg.pa s.cur)
    let k : KvJob := { w := whoNow s home, strict := strictSlice s }
    (engCheckRange s w kvWrites 0x2000 64 == none) && !kvBusy s (engineId home 18) 0x2000 w.asid &&
      !((kvPlaces s k.w 0x2000).any fun p => backingHeld s k.w none p.1 p.2) &&
      okWith (kvRead s k.w k.strict .engWrite 0x2000 64) fun q => kvOk q.2 && decide (r.base.toNat + 3 ≤ (kvDesc q.2).next) &&
        decide ((kvDesc q.2).next ≤ r.base.toNat + 64) &&
        let up : KvJob := { k with w := { k.w with checked := false }, hdr := .engRead }
        okWith (up.chain chainFuel q.1 (kvDesc q.2).head) fun p =>
          (k.checkPages p.1 (kvDesc q.2).entry r.base.toNat (kvDesc q.2).next p.2 == none) &&
            okWith (k.prune 0x2000 r.base.toNat (kvDesc q.2) (r.pathFrom 64 2).reverse p.2 p.1) fun _ => true

/-- TreesAndPublication: a free tree, an own one and one that is not; numbers past 63, the root, live nodes and others; a prune; PUBL of
no bytes, outside the manifest, of the window, of a shadow page and of one that is none, with and without a command that writes there. -/
theorem witness_trees_and_publication :
    let t := treeOf aCache aCache.cur 0
    let p : State := with567 (paged user 0x21F) 0x1000 64 0
    let w : Slice := { aSlice with faulted := [(0x1000, 64)] }
    (treeOf user user.cur 0).owner = none ∧ t.owner = some (curSliceId aCache) ∧ (treeOf super super.cur 0).owner ≠ some (curSliceId super) ∧
      (treeOf { aCache with slices := [{ aSlice with id := 0x20000 }] } 0 0).owner ≠ some 0x20000 ∧
      t.live.getLsbD 2 = true ∧ t.live.getLsbD 3 = false ∧ 63 < (win 0).toNat ∧
      prunes aCache = true ∧ (readReg aCache 5).toNat = 2 ∧ (readReg aCache 6).toNat = 0x2000 ∧
      checkManifest (whoSeq p) 0x1000 64 .publ = none ∧ (checkManifest (whoSeq p) 0x900000 64 .publ).isSome = true ∧
      okWith (leavesOf p 0 (curCore p).regs.ptBase.toNat (64 / 4096 + 2) 0x1000 (0x1000 + 64)) (fun ls => ls.all fun q => q.1.bit 9) = true ∧
      (let n := with567 (paged user 0x1F) 0x1000 64 0
       okWith (leavesOf n 0 (curCore n).regs.ptBase.toNat (64 / 4096 + 2) 0x1000 (0x1000 + 64)) (fun ls => ls.any fun q => !q.1.bit 9) = true) ∧
      publWaits p 0x10000 0x1000 64 = false ∧ publFaulted p 0x1000 64 = false ∧ publFaulted { p with slices := [w] } 0x1000 64 = true := by
  decide +kernel

/-- TreesAndPublication: a tree whose nodes have smaller parents. -/
theorem witness_tree_parents : ∀ n, 0 < n → n < 64 → (treeOf aCache aCache.cur 0).parentOf n < n := by
  have h : ∀ n ∈ List.range 64, 0 < n → (treeOf aCache aCache.cur 0).parentOf n < n := by decide +kernel
  exact fun n a b => h n (List.mem_range.mpr b) a

/-- The state in which registers 5 to 8 are set. -/
def with5to8 (s : State) (a b c d : Word) : State := withX (with567 s a b c) 8 d

/-- A table record at 0x2000: 16 rows of 64 FP32 at 0x4000. -/
def aTable (opt : Nat) : State :=
  withMem (with5to8 (paged user 0x1F) 0x2000 0x3000 4 0) 0x40002000
    (leBytes 8 0x4000 ++ leBytes 8 (16 + 256 * 2 ^ 32 + 2 ^ 48 + opt * 2 ^ 52) ++ leBytes 8 64 ++ List.replicate 40 0)

/-- A stream record at 0x2000 of a kind, 16 elements from 0x4000 on. -/
def aStream (kind : Nat) : State :=
  withMem (with5to8 (paged user 0x1F) 0x2000 0 0 0) 0x40002000
    (leBytes 8 (0x4000 + kind * 2 ^ 56) ++ leBytes 8 (((if kind = 4 then 1 else 16) + 2 ^ 16 + 2 ^ 32 + 2 ^ 48)) ++ leBytes 8 (if kind = 4 then 0 else 1) ++
      leBytes 8 0 ++ leBytes 8 (if kind = 4 then 0x11 else 0) ++ leBytes 8 (if kind = 2 then 0x3000 else 0) ++ leBytes 8 (if kind = 2 then 64 else 0) ++ leBytes 8 0)

/-- EngineWordsIssueTheirCommand: a word whose answer is outstanding; the words with a tag and a completion word, with and without; a
descriptor, a table, a list of sources and stream records of every kind that can be read. -/
theorem witness_engine_words :
    let c : Cmd := sxCmd user .copy 0 0 5
    let s := with5to8 (paged user 0x1F) 0x2000 0x3000 4 0
    let home (a : Acc) : Bool := okWith (engCheck s (whoNow s (curDie s)) { acc := a } 0x2000 64) fun _ => true
    let table (opt : Nat) : Bool := okWith (engRead (aTable opt) (whoNow (aTable opt) 0) { acc := .engRead } 0x2000 64) fun q =>
      !(strictSlice (aTable opt) && q.2.2.any id) && tableOk q.2.1 && decodable (tableOf q.2.1).fmt 1 && ((tableOf q.2.1).opt == opt)
    let stream (k : Nat) : Bool := okWith (checkAccess (aStream k) (whoSeq (aStream k)) 0x2000 64 .engRead false (fun l pa => seqPage l pa .load false)) fun q =>
      let v := (seqRead q.1 q.2 64).1
      let c : Cmd := { sxCmd (aStream k) .stream 0 0 5 with payload := (seqRead q.1 q.2 64).2 }
      !privDevice (aStream k) q.2 64 && !targetHeld (aStream k) q.2 .engRead && !targetPoisoned q.1 q.2 .engRead && streamOk c && (c.kind == k) &&
        (syncGate v (c.field 4 28 1 == 1) (c.field 4 32 24)).isNone &&
        (if k = 4 then c.base % 64 == 0 && (engCheckRange v (whoNow v (curDie v)) { acc := .engRead } c.base 64 == none)
         else okWith (firstPage v c) fun g => c.index % 4 == 0 &&
           (streamRange v { c with esize := pageElem g.1 c.form } (if g.1 = 5 then some g.2 else none)).isNone)
    (curCore (modCore user fun k => { k with sx := some { cmd := c, reply := 9, target := 17 } })).sx.isSome = true ∧ (curCore user).sx = none ∧
      (syncGate user false 0).isNone = true ∧ (syncGate user true 0x3FFFF).isNone = true ∧ (syncGate user true (2 ^ 18)).isNone = true ∧
      (cwordGate user 0).isNone = true ∧ (cwordGate s 0x3008).isNone = true ∧ (curCore super).sup = true ∧
      home .engRead = true ∧ home .engWrite = true ∧ (appendGate s (sxCmd s .kvAppend 0 0 5)).isNone = true ∧
      checkManifest (whoSeq s) 0x3000 (16 + 8 * 4) .engRead = none ∧ (table 0 && table 1) = true ∧
      okWith (engRead s (whoNow s 0) { acc := .engRead } 0x3000 8) (fun q => !(strictSlice s && q.2.2.any id)) = true ∧
      (stream 0 && stream 1 && stream 2 && stream 3 && stream 4) = true := by decide +kernel

/-- Core 0 waits for the answer to a command. -/
def asking (c : Cmd) (t : EngineId) : State := modCore user fun k => { k with sx := some { cmd := c, reply := 9, target := t } }

/-- A command with its operands. -/
def aCmd (op : EngOp) (a b c d : Word) : Cmd := { sxCmd user op 0 0 5 with opA := a, opB := b, opC := c, opD := d }

/-- EnginesAnswer: a command past its limits and one within; a die that is gone; an engine that is full, one that holds a record, and
one that is free; prefetches, and streams with a port and without. -/
theorem witness_engines_answer :
    let copy := aCmd .copy 0x1000 0x2000 64 0
    let pref := aCmd .prefUnbound 0x1000 64 0 1
    let bound := aCmd .prefBound 0 1 0 1
    let rec_ : List Byte := leBytes 8 0x4000 ++ leBytes 8 16 ++ List.replicate 48 0
    let str : Cmd := { aCmd .stream 0x2000 20 0 0 with payload := rec_ }
    let pl : Placement := { placed with ports := [{ site := 20, port := 3, exit := false, track := 0, width := 0 }] }
    let gone : State := modDie (asking copy 17) 0 fun d => { d with lost := true }
    let full : State := modEngine (asking copy 17) 17 fun e => { e with queue := List.replicate 64 copy }
    let held : State := modEngine (asking copy 17) 17 fun e => { e with held := some (aDefer 1) }
    badCmd user 0 { copy with order := 0 } = false ∧ badCmd user 0 (aCmd .copy 0x1000 0x1020 64 0) = true ∧
      dieGone user 0 = false ∧ dieGone gone 0 = true ∧ 64 ≤ loadOf full 17 ∧ (engineOf held 17).held.isSome ∧
      (loadOf user 17 < 64 ∧ (engineOf user 17).held = none) ∧ (coreOf (asking copy 17) 0).sx.isSome ∧
      badCmd user 0 pref = false ∧ badCmd user 0 bound = false ∧ (chaseOf user 1).isNone ∧ badCmd user 0 str = false ∧
      okWith (takePort { user with placements := [pl] } str) (fun p => p == pl) = true ∧ okWith (takePort user str) (fun _ => true) = false := by
  decide +kernel

/-- The word of an E-word. -/
def eword (i : Instr) : W32 := BitVec.ofNat 32 ((encodeE i).getD 0)

/-- A context: an input word, E-words, output words and constants. -/
def aCtx (input : W32) (ews : List W32) (outs : List (BitVec 16)) (ks : List W32) : Ctx :=
  { catid := 1, kind := 0, owner := 0x10000, origin := 0, input := input, ewords := ews, outs := outs, ks := ks, cs := [0, 0, 0, 0] }

/-- The site x is in focus at a stage with a context that may fire. -/
def focused (s : State) (x : SiteId) (stage : BitVec 5) (cx : Ctx) (n : Site) : State :=
  { s with focus := x, focusStage := stage, sites := [(x.toNat, { n with ctxs := Vector.replicate 4 (some cx), on := true, cs := cx.cs })] }

/-- A site with an invocation before stage k. -/
def before (k : Nat) (v : Machine.Inv) : Site := { aSite with arcs := aSite.arcs.setIfInBounds (k - 2) (some v) }

/-- The four lane words that the lane statements' clauses tell apart: 1.0, NaN, minus infinity, the least negative number. -/
def someLanes : Lanes := [0x3F800000, 0x7FC00000, 0xFF800000, 0x80000001]

/-- An invocation of a kind with those lanes. -/
def laneInv (kind : BitVec 3) (eos : Bool) : Machine.Inv :=
  { kind := kind, seq := 5, eos := eos, valid := 0xF, p := [someLanes, [1, 0x10000, 0x3C, 0], [], []] }

/-- A processing element before stage k. -/
def atStage (k : Nat) (v : Machine.Inv) : State := focused user 0 (BitVec.ofNat 5 k) (aCtx 0 [] [] [0x20]) (before k v)

/-- AtStage in the lane statements: stages 2 and 5 of a data invocation, and of a HOLE. -/
theorem witness_at_stage :
    AtStage (atStage 2 (laneInv 0 false)) (aCtx 0 [] [] [0x20]) 2 (laneInv 0 false) ∧ computes (laneInv 0 false) ∧
      AtStage (atStage 5 (laneInv 0 true)) (aCtx 0 [] [] [0x20]) 5 (laneInv 0 true) ∧
      AtStage (atStage 3 (laneInv 6 true)) (aCtx 0 [] [] [0x20]) 3 (laneInv 6 true) ∧ AtStage (atStage 4 (laneInv 2 true)) (aCtx 0 [] [] [0x20]) 4 (laneInv 2 true) := by
  refine ⟨⟨?_, ?_, ?_, ?_, ?_, ?_, ?_, ?_, ?_, ?_⟩, ?_, ⟨?_, ?_, ?_, ?_, ?_, ?_, ?_, ?_, ?_, ?_⟩, ⟨?_, ?_, ?_, ?_, ?_, ?_, ?_, ?_, ?_, ?_⟩,
    ⟨?_, ?_, ?_, ?_, ?_, ?_, ?_, ?_, ?_, ?_⟩⟩ <;> first | decide +kernel | (unfold computes; decide +kernel)

/-- The tree, the counters and GEN in the lane statements: a tree of the context's owner with two live nodes, counters without an owner
and with another, an invocation that GEN has made. -/
theorem witness_lane_owners :
    (treeOf (withTree (atStage 2 (laneInv 0 false))) 0 0).owner = some (aCtx 0 [] [] [0x20]).owner ∧
      (coreOf (atStage 2 (laneInv 0 false)) 0).counterOwner = none ∧ (siteOf (atStage 2 (laneInv 0 false)) 0).cs.length = 4 ∧
      (laneInv 0 false).seq.toNat < 6 ∧ (6 : Nat) ≤ 4096 := by decide +kernel

/-- FloatLanesAndEstimates and ConvertersAndReductions: the words of each special case. -/
theorem witness_lane_values :
    (0x7F800000 < 0x7FC00000 % 2 ^ 31) ∧ 0xFF800000 % 2 ^ 31 = 0x7F800000 ∧ (1 ≤ 127 ∧ 127 ≤ 253 ∧ 0x3F800000 % 2 ^ 31 = 127 * 2 ^ 23) ∧
      ((63 : Nat) < 127 ∧ 0x3F800000 = (2 * 63 + 1) * 2 ^ 23) ∧ (roundNum fp32 .rne (ofInt 0)).1.code = 0 ∧
      (let t := addNum .rne (decodeIeee fp32 0xC0100000) (ofInt 3)
       ltNum t (ofInt 0) = false ∧ ltNum t (ofInt 1) = true) ∧ (4 : BitVec 3).toNat ≥ 4 ∧ (0 : BitVec 3).toNat < 4 := by decide +kernel

/-- An output word: P[1] on port 1, track 2. -/
def outP1 : BitVec 16 := 0xA180

/-- A processing element before stage 6 with one output, with a token budget or none. -/
def atLast (v : Machine.Inv) (full : Bool) : State :=
  let s := focused user 0 6 (aCtx 0 [] [outP1] []) (before 6 v)
  match outDest s 0 1 2 false with
  | some (y, p, t) => if full then { s with chans := [(chanKey y p t, { slots := List.replicate 4 { kind := 0, seq := 0, eos := false, valid := 0, lanes := [] } })] } else s
  | none => s

/-- ConvertersAndReductions and StagesFireTheirWord in stage 6: one output that is free, and one that is full. -/
theorem witness_last_stage :
    let s := atLast (laneInv 0 true) false
    let cx := aCtx 0 [] [outP1] []
    AtStage s cx 6 (laneInv 0 true) ∧ outSels cx = [outSel outP1] ∧ (outSel outP1).width = 0 ∧ hasFork cx = false ∧ steerBack cx = none ∧
      cntlOf cx = none ∧ (carryOf cx).1 = false ∧ swmCopies cx (outSel outP1).port (outSel outP1).track = [] ∧
      (outDest s 0 (outSel outP1).port (outSel outP1).track false).isSome = true ∧ outFree s 0 (outSel outP1).port (outSel outP1).track = true ∧
      outFree (atLast (laneInv 0 true) true) 0 (outSel outP1).port (outSel outP1).track = false := by
  refine ⟨⟨?_, ?_, ?_, ?_, ?_, ?_, ?_, ?_, ?_, ?_⟩, ?_, ?_, ?_, ?_, ?_, ?_, ?_, ?_, ?_, ?_⟩ <;> decide +kernel

/-- A token with a kind and a SEQ. -/
def tok (kind : BitVec 3) (seq : BitVec 12) (eos : Bool) : Token := { kind := kind, seq := seq, eos := eos, valid := 3, lanes := [7, 8] }

/-- Heads of ports 0 and 1 of site 0, track 0. -/
def heads (s : State) (a b : Option Token) : State :=
  { s with chans := (a.toList.map fun k => (chanKey 0 0 0, { slots := [k] })) ++ (b.toList.map fun k => (chanKey 0 1 0, { slots := [k] })) }

/-- Site 0 in stage 1 with a context. -/
def first (cx : Ctx) (n : Site) : State := focused user 0 1 cx n

/-- StagesFireTheirWord: a context with a word in stages 1 and 2; heads of two ports, one missing. -/
theorem witness_stages_fire :
    let cx := aCtx 0 [0x0281A002, 0x0281A002] [] []
    activeCtx (first cx aSite) 0 = some cx ∧ (decodeE ((cx.ewords[1]?).getD 0).toNat).toOption = some (.viadd 1 0 13 true false) ∧
      mayFire (first cx aSite) 0 = true ∧ arcOf (first cx aSite) 0 1 = none ∧ primaryPort cx < 5 ∧ primaryWidth cx = 0 ∧ (1 : Nat) ≠ primaryPort cx ∧
      outsFree (first cx aSite) 0 cx = true ∧ (chanOf (heads (first cx aSite) (some (tok 0 1 true)) (some (tok 0 2 false))) (chanKey 0 1 (portTrack cx 1))).slots
        = [tok 0 2 false] ∧ (chanOf (heads (first cx aSite) (some (tok 0 1 true)) none) (chanKey 0 1 (portTrack cx 1))).slots = [] := by
  decide +kernel

/-- A loop-mode MERGE of ports 0 and 1, and its context. -/
def mergeCtx : Ctx := aCtx 0xE0000000 [eword (.merge 4 5 0 true)] [] []

/-- NodesMergeOrderAndPack: offers on one port, on the other, on both; an initial token; credits and none; control tokens; a prime. -/
theorem witness_merges :
    let s (a b : Option Token) (n : Node) : State := heads (first mergeCtx { aSite with node := n }) a b
    let k := some (tok 0 1 true)
    firstReady (s k none {}) 0 = some mergeCtx ∧ loopMerge mergeCtx = some (1, 0) ∧
      (mergeOffers (s k none {}) 0 0 0 0).isSome = true ∧ mergeOffers (s k none {}) 0 1 0 0 = none ∧ markerAt (s k none {}) 0 1 0 = false ∧
      (mergeOffers (s none k {}) 0 1 0 0).isSome = true ∧ mergeOffers (s k k { turnB := true }) 0 1 0 0 = some [tok 0 1 true] ∧
      headBundle (s none (some (tok 1 1 true)) {}) 0 1 0 0 = some [tok 1 1 true] ∧ mayFire (s none none { primed := 2 }) 0 = true ∧
      (siteOf (s k none { credits := 1 }) 0).node.credits = 1 ∧
      (headTok (s (some (tok 5 1 true)) (some (tok 5 1 true)) {}) 0 0 0).map (·.kind) = some 5 ∧ headTok (s k k {}) 0 2 0 = none := by
  decide +kernel

/-- A node that takes its primary input, with a first word. -/
def node1 (i : Instr) (n : Node) (k : Option Token) : State :=
  heads (first (aCtx 0 [eword i] [] [2, 0, 20]) { aSite with node := n }) k none

/-- NodesMergeOrderAndPack: the next SEQ and a later one, 64 and 2,048 ahead; a packed shuttle with room and 16 of them, old enough and not;
an entry that is done; a row that goes on and one that ends; a token to emit; GEN below its count and at it. -/
theorem witness_orders :
    let took (s : State) (srcs : List Src) (p : Machine.Inv → Bool) : Bool :=
      match takeFirst s 0 ((activeCtx s 0).getD mergeCtx) srcs false with | .take u v _ => p v && v.kind == 0 && (siteOf u 0).node == (siteOf s 0).node | _ => false
    let seq (n : BitVec 12) (eos : Bool) : State := node1 .ordr {} (some (tok 0 n eos))
    let done : OrdEntry := { seq := 0, words := [[1]], valid := 1, done := true, hole := false }
    let old : State := modDie (node1 .pack { part := [[1], [2]] } none) 0 fun d => { d with cyc := 64 }
    (took (seq 0 true) [] (fun v => v.seq == 0 && v.eos) && took (seq 63 false) [] (fun v => v.seq == 63) && took (seq 64 false) [] (fun v => v.seq == 64) &&
      took (seq 2048 false) [] (fun v => v.seq == 2048)) = true ∧
      firstReady (seq 0 true) 0 = some (aCtx 0 [eword .ordr] [] [2, 0, 20]) ∧
      (took (node1 .pack {} (some (tok 0 0 true))) [] fun v => v.valid == 3) = true ∧
      (took (node1 .pack { part := List.replicate 15 [1] } (some (tok 0 0 true))) [] fun v => v.valid == 3) = true ∧
      holdsOp ((activeCtx old 0).getD mergeCtx) (fun i => i == .pack) = true ∧ (siteOf old 0).node.lastIn + 64 ≤ (dieOf old 0).cyc ∧
      (siteOf old 0).node.part.length ≤ 16 ∧ ([done].find? fun q => q.seq == (siteOf (node1 .ordr { pend := [done] } none) 0).node.next && q.done) = some done ∧
      ordInput (node1 .ordr { pend := [done] } none) 0 (aCtx 0 [eword .ordr] [] [2, 0, 20]) = false ∧
      (took (node1 (.topk 0 0 21 true) {} (some (tok 0 0 true))) [0, 21] fun v => v.eos) = true ∧
      (took (node1 (.topk 0 0 21 true) {} (some (tok 0 0 false))) [0, 21] fun v => !v.eos) = true ∧
      (siteOf (node1 (.topk 0 0 21 true) { emit := [laneInv 0 true] } none) 0).node.emit = [laneInv 0 true] ∧
      (activeAt (node1 (.gen 0 false false 0) {} none) 0).isNone = true ∧ 16 * (siteOf (node1 (.gen 0 false false 0) { j := 1 } none) 0).node.j < 20 ∧
      20 ≤ 16 * (siteOf (node1 (.gen 0 false false 0) { j := 2 } none) 0).node.j := by decide +kernel

/-- Site 16, a memory element, in stage 1 with a word and an optional head. -/
def element (i : Instr) (ks : List W32) (n : Site) (k : Option Token) : State :=
  { focused user 16 1 { aCtx 0 [eword i] [] ks with kind := 1 } n with chans := k.toList.map fun t => (chanKey 16 0 0, { slots := [t] }) }

/-- An access of lane 0 at offset 8. -/
def anAccess : LaneAcc := { lane := 0, offset := 8, operand := 5 }

/-- A token in a memory element's window. -/
def anEntry (done : Option Nat) : MeEntry := { bundle := [tok 0 1 true], accs := [anAccess], words := [(0, 9)], valid := 1, done := done }

/-- A token whose one valid lane holds an offset. -/
def offsetTok (o : W32) (seq : BitVec 12) : Token := { kind := 0, seq := seq, eos := true, valid := 1, lanes := [o] }

/-- MemoryElementsAndLocks: a window with room and a full one; an access of each operation that a bank may grant; a response that is due
and one that is not; a FIFO with room and a full one; a lock that is free, one that another SEQ holds, one of the token's own; a lock
held too long and one that is not. -/
theorem witness_memory_elements :
    let took (s : State) (srcs : List Src) : Bool :=
      match takeFirst s 16 ((activeCtx s 16).getD mergeCtx) srcs false with | .take _ v _ => v.kind == 0 && canEmit s 16 (selWrites ((activeCtx s 16).getD mergeCtx) 1 v) | _ => false
    let off : Token := offsetTok 8 1
    let full : Site := { aSite with win := List.replicate 32 (anEntry none) }
    let grant (i : Instr) : State := element i [] { aSite with win := [anEntry none] } none
    let lock (q : BitVec 12) : Lock := { core := siteCore 16, me := 0, bank := 0, tok := 0, seq := q, since := 0, lanes := 1 }
    siteOk 16 = true ∧ siteKind 16 = 1 ∧ mayFire (element .spfifo [] aSite none) 16 = true ∧ 32 ≤ (siteOf (element .spfifo [] full none) 16).win.length ∧
      (took (element (.spld 0 0 false) [] aSite (some off)) [0] && took (element (.spst 0 0 21 false) [] aSite (some off)) [0, 21] &&
        took (element (.spamo 0 0 21 false 0) [] aSite (some off)) [0, 21] && took (element (.spsync 0) [] aSite (some off)) []) = true ∧
      Memory.wf (grant (.spld 0 0 false)).mem = true ∧ dieGone user (siteDie 16) = false ∧
      ([.spld 0 0 false, .spst 0 0 21 false, .spamo 0 0 21 false 0] : List Instr).all (fun i =>
        hasWith ((activeCtx (grant i) 16).bind fun cx => (stageOps cx).head?) fun o => o == i && (nextAccess (siteOf (grant i) 16).win 0 == some (0, anAccess))) = true ∧
      (grant .spfifo).poison = [] ∧ (anEntry (some 1)).done.isSome = true ∧
      canEmit (element (.spld 0 0 false) [] { aSite with win := [anEntry (some 1)] } none) 16
        (selWrites { aCtx 0 [eword (.spld 0 0 false)] [] [] with kind := 1 } 0 (responseInv 0 (.spld 0 0 false) (anEntry (some 1)))) = true ∧
      (headBundle (element .spfifo [0, 2] aSite (some off)) 16 0 0 0 = some [off] ∧ (2 : Nat) ≤ (siteOf (element .spfifo [0, 2] { aSite with fifo := [[off], [off]] } none) 16).fifo.length) ∧
      (took (element (.ltake 0 0 0) [] aSite (some off)) [0] && took (element (.lgive 0 0 0) [] aSite (some off)) [0]) = true ∧
      (lock 1).core = siteCore 16 ∧ ((8 : Nat) / 64 % 16 = (lock 1).bank.toNat ∧ (8 / 64 / 16 % 64) ^^^ (8 / 64 / 1024 % 8) = (lock 1).tok.toNat) ∧
      (lock 2).seq ≠ off.seq ∧ (lock 1).seq = off.seq ∧ (lock 1).me.toNat = siteRow 16 % 8 ∧
      ((lock 1).since + 16384 < 16385 ∧ (0 : Nat) ≤ (lock 1).since + 16384) := by decide +kernel

/-- Site 17, a matrix tile with a role on each port, its tile, and heads on ports. -/
def tile (ews : List W32) (t : Tile) (ks : List (Nat × Token)) : State :=
  { focused user 17 1 { aCtx 0x60402000 ews [] [4, 1] with kind := 2 } { aSite with tile := t } with
    chans := ks.map fun k => (chanKey 17 k.1 0, { slots := [k.2] }) }

/-- The operand token of a load of one column from an address. -/
def loadTok (va : W32) (valid : BitVec 16) : Token := { kind := 0, seq := 0, eos := true, valid := valid, lanes := [va, 0, 64, 0x201] }

/-- The four words of the roles. -/
def roleWords : List W32 := [eword (.mrow 0), eword .mload, eword (.mswap false), eword (.mdrain true 0)]

/-- A tile that loads a column from an address. -/
def loadingTile (va : W32) : State :=
  tile roleWords { shadowState := .loading, shadow := { ops := (loadTok va 0xF).lanes, form := 2 } } []

/-- MatrixTilesLoadSwapAndDrain: a tile that may act; a load token that is well formed and one that is not; each state of the shadow
plane; a pass swap that waits; a row with a plane of its form and of an other; a drain token and none, an automatic drain that is due;
the two bundles of a row; a load that arrives and one that faults; an accumulator to refresh. -/
theorem witness_tiles :
    let s (t : Tile) (ks : List (Nat × Token)) : State := tile roleWords t ks
    let cx : Ctx := { aCtx 0x60402000 roleWords [] [4, 1] with kind := 2 }
    let row : Token := tok 0 1 false
    siteOk 17 = true ∧ tileReady (s {} []) 17 = some cx ∧ roleToken (s {} [(1, loadTok 0x1000 0xF)]) 17 cx 1 = some [loadTok 0x1000 0xF] ∧
      loadTokenOk (loadTok 0x1000 0xF) = true ∧ loadTokenOk (loadTok 0x1000 0x7) = false ∧ roleToken (s {} []) 17 cx 1 = none ∧
      (roleToken (s { shadowState := .ready } [(2, row)]) 17 cx 2).isSome = true ∧ (siteOf (s { swapPending := true, shadowState := .ready } []) 17).tile.swapPending = true ∧
      (let r := s { active := some { form := 4 } } [(0, row)]
       roleToken r 17 cx 0 = some [row] ∧ row.valid ≠ 0 ∧ rowsOpen r 17 cx = true ∧ canEmit r 17 (forwardRow cx [row]) = true ∧
         (siteOf r 17).tile.active = some { form := 4 } ∧ (siteOf r 17).cs.length = 4 ∧ tileC r 17 0 + 1 < tileRows cx ∧ pairForm 0 = 4 ∧ pairForm 1 ≠ 4) ∧
      drainToken (s {} [(3, row)]) 17 cx = true ∧ drainToken (s {} []) 17 cx = false ∧ roleToken (s { drainDue := true } []) 17 cx 3 = none ∧
      roleOp cx 3 = some (.mdrain true 0) ∧ keysFrom 0 (siteOf (s { drain := some (0, 0), rows := [(0, [1])] } []) 17).tile.rows = true ∧
      canEmit (s { drain := some (3, 1) } []) 17 (selWrites cx 1 (laneInv 0 true)) = true ∧ dieGone user (siteDie 17) = false ∧
      (match runLoad (loadingTile 0x1000) 17 with | .error (u, c, f) => (sendRecord u (nodeRecord 0 cx.owner [] c f)).isSome | .ok _ => false) = true ∧
      okWith (runLoad (paged (loadingTile 0x1000) (0x1F + 2 ^ 54 * 2)) 17) (fun _ => true) = true ∧
      (siteOf (s {} []) 17).tile.lastRefresh + 4000 ≤ ({ s {} [] with ticks := 4000 } : State).ticks := by decide +kernel

/-- A region of site 17 alone with a STAT. -/
def statting (root : Bool) (n : Site) : State :=
  let cx : Ctx := aCtx 0xE0000000 [eword (.stat root)] [] [0x1000, 0]
  { focused (paged user 0x1F) 15 1 cx n with placements := [{ placed with origin := 14, cols := 2, active := true }] }

/-- A statistics token of a tile. -/
def statTok : Token := { kind := 4, seq := 3, eos := true, valid := 0x7F, lanes := [1, 2, 3, 4, 5, 6, 7] }

/-- StatisticsFlowToTheRoot: a converter whose tile has ended beside a root; an adder below a root; a root with an aligned record and with a
misaligned one. -/
theorem witness_statistics :
    let ended : Site := { aSite with tiles := [statTok, tok 4 3 true] }
    let two (root : Bool) (n : Site) : State :=
      let u := statting root n
      { u with sites := (14, { ended with on := true, ctxs := Vector.replicate 4 (some (aCtx 0 [] [] [])) }) :: u.sites }
    let cx : Ctx := aCtx 0xE0000000 [eword (.stat false)] [] []
    let sub : State := { two true aSite with sites := (14, { aSite with on := true, adder := [1], ctxs := Vector.replicate 4 (some cx) }) :: (two true aSite).sites.drop 1 }
    let root := statting true { aSite with adder := [1] }
    let odd : State := { root with sites := root.sites.map fun e => (e.1, { e.2 with ctxs := Vector.replicate 4 (some (aCtx 0xE0000000 [eword (.stat true)] [] [0x1010, 0])) }) }
    (siteOf (two true aSite) 14).tiles = [statTok, tok 4 3 true] ∧ (siteOf (two true aSite) 14).frozen = false ∧ statSlot (two true aSite) 14 = true ∧
      hasWith (activeAt (two true aSite) 14) (fun p => (statRoot (two true aSite) p).isSome && statTarget (two true aSite) p (((ctxAt (two true aSite) 14 p.ctx).map (·.scope)).getD 0) 3 == some 15) = true ∧
      (siteOf (two true aSite) 15).statDead = false ∧
      (activeCtx sub 14 = some cx ∧ statOf cx = some false ∧ statSlot sub 14 = true ∧
        hasWith (activeAt sub 14) (fun p => statTarget sub p cx.scope (innerLevel cx.scope - 1) == some 15) = true) ∧
      (hasWith (activeCtx root 15) (fun k => statOf k == some true) = true ∧ (siteOf root 15).adder = [1] ∧ findSlice root 0x10000 = some aSlice ∧ (siteOf root 15).statDead = false ∧
        backingHeld root (whoSlice root aSlice (siteDie 15)) none 0x1000 64 = false ∧
        okWith (engAtomic root (whoSlice root aSlice (siteDie 15)) { acc := .engWrite, hidden := true, fmt := plainFmt } 0x1000 64 (recordPlus [1]))
          (fun q => !q.2.2) = true) ∧
      (hasWith (activeCtx odd 15) (fun k => decide (((k.ks[0]?).getD 0).toNat % 64 ≠ 0)) = true ∧
        (sendRecord odd (nodeRecord 1 0x10000 [0x1010, 0] 0 { cause := 0x03, addr := 0x1010 })).isSome = true) := by decide +kernel

/-- TokensMove: a switch input with a token, its outputs free and one full, a merge of one input; a token in flight to a track with room
and to a full one, over a die edge, and over a selvage. -/
theorem witness_tokens_move :
    let sw : BitVec 16 := 0x8000 + 0 * 0x800 + 2 * 0x40
    let cx : Ctx := { aCtx 0xE0000000 [] [] [] with sw := [sw] }
    let s := heads (first cx aSite) (some (tok 0 1 true)) none
    let fly (src : SiteId) (key : Nat) (n : Nat) : State := { user with chans := [(key, { slots := List.replicate n (tok 0 0 true), flight := [(tok 0 1 true, src, false)] })] }
    let edge : SiteId := mkSite 0 0 71
    let over_ : SiteId := mkSite 1 0 0
    mayFire s 0 = true ∧ (activeCtx s 0).isSome = true ∧ (chanOf s (chanKey 0 0 0)).slots = [tok 0 1 true] ∧ outFree s 0 1 0 = true ∧
      mergeInputs cx 2 0 0 = [0] ∧ tblGet (siteOf s 0).swgHold (2 * 8 + 0) = none ∧
      (match outDest s 0 1 0 false with | some (y, q, t) => outFree { s with chans := s.chans ++ [(chanKey y q t, { slots := List.replicate 4 (tok 0 0 true) })] } 0 1 0 | none => true) = false ∧
      (siteOk 0 = true ∧ dieGone user (siteDie 0) = false ∧ (chanOf (fly 0 (chanKey 0 4 0) 3) (chanKey 0 4 0)).slots.length < 4 ∧
        4 ≤ (chanOf (fly 0 (chanKey 0 4 0) 4) (chanKey 0 4 0)).slots.length ∧ portAt (fly 0 (chanKey 0 4 0) 3) false 0 4 0 = none) ∧
      (neighbour edge 1 = some over_ ∧ siteDie edge ≠ siteDie over_ ∧ domainOf user edge = domainOf user over_ ∧ slotNow user (siteDie edge) 4 0 = true ∧
        slotNow user (siteDie edge) 4 1 = false ∧ portAt (fly edge (chanKey over_ 3 0) 0) false over_ 3 0 = none) ∧
      (let d : State := { user with sites := [(1, { aSite with domain := 3 })] }
       domainOf d 1 ≠ domainOf d 0) := by decide +kernel

/-- An entry port of site 20. -/
def inPort : Port := { site := 20, port := 0, exit := false, track := 0, width := 0 }

/-- The active placement of pattern 5 with an entry port. -/
def running : Placement := { placed with active := true, ports := [inPort] }

/-- A state with placements, site 20 with contexts, and its die's cycle count. -/
def region (ps : List Placement) (n : Site) (cyc : Nat) : State :=
  { modDie user 0 (fun d => { d with cyc := cyc }) with placements := ps, sites := [(20, n)] }

/-- A site that is on, with one context at every number. -/
def onSite (cx : Ctx) : Site := { aSite with on := true, ctxs := Vector.replicate 4 (some cx) }

/-- A token in the entry queue of a context. -/
def queuedTok (s : State) (ctx : BitVec 2) : State := { s with chans := (entryKey ctx 0 (20, 0), { slots := [tok 0 1 true] }) :: s.chans }

/-- RegionsReportAndComplete: a region that is quiet and one that is not; an entry port whose source has ended, one that has closed, one
that is an exit; a region that may complete, and each thing that bars it. -/
theorem witness_regions_report :
    let s (p : Placement) : State := region [p] (onSite (aCtx 0 [] [] [])) 0
    let whole : Placement := { running with quiet := true, closed := [0] }
    activeRegion (s running) 20 = some running ∧ regionQuiet (s running) running = true ∧
      regionQuiet (region [running] { onSite (aCtx 0 [] [] []) with arcs := Vector.replicate 6 (some anInv) } 0) running = false ∧
      running.ports[(0 : BitVec 8).toNat]? = some inPort ∧ upstreamClosed (s running) running inPort = false ∧ queueCloses (s running) 20 0 = false ∧
      ({ running with sources := [0] } : Placement).sources.contains 0 = true ∧ reportedQuiet (s whole) whole = true ∧ entriesClosed whole = true ∧
      gensClosed (s whole) whole = true ∧ queuesEmpty (s whole) whole = true ∧ reportedQuiet (s running) running = false ∧ entriesClosed running = false ∧
      queuesEmpty (queuedTok (s whole) 0) whole = false := by decide +kernel

/-- FaultedRegionsFreeze: a site that may fault, with a fault and without; a region with a fault 64 cycles ago and less, one without a
fault that has not moved for 65,536 cycles, that is quiet and that is not. -/
theorem witness_faulted_regions :
    let s (p : Placement) (c : Nat) : State := region [p] (onSite (aCtx 0 [] [] [])) c
    let bad : Placement := { running with faultSite := some 20 }
    let stuck : State := region [running] { onSite (aCtx 0 [] [] []) with arcs := Vector.replicate 6 (some anInv) } 65536
    siteOk 20 = true ∧ (siteOf (s running 0) 20).on = true ∧ (siteOf (s running 0) 20).frozen = false ∧ (siteOf (s running 0) 20).fault = 0 ∧
      activeRegion (s bad 64) 20 = some bad ∧ bad.lastMove + 64 ≤ (dieOf (s bad 64) 0).cyc ∧ (dieOf (s bad 63) 0).cyc < bad.lastMove + 64 ∧
      (∀ q ∈ (s bad 64).placements, q = bad) ∧ findSlice (s bad 64) bad.owner = some aSlice ∧ aSlice.state ≠ .retired ∧
      regionQuiet stuck running = false ∧ memoryBusy stuck running = false ∧ running.lastMove + 65536 ≤ (dieOf stuck 0).cyc ∧
      regionQuiet (s running 65536) running = true ∧ (dieOf (s running 65535) 0).cyc < running.lastMove + 65536 := by decide +kernel

/-- ContextsChange, wavefronts: a port that may inject and one whose queue holds a bundle; a site with a configuration token on every
input, on none and beside a lone operand. -/
theorem witness_wavefronts :
    let armed : Placement := { running with armed := some 1, closed := [0] }
    let next_ : Placement := { placed with ctx := 1 }
    let cx : Ctx := aCtx 0 [0x0281A002] [] []
    let s (a b : Option Token) : State := { region [armed, next_] (onSite cx) 0 with
      chans := (a.toList.map fun k => (chanKey 20 0 0, { slots := [k] })) ++ b.toList.map fun k => (chanKey 20 1 0, { slots := [k] }) }
    let two : Ctx := aCtx 0 [eword (.viadd 1 0 5 false false)] [] []
    let t (a b : Option Token) : State := { s a b with sites := [(20, onSite two)] }
    armed.injected = [] ∧ (∀ c ∈ entryQueues (s none none) armed inPort, c = []) ∧ (entryQueues (queuedTok (s none none) 0) armed inPort ≠ [[]]) ∧
      activeAt (s none none) 20 = some armed ∧ placementAt (s none none) 20 1 = some next_ ∧ siteKind 20 = 0 ∧ (siteOf (s none none) 20).act ≠ 1 ∧
      ctxAt (s none none) 20 (siteOf (s none none) 20).act = some cx ∧ loopMerge cx = none ∧ inputsOf cx = [(0, 0)] ∧ mergeOf cx = none ∧ cx.kind ≠ 2 ∧
      headTok (s (some (tok 3 0 true)) none) 20 0 0 = some (tok 3 0 true) ∧ headTok (s none none) 20 0 0 = none ∧
      (∀ p ∈ outTracks cx, nodeOutFree (s none none) 20 p = true) ∧ inputsOf two = [(0, 0), (1, 0)] ∧
      (headTok (t (some (tok 3 0 true)) (some (tok 0 0 true))) 20 0 0).map (·.kind) = some 3 ∧
      (headTok (t (some (tok 3 0 true)) (some (tok 0 0 true))) 20 1 0).map (·.kind) = some 0 := by decide +kernel

/-- ContextsChange, the block scheduler: a pattern with nothing waiting beside one with a shuttle, before and after its quantum; a stopped
and quiet one that is chosen again, and one that another replaces. -/
theorem witness_block_scheduler :
    let other : Placement := { placed with ctx := 1, catid := 6, ports := [inPort] }
    let s (p : Placement) (c : Nat) : State := queuedTok (region [p, other] (onSite (aCtx 0 [] [] [])) c) 1
    let idle : Placement := { running with stopped := true, quiet := true }
    schedulerFree (s running 0) running = true ∧ schedulerFree (s running 0) { running with draining := true } = false ∧ waiting (s running 0) running = 0 ∧
      boundHere (s running 0) running = [other] ∧ 0 < waiting (queuedTok (s running 0) 0) running ∧ running.activeSince + 4096 ≤ (dieOf (s running 4096) 0).cyc ∧
      (dieOf (s running 4095) 0).cyc < running.activeSince + 4096 ∧ bestPattern (s running 0) [other] = some other ∧
      reportedQuiet (s idle 0) idle = true ∧ placementAt (s idle 0) 20 1 = some other ∧ bestPattern (s idle 0) (boundHere (s idle 0) other) = some other ∧
      reportedQuiet (s running 0) running = false ∧
      (let again : State := queuedTok { s idle 0 with chans := [] } 0
       reportedQuiet again idle = true ∧ bestPattern again (boundHere again idle) = some idle) := by decide +kernel

/-- Two slices of one cohort with a record, the second of a higher class and an earlier deadline, with a pattern that has a shuttle. -/
def rivals (p : Placement) : State :=
  let b : Slice := { aSlice with id := 0x10001, slot := 1, deadline := 1, cls := 5 }
  let other : Placement := { placed with ctx := 1, catid := 6, owner := 0x10001, ports := [inPort] }
  let s := queuedTok (region [p, other] (onSite (aCtx 0 [] [] [])) 0) 1
  { modDie s 0 (fun d => { d with docent := { d.docent with cdir := 0x20004 } }) with slices := [aSlice, b] }

/-- RegionsDrainSaveAndRestore, pre-emption: a slice that pre-empts and one that does not, in either mode; a marked region at its boundary and
before it; markers on every input of a processing element and of a tile, on one and on none. -/
theorem witness_preemption :
    let marked : Placement := { running with preempt := some 0x10001 }
    let s := rivals running
    let bound : Placement := { marked with bport := 0, bcount := 2, admitted := [(0, 4)] }
    let pe (k : Option Token) : State := heads (first (aCtx 0 [0] [] []) aSite) k none
    let mt (ks : List (Nat × Token)) : State := tile [eword (.mrow 0), eword .mload, 0, 0] {} ks
    let cx : Ctx := { aCtx 0x60402000 [eword (.mrow 0), eword .mload, 0, 0] [] [4, 1] with kind := 2 }
    hasWith (findSlice s 0x10001) (fun l => preempts s running l && !preempts s running aSlice && earlier l.deadline aSlice.deadline && (l.cls == 5)) = true ∧
      (cohortAt s (dieOfCore aSlice.core) aSlice.cohort).isSome = true ∧ (dieOf s 0).docent.split = false ∧ running.preempt = none ∧
      marked.bport = 0xFF ∧ waiting (rivals marked) marked = 0 ∧ tblGet bound.admitted 0 = some 4 ∧ (4 : Nat) % bound.bcount = 0 ∧
      (tblGet ({ bound with admitted := [(0, 3)] } : Placement).admitted 0 = some 3 ∧ (3 : Nat) % bound.bcount ≠ 0) ∧
      (entryPorts marked).length = 1 ∧ inputsOf (aCtx 0 [0] [] []) = [(0, 0)] ∧
      markerAt (pe (some (tok 2 0 true))) 0 0 0 = true ∧ markerAt (pe none) 0 0 0 = false ∧ mayFire (pe none) 0 = true ∧ (decodeE 0).toOption.isSome = true ∧
      siteKind 17 = 2 ∧ inputsOf cx = [(0, 0), (1, 0)] ∧ markerAt (mt [(0, tok 2 0 true)]) 17 1 0 = false ∧
      (∀ i ∈ inputsOf cx, markerAt (mt [(0, tok 2 0 true), (1, tok 2 0 true)]) 17 i.1 i.2 = true) ∧
      (∀ p ∈ outTracks cx, nodeOutFree (mt []) 17 p = true) := by decide +kernel

/-- RegionsDrainSaveAndRestore, saving: a drained region with a taker and without; a slice that is swapped out and one that is not; a saved
region whose place is free and one whose place is taken. -/
theorem witness_region_saves :
    let done : Placement := { running with preempt := some 0x10001, stopped := true, draining := true, quiet := true }
    let none_ : Placement := { done with preempt := some 0x999 }
    let alone : State := { rivals none_ with slices := [aSlice] }
    let out : State := { modDie (region [running] (onSite (aCtx 0 [] [] [])) 0) 0 (fun d => { d with docent := { d.docent with busy := true, cmd := 1, cohort := 1 } }) with
      slices := [{ aSlice with state := .swapped }] }
    let kept : Placement := { placed with saved := true }
    let l : Slice := { aSlice with saved := [(20, 0, 0, 96)] }
    let back (ps : List Placement) : State :=
      let s : State := { region ps aSite 0 with slices := [l] }
      withMem s (((imagePa s l).getD 0) + 64) (leBytes 2 5)
    drained (rivals done) done = true ∧ hasWith (takerOf (rivals done) done) (fun k => (k.ctx == 1) && !k.saved) = true ∧
      takerOf alone none_ = none ∧ drained alone none_ = true ∧ curatorSlot alone none_ = true ∧ curatorSlot (rivals done) done = true ∧ drained (rivals running) running = false ∧
      swappingOut out { aSlice with state := .swapped } = true ∧ swappingOut user aSlice = false ∧
      (let q (ps : List Placement) := loadBytes (back ps) (dieOfCore l.core) (((imagePa (back ps) l).getD 0) + 0) 96
       hasWith (reloadContext (q [kept]).1 l 20 0 (q [kept]).2) (fun r => placeFree r.1 r.2.sites) = true ∧
         hasWith (reloadContext (q [kept, { running with ctx := 1 }]).1 l 20 0 (q [kept, { running with ctx := 1 }]).2)
           (fun r => !placeFree r.1 r.2.sites) = true) := by decide +kernel

/-- Core 0 with a change, running in slice mode. -/
def coreWith (f : Core → Core) : State := modCore user f

/-- AsynchronousCausesInOrder: a boundary and none; each cause alone; a deferred record of the running slice; a supervisor trap; an engine's
record with room in the list and a full list, for a slice and for none. -/
theorem witness_async_causes :
    let due : Core := coreOf (coreWith fun c => { c with deferred := [aDefer 1] }) 0
    let n : NodePend := { site := 20, catid := 5, kind := 1, slice := 0x10000 }
    let held (k : BitVec 32) (s : State) : State := modEngine s 17 fun e => { e with held := some (aDefer k) }
    let trap : SupTrap := { cause := 5, addr := 0, slice := 0x10000, inner := 0 }
    atBoundaryOf (coreOf user 0) = true ∧ atBoundaryOf (coreOf (coreWith fun c => { c with wait := some { arrived := true } }) 0) = false ∧
      (coreOf (coreWith fun c => { c with pendLost := [1] }) 0).pendLost = [1] ∧ (coreOf (coreWith fun c => { c with pendLink := [(1, 3)] }) 0).pendLink = [(1, 3)] ∧
      (coreOf (coreWith fun c => { c with pendNode := [n] }) 0).pendNode = [n] ∧ dueRecord due = some (aDefer 1) ∧ dueRecord (coreOf user 0) = none ∧
      (let b := coreOf (coreWith fun c => { c with pendBudget := true }) 0
       b.pendBudget = true ∧ b.sup = false ∧ b.running = true) ∧ (coreOf user 0).pendBudget = false ∧
      (coreOf (coreWith fun c => { c with supTraps := [trap] }) 0).supTraps = [trap] ∧
      (engineOf (held 1 user) 17).held = some (aDefer 1) ∧ findSlice (held 1 user) (aDefer 1).slice = some aSlice ∧ (coreOf (held 1 user) 0).deferred.length < 16 ∧
      16 ≤ (coreOf (held 1 (coreWith fun c => { c with deferred := List.replicate 16 (aDefer 1) })) 0).deferred.length ∧
      findSlice (held 9 user) (aDefer 9).slice = none ∧
      (coreOf (held 9 user) (superCore (held 9 user) 0 (dieOfCore (BitVec.ofNat 6 ((aDefer 9).slice.toNat / 32))))).supTraps.length < 16 := by decide +kernel

/-- A cohort directory of 16 records, record 1 with a STATE, a command in progress, and slices. -/
def cohort (st cmd : Nat) (busy : Bool) (ls : List Slice) : State :=
  { withMem (modDie super 0 fun d => { d with docent := { d.docent with cdir := 0x20004, cohort := 1, cmd := BitVec.ofNat 2 cmd, busy := busy } })
      0x20028 (leBytes 8 (1 + st * 2 ^ 16)) with slices := ls }

/-- CohortsSwapOutAndIn: no command, a cohort without a record, one without members, with a resident member whose firing may be taken and may
not, one that swaps out with a region left and without, one that is out; a return that is possible and one that is not, an eligible
cohort and none. -/
theorem witness_cohorts :
    let gone : Slice := { aSlice with state := .swapped, actors := [anActor] }
    let out := cohort 2 2 true [gone]
    let full : State := { out with slices := [gone, { aSlice with id := 0x10020, cohort := 2 }] }
    let elig : State := withMem (cohort 2 0 false [gone]) (0x50000 + 0x2E0) [1]
    let at_ := withMem elig 0x20020 (leBytes 8 0x50000)
    (dieOf (cohort 0 1 false []) 0).docent.busy = false ∧ cohortAt (modDie user 0 fun d => { d with docent := { d.docent with busy := true, cmd := 1 } }) 0 0 = none ∧
      (cohortAt (cohort 0 1 true []) 0 1).isSome = true ∧ cohortState (cohort 0 1 true []) 0 1 = 0 ∧ members (cohort 0 1 true []) 1 = [] ∧
      members (cohort 0 1 true [aSlice]) 1 = [aSlice] ∧ mayTakeFiring (cohort 0 1 true [aSlice]) aSlice = true ∧
      mayTakeFiring (modCore (cohort 0 1 true [aSlice]) fun c => { c with slice := some 0x10000 }) aSlice = false ∧
      cohortState (cohort 1 1 true [gone]) 0 1 = 1 ∧ memberOf 1 gone = true ∧
      ({ cohort 1 1 true [gone] with placements := [running] } : State).placements.any (fun p => p.owner == gone.id && p.active) = true ∧
      cohortState (cohort 2 1 true [gone]) 0 1 = 2 ∧ mayReturn out 1 = true ∧ mayReturn full 1 = false ∧
      eligible user 0 1 = false ∧ eligible at_ 0 1 = true := by decide +kernel

/-- UnitsSleepAndWake: each state of a pseudo-channel, idle and not; a site idle and not, one that may be gated and one that may not. -/
theorem witness_units_sleep :
    let pc (v : PcState) (t : Nat) : State := { modDie user 0 (fun d => { d with pcs := [(3, v)] }) with ticks := t }
    let late : State := modDie user 0 fun d => { d with cyc := 2048 }
    channelState (pc .active 0) 0 3 = .active ∧ channelState (pc .powerDown 6400) 0 3 = .powerDown ∧ channelState (pc .selfRefresh 0) 0 3 = .selfRefresh ∧
      lastRequest (pc .active 21) 0 3 + 21 ≤ (pc .active 21).ticks ∧ lastRequest (pc .powerDown 6400) 0 3 + 6400 ≤ (pc .powerDown 6400).ticks ∧
      (siteOf late 20).lastFire + 2048 ≤ (dieOf late 0).cyc ∧ ¬ (siteOf user 20).lastFire + 2048 ≤ (dieOf user 0).cyc ∧
      siteKind 20 ≠ 1 ∧ (siteOf user 20).tile.rows = [] ∧ siteBusy user 20 = false ∧ siteKind 16 = 1 ∧
      (∃ i : Fin 4, (siteOf (region [] (onSite (aCtx 0 [] [] [])) 0) 20).ctxs[i].isSome) := by
  refine ⟨?_, ?_, ?_, ?_, ?_, ?_, ?_, ?_, ?_, ?_, ?_, 0, ?_⟩ <;> decide +kernel

/-- TheOutsideReachesTheModule: HDM and an address that is none, a poisoned line, a line no core owns; the addresses of registers. -/
theorem witness_outside :
    hdmDie user 0x1000 = some 0 ∧ hdmDie user 0xE000000000000 = none ∧ errorDie user 0x1000 = some 0 ∧ errorDie user 0xFFFFFFFFFFFFF = none ∧
      ({ user with poison := [0x40] } : State).poison.contains (0x1000 / 64) = true ∧ (∀ e ∈ user.cores, ∀ x ∈ e.2.l1, x.line = 0x40 → x.own = false) ∧
      (300 : Nat) % 1024 = 300 ∧ paKind 0xD000000000000 = .device ∧ paKind 0x30000 ≠ .device := by decide +kernel

/-- LinksAndLostDies: a request that is answered in time and one that is not, a wake that starts, goes on and fails; a die that is there, a
line a core of it owns for another die, a region with a site there. -/
theorem witness_links :
    let s (l : Link) (t : Nat) : State := { modDie user 0 (fun d => { d with links := [(1, l)] }) with ticks := t }
    let own : State := modCore user fun c => { c with l1 := [{ line := 0x1800000000 / 64, data := List.replicate 64 0, own := true }] }
    (edgeOf user 0 1).request = none ∧ (edgeOf (s { request := some 0 } 2000) 0 1).request = some 0 ∧ (0 : Nat) + 2000 ≤ (s {} 2000).ticks ∧
      (edgeOf user 0 1).waking = false ∧ (edgeOf (s { waking := true, attempts := 3, cores := [0, 5] } 800) 0 1).attempts = 3 ∧
      (s { waking := true, attempts := 3, cores := [0, 5] } 800).ticks = 800 ∧ ([0, 5] : List CoreId).Nodup ∧
      (edgeOf (s { waking := true, attempts := 1 } 0) 0 1).since + 800 > (s {} 0).ticks ∧ (dieOf user 0).lost = false ∧
      (∃ x ∈ (coreOf own 0).l1, x.own = true ∧ homeDie super 0 (64 * x.line) ≠ 0) ∧ siteDie 20 = 0 ∧ running.sites = [20] ∧ dieOfCore 16 = 1 := by
  decide +kernel

/-- PowerAndParking: maximum stretch above the ceiling and below; since 500 ticks and less; each state of a power transition; a die that may be
parked and one that may not. -/
theorem witness_power :
    let d (f : Die → Die) : State := modDie super 0 f
    (15 : BitVec 4) = 15 ∧ super.power.ceil.toNat < (1023 : BitVec 10).toNat ∧ ¬ super.power.ceil.toNat < (10 : BitVec 10).toNat ∧
      super.power.overSince = none ∧ ({ super with power := { overSince := some 0 }, ticks := 500 } : State).power.overSince = some 0 ∧
      mayPark super 0 = true ∧ mayPark user 0 = false ∧ (dieOf super 0).psBusy = false ∧ (dieOf super 0).psCurrent = 0 ∧
      (dieOf (d fun k => { k with psBusy := true, psTarget := 2 }) 0).psTarget = 2 ∧
      (let p := d fun k => { k with psBusy := true, psTarget := 5 }
       (dieOf p 0).psTarget = 5 ∧ (dieOf p 0).psHeld = none ∧ keysFrom 0 p.sites = true ∧ Memory.wf p.mem = true ∧ keysFrom 0 p.chans = true) ∧
      (dieOf (d fun k => { k with psBusy := true, psCurrent := 5, psTarget := 4 }) 0).psCurrent = 5 ∧
      (dieOf (d fun k => { k with psBusy := true, psCurrent := 5, psTarget := 3 }) 0).psTarget ≠ 4 := by decide +kernel

/-- VerifiedImagesStart, for what rests on no digest: an image without its form and one with it, a length and an address that are none and
ones that are; ResetsKeepWhatTheyKeep: a state that meets the invariant, an image and none. What a digest and a signature come to is a
constant of Config without a value. -/
theorem witness_boot :
    let img : List Byte := leBytes 4 0x4F414446 ++ leBytes 4 0x600 ++ List.replicate 0x5F8 0
    let word (o : Nat) : Nat := leNat ((img.drop o).take 4)
    (word 0 = 0x4F414446 ∧ word 4 = 0x600) ∧ leNat (([] : List Byte).take 4) ≠ 0x4F414446 ∧ super.boot.status ≠ 3 ∧ super.boot.imageLen.toNat = 0 ∧
      (let b : State := { super with boot := { imageLen := 0x600, imageHpa := 0x1000 } }
       b.boot.imageLen.toNat ≠ 0 ∧ b.boot.imageLen.toNat ≤ 0x4000000 ∧ b.boot.imageHpa.toNat % 4096 = 0) ∧
      ({ super with boot := { status := 3 } } : State).boot.status = 3 ∧ Memory.wf super.mem = true ∧ keysFrom 0 super.chans = true ∧
      img ≠ [] ∧ super.boot.kept = [] := by decide +kernel

/-- A KV engine's or copy engine's queue. -/
def engineWith (e : EngineId) (k : Engine) : State := modEngine (paged user 0x1F) e fun _ => k

/-- CommandsEndWithTheirWord: an engine that waits, one with nothing, one with a copy that has ended well and one that faults; a gallery engine
with a lock and one with a command that has no index left; a completion word to write; prefetches that are over and that are not. -/
theorem witness_commands_end :
    let copy := { aCmd .copy 0x1000 0x2000 64 0x3000 with order := 1, ptBase := 0x10000 }
    let bad := { aCmd .copy 0x90000000 0x2000 64 0x3000 with order := 1, ptBase := 0x10000 }
    let g := { aCmd .scatterWrite 0x2000 0x3000 4 0 with order := 1, progress := 4 }
    let s := engineWith 17 { queue := [copy] }
    let pref (page : Nat) : Prefetch := { eng := 21, cmd := { aCmd .prefUnbound 0x1000 4 0 1 with ptBase := 0x10000 }, page := page }
    let p : State := { paged user 0x1F with prefetches := [pref 0x1000] }
    (engineOf (engineWith 17 { held := some (aDefer 1) }) 17).held.isSome = true ∧ dieGone s 0 = false ∧ (engineOf s 17).queue = [copy] ∧
      (engineOf s 17).held = none ∧ (engineOf user 17).queue = [] ∧
      (∀ q ∈ cmdDest s 17 copy, backingHeld s (whoCmd copy 0) (some copy.order) q.1 q.2 = false) ∧
      (runCmd s copy 0).flt = none ∧ cwordOf copy ≠ 0 ∧
      (runCmd (engineWith 17 { queue := [bad] }) bad 0).flt.isSome = true ∧
      (let o : RowOp := { eng := 16, cmd := g, row := 0, va := 0x4000, pa := 0x40004000 }
       (engineOf (engineWith 16 { rowLocks := [o] }) 16).rowLocks = [o]) ∧
      (g.out = false ∧ g.fault = none ∧ g.rowCount ≤ g.progress ∧ gatherStream user g = none) ∧
      okWith (engAtomic s (whoCmd copy 0) { acc := .atomic, fmt := plainFmt } (cwordOf copy) 8 (fun _ => 5)) (fun q => !q.2.2) = true ∧
      prefetchOver p (pref 0) = true ∧ prefetchOver p (pref 0x1000) = false ∧ (pref 0x1000).cmd.opC.getLsbD 56 = false ∧
      okWith (engRead p (whoCmd (pref 0x1000).cmd 0) { acc := .engRead } 0x1000 64) (fun q => q.2.2.all (fun b => !b) &&
        okWith (residentRange q.1 (whoCmd (pref 0x1000).cmd 0) 0x1000 (64 + prefetchBytes p (pref 0x1000))) fun _ => true) = true := by
  decide +kernel

/-- RowsAreLockedAndForwarded: an operation that reads, one that locks, one that finds a marker; none that may be granted; one to be forwarded
with its marker and without. -/
theorem witness_rows :
    let o (op : EngOp) : RowOp := { eng := 16, cmd := aCmd op 0x2000 0x3000 4 0, row := 0, va := 0x4000, pa := 0x40004000 }
    let m : Marker := { old := 0x40004000, newVa := 0x8000, newPa := 0x40008000, table := 0x2000, asid := 0 }
    let k : Engine := { rowWait := [o .scatterWrite], markers := [m] }
    grantable { rowWait := [o .gatherMem] } = some (o .gatherMem) ∧ (o .gatherMem).reads = true ∧ (o .scatterWrite).reads = false ∧
      grantable k = some (o .scatterWrite) ∧ m.old = (o .scatterWrite).pa ∧ (o .scatterWrite).cmd.op ≠ .migrate ∧
      grantable { rowWait := [o .scatterWrite], rowLocks := [o .scatterAdd] } = none ∧
      (engineOf (engineWith 16 { forward := [o .scatterAdd], markers := [m] }) 16).forward = [o .scatterAdd] ∧
      k.markers.find? (fun m => m.old == (o .scatterWrite).pa) = some m := by decide +kernel

/-- A stream of engine 0 at port 0 of the region of site 20, with its record. -/
def moving (c : Cmd) (port : Port) (closed : List Nat) : State :=
  let x : Stream := { eng := 0, cmd := c, origin := 20, ctx := 0, port := 0 }
  { region [{ running with ports := [port], closed := closed }] (onSite (aCtx 0 [] [] [])) 0 with
    streams := [x], mem := (paged user 0x1F).mem }

/-- The command of a stream record of `aStream`. -/
def streamCmd (kind : Nat) : Cmd :=
  { aCmd .stream 0x2000 20 0 0 with payload := memBytes (aStream kind).mem 0x40002000 64, ptBase := 0x10000, esize := 1, order := 1 }

/-- StreamsMoveBundles: a stream at an entry port with room that has a bundle and one that ends; one at an exit port that is closed, with a
token and without; a score add with a lane that is added and one that faults; a port that is gone. -/
theorem witness_streams :
    let out : Port := { inPort with exit := true }
    let read := moving (streamCmd 0) inPort []
    let write := moving (streamCmd 1) out [0]
    let withTok : State := { write with chans := [(chanKey 20 5 0, { slots := [tok 0 1 true] })] }
    let score : State := { moving (streamCmd 4) out [] with streams := [{ eng := 0, cmd := streamCmd 4, origin := 20, ctx := 0, port := 0, started := true, lanes := [(0, 5)] }] }
    let x (s : State) : Stream := (s.streams.head?).getD { eng := 0, cmd := streamCmd 0, origin := 0, ctx := 0, port := 0 }
    let scored : State := { score with streams := [{ x score with cmd := { streamCmd 4 with payload := leBytes 8 (0x2000 + 4 * 2 ^ 56) ++ (streamCmd 4).payload.drop 8 } }], mem := aCache.mem }
    hasWith (streamPort read (x read)) (fun q => q.2 == inPort) = true ∧
      hasWith (nextBundle read (x read)) (fun m => m.flt.isNone && (m.tokens.length == 1) && decide (chanOf m.s (entryKey 0 0 (20, 0)) = chanOf read (entryKey 0 0 (20, 0)))) = true ∧
      hasWith (nextBundle read { x read with done := 16, started := true }) (fun m => m.fin && m.flt.isNone && (m.t.cmd.order == 1)) = true ∧
      hasWith (streamPort write (x write)) (fun q => q.2.exit && q.1.active && q.1.closed.contains 0) = true ∧ (chanOf write (chanKey 20 5 0)).slots = [] ∧
      (x write).cmd.kind = 1 ∧ (x score).cmd.kind = 4 ∧ (x score).started = true ∧
      (∀ p ∈ (x write).cmd.visited, backingHeld withTok (whoEngine (x write).cmd 0) (some 1) p.1 p.2 = false) ∧
      (let m := writeBundle (noteMove (takeExit withTok out) 20) (x write) [tok 0 1 true]
       m.flt = none ∧ m.fin = false) ∧
      okWith (scoreLane score { x score with cmd := { streamCmd 4 with payload := leBytes 8 (0x90000000 + 4 * 2 ^ 56) ++ (streamCmd 4).payload.drop 8 } } 0 5) (fun _ => true) = false ∧ (engineOf score 0).held = none ∧ (x score).stats = [] ∧
      okWith (scoreLane scored (x scored) 0 5) (fun _ => true) = true ∧ streamPort { read with placements := [] } (x read) = none := by decide +kernel

/-- AStepRunsTheDecodedWord: a core's turn at a word, at one that decodes to nothing and at an address it may not fetch; a turn of a stage,
of a switch box and of a step of the hardware. -/
theorem witness_turns :
    let s (ws : List Nat) : State := withCode super ws
    let cx : Ctx := { aCtx 0 [0x0281A002] [] [] with sw := [0x1040] }
    dieGone (s [1]) (dieOfCore 0) = false ∧ (curCore (s [1])).running = true ∧ (curCore (s [1])).sx = none ∧ (boundaryTrap (s [1])).isNone = true ∧
      (curCore (s [1])).idle = false ∧ okWith (nextWord (chargeTurn (s [0x10060417]))) (fun q => (decodeS q.2).toOption.isSome) = true ∧
      okWith (nextWord (chargeTurn (s [0]))) (fun q => (decodeS q.2).toOption.isNone) = true ∧
      okWith (nextWord (chargeTurn (modCore (s []) fun c => { c with regs := { c.regs with pc := 0x4000 } }))) (fun _ => true) = false ∧
      activeCtx (first cx aSite) 0 = some cx ∧ (decodeE ((cx.ewords[(1 : BitVec 3).toNat - 1]?).getD 0).toNat).toOption.isSome = true ∧
      (decodeSw ((cx.sw[(0 : BitVec 5).toNat]?).getD 0).toNat).toOption.isSome = true ∧
      goes (step { user with agenda := [.event .unmetClear] }) = true := by decide +kernel

/-- EncodedInstructionsDecode, DecodedWordsEncodeBack, EveryStepKeepsTheInvariant and NoInstructionStops: an instruction of each kind that
encodes; words that decode; a state that meets the invariant and steps; a focus on a site. -/
theorem witness_encodings_and_invariant :
    (Instr.add 3 1 2 true true true).wellFormed = true ∧ encodeS (.add 3 1 2 true true true) = some 0x10060417 ∧ (encodeE (.vnop 1 2)).isSome = true ∧
      (encodeSw (.swp 1 2 0)).isSome = true ∧ (decodeS 0x10060417).toOption.isSome = true ∧ (0x10060417 : Nat) < 2 ^ 32 ∧
      (Memory.wf user.mem = true ∧ keysFrom 0 user.chans = true) ∧ goes (step { user with agenda := [.event .unmetClear] }) = true ∧ siteOk user.focus = true := by
  decide +kernel

/-! ### Further witnesses, for single clauses -/

/-- BranchesJumpsAndRepeats: the word after REP is fetched without waiting for the walker, and one of a page no TLB holds waits. -/
theorem witness_repeat_fetches :
    (let s := withCode super [0x6A102100, 0x10060417]
     fetchWaits s (pcOf s + 4).toNat = false) ∧
      (let s := modDie (modCore (paged super 7) fun c => { c with regs := { c.regs with pc := 0x1234 } }) 0 fun d =>
         { d with walks := [{ core := 5, asid := 0, va := 0x1000, write := false, dom := 0 }] }
       fetchWaits s (pcOf s).toNat = true) := by decide +kernel

/-- TranslationsAndLinesMove and TlbiAndIdle: a walk that joins no other, one in the list that has its turn, and one past its domain's
places; nothing translated that is still to perform. -/
theorem witness_walks :
    let k (va : Nat) (dom : BitVec 4) : Walk := { core := 0, asid := 0, va := va, write := false, dom := dom }
    let m (ws : List Walk) : State := modDie (paged super 7) 0 fun d => { d with walks := ws }
    let first : State := m [k 0x1234 0]
    let late : State := m ((List.range 64).map (fun i => k (0x100000 + 4096 * i) 0) ++ [k 0x1234 0])
    (dieOf (m []) 0).walks = [] ∧ dieGone (m []) 0 = false ∧
      ((dieOf first 0).walks.find? fun y => y.of (whoSeq first) 0x1234) = some (k 0x1234 0) ∧ k 0x1234 0 ∈ activeWalks (dieOf first 0) 0 ∧
      k 0x1234 0 ∉ activeWalks (dieOf late 0) 0 ∧ (whoSeq first).asid16 = 0 ∧
      okWith (checkAccess (dropWalk first 0 (k 0x1234 0)) { whoSeq first with checked := false } 0x1234 1 .load false fun _ _ => true)
        (fun q => match q.2 with | .phys _ _ => true | _ => false) = true ∧
      translatedOps super = [] ∧ dieGone (modDie super 0 fun d => { d with parked := true }) 0 = true := by decide +kernel

/-- PrefetchAndFence: a prefetch that goes ahead. -/
theorem witness_prefetch_goes :
    let p := paged user 0x1F
    let ok : Leaf → Nat → Bool := fun l pa => !l.bit 8 &&
      (match paKind pa with | .scratch _ => false | .annex _ => false | .device => false | _ => true)
    okWith (checkAccess p (whoSeq p) 0x1040 1 .load false ok) (fun q => !targetPoisoned q.1 q.2 .load && !targetHeld p q.2 .load) = true := by decide +kernel

/-- BarriersCountArrivals: a gated site, a site of the core's own panel with room at port L; the answer to the fabric form that has come and
one that has not; a word of memory whose generation has changed and one whose has not. -/
theorem witness_barriers_wait :
    let control : Token := { kind := 5, seq := 0, eos := true, valid := 0, lanes := [] }
    let s := with567 user 0 0 0
    let came : State := { s with chans := [(chanKey 0 9 0, { slots := [tok 0 1 true, control] })] }
    let wait (g : BitVec 32) (f : Bool) (u : State) : State := modCore u fun c => { c with wait := some { arrived := true, gen := g, fabric := f } }
    let w := wait 1 false (with567 user (win 0x40) 2 0)
    (siteOf { s with sites := [(0, { aSite with gated := true })] } 0).gated = true ∧ siteOk 0 = true ∧ siteCore 0 = s.cur ∧
      fenceDone (fenceWb s) 6 = true ∧ injFree (fenceWb s) 0 0 = true ∧ controlOut s 0 = none ∧ controlOut came 0 = some 0 ∧
      dropControl (chanOf came (chanKey 0 9 0)).slots = [tok 0 1 true] ∧
      (curCore w).wait = some { arrived := true, gen := 1 } ∧
      okWith (seqAccess w (win 0x40) 8 .atomic false false) (fun q => !targetHeld w q.2 .atomic && !targetPoisoned q.1 q.2 .atomic &&
        decide ((seqAtomic q.1 q.2 8 fun _ => none).2 / 2 ^ 32 ≠ 1)) = true ∧
      okWith (seqAccess w (win 0x40) 8 .atomic false false) (fun q => (seqAtomic q.1 q.2 8 fun _ => none).2 / 2 ^ 32 == 0) = true := by decide +kernel

/-- DoorbellsAdmitRecordsInOrder: a write as far ahead as the ring is long, and one whose index waits already. -/
theorem witness_doorbell_bounds :
    ((2 : BitVec 32) - (notifyOf (notified true) 0 3).last).toNat ≤ 2 ^ (notifyOf (notified true) 0 3).log2.toNat ∧
      (notifyOf (modNotify (notified true) 0 3 fun k => { k with todo := [5] }) 0 3).todo.head? = some 5 := by decide +kernel

/-- SpawnWaitsForItsReleases, ReleasesCountDown: write-backs that have performed and one that has not; a die that can be reached and one behind
a lost die. -/
theorem witness_reach :
    let lost : State := modDie user 1 fun d => { d with lost := true }
    let s := with567 lost (BitVec.ofNat 64 (3 * 0x1800000000)) 3 0
    writesDone user 0 = true ∧
      writesDone (modDie user 1 fun d => { d with forwards := [{ core := 0, home := 3, line := 0, data := [], dirty := 1 }] }) 0 = false ∧
      cutOff user 0 3 = false ∧ cutOff lost 0 2 = decide (viaDie 0 = 1 ∧ diagonal 0 2 = true) ∧ (cutOff lost 0 1 = true) ∧
      (cutOff lost 0 3 || cutOff (modDie user 2 fun d => { d with lost := true }) 0 3) = true ∧ (readReg s 6).toNat < 4 ∧
      writesDone (spawnX (aRecord 0)) (spawnX (aRecord 0)).cur = true ∧ cutOff (spawnX (aRecord 0)) 0 0 = false := by decide +kernel

/-- SlicesArePlacedAndAdmitted, SlicesAreRetired: placement leaves the slice as it was created; a killed slice, one whose releases can be sent, one
whose release finds a table that is full; a forward copy. -/
theorem witness_slice_ends :
    let region : Region := { base := 0x1000, extent := 64, mode := 1, fwdsp := true }
    let cl : Slice := { aSlice with state := .created, entryDesc := 0x2000, regs := { ptBase := 0x10000 } }
    let l : Slice := { aSlice with state := .retiring, succ := 0x2000, nsucc := 1, regs := { ptBase := 0x10000 } }
    let s (n : Nat) : State :=
      { modDie (withMem (paged user 0x1F) 0x40002000 (leBytes 8 0x1000)) 0 fun d => { d with pending := (List.range n).map fun i => { key := 64 * (i + 1000), balance := 1 } } with
        slices := [l] }
    let n : Notice := { region := region, asid := 0, ptBase := 0x10000 }
    okWith (readPlacement created cl) (fun q => findSlice q.1 0x10000 == some cl) = true ∧
      ({ l with killed := true } : Slice).killed = true ∧ writesDone (s 0) 0 = true ∧
      (sendReleases l 1 (s 0) 0).2 = true ∧
      okWith (copyRegion (paged user 0x1F) aSlice n) (fun _ => true) = true := by decide +kernel

/-- RegionsAreDrainedAndAwaited: a region that drains and has not drained; CFWV of a pattern that may not be loaded. -/
theorem witness_wavefront_loads :
    let act : Placement := { placed with active := true }
    let p : Placement := { act with draining := true }
    let l : State := { loading with placements := [act] }
    drained { loading with placements := [p] } p = false ∧ p.draining = true ∧
      hasWith (imageOf l 5) (fun q => (q.2.rows, q.2.cols) == (1, 1) && (loadCheck { q.1 with sites := [(20, { aSite with on := true })] } q.2 20 0).isSome) = true := by decide +kernel

/-- PruneAndPublish: ranges past the window, past the last address and in order; a command that still writes the window; nothing bound to the
pages of a cache. -/
theorem witness_publications_wait :
    let p : State := engineWith 17 { queue := [{ aCmd .copy (win 0) 0x2000 64 0 with slice := 0x10000 }] }
    formFault 0xF0000000400000 64 ≠ none ∧ formFault 0x1000000000000 64 ≠ none ∧ formFault 0xFFFFFFFFFFC0 128 ≠ none ∧
      formFault 0xF00000003FFFC0 64 = none ∧ formFault 0x1000 64 = none ∧
      publWaits p 0x10000 (win 0).toNat 64 = true ∧ publWaits user 0x10000 (win 0).toNat 64 = false ∧
      ((kvPlaces aCache (whoNow aCache 0) 0x2000).any fun q => backingHeld aCache (whoNow aCache 0) none q.1 q.2) = false := by decide +kernel

/-- EnginesAnswer: an intake that is open and one that is not; a port that may be taken and one that is taken. -/
theorem witness_intakes :
    let closed : State := modDie user 0 fun d => { d with slots := d.slots.setIfInBounds 1 (List.replicate 64 5) }
    let x : Stream := { eng := 0, cmd := streamCmd 0, origin := 20, ctx := 0, port := 0 }
    let c : Cmd := { streamCmd 0 with slice := 0x10000, opB := 20 }
    intakeOpen user 0 0 = true ∧ intakeOpen closed 0 0 = false ∧ intakeOpen closed 16 0 = true ∧
      okWith (takePort (region [running] aSite 0) c) (fun p => p == running) = true ∧
      okWith (takePort { region [running] aSite 0 with streams := [x] } c) (fun _ => true) = false := by decide +kernel

/-- SwitchWordsMoveOneToken, TokensLandOrAreDropped: an output past a closed selvage; a track that has carried its token of this cycle and one
that has not; a token bound for a site on its own side of a selvage. -/
theorem witness_selvages :
    let d : State := { user with sites := [(1, { aSite with domain := 3 })] }
    let over_ : SiteId := mkSite 1 0 0
    let c (n : Option Nat) : State := { user with chans := [(chanKey over_ 3 0, { flight := [(tok 0 1 true, mkSite 0 0 71, false)], crossed := n })] }
    neighbour 0 1 = some 1 ∧ portAt d true 0 1 0 = none ∧ domainOf d 1 ≠ domainOf d 0 ∧ outFree d 0 1 0 = true ∧ outFree user 0 1 0 true = true ∧
      (chanOf (c none) (chanKey over_ 3 0)).crossed ≠ some (dieOf user 0).cyc ∧ (chanOf (c (some 0)) (chanKey over_ 3 0)).crossed = some (dieOf user 0).cyc ∧
      10 ≤ (11 : BitVec 4).toNat ∧ dieGone user (siteDie ((neighbour 0 1).getD 0)) = false := by decide +kernel

/-- FaultedRegionsFreeze: a count that a suspension began again. -/
theorem witness_counts_begin_again :
    let p : Placement := { running with countFrom := 100 }
    (dieOf (region [p] aSite 65600) 0).cyc < p.countFrom + 65536 ∧ p.countFrom + 65536 ≤ (dieOf (region [p] aSite 65636) 0).cyc := by decide +kernel

/-- WavefrontsSwitchSiteBySite: a site that has switched and is reached again, a token that names another context, one that names the new
one at an idle site. -/
theorem witness_wavefronts_come_round :
    let cfg (k : W32) : Token := { kind := 3, seq := 0, eos := true, valid := 0, lanes := [k] }
    let armed : Placement := { running with armed := some 1, closed := [0] }
    let cx : Ctx := aCtx 0 [0x0281A002] [] []
    let s (k : W32) (act : BitVec 2) : State := { region [armed, { placed with ctx := 1 }] { onSite cx with act := act } 0 with
      chans := [(chanKey 20 0 0, { slots := [cfg k] })] }
    (siteOf (s 1 1) 20).act = 1 ∧ headTok (s 1 1) 20 0 0 = some (cfg 1) ∧ laneOf (cfg 2).lanes 0 ≠ (1 : BitVec 2).zeroExtend 32 ∧
      laneOf (cfg 1).lanes 0 = (1 : BitVec 2).zeroExtend 32 ∧ (siteOf (s 1 0) 20).act ≠ 1 ∧ siteIdle (s 1 0) armed 20 cx = true ∧
      lowerRow 20 = false ∧ ctxAt (s 1 0) 20 0 = some cx := by decide +kernel

/-- TheBlockSchedulerChooses: a pattern that has admitted a bundle; a place where nothing is active. -/
theorem witness_schedules :
    let p : Placement := { running with admitted := [(0, 1)] }
    let other : Placement := { placed with ctx := 1, catid := 6, ports := [inPort] }
    let s : State := queuedTok (region [other] (onSite (aCtx 0 [] [] [])) 0) 1
    p.admitted ≠ [] ∧ waiting (region [p] aSite 0) p = 0 ∧ schedulerFree (region [p] aSite 0) p = true ∧ p.stopped = false ∧
      placementAt s 20 1 = some other ∧ bestPattern s (boundHere s other) = some other ∧ (∀ q ∈ s.placements, q.active = false) := by decide +kernel

/-- RegionsAreSavedAndRestored: a section that is loaded, in a slot of its domain and not. -/
theorem witness_region_loads :
    let kept : Placement := { placed with saved := true }
    let l : Slice := { aSlice with saved := [(20, 0, 0, 96)] }
    let s : State := { region [kept] aSite 0 with slices := [l] }
    let back : State := withMem s ((imagePa s l).getD 0 + 64) (leBytes 2 5)
    let q := loadBytes back 0 ((imagePa back l).getD 0) 96
    let shut : State := modDie back 0 fun d => { d with slots := d.slots.setIfInBounds 2 (List.replicate 64 5) }
    hasWith (reloadContext q.1 l 20 0 q.2) (fun r => placeFree r.1 r.2.sites && curatorSlot r.1 r.2 && !curatorSlot shut r.2 &&
      (loadRegion (reloadOthers r.1 l r.2 q.2) r.2 q.2).isSome) = true := by decide +kernel

/-- CohortsSwapOutAndIn: members that are all out, one whose firing may be taken in a cohort that swaps out, one still retiring; a command to
swap in a cohort that is resident, cohorts that may come back and none. -/
theorem witness_cohorts_come_back :
    let gone : Slice := { aSlice with state := .swapped, actors := [anActor] }
    let elig : State := withMem (withMem (cohort 2 0 false [gone]) (0x50000 + 0x2E0) [1]) 0x20020 (leBytes 8 0x50000)
    cohortState (cohort 1 1 true [aSlice]) 0 1 = 1 ∧ mayTakeFiring (cohort 1 1 true [aSlice]) aSlice = true ∧
      (∀ l ∈ (cohort 1 1 true [gone]).slices, l.state = .swapped) ∧ (cohort 1 1 true [gone]).placements = [] ∧
      (∃ l ∈ (cohort 1 1 true [{ aSlice with state := .retiring }]).slices, memberOf 1 l = true ∧ l.state = .retiring) ∧
      cohortState (cohort 0 2 true []) 0 1 = 0 ∧ mayComeBack user 0 none = [] ∧ firstCohort elig 0 (mayComeBack elig 0 none) = some 1 ∧
      firstCohort (cohort 2 2 true [gone]) 0 (mayComeBack (cohort 2 2 true [gone]) 0 (some 1)) = some 1 := by decide +kernel

/-- LinksResendAndRetry, ALostDieStopsItsCores: an edge of two dies, no edge; a die without a heartbeat for 6,400 ticks, one that has one, one
whose training has failed. -/
theorem witness_dies_are_lost :
    ((0 : DieId) ≠ 1 ∧ diagonal 0 1 = false ∧ (dieOf user 0).lost = false ∧ (dieOf user 1).lost = false) ∧ diagonal 0 3 = true ∧
      (dieOf { user with ticks := 6400 } 1).beat + 6400 ≤ ({ user with ticks := 6400 } : State).ticks ∧
      ¬ ((dieOf user 1).beat + 6400 ≤ user.ticks) ∧ ¬ (3 ≤ (dieOf user 1).trainFails) ∧
      3 ≤ (dieOf (modDie user 1 fun d => { d with trainFails := 3 }) 1).trainFails := by decide +kernel

/-- PerformanceStatesAndParking: a transition of one step that has had its time and one that has not; a die that comes back to PS4 and on. -/
theorem witness_transitions :
    let k (cur tgt : BitVec 3) : Die := { psBusy := true, psCurrent := cur, psTarget := tgt }
    let time (m : Die) : Nat := if m.psTarget = 5 then 5000
      else 200 + 2000 * (max m.psCurrent.toNat m.psTarget.toNat - min m.psCurrent.toNat m.psTarget.toNat)
    (k 0 1).psSince + time (k 0 1) ≤ 2200 ∧ ¬ ((k 0 1).psSince + time (k 0 1) ≤ 2199) ∧ (k 0 5).psSince + time (k 0 5) ≤ 5000 ∧
      (k 5 4).psSince + 12000 ≤ 12000 ∧ (k 5 3).psTarget ≠ 4 ∧ Memory.wf super.mem = true ∧ keysFrom 0 super.sites = true ∧
      keysFrom 0 super.chans = true := by decide +kernel

/-- HostAndPeersReachHdm, AttestationAndRegisterWrites: a port that is up and one that is not, an address of the host's window; a device
register; registers of the mailbox and of the power block. -/
theorem witness_ports :
    0 < (dieOf user 0).lanes ∧ (dieOf (modDie user 0 fun d => { d with lanes := 0 }) 0).lanes = 0 ∧ paKind 0x8000000000000 = .cxl ∧
      paKind 0xD002000000000 = .device ∧ (0x20000 : BitVec 52).toNat / 8 * 8 = 0x20000 ∧ (0x10018 : BitVec 52).toNat / 8 * 8 = 0x10018 ∧
      hdmDie (modDie user 0 fun d => { d with lost := true }) 0x1000 = none := by decide +kernel

/-- ErrorsCountAndPoison: a data token that has an error, and a place without a token. -/
theorem witness_token_errors :
    let s : State := { user with chans := [(chanKey 20 0 0, { slots := [tok 0 1 true] })] }
    let key : BitVec 24 := BitVec.ofNat 24 (chanKey 20 0 0)
    key.toNat / 128 = 20 ∧ siteOk 20 = true ∧ siteDie 20 = 0 ∧ (chanOf s key.toNat).slots[0]? = some (tok 0 1 true) ∧
      (chanOf s key.toNat).slots[1]? = none ∧ siteOk (BitVec.ofNat 14 (127 * 128 / 128)) = false := by decide +kernel

/-- AStepRunsTheDecodedWord: a core whose slice does not leave, one in a repeat whose word is known; a turn that stalls and one that does not. -/
theorem witness_turns_wait :
    let s := withCode super [1]
    let waits : State := modDie (modCore (paged super 7) fun c => { c with regs := { c.regs with pc := 0x1234 } }) 0 fun d =>
      { d with walks := [{ core := 5, asid := 0, va := 0x1000, write := false, dom := 0 }] }
    let copy : Cmd := { aCmd .copy 0x1000 0x2000 64 0 with order := 1, ptBase := 0x10000 }
    let asleep : State := modDie (engineWith 17 { queue := [copy] }) 0 fun d => { d with pcs := (List.range 128).map fun i => (i, .powerDown) }
    leavingMember s = none ∧ s.stall = false ∧ (next (exec (.engineCommandComplete 17) asleep)).stall = true ∧
      fetchWaits (chargeTurn s) (pcOf (chargeTurn s)).toNat = false ∧ fetchWaits (chargeTurn waits) 0x1234 = true ∧
      (let r := modCore s fun c => { c with rep := some { left := 3, stepD := 1, stepA := 0, stepB := 0, d := 1, a := 2, b := 3, ins := some 0x10060417 } }
       (curCore r).rep.bind (·.ins) = some 0x10060417 ∧
         okWith (nextWord (chargeTurn r)) (fun q => (decodeS q.2).toOption.isSome) = true) := by decide +kernel

/-- RowsAreLockedAndForwarded: a migration whose new place holds no marker. -/
theorem witness_migrations :
    let o : RowOp := { eng := 16, cmd := aCmd .migrate 0x2000 0x3000 4 0, row := 0, va := 0x4000, pa := 0x40004000 }
    grantable { rowWait := [o] } = some o ∧ o.reads = false ∧ o.cmd.op = .migrate ∧
      destMarked (engineWith 16 { rowWait := [o] }) o = false := by decide +kernel

/-! ### Witnesses for hypotheses of single clauses -/

/-- An L1 line with two dirty bytes. -/
def dirtyLine (k : Nat) : L1Line := { line := k, data := List.replicate 64 7, dirty := 3 }

/-- The page at virtual address 0 of `paged` lies in the HBM of die 3. -/
def pagedFar : State := withMem (paged user 0x1F) 0x11000 (leBytes 8 (0x4800000000 + 0x1F))

/-- Every pseudo-channel of die 0 sleeps. -/
def asleep (s : State) : State := modDie s 0 fun d => { d with pcs := (List.range 128).map fun i => (i, .powerDown) }

/-- PrefetchFenceAndCounters, LoadsAndStores: dirty lines of the slice's regions, at home on its die, on a diagonal one and on a lost one; an
access and a prefetch whose line must be waited for. -/
theorem witness_fences :
    let near := modCore (paged user 0x1F) fun c => { c with l1 := [dirtyLine (0x40001040 / 64)] }
    let far := modCore pagedFar fun c => { c with l1 := [dirtyLine (0x4800001040 / 64)] }
    let lines (s : State) (ok : Region → Bool) : List Nat := regionLines s s.cur (curCore s).regs.ptBase (((curSlice s).map (·.regions)).getD []) ok
    lines near writable = [0x40001040 / 64] ∧ lines near readable = [0x40001040 / 64] ∧ lines far writable = [0x4800001040 / 64] ∧
      Memory.wf near.mem = true ∧ (∀ d : DieId, (dieOf near d).forwards = []) ∧ (∀ e ∈ near.cores, ∀ x ∈ e.2.l1, x.own = false ∧ x.data.length = 64) ∧
      Memory.wf far.mem = true ∧ diagonal (curDie far) (homeDie far (curDie far) 0x4800001040) = true ∧
      unreachable far (curDie far) 0x4800001040 = false ∧
      unreachable (modDie far 3 fun d => { d with lost := true }) 0 0x4800001040 = true ∧
      okWith (seqAccess (asleep (paged user 0x1F)) 0x1040 8 .load) (fun q => targetHeld (asleep (paged user 0x1F)) q.2 .load) = true ∧
      okWith (seqAccess (paged user 0x1F) 0x1040 8 .load) (fun q => match q.2 with | .phys pa _ => paKind pa == .hbm 0 | _ => false) = true ∧
      l1Find (coreOf near 0) (0x40001040 / 64) = some (dirtyLine (0x40001040 / 64)) := by decide +kernel

/-- WindowAccessesPerformAtTheBank, SyncWordsAndBarriers: an element that serves an SPFIFO and one that does not. -/
theorem witness_fifo_banks :
    let s : State := { super with sites := [(16, { aSite with on := true, ctxs := Vector.replicate 4 (some { aCtx 0 [eword .spfifo] [] [] with kind := 1 }) })] }
    fifoTaken s 0xE000000000040 = true ∧ fifoTaken super 0xE000000000040 = false := by decide +kernel

/-- Queue 0 with n entries in its ring, and a push of core 0 that the docent holds. -/
def heldPush (w2 n : Nat) (ram : List QueueRam) : State :=
  modDie (withMem (queued w2 ram) 0x20008 (leBytes 8 (n * 2 ^ 32))) 0 fun d => { d with docent := { d.docent with held := [(0, 9, true, 0)] } }

/-- QueuesAndDoorbells: a push held for no queue, a closed one, a resident one with room and a full one, a ring with room and a full one; a
queue whose die cannot be reached. -/
theorem witness_held_pushes :
    let open_ := 0x5000000
    let res := 0x15000000
    let at_ (s : State) (p : QueueDesc → Bool) : Bool := hasWith (queueDesc s 0) p
    (dieOf (heldPush open_ 3 []) 0).docent.held = [(0, 9, true, 0)] ∧ at_ (heldPush 0xD000000 0 []) (·.closed) = true ∧
      at_ (heldPush res 0 [ramQueue 15]) (fun e => !e.closed && hasWith (residentQueue (heldPush res 0 [ramQueue 15]) 0 e) fun r => decide (r.entries.length < r.cap)) = true ∧
      at_ (heldPush res 0 [ramQueue 16]) (fun e => !e.closed && hasWith (residentQueue (heldPush res 0 [ramQueue 16]) 0 e) fun r => decide (r.cap ≤ r.entries.length)) = true ∧
      at_ (heldPush open_ 3 []) (fun e => !e.closed && (residentQueue (heldPush open_ 3 []) 0 e).isNone && decide ((e.tail - e.head).toNat < 2 ^ e.log2) &&
        (e.pa == 0x20000) && (e.ring + 8 * (e.tail.toNat % 2 ^ e.log2) == 0x30018) && (paKind e.pa == .hbm 0) && !unreachable (heldPush open_ 3 []) 0 e.pa) = true ∧
      at_ (heldPush open_ 0x1000 []) (fun e => !e.closed && (residentQueue (heldPush open_ 0x1000 []) 0 e).isNone && decide (2 ^ e.log2 ≤ (e.tail - e.head).toNat)) = true ∧
      Memory.wf (heldPush open_ 3 []).mem = true ∧ queueDie 0 = 0 ∧ queueCutOff (queued open_ []) 0 (queueDesc (queued open_ []) 0) = false ∧
      queueCutOff (modDie user 1 fun d => { d with lost := true }) 0x400000 none = true := by decide +kernel

/-- SlicesArePlacedAndAdmitted: a slice that placement refuses, with a place in the supervisor's list and without. -/
theorem witness_refused_placements :
    let l : Slice := { aSlice with state := .created, entryDesc := 0x80000000, regs := { ptBase := 0x10000 } }
    let s : State := { created with slices := [l] }
    let k := superCore s l.cohort (dieOfCore l.core)
    let trap : SupTrap := { cause := 1, addr := 0, slice := 0, inner := 0 }
    let full : State := setCore s k { coreOf s k with supTraps := List.replicate 16 trap }
    findSlice s 0x10000 = some l ∧ okWith (readPlacement s l) (fun _ => true) = false ∧ (coreOf s k).supTraps.length < 16 ∧
      okWith (readPlacement full l) (fun _ => true) = false ∧ 16 ≤ (coreOf full k).supTraps.length := by decide +kernel

/-- LoadsAndSwitches: a load outside its domain's slot; no pattern at a number; an active pattern that DRAIN stopped; a place that another live
slice holds, that reaches beyond it, with a wavefront. -/
theorem witness_switches_barred :
    let at_ (ps : List Placement) : State := { loading with placements := ps }
    let act : Placement := { placed with ctx := 1, active := true }
    let foreign : State := { at_ [placed, { act with owner := 0x10001 }] with slices := [aSlice, { aSlice with id := 0x10001, slot := 1 }] }
    let shut : State := modDie loading 0 fun d => { d with slots := d.slots.setIfInBounds 2 (List.replicate 64 5) }
    configSlots shut (rectSites 20 1 1) = false ∧ placementAt (at_ []) 20 0 = none ∧
      ({ placed with active := true, drainOwn := true } : Placement).drainOwn = true ∧ placed.active = false ∧
      (switchBar foreign 0x10000 placed = some 6 ∧ liveSlice { aSlice with id := 0x10001, slot := 1 } = true) ∧
      ((∃ x ∈ ({ act with cols := 2 } : Placement).sites, x ∉ placed.sites) ∧ switchBar (at_ [placed, { act with cols := 2 }]) 0x10000 placed = some 7) ∧
      switchBar (at_ [placed, { act with armed := some 0 }]) 0x10000 placed = some 8 := by
  refine ⟨?_, ?_, ?_, ?_, ?_, ⟨⟨21, ?_⟩, ?_⟩, ?_⟩ <;> decide +kernel

/-- RegionsAreDrainedAndAwaited: an operand that is no site, a site without an active region, one of another live slice and of none. -/
theorem witness_foreign_regions :
    let act : Placement := { placed with active := true, owner := 0x10001 }
    let s : State := { with567 user 20 0 1 with placements := [act] }
    let both : State := { s with slices := [aSlice, { aSlice with id := 0x10001, slot := 1 }] }
    originOf (win 0) = none ∧ originOf (readReg s 5) = some 20 ∧ activeRegion user 20 = none ∧ activeRegion s 20 = some act ∧
      (curSlice s).map (·.id) ≠ some act.owner ∧ curSlice both = some aSlice ∧
      hasWith (findSlice both act.owner) liveSlice = true ∧ findSlice s act.owner = none := by decide +kernel

/-- InjectAndDraw: the sites of a panel row, none of them there, with room and one full; a declared entry port with room and without; a token
with an address to draw to; a gated site. -/
theorem witness_rows_of_tracks :
    let s := paged user 0x1F
    let row : List SiteId := (List.range 18).map fun j => mkSite 0 0 j
    let fly : Chan := { flight := List.replicate 4 (tok 0 1 true, 0, false) }
    let full : State := { s with chans := [(5 * 128 + 32, fly)] }
    let none_ : State := { s with sites := row.map fun x => (x.toNat, { aSite with gated := true }) }
    let p : Placement := { placed with origin := 0, active := true, ports := [{ exit := false, site := 0, port := 4, track := 0, width := 0 }] }
    let entry (n : Nat) : State := { s with placements := [p], chans := [(entryKey 0 4 (0, 0), { slots := List.replicate n (tok 0 1 true) })] }
    let there (u : State) (y : SiteId) : Bool := !(siteOf u y).gated && domainOf u y == coreDomain u u.cur
    let left (u : State) (y : SiteId) : Nat := (chanOf u (y.toNat * 128 + 32)).slots.length + (chanOf u (y.toNat * 128 + 32)).flight.length
    let w : State := { s with chans := [(72, { slots := [tok 0 1 true] })] }
    row.all (there s) = true ∧ row.any (there none_) = false ∧ row.all (fun y => decide (left s y < 4) && (portAt s false y 4 0).isNone) = true ∧
      left full 5 = 4 ∧ hasWith (portAt (entry 3) false 0 4 0) (fun q => q.1 == p && q.2 == 0) = true ∧
      (chanOf (entry 3) (entryKey 0 4 (0, 0))).slots.length < 4 ∧ 4 ≤ (chanOf (entry 4) (entryKey 0 4 (0, 0))).slots.length ∧
      (chanOf w 72).slots = [tok 0 1 true] ∧
      okWith (seqAccess w 0x1000 64 .store) (fun q => !privDevice w q.2 64 && !targetHeld w q.2 .store) = true ∧
      (siteOf none_ 0).gated = true ∧ curSlice none_ = some aSlice := by decide +kernel

/-- StagesFireTheirWord: a first stage and a stage between whose source holds the same lanes; an invocation held after stage 6. -/
theorem witness_stages_alike :
    let cx := aCtx 0 [eword (.vnop 1 0)] [outP1] []
    let s := heads (first cx aSite) (some (tok 0 1 true)) none
    let y : Machine.Inv := { kind := 0, seq := 9, eos := false, valid := 3, p := [[7, 8], [], [], []] }
    let r := atStage 2 y
    AtStage r (aCtx 0 [] [] [0x20]) 2 y ∧ computes y ∧
      (match takeFirst s 0 cx [0] false with
        | .take u v ports => v.kind == y.kind && v.valid == y.valid && outsFree s 0 cx &&
            (List.range 16).all fun l => srcLane u { site := 0, cx := cx, inv := v, ports := ports } 0 l == srcLane r (stageEnv r (aCtx 0 [] [] [0x20]) y) 0 l
        | _ => false) = true ∧
      (∀ l ∈ List.range 16, srcLane (atLast y false) (stageEnv (atLast y false) (aCtx 0 [] [outP1] []) y) 0 l = srcLane r (stageEnv r (aCtx 0 [] [] [0x20]) y) 0 l) ∧
      (outSel outP1).preg = 1 ∧ arcOf (atLast y false) 0 6 = none ∧
      (let s6 := atLast (laneInv 0 true) true
       arcOf (modSite s6 0 fun q => { q with arcs := q.arcs.setIfInBounds 5 (some (laneInv 0 true)) }) 0 6 ≠ none) := by
  refine ⟨⟨?_, ?_, ?_, ?_, ?_, ?_, ?_, ?_, ?_, ?_⟩, ?_, ?_, ?_, ?_, ?_, ?_⟩ <;> first | decide +kernel | (unfold computes; decide +kernel)

/-- MemoryElementsAndLocks: a response of a bundle of four tokens; the oldest bundle of a FIFO, with room to go and without; a token that gives
back where nothing is held; a lock of its own. -/
theorem witness_element_answers :
    let e : MeEntry := { bundle := [tok 0 1 true, tok 0 1 true, tok 0 1 true, tok 0 1 true], accs := [], words := [(0, 9)], valid := 1, done := some 0 }
    let cx : Ctx := { aCtx 0 [eword .spfifo] [0xA180] [0, 2] with kind := 1 }
    let s : State := { element .spfifo [0, 2] { aSite with fifo := [[tok 0 1 true]] } none with sites := [(16, { aSite with
      fifo := [[tok 0 1 true]], on := true, ctxs := Vector.replicate 4 (some cx) })] }
    let blank : Token := { kind := 0, seq := 0, eos := false, valid := 0, lanes := [] }
    let out := selWrites cx 0 (tokensInv ({ tok 0 1 true with lanes := bytesLanes (memBytes s.mem (fifoPa 16 cx 1 0) 64) } :: [blank, blank, blank]))
    let full : State := match outDest s 16 1 2 false with
      | some (y, p, t) => { s with chans := [(chanKey y p t, { slots := List.replicate 4 (tok 0 0 true) })] }
      | none => s
    e.bundle.length = 4 ∧ (tok 0 1 true).kind ≠ 6 ∧ e.words.find? (fun q => q.1 == 0) = some (0, 9) ∧ e.valid.getLsbD 0 = true ∧
      mayFire s 16 = true ∧ (stageOps cx).head? = some .spfifo ∧ (siteOf s 16).fifo = [[tok 0 1 true]] ∧ s.poison = [] ∧ out ≠ [] ∧
      canEmit s 16 out = true ∧ canEmit full 16 out = false ∧
      (match takeFirst (element (.lgive 0 0 0) [] aSite (some (tok 6 1 true))) 16
          ((activeCtx (element (.lgive 0 0 0) [] aSite (some (tok 6 1 true))) 16).getD mergeCtx) [0] false with
        | .take _ v _ => v.kind == 6 | _ => false) = true ∧
      ({ element (.lgive 0 0 0) [] aSite none with locks := [] } : State).locks = [] := by decide +kernel

/-- MatrixTilesLoadSwapAndDrain: a HOLE at the LOAD input; a swap of a faulted plane, waiting and not, of a ready one that waits; the last row of a
pass; a control token at the ROW input; a row without an active plane; an output that is full; a swap that bars rows; drains in each form. -/
theorem witness_tile_roles :
    let cx (ews : List W32) : Ctx := { aCtx 0x60402000 ews [] [4, 1] with kind := 2 }
    let s (t : Tile) (ks : List (Nat × Token)) : State := tile roleWords t ks
    let last : State := modSite (s { active := some { form := 4 } } [(0, tok 0 1 false)]) 17 fun q => { q with cs := [3, 0, 0, 0] }
    let passes : List W32 := [eword (.mrow 0), eword .mload, eword (.mswap true), eword (.mdrain true 1)]
    roleToken (s {} [(1, tok 6 1 true)]) 17 (cx roleWords) 1 = some [{ tok 6 1 true with valid := 0, lanes := [] }] ∧ ({} : Tile).shadowState = .empty ∧
      (roleToken (s { shadowState := .faulted } [(2, tok 0 1 true)]) 17 (cx roleWords) 2).isSome = true ∧
      tileReady (tile passes { shadowState := .faulted, swapPending := true } []) 17 = some (cx passes) ∧
      tileReady (tile passes { shadowState := .ready, swapPending := true } []) 17 = some (cx passes) ∧
      tileRows (cx roleWords) ≤ tileC last 17 0 + 1 ∧ tileC last 17 1 + 1 < 2 ^ 32 ∧ rowsOpen last 17 (cx roleWords) = true ∧
      (roleToken (s {} [(0, tok 5 1 true)]) 17 (cx roleWords) 0).map (·.map (·.kind)) = some [5] ∧ (siteOf (s {} [(0, tok 0 1 true)]) 17).tile.active = none ∧
      rowsOpen (tile passes { shadowState := .ready, swapPending := true } [(0, tok 0 1 true)]) 17 (cx passes) = false ∧
      roleOp (cx passes) 3 = some (.mdrain true 1) ∧ roleOp (cx passes) 2 = some (.mswap true) := by decide +kernel

/-- MatrixTilesLoadSwapAndDrain, what a row adds: an accumulator that holds a NaN, products with a NaN, with infinities of both signs and of
one that the accumulator opposes, and finite ones. -/
theorem witness_products :
    let prod (q : Nat × Nat) : Machine.Num := mulNum (decodeIeee bf16 q.1) (decodeIeee bf16 q.2)
    (match decodeIeee fp32 0x7FC00000 with | .nan _ => true | _ => false) = true ∧
      (match prod (0x7FC0, 0x3F80) with | .nan _ => true | _ => false) = true ∧ prod (0x7F80, 0x3F80) = .inf false ∧ prod (0xFF80, 0x3F80) = .inf true ∧
      (0xFF800000 : W32) = BitVec.ofNat 32 (2 ^ 31 + 0x7F800000) ∧
      (match prod (0x3F80, 0xC000) with | .fin n _ _ => n | _ => false) = true ∧
      (accumulate 2 [some (0x3F80, 0xC000), none] 0x40000000).1 = 0 ∧ (accumulate 5 [some (0x7F, 0x7F)] 0x7FFFFFFF).1 = 0x7FFFFFFF := by decide +kernel

/-- StatisticsFlowToTheRoot: a tile with counts and one without. -/
theorem witness_tiles_end :
    let s : State := { user with sites := [(20, { aSite with stats := [(3, { counts := [0, 2, 0], seq := 4 }), (4, { counts := [0, 0], seq := 4 })] })] }
    keysFrom 0 (siteOf s 20).stats = true ∧ (∃ n ∈ (tileAt s 20 3).counts, n ≠ 0) ∧ (∀ n ∈ (tileAt s 20 4).counts, n = 0) := by decide +kernel

/-- TokensMove: a merge whose turn another input holds, whose own it is, after an input was granted, with a lower input present and none; a first
drop of a period and a later one. -/
theorem witness_merges_and_drops :
    let word (i : Nat) : BitVec 16 := BitVec.ofNat 16 (0x8000 + i * 0x800 + 2 * 0x40)
    let cx : Ctx := { aCtx 0xE0000000 [] [] [] with sw := [word 0, word 2] }
    let s (n : Site) (a : List (Nat × Nat)) : State := { first cx n with chans := a.map fun p => (chanKey 0 p.1 p.2, { slots := [tok 0 1 true] }) }
    let key : Nat := 16
    mergeInputs cx 2 0 0 = [0, 2] ∧ tblGet (siteOf (s { aSite with swgHold := [(key, 2)] } []) 0).swgHold key = some 2 ∧
      tblGet (siteOf (s { aSite with swgLast := [(key, 0)] } []) 0).swgLast key = some 0 ∧ tblGet (siteOf (s aSite []) 0).swgLast key = none ∧
      (chanOf (s aSite [(0, 0)]) (chanKey 0 0 0)).slots ≠ [] ∧ (chanOf (s aSite [(2, 0)]) (chanKey 0 0 0)).slots = [] ∧
      outFree (s aSite [(2, 0)]) 0 1 0 = true ∧ keysFrom 0 (siteOf (s { aSite with swgHold := [(key, 2)], swgLast := [(key, 0)] } []) 0).swgHold = true ∧
      hasWith (activeAt (region [running] (onSite cx) 0) 20) (fun p => !p.dropReported) = true ∧
      hasWith (activeAt (region [{ running with dropReported := true }] (onSite cx) 0) 20) (fun p => p.dropReported) = true ∧
      (siteOf (region [running] (onSite cx) 0) 20).fault = 0 := by decide +kernel

/-- RegionsReportAndComplete: a quiet region with a node fault; statistics that wait at a converter, at an adder and at a dead one. -/
theorem witness_counts_not_sent :
    let whole : Placement := { running with quiet := true, closed := [0] }
    let s (n : Site) : State := region [whole] { n with on := true } 0
    ({ running with faultSite := some 20 } : Placement).faultSite.isSome = true ∧ (siteOf (s { aSite with tiles := [statTok] }) 20).tiles ≠ [] ∧
      ((siteOf (s { aSite with adder := [0, 3] }) 20).statDead = false ∧ ∃ n ∈ (siteOf (s { aSite with adder := [0, 3] }) 20).adder, n ≠ 0) ∧
      (siteOf (s { aSite with adder := [3], statDead := true }) 20).statDead = true ∧ (siteOf (s aSite) 20).tiles = [] := by decide +kernel

/-- ContextsChange: a chosen pattern whose context is resident at its site, and one whose context is not and whose image can be loaded; the
number that was active least recently. -/
theorem witness_reloads :
    let idle : Placement := { placed with active := true, stopped := true, quiet := true, ctx := 0, bound := true, lastUsed := 9 }
    let other : Placement := { placed with ctx := 1, catid := 5, bound := true, lastUsed := 3 }
    let there : State := { loading with placements := [idle, other], sites := [(20, { aSite with on := true, act := 0, ctxs := Vector.replicate 4 (some (aCtx 0 [] [] [])) })] }
    let gone : State := { there with sites := [(20, { aSite with on := true, act := 0 })] }
    (∀ x ∈ other.sites, (ctxAt there x 1).isSome) ∧ (∃ x ∈ other.sites, ctxAt gone x 1 = none) ∧ leastRecent gone other.sites = some 2 ∧
      (reloadImage { gone with placements := gone.placements.filter fun p => !(p.origin == 20 && p.ctx == 1) } aSlice 20 2 5
        (fun im => im.rows == 1 && im.cols == 1)).isSome = true ∧ findSlice gone other.owner = some aSlice ∧ other.catid.toNat = 5 := by decide +kernel

/-- RegionsDrainSaveAndRestore: a taker whose own pattern was saved, with its section; a die in split mode. -/
theorem witness_saved_takers :
    let done : Placement := { running with preempt := some 0x10001, stopped := true, draining := true, quiet := true }
    let s : State := { rivals done with placements := (rivals done).placements.map fun p => if p.owner = 0x10001 then { p with saved := true } else p
                                        slices := (rivals done).slices.map fun l => { l with saved := [(20, 1, 0, 96)] } }
    hasWith (takerOf s done) (fun k => k.saved && (k.ctx == 1) &&
      hasWith (findSlice s k.owner) (fun w => (w.saved.find? fun e => e.1 == k.origin && e.2.1 == k.ctx) == some (20, 1, 0, 96))) = true ∧
      (dieOf (modDie s 0 fun d => { d with docent := { d.docent with split := true } }) 0).docent.split = true := by decide +kernel

/-- TheOutsideReachesTheModule: a poisoned line for a peer's atomic; places a token's error hits: an arc, a reorder entry, a shuttle in the
making, an entry of a window; registers that are reached and that are not. -/
theorem witness_outside_reaches :
    let key (p i : Nat) : BitVec 24 := BitVec.ofNat 24 (20 * 128 + p * 8 + i)
    let v : Inv := laneInv 0 true
    let e : MeEntry := { bundle := [tok 0 1 true], accs := [], words := [], valid := 0, done := none }
    let n : Site := { aSite with win := [e], arcs := aSite.arcs.setIfInBounds 2 (some v), node := { pend := [{ seq := 1, valid := 1, words := [[7]], done := true, hole := false }], part := [[7]] } }
    let s : State := { user with sites := [(20, n)] }
    let far : State := modDie user 3 fun d => { d with lost := true }
    let p (d : Nat) : Nat := 0xD002000000030 + d * 0x1000
    poisoned { user with poison := [0x40] } 0 0x1000 = true ∧ (0x1000 / 64 ∈ ({ user with poison := [0x40] } : State).poison) ∧
      (∀ x ∈ user.cores, ∀ y ∈ x.2.l1, y.line = 0x1000 / 64 → y.own = false) ∧
      (key 14 0).toNat / 128 = 20 ∧ (key 14 0).toNat / 8 % 16 = 14 ∧ (key 14 3).toNat % 8 = 3 ∧ siteOk 20 = true ∧
      (siteOf s 20).arcs[2]? = some (some v) ∧ v.kind ≠ 2 ∧ v.kind ≠ 6 ∧ (siteOf s 20).node.pend.length = 1 ∧ (siteOf s 20).node.part.length = 1 ∧
      (siteOf s 20).win[0]? = some e ∧ e.bundle = [tok 0 1 true] ∧ (tok 0 1 true).kind ≠ 2 ∧ (tok 0 1 true).kind ≠ 6 ∧
      unreachable user 0 (p 0) = false ∧ unreachable far 0 (p 3) = true ∧ 0 < (dieOf user 0).lanes ∧ (dieOf user 0).lost = false ∧
      (0x20030 : BitVec 52).toNat / 8 * 8 = 0x20030 := by decide +kernel

/-- PowerAndParking: a transition under way to a state other than 5, and one to 5 that is not due. -/
theorem witness_parks_held :
    let d (f : Die → Die) : Die := dieOf (modDie super 0 f) 0
    (d fun k => { k with psBusy := true, psTarget := 2 }).psBusy = true ∧ (d fun k => { k with psBusy := true, psTarget := 2 }).psTarget ≠ 5 ∧
      (let k := d fun k => { k with psBusy := true, psTarget := 5 }
       k.psTarget = 5 ∧ ¬ k.psSince + 5000 ≤ super.ticks) := by decide +kernel

/-- CommandsEndWithTheirWord, RowsAreLockedAndForwarded: a command whose writes wait and one whose do not; a completion word that is written,
and one whose address faults; a slice that is there. -/
theorem witness_words_and_locks :
    let copy (w : Word) : Cmd := { aCmd .copy 0x1000 0x2000 64 w with order := 1, ptBase := 0x10000 }
    let s := engineWith 17 { queue := [copy 0x3000], done := [(copy 0x3000, 0, 64)] }
    let o : RowOp := { eng := 16, cmd := { aCmd .gatherMem 0x2000 0x3000 4 0x5000 with ptBase := 0x10000, order := 1 }, row := 0, va := 0x4000, pa := 0x40004000 }
    let r := aTable 0
    let rule : EngRule := { acc := .engWrite, fmt := plainFmt }
    okWith (engAtomic s (whoCmd (copy 0x3000) 0) rule (cwordOf (copy 0x3000)) 8 (fun _ => 5)) (fun q => !q.2.2) = true ∧
      okWith (engAtomic s (whoCmd (copy 0x90000000) 0) rule (cwordOf (copy 0x90000000)) 8 (fun _ => 5)) (fun _ => true) = false ∧
      (engineOf s 17).done = [(copy 0x3000, 0, 64)] ∧ (findSlice s (copy 0x3000).slice).isSome = true ∧
      o.reads = true ∧ grantable { rowWait := [o] } = some o ∧ writeHeld r (whoEngine o.cmd 16) o.cmd = false := by decide +kernel

/-- StreamsMoveBundles: an affine bundle whose elements are read; the elements of a written bundle, into pages that are no F8C pages; an element
of a page of FP32; a score added in the first page, one for a position whose element is not valid, and a cache without a page. -/
theorem witness_stream_values :
    let read := moving (streamCmd 0) inPort []
    let write := moving (streamCmd 1) { inPort with exit := true } [0]
    let t (s : State) : Stream := (s.streams.head?).getD { eng := 0, cmd := streamCmd 0, origin := 0, ctx := 0, port := 0 }
    let w (s : State) : Who := whoEngine (t s).cmd 0
    let visits (s : State) : List Visit := (List.range (min (16 * (t s).cmd.perShuttle) (t s).cmd.total)).map fun j => (elemVa (t s).cmd.base (t s).cmd.esize ((t s).cmd.visit j), none)
    let c4 : Cmd := { streamCmd 4 with payload := leBytes 8 (0x2000 + 4 * 2 ^ 56) ++ (streamCmd 4).payload.drop 8 }
    let cache (score head : Nat) : State :=
      withMem (withMem { moving (streamCmd 4) inPort [] with streams := [{ eng := 0, cmd := c4, origin := 20, ctx := 0, port := 0, started := true }], mem := aCache.mem }
        0x40002000 (leBytes 8 head)) 0x40003000 (leBytes 8 0 ++ leBytes 8 (4 * 2 ^ 48) ++ leBytes 8 5 ++ leBytes 8 score)
    (t read).cmd.kind = 0 ∧ (t read).cmd.op = .stream ∧ (t read).cmd.form ≤ 8 ∧ (peekFmt read (w read) (t read).cmd.base).map (·.1) ≠ some 5 ∧
      0 < (t read).cmd.total ∧ (readVisits (w read) (t read).cmd (visits read) { s := read }).flt = none ∧
      (t write).cmd.kind = 1 ∧ (t write).cmd.width = 0 ∧ f8cGeom write (w write) (t write).cmd = none ∧
      okWith (engWrite write (w write) { acc := .engWrite, hidden := true, fmt := fun f => f != 5 && encodable f (t write).cmd.form && pageElem f (t write).cmd.form == (t write).cmd.esize }
        (t write).cmd.sync (t write).cmd.base (leBytes (t write).cmd.esize 0)) (fun _ => true) = true ∧
      okWith (engReadNat read (w read) { acc := .engRead, annex := true, fmt := fun f => f != 5 && decodable f (t read).cmd.form && pageElem f (t read).cmd.form == (t read).cmd.esize }
        (t read).cmd.base (t read).cmd.esize) (fun q => !q.2.2 && !annexBlank q.1 (w read) (t read).cmd.base false) = true ∧
      (let s := cache 0x5000 0x3000
       okWith (kvRead s (w s) false .engRead 0x2000 64) (fun d => !annexBlank d.1 (w s) 0x2000 false && ((kvDesc d.2).head == 0x3000) &&
         okWith (kvRead d.1 (w s) false .engRead 0x3000 64) fun p => !annexBlank p.1 (w s) 0x3000 false && ((kvPage p.2).first == 0) &&
           ((kvPage p.2).pvalid == 5) && ((kvPage p.2).score == 0x5000) && !backingHeld p.1 (w s) (some c4.order) 0x5000 4 &&
           okWith (engAtomic p.1 (w s) { acc := .engWrite, hidden := true, fmt := fun f => f == 0 || f == 1 } 0x5000 4 (fun v => v) c4.sync) fun q => !q.2.2) = true) ∧
      (let s := cache 0 0
       okWith (kvRead s (w s) false .engRead 0x2000 64) (fun d => (kvDesc d.2).head == 0) = true) := by decide +kernel

/-- TreesAndPublication: a command on the cache is in the KV engine's queue; a shadow page of one leaf. -/
theorem witness_one_leaf :
    let busy : State := modEngine aCache 18 fun k => { k with queue := [aCmd .kvEvict 0x2000 0 0 0] }
    let p : State := with567 (paged user 0x21F) 0x1000 64 0
    kvBusy busy 18 0x2000 (whoNow busy 0).asid = true ∧
      okWith (leavesOf p 0 (curCore p).regs.ptBase.toNat (64 / 4096 + 2) 0x1000 (0x1000 + 64)) (fun ls => ls.length == 1 && ls.all fun q => q.1.bit 9) = true ∧
      Memory.wf p.mem = true ∧ (∀ c ∈ p.cores, ∀ k ∈ c.2.l1, k.own = false) := by decide +kernel

end Sys2Proof.Tests
end

namespace Sys2Proof.Machine

/-! ### A lost die and a link that is listed twice (R287, R288) -/

/-- Die 1 has earned its loss, its training having failed three times in a row; die 0 lists its link to die 1 twice, the second
time as waking. -/
def twiceLinked : State :=
  { State.reset with dies := [(0, { links := [(1, {}), (1, { waking := true })] }), (1, { trainFails := 3 })] }

/-- The machine's invariant speaks of home memory, the tracks and the turn, not of the tables of links: the state meets it. -/
theorem invariant_twiceLinked : Invariant twiceLinked where
  mem := by decide
  chans := by decide
  whole := rfl

/-- The loss of die 1 erases the first entry alone of those die 0 lists for it. -/
theorem dieLost_twiceLinked_links : ∃ t, exec (.dieLost 1) twiceLinked = .next t ∧ (dieOf t 0).links = [(1, { waking := true })] :=
  ⟨_, rfl, by decide⟩

/-- In a state that meets the invariant, a die that is due to be lost may leave another with a waking link to it. -/
theorem exists_dieLost_leaves_waking_link : ∃ s t, Invariant s ∧ (dieOf s 1).lost = false ∧ 3 ≤ (dieOf s 1).trainFails ∧
    exec (.dieLost 1) s = .next t ∧ (edgeOf t 0 1).waking = true := by
  obtain ⟨t, ht, hlinks⟩ := dieLost_twiceLinked_links
  exact ⟨twiceLinked, t, invariant_twiceLinked, by decide, by decide, ht, by rw [edgeOf, hlinks]; rfl⟩

/-- Refutes O47: the clause on the wakes towards a lost die (`(edgeOf t e d).waking = false`) is said of every state, with no hypothesis
that tables of links list a die once. DIE_LOST removes a die's link by `tblErase`, which takes its first entry alone, so where a table
lists the lost die a second time, as waking, that wake stands after the loss. -/
theorem not_linksAndLostDies : ¬ Obligations.LinksAndLostDies := by
  rintro ⟨-, hlost⟩
  obtain ⟨s, t, -, hup, hfails, ht, hwaking⟩ := exists_dieLost_leaves_waking_link
  obtain ⟨t', ht', -, -, -, -, hidle, -⟩ := (hlost s 1).2 hup (.inr hfails)
  obtain rfl : t = t' := Host.Outcome.next.inj (ht.symm.trans ht')
  exact Bool.false_ne_true ((hidle 0).symm.trans hwaking)

end Sys2Proof.Machine

namespace Sys2Proof.Machine

/-! ### A precise trap (R266, R91) -/

/-- REP_STATE of a repeat is valid and tells the repeats left (Table 3.5). -/
theorem repWord_valid (p : RepRun) (h : p.left ≤ 64) : (repWord p).getLsbD 63 = true ∧ (repWord p).toNat / 2 ^ 34 % 2 ^ 7 = p.left := by
  have hd := p.stepD.isLt
  have ha := p.stepA.isLt
  have hb := p.stepB.isLt
  simp only [repWord, BitVec.getLsbD_ofNat, Nat.testBit_eq_decide_div_mod_eq, BitVec.toNat_ofNat, Bool.and_eq_true, decide_eq_true_eq]
  omega

/-- The registers of a core that takes a trap but its pc and REP_STATE. -/
theorem readFile_trapCore (t : TrapReq) (c : Core) (a b e : Word) (r : Reg) :
    readFile (trapCore t c).regs a b e r = readFile c.regs a b e r := rfl

/-- Taking a trap for the running slice does what R266 says. -/
theorem trapped_takeTrap (s : State) (cause : BitVec 8) (pc addr : Word) (detail : BitVec 16) :
    Trapped s (takeTrap s { cause := cause, pc := pc, addr := addr, detail := detail, slice := curSliceId s }) cause pc addr detail where
  causeReg := by
    simp only [takeTrap, curCore_modCore, trapCore]
    cases (curCore s).sup <;> simp [b2n, Nat.add_comm]
  pcReg := by simp [takeTrap, trapCore]
  addrReg := by simp [takeTrap, trapCore]
  infoReg := by simp [takeTrap, trapCore, infoWord, b2n]
  mode := by simp [takeTrap, trapCore]
  vector := by simp [takeTrap, trapCore, pcOf, vectorOf]
  valid := by
    simp only [takeTrap, curCore_modCore, trapCore]
    cases (curCore s).rep with
    | none => simp
    | some p => exact repWord_valid p
  rep := by simp [takeTrap, trapCore]
  regs := fun r _ => by rw [takeTrap, readReg_modCore _ _ rfl, readFile_trapCore]; rfl
  specials := by simp [specialsKept, takeTrap, trapCore]
  defer := ⟨_, _, _, _, by simp only [takeTrap, curCore_modCore, trapCore]; rfl⟩
  only := { state := rfl, others := fun k hk => coreOf_modCore_other s _ hk, bytes := fun _ => rfl }

/-- A precise trap is taken at the instruction. -/
theorem trapHere_trapped (s : State) (cause : BitVec 8) (addr : Word) (detail : BitVec 16) :
    ∃ t, trapHere s cause addr detail = .next t ∧ Trapped s t cause (pcOf s) addr detail :=
  ⟨_, rfl, trapped_takeTrap s cause (pcOf s) addr detail⟩

/-- What slice mode may not do raises PRIV. -/
theorem trapPriv_trapped (s : State) : ∃ t, trapPriv s = .next t ∧ Trapped s t 0x0D (pcOf s) 0 0 := trapHere_trapped s 0x0D 0 0

/-! ### Sites and channels after an update -/

/-- A site after one has been changed. -/
theorem siteOf_modSite (s : State) (i k : SiteId) (f : Site → Site) :
    siteOf (modSite s i f) k = if i = k then f (siteOf s i) else siteOf s k := siteOf_setSite ..

@[simp] theorem siteOf_modSite_self (s : State) (i : SiteId) (f : Site → Site) : siteOf (modSite s i f) i = f (siteOf s i) := by
  simp [siteOf_modSite]

/-- Another site is as before. -/
theorem siteOf_modSite_ne (s : State) {i k : SiteId} (f : Site → Site) (h : k ≠ i) : siteOf (modSite s i f) k = siteOf s k := by
  rw [siteOf_modSite, if_neg (Ne.symm h)]

@[simp] theorem siteOf_modChan (s : State) (j : Nat) (f : Chan → Chan) (y : SiteId) : siteOf (modChan s j f) y = siteOf s y := rfl
@[simp] theorem siteOf_modPlacement (s : State) (o : SiteId) (k : BitVec 2) (f : Placement → Placement) (y : SiteId) :
    siteOf (modPlacement s o k f) y = siteOf s y := rfl
@[simp] theorem siteOf_setCore (s : State) (c : CoreId) (x : Core) (y : SiteId) : siteOf (setCore s c x) y = siteOf s y := rfl
@[simp] theorem siteOf_modDie (s : State) (d : DieId) (f : Die → Die) (y : SiteId) : siteOf (modDie s d f) y = siteOf s y := rfl

/-- Steps over a list that each leave the other sites alone leave a site that the list does not name. -/
theorem siteOf_foldl_notMem {α : Type} {g : State → α → State} {key : α → SiteId}
    (hg : ∀ u a y, y ≠ key a → siteOf (g u a) y = siteOf u y) {xs : List α} {y : SiteId} (hy : ∀ a ∈ xs, y ≠ key a) (s : State) :
    siteOf (xs.foldl g s) y = siteOf s y := by
  induction xs generalizing s with
  | nil => rfl
  | cons a xs ih =>
    rw [List.foldl_cons, ih (fun b hb => hy b (List.mem_cons_of_mem _ hb)), hg _ _ _ (hy a List.mem_cons_self)]

/-- Steps over a list that each bring about P at their own site, and leave the others alone, bring it about at every site named. -/
theorem siteOf_foldl_mem {α : Type} {g : State → α → State} {key : α → SiteId} {P : Site → Prop}
    (hg : ∀ u a y, y ≠ key a → siteOf (g u a) y = siteOf u y) (hP : ∀ u a, P (siteOf (g u a) (key a))) {xs : List α} {b : α}
    (hb : b ∈ xs) (s : State) : P (siteOf (xs.foldl g s) (key b)) := by
  induction xs using List.reverseRecOn with
  | nil => simp at hb
  | append_singleton xs a ih =>
    rw [List.foldl_append, List.foldl_cons, List.foldl_nil]
    by_cases h : key b = key a
    · rw [h]; exact hP _ a
    · rw [hg _ _ _ h]
      exact ih ((List.mem_append.1 hb).resolve_right fun hc => h (by rw [List.mem_singleton.1 hc]))

/-- A fold of steps that keep a part of the state keeps it. -/
theorem foldl_keeps {α β : Type} {g : State → α → State} (part : State → β) (hg : ∀ u a, part (g u a) = part u) (xs : List α) (s : State) :
    part (xs.foldl g s) = part s := by
  induction xs generalizing s with
  | nil => rfl
  | cons a xs ih => rw [List.foldl_cons, ih, hg]

/-! ### Bits of sums of powers -/

/-- A sum of powers of two below n has the bits whose powers are in it. -/
theorem testBit_sum_range (p : Nat → Bool) (n j : Nat) :
    ((List.range n).map fun q => if p q then 2 ^ q else 0).sum < 2 ^ n ∧
      (((List.range n).map fun q => if p q then 2 ^ q else 0).sum.testBit j = (decide (j < n) && p j)) := by
  induction n with
  | zero => simp
  | succ n ih =>
    obtain ⟨hlt, hbit⟩ := ih
    simp only [List.range_succ, List.map_append, List.map_cons, List.map_nil, List.sum_append, List.sum_cons, List.sum_nil, add_zero]
    cases hp : p n with
    | false =>
      refine ⟨by simp only [Bool.false_eq_true, if_false]; omega, ?_⟩
      simp only [Bool.false_eq_true, if_false, add_zero, hbit]
      by_cases hj : j = n
      · simp [hj, hp]
      · simp [show j < n + 1 ↔ j < n by omega]
    | true =>
      refine ⟨by simp only [if_true]; omega, ?_⟩
      simp only [if_true]
      rw [Nat.add_comm]
      by_cases hj : j = n
      · rw [hj, Nat.testBit_two_pow_add_eq, Nat.testBit_lt_two_pow hlt]; simp [hp]
      · rcases Nat.lt_or_gt_of_ne hj with h | h
        · rw [Nat.testBit_two_pow_add_gt h, hbit]; simp [h, Nat.lt_succ_of_lt h]
        · rw [Nat.testBit_lt_two_pow (by calc _ < 2 ^ (n + 1) := by omega
            _ ≤ 2 ^ j := Nat.pow_le_pow_right (by omega) h)]
          simp; omega

/-- The lanes of a mask are those where its predicate holds. -/
theorem getLsbD_laneMask (p : Nat → Bool) (l : Nat) : (laneMask p).getLsbD l = (decide (l < 16) && p l) := by
  rw [laneMask, BitVec.getLsbD_ofNat, (testBit_sum_range p 16 l).2]
  simp

end Sys2Proof.Machine

namespace Sys2Proof.Machine

/-! ### SELV (R492) -/

/-- The field test of a reserved field that reaches to the top of a word. -/
theorem zeroAt_high (v : Word) : zeroAt 31 33 v.toNat = true ↔ v.toNat < 2 ^ 31 := by
  have := v.isLt
  simp only [zeroAt, eqAt, beq_iff_eq]
  omega

/-- What a rectangle operand of SELV names, in the order it is worked on. -/
theorem mem_rect {x : SiteId} {rows cols : Nat} {y : SiteId} :
    (y ∈ (List.range rows).flatMap fun i => (List.range cols).map fun j => mkSite (siteDie x) (siteRow x + i) (siteCol x + j)) ↔
      ∃ i j, i < rows ∧ j < cols ∧ y = mkSite (siteDie x) (siteRow x + i) (siteCol x + j) := by
  simp only [List.mem_flatMap, List.mem_map, List.mem_range]
  constructor
  · rintro ⟨i, hi, j, hj, rfl⟩
    exact ⟨i, j, hi, hj, rfl⟩
  · rintro ⟨i, j, hi, hj, rfl⟩
    exact ⟨i, hi, j, hj, rfl⟩

/-- The gateways of a site's links, both ways. -/
theorem mem_linkKeys {x : SiteId} {g : Nat} :
    g ∈ linkKeys x ↔ ∃ p t, p < 4 ∧ t < 4 ∧ (g = x.toNat * 32 + p * 4 + t ∨ ∃ y, neighbour x p = some y ∧ g = y.toNat * 32 + (p + 2) % 4 * 4 + t) := by
  have ports : ∀ p, p ∈ ([0, 1, 2, 3] : List Nat) ↔ p < 4 := by intro p; simp; omega
  have links : ∀ p t, g ∈ linkKey x p t :: (match neighbour x p with | some y => [linkKey y (facing p) t] | none => []) ↔
      g = x.toNat * 32 + p * 4 + t ∨ ∃ y, neighbour x p = some y ∧ g = y.toNat * 32 + (p + 2) % 4 * 4 + t := by
    intro p t
    cases neighbour x p <;> simp [linkKey, facing]
  simp only [linkKeys, List.mem_flatMap, ports, List.mem_range]
  constructor
  · rintro ⟨p, hp, t, ht, h⟩
    exact ⟨p, t, hp, ht, (links p t).1 h⟩
  · rintro ⟨p, t, hp, ht, h⟩
    exact ⟨p, hp, t, ht, (links p t).2 h⟩

section Assign
variable (s : State) (xs : List SiteId) (m : BitVec 4)

/-- Every site assigned has the domain. -/
theorem domainOf_assignDomain {y : SiteId} (h : y ∈ xs) : domainOf (assignDomain s xs m) y = m :=
  siteOf_foldl_mem (key := id) (P := fun k => k.domain = m) (g := fun u x => modSite u x fun k => { k with domain := m })
    (fun u _ _ h => siteOf_modSite_ne u _ h) (fun u a => by simp) h s

/-- The other sites are as before. -/
theorem siteOf_assignDomain {y : SiteId} (h : y ∉ xs) : siteOf (assignDomain s xs m) y = siteOf s y :=
  siteOf_foldl_notMem (key := id) (g := fun u x => modSite u x fun k => { k with domain := m })
    (fun u _ _ h => siteOf_modSite_ne u _ h) (y := y) (fun _ ha e => h (by rw [e]; exact ha)) s

/-- The gateways of the links of the sites assigned close, and no others. -/
theorem mem_gateways_assignDomain {g : Nat} :
    g ∈ (assignDomain s xs m).gateways ↔ g ∈ s.gateways ∧ ∀ x ∈ xs, g ∉ linkKeys x := by
  have keep : (xs.foldl (fun u x => modSite u x fun k => { k with domain := m }) s).gateways = s.gateways := by
    refine foldl_keeps (·.gateways) (fun _ _ => ?_) xs s
    rfl
  simp [assignDomain, keep]

theorem assignDomain_mem : (assignDomain s xs m).mem = s.mem := by
  refine foldl_keeps (·.mem) (fun _ _ => ?_) xs s
  rfl

theorem assignDomain_cores : (assignDomain s xs m).cores = s.cores := by
  refine foldl_keeps (·.cores) (fun _ _ => ?_) xs s
  rfl


end Assign

/-- A rising list with a number put in holds that number and what it held. -/
theorem mem_setInsert {l : List Nat} {i g : Nat} : g ∈ setInsert l i ↔ g ∈ l ∨ g = i := by
  induction l with
  | nil => simp [setInsert]
  | cons k t ih =>
    simp only [setInsert]
    split_ifs with h1 h2
    · simp only [List.mem_cons]; tauto
    · subst h2; simp only [List.mem_cons]; tauto
    · simp only [List.mem_cons, ih]; tauto

section Selv
variable {s : State} (d a b : Reg)

/-- In slice mode SELV raises PRIV. -/
theorem selv_slice_mode (h : (curCore s).sup = false) {i : Instr}
    (hi : i ∈ ([.selvAssign d a b, .selvOpen d a b, .selvClose d a b] : List Instr)) :
    ∃ t, exec i s = .next t ∧ Trapped s t 0x0D (pcOf s) 0 0 := by
  obtain ⟨t, ht, htrap⟩ := trapPriv_trapped s
  simp only [List.mem_cons, List.not_mem_nil, or_false] at hi
  rcases hi with rfl | rfl | rfl <;> refine ⟨t, ?_, htrap⟩ <;> simp [exec, execSelvAssign, execSelvOpen, execSelvClose, selvGate, h, ht]

/-- The form test of SELV_ASSIGN (R492). -/
theorem selv_form_iff (v : Word) (m rows cols : Nat) :
    (!zeroAt 31 33 v.toNat || !zeroAt 23 1 v.toNat || !zeroAt 14 2 v.toNat || decide (16 ≤ m) || decide (rows = 0) || decide (cols = 0)) = true ↔
      ¬ (v.toNat < 2 ^ 31 ∧ v.toNat / 2 ^ 23 % 2 = 0 ∧ v.toNat / 2 ^ 14 % 4 = 0 ∧ m < 16 ∧ rows ≠ 0 ∧ cols ≠ 0) := by
  rw [← zeroAt_high v]
  simp only [zeroAt, eqAt, Bool.or_eq_true, Bool.not_eq_true', beq_eq_false_iff_ne, decide_eq_true_eq, beq_iff_eq]
  omega

/-- The place test of SELV_ASSIGN (R492). -/
theorem selv_place_iff (r c : Nat) (gone : Bool) :
    (decide (32 < r) || decide (72 < c) || gone) = true ↔ ¬ (r ≤ 32 ∧ c ≤ 72 ∧ gone = false) := by
  cases gone <;> simp [imp_iff_not_or]

/-- SELV_ASSIGN in supervisor mode. -/
theorem exec_selvAssign (h : (curCore s).sup = true) :
    let v := (readReg s a).toNat
    let x : SiteId := BitVec.ofNat 14 v
    let rows : Nat := v / 2 ^ 16 % 2 ^ 7
    let cols : Nat := v / 2 ^ 24 % 2 ^ 7
    let xs := (List.range rows).flatMap fun i => (List.range cols).map fun j => mkSite (siteDie x) (siteRow x + i) (siteCol x + j)
    exec (.selvAssign d a b) s =
      if (!zeroAt 31 33 v || !zeroAt 23 1 v || !zeroAt 14 2 v || decide (16 ≤ (readReg s b).toNat) || decide (rows = 0) || decide (cols = 0)) = true
      then finish s d 3
      else if (decide (32 < siteRow x + rows) || decide (72 < siteCol x + cols) || dieGone s (siteDie x)) = true then finish s d 1
      else if xs.any (siteBusy s) = true then finish s d 2
      else finish (assignDomain s xs ((readReg s b).truncate 4)) d 0 := by
  intro v x rows cols xs
  simp only [exec, execSelvAssign, h, Bool.not_true, Bool.false_eq_true, if_false]
  rfl

/-- SELV_OPEN and SELV_CLOSE of a gateway on the issuing form, in supervisor mode. -/
theorem selvGate_ok (f : Nat → State) (h : (curCore s).sup = true) :
    let v := (readReg s a).toNat
    let x : SiteId := BitVec.ofNat 14 v
    let port : Nat := v / 2 ^ 16 % 4
    let track : Nat := v / 2 ^ 18 % 8
    v < 2 ^ 31 → v / 2 ^ 21 % 2 ^ 10 = 0 → v / 2 ^ 14 % 4 = 0 → (readReg s b).toNat < 16 → track ≤ 3 → siteOk x = true →
      (∀ y, neighbour x port = some y → siteDie y = siteDie x) →
      selvGate s d a b f = .next (advance (writeReg (f (x.toNat * 32 + port * 4 + track)) d 0)) := by
  intro v x port track hv h21 h14 hm ht hx hfar
  have far : ((neighbour x port).any fun y => siteDie y != siteDie x) = false := by
    cases hn : neighbour x port with
    | none => rfl
    | some y => simp [hfar y hn]
  have form : (!zeroAt 31 33 v || !zeroAt 21 10 v || !zeroAt 14 2 v || decide (16 ≤ (readReg s b).toNat) || decide (3 < track)) = false := by
    simp only [Bool.or_eq_false_iff, Bool.not_eq_false', decide_eq_false_iff_not]
    exact ⟨⟨⟨⟨(zeroAt_high _).2 hv, by simpa [zeroAt, eqAt] using h21⟩, by simpa [zeroAt, eqAt] using h14⟩, by omega⟩, by omega⟩
  simp only [selvGate, h, Bool.not_true, Bool.false_eq_true, if_false]
  rw [if_neg (by rw [Bool.not_eq_true, Bool.or_eq_false_iff]; exact ⟨form, by rw [Bool.and_eq_false_iff]; exact .inl far⟩),
    if_neg (by rw [show siteOk (BitVec.ofNat 14 (readReg s a).toNat) = true from hx]; simp)]
  rfl

end Selv

/-! ### CURD (R423, R424, Table 13.25) -/

/-- The core of a site of the fabric, by its die and place (R12). -/
theorem siteCore_toNat {x : SiteId} (h : siteOk x = true) :
    (siteCore x).toNat = (siteDie x).toNat * 16 + siteRow x / 8 * 4 + siteCol x / 18 := by
  have hd := (siteDie x).isLt
  have hc : siteCol x < 72 := by simpa [siteOk] using h
  have hr : siteRow x < 32 := Nat.mod_lt _ (by decide)
  simp only [siteCore, BitVec.toNat_ofNat]
  omega

/-- The blocked-node bitmap of a core bit by bit (R58). -/
theorem testBit_blockedBits (s : State) {x : SiteId} (h : siteOk x = true) (i : Nat) :
    (blockedBits s (siteCore x)).testBit i =
      (decide (i < 144) && (siteOf s (mkSite (siteDie x) (siteRow x / 8 * 8 + i / 18) (siteCol x / 18 * 18 + i % 18))).blocked) := by
  have hk := siteCore_toNat h
  have hd := (siteDie x).isLt
  have hc : siteCol x < 72 := by simpa [siteOk] using h
  have hr : siteRow x < 32 := Nat.mod_lt _ (by decide)
  have die : dieOfCore (siteCore x) = siteDie x := by
    apply BitVec.eq_of_toNat_eq
    simp only [dieOfCore, BitVec.toNat_ofNat]
    omega
  have row : (siteCore x).toNat % 16 / 4 = siteRow x / 8 := by omega
  have col : (siteCore x).toNat % 16 % 4 = siteCol x / 18 := by omega
  have flat : ∀ g : Nat → Nat → Nat, ((List.range 8).flatMap fun i => (List.range 18).map fun j => g i j) =
      (List.range 144).map fun q => g (q / 18) (q % 18) := fun _ => rfl
  have pow : ∀ q, q / 18 * 18 + q % 18 = q := by omega
  simp only [blockedBits, die, row, col, flat, pow]
  exact (testBit_sum_range (fun q => (siteOf s (mkSite (siteDie x) (siteRow x / 8 * 8 + q / 18) (siteCol x / 18 * 18 + q % 18))).blocked) 144 i).2

/-- Items 1 to 3 are the words of the bitmap. -/
theorem getLsbD_curdItem_blocked (s : State) {x : SiteId} (h : siteOk x = true) {m i : Nat} (h1 : 1 ≤ m) (h3 : m ≤ 3) (hi : i < 64) :
    (curdItem s x m).getLsbD i = true ↔ 64 * (m - 1) + i < 144 ∧
      (siteOf s (mkSite (siteDie x) (siteRow x / 8 * 8 + (64 * (m - 1) + i) / 18) (siteCol x / 18 * 18 + (64 * (m - 1) + i) % 18))).blocked = true := by
  have word : curdItem s x m = BitVec.ofNat 64 (blockedBits s (siteCore x) / 2 ^ (64 * (m - 1))) := by
    obtain rfl | rfl | rfl : m = 1 ∨ m = 2 ∨ m = 3 := by omega
    · simp [curdItem]
    · rfl
    · rfl
  rw [word, BitVec.getLsbD_ofNat, Nat.testBit_div_two_pow, testBit_blockedBits s h]
  simp [hi, Nat.add_comm]

/-- The fields of SITE_STATE (Table 13.25). -/
theorem siteState_fields (s : State) (x : SiteId) :
    (siteState s x).toNat / 2 ^ 48 = ((activeCtx s x).map (·.catid.toNat)).getD 0xFFFF ∧
      (siteState s x).toNat / 2 ^ 12 % 16 = (siteOf s x).domain.toNat ∧ (siteState s x).getLsbD 11 = (siteOf s x).frozen ∧
      (siteState s x).getLsbD 10 = siteQuiet s x ∧ (siteState s x).getLsbD 9 = (siteOf s x).drowsy ∧
      (siteState s x).getLsbD 8 = (siteOf s x).gated ∧
      (∀ j, j < 4 → (siteState s x).getLsbD (4 + j) = (((siteOf s x).ctxs[j]?).getD none).isSome) ∧
      (siteState s x).toNat % 4 = (siteOf s x).act.toNat := by
  have bit : ∀ n b, decide (n % 2 = 1) = b ↔ n % 2 = b2n b := by intro n b; cases b <;> simp [b2n]
  have le : ∀ b, b2n b ≤ 1 := by intro b; cases b <;> simp [b2n]
  have one : ∀ (b : Bool) n, (if b = true then n else 0) = b2n b * n := by intro b n; cases b <;> simp [b2n]
  have hcat : ((activeCtx s x).map (·.catid.toNat)).getD 0xFFFF < 2 ^ 16 := by
    cases activeCtx s x with
    | none => decide
    | some c => exact c.catid.isLt
  have hdom := (siteOf s x).domain.isLt
  have hact := (siteOf s x).act.isLt
  have h0 := le (((siteOf s x).ctxs[0]?).getD none).isSome
  have h1 := le (((siteOf s x).ctxs[1]?).getD none).isSome
  have h2 := le (((siteOf s x).ctxs[2]?).getD none).isSome
  have h3 := le (((siteOf s x).ctxs[3]?).getD none).isSome
  have hf := le (siteOf s x).frozen
  have hq := le (siteQuiet s x)
  have hr := le (siteOf s x).drowsy
  have hg := le (siteOf s x).gated
  have value : (siteState s x).toNat = _ := congrArg BitVec.toNat (siteState.eq_1 s x)
  simp only [List.range_succ, List.range_zero, List.map_append, List.map_nil, List.map_cons, List.sum_append, List.sum_cons, List.sum_nil,
    one, List.nil_append, BitVec.toNat_ofNat] at value
  simp only [BitVec.getLsbD, Nat.testBit_eq_decide_div_mod_eq, bit]
  refine ⟨by omega, by omega, by omega, by omega, by omega, by omega, fun j hj => ?_, by omega⟩
  obtain rfl | rfl | rfl | rfl : j = 0 ∨ j = 1 ∨ j = 2 ∨ j = 3 := by omega
  all_goals omega

/-- CURD of an item that is one, of a site that is there, by a core that may see it: it gives the item, 0 of a gated site but for
SITE_STATE, and wakes the site. -/
theorem exec_curd {s : State} (d a b : Reg) {x : SiteId} (hx : BitVec.ofNat 14 (readReg s a).toNat = x) (hm : (readReg s b).toNat ≤ 5)
    (hv : (readReg s a).toNat < 2 ^ 14) (hok : siteOk x = true) (hdie : dieGone s (siteDie x) = false) :
    exec (.curd d a b) s =
      if !(curCore s).sup && domainOf s x != coreDomain s s.cur then trapPriv s
      else if !(curCore s).sup && (siteOf s x).gated then trapHere s 0x10 (x.zeroExtend 64)
      else finish (modSite s x fun q => { q with drowsy := false }) d
        (if (siteOf s x).gated && decide ((readReg s b).toNat ≠ 5) then 0 else curdItem s x (readReg s b).toNat) := by
  simp only [exec, execCurd, hx, hok, hdie, Nat.not_lt.2 hm, Nat.not_le.2 hv]
  rfl

/-- CURD of a descriptor or an item that is none. -/
theorem exec_curd_none {s : State} (d a b : Reg) {x : SiteId} (hx : BitVec.ofNat 14 (readReg s a).toNat = x)
    (h : 5 < (readReg s b).toNat ∨ 2 ^ 14 ≤ (readReg s a).toNat ∨ siteOk x = false ∨ dieGone s (siteDie x) = true) :
    exec (.curd d a b) s = .next (advance (writeReg s d 0xFFFFFFFFFFFFFFFF)) := by
  simp only [exec, execCurd, hx]
  rw [if_pos (by simp only [Bool.or_eq_true, decide_eq_true_eq, Bool.not_eq_true']; tauto)]
  rfl

/-- What CURD reads of a site that the core may see. -/
theorem curd_reads {s : State} (d a b : Reg) {x : SiteId} (hx : BitVec.ofNat 14 (readReg s a).toNat = x) (hm : (readReg s b).toNat ≤ 5)
    (hv : (readReg s a).toNat < 2 ^ 14) (hok : siteOk x = true) (hdie : dieGone s (siteDie x) = false)
    (hsee : (curCore s).sup = true ∨ (domainOf s x = coreDomain s s.cur ∧ (siteOf s x).gated = false)) :
    ∃ u, (exec (.curd d a b) s = .next (advance (writeReg u d
        (if (siteOf s x).gated && decide ((readReg s b).toNat ≠ 5) then 0 else curdItem s x (readReg s b).toNat)))) ∧
      (siteOf u x).drowsy = false ∧ u.mem = s.mem ∧ u.cores = s.cores := by
  refine ⟨modSite s x fun q => { q with drowsy := false }, ?_, by simp, rfl, rfl⟩
  rw [exec_curd d a b hx hm hv hok hdie, if_neg, if_neg]
  · rfl
  · rcases hsee with h | ⟨-, h⟩ <;> simp [h]
  · rcases hsee with h | ⟨h, -⟩ <;> simp [h]

/-- Settles O25: SELV_ASSIGN by its three tests and the state assignDomain makes, SELV_OPEN and SELV_CLOSE by selvGate, CURD by the
item that curdItem gives. -/
theorem domainsAndCuratorState : Obligations.DomainsAndCuratorState := by
  intro s d a b v x m rows cols form inside site busy all port track gate
  have hbusy : busy ↔ ((List.range rows).flatMap fun i => (List.range cols).map fun j => site i j).any (siteBusy s) = true := by
    rw [List.any_eq_true]
    constructor
    · rintro ⟨i, j, hi, hj, h⟩
      exact ⟨_, mem_rect.2 ⟨i, j, hi, hj, rfl⟩, h⟩
    · rintro ⟨y, hy, h⟩
      obtain ⟨i, j, hi, hj, rfl⟩ := mem_rect.1 hy
      exact ⟨i, j, hi, hj, h⟩
  refine ⟨fun hs i hi => selv_slice_mode d a b hs hi, fun hs => ⟨fun hf => ?_, fun hf hi => ?_, fun hf hi hb => ?_, fun hf hi hb => ?_, ?_⟩,
    exec_curd_none d a b rfl, fun hm hv hok hdie => ⟨fun hu hd => ?_, fun hsee => ?_⟩⟩
  · show exec _ _ = _
    rw [exec_selvAssign d a b hs, if_pos ((selv_form_iff _ _ _ _).2 hf)]
    rfl
  · show exec _ _ = _
    rw [exec_selvAssign d a b hs, if_neg (fun h => (selv_form_iff _ _ _ _).1 h hf), if_pos ((selv_place_iff _ _ _).2 hi)]
    rfl
  · show exec _ _ = _
    rw [exec_selvAssign d a b hs, if_neg (fun h => (selv_form_iff _ _ _ _).1 h hf), if_neg (fun h => (selv_place_iff _ _ _).1 h hi),
      if_pos (hbusy.1 hb)]
    rfl
  · refine ⟨assignDomain s ((List.range rows).flatMap fun i => (List.range cols).map fun j => site i j) ((readReg s b).truncate 4), ?_,
      assignDomain_mem .., assignDomain_cores .., fun i j hi hj => ?_, fun y hy => ?_, fun g => ?_⟩
    · show exec _ _ = _
      rw [exec_selvAssign d a b hs, if_neg (fun h => (selv_form_iff _ _ _ _).1 h hf), if_neg (fun h => (selv_place_iff _ _ _).1 h hi),
        if_neg (fun h => hb (hbusy.2 h))]
      rfl
    · rw [domainOf_assignDomain _ _ _ (mem_rect.2 ⟨i, j, hi, hj, rfl⟩), BitVec.truncate, BitVec.toNat_setWidth]
      exact Nat.mod_eq_of_lt hf.2.2.2.1
    · refine siteOf_assignDomain _ _ _ fun h => ?_
      obtain ⟨i, j, hi, hj, e⟩ := mem_rect.1 h
      exact hy i j hi hj e
    · rw [mem_gateways_assignDomain]
      refine and_congr_right fun _ => ⟨fun h i j p r hi hj hp hr => ?_, fun h y hy hl => ?_⟩
      · have hn := mt mem_linkKeys.2 (h _ (mem_rect.2 ⟨i, j, hi, hj, rfl⟩))
        exact ⟨fun e => hn ⟨p, r, hp, hr, .inl e⟩, fun y hy e => hn ⟨p, r, hp, hr, .inr ⟨y, hy, e⟩⟩⟩
      · obtain ⟨i, j, hi, hj, rfl⟩ := mem_rect.1 hy
        obtain ⟨p, r, hp, hr, e⟩ := mem_linkKeys.1 hl
        obtain ⟨own, other⟩ := h i j p r hi hj hp hr
        exact e.elim own fun ⟨z, hz, ez⟩ => other z hz ez
  · rintro ⟨hv, h21, h14, hm, ht, hok, hfar⟩
    refine ⟨⟨{ s with gateways := setInsert s.gateways (x.toNat * 32 + port * 4 + track) }, ?_, fun g => mem_setInsert, rfl⟩,
      { s with gateways := s.gateways.erase (x.toNat * 32 + port * 4 + track) }, ?_, rfl⟩
    · exact selvGate_ok d a b (fun g => { s with gateways := setInsert s.gateways g }) hs hv h21 h14 hm ht hok hfar
    · exact selvGate_ok d a b (fun g => { s with gateways := s.gateways.erase g }) hs hv h21 h14 hm ht hok hfar
  · rw [exec_curd d a b rfl hm hv hok hdie, if_pos (by rw [hu, Bool.not_false, Bool.true_and, bne_iff_ne]; exact hd)]
    exact trapPriv_trapped s
  · obtain ⟨u, hu, hwake, hmem, hcores⟩ := curd_reads d a b rfl hm hv hok hdie hsee
    obtain ⟨hcat, hdom, hfro, hqui, hdro, hgat, hctx, hact⟩ := siteState_fields s x
    have item : (siteOf s x).gated = false ∨ m = 5 → (if (siteOf s x).gated && decide (m ≠ 5) then 0 else curdItem s x m) = curdItem s x m := by
      rintro (h | h) <;> simp [h]
    refine ⟨u, _, hu, hwake, hmem, hcores, fun hg h5 => ?_, fun hg h0 => ?_, fun hg h4 => ?_, fun hg h1 h3 i hi => ?_, fun h5 => ?_, fun h5 => ?_⟩
    · exact if_pos (by rw [hg]; simpa using h5)
    · rw [item (.inl hg), h0]
      rfl
    · rw [item (.inl hg), h4]
      rfl
    · rw [item (.inl hg)]
      exact getLsbD_curdItem_blocked s hok h1 h3 hi
    · rw [item (.inr h5), h5]
      refine ⟨hcat.trans ?_, hqui, hctx⟩
      cases activeCtx s x <;> rfl
    · rw [item (.inr h5), h5]
      exact ⟨hdom, hfro, hdro, hgat, hact⟩

end Sys2Proof.Machine

namespace Sys2Proof.Machine

/-! ### Placements after a change -/

/-- The active placement at an origin is one of the placements, there, and active. -/
theorem activeRegion_spec {s : State} {o : SiteId} {pl : Placement} (h : activeRegion s o = some pl) :
    pl ∈ s.placements ∧ pl.origin = o ∧ pl.active = true := by
  have hp := List.find?_some h
  simp only [Bool.and_eq_true, beq_iff_eq] at hp
  exact ⟨List.mem_of_find?_eq_some h, hp.1, hp.2⟩

/-- The placement of a context number at an origin is one of the placements, and the one of them that is named. -/
theorem placementAt_spec {s : State} {o : SiteId} {k : BitVec 2} {pl : Placement} (h : placementAt s o k = some pl) :
    pl ∈ s.placements ∧ pl.origin = o ∧ pl.ctx = k := by
  have hp := List.find?_some h
  simp only [Bool.and_eq_true, beq_iff_eq] at hp
  exact ⟨List.mem_of_find?_eq_some h, hp.1, hp.2⟩

/-- A placement of a changed state is an unchanged one of another name, or one of this name changed. -/
theorem mem_modPlacement {s : State} {o : SiteId} {k : BitVec 2} {f : Placement → Placement} {q : Placement} :
    q ∈ (modPlacement s o k f).placements ↔
      ∃ p ∈ s.placements, (p.origin = o ∧ p.ctx = k ∧ q = f p) ∨ (¬ (p.origin = o ∧ p.ctx = k) ∧ q = p) := by
  simp only [modPlacement, List.mem_map]
  refine exists_congr fun p => and_congr_right fun _ => ?_
  by_cases h : p.origin = o ∧ p.ctx = k
  · simp [h, eq_comm]
  · simp only [Bool.and_eq_true, decide_eq_true_eq, h, not_false_eq_true, true_and]
    constructor
    · rintro rfl; exact .inr rfl
    · rintro (⟨h1, h2, -⟩ | rfl)
      · exact absurd ⟨h1, h2⟩ h
      · rfl

/-- The placements of one name: there is one, and P holds of each. -/
def PlacedAs (t : State) (o : SiteId) (k : BitVec 2) (P : Placement → Prop) : Prop :=
  (∃ q ∈ t.placements, q.origin = o ∧ q.ctx = k) ∧ ∀ q ∈ t.placements, q.origin = o → q.ctx = k → P q

/-- A change of a placement that keeps its name is one of every placement of that name. -/
theorem placedAs_modPlacement {s : State} {o : SiteId} {k : BitVec 2} {f : Placement → Placement} {P : Placement → Prop}
    (hf : ∀ p, (f p).origin = p.origin ∧ (f p).ctx = p.ctx) (hs : ∃ p ∈ s.placements, p.origin = o ∧ p.ctx = k)
    (hP : ∀ p ∈ s.placements, p.origin = o → p.ctx = k → P (f p)) : PlacedAs (modPlacement s o k f) o k P := by
  refine ⟨?_, fun q hq ho hk => ?_⟩
  · obtain ⟨p, hp, ho, hk⟩ := hs
    exact ⟨f p, mem_modPlacement.2 ⟨p, hp, .inl ⟨ho, hk, rfl⟩⟩, by rw [(hf p).1, ho], by rw [(hf p).2, hk]⟩
  · obtain ⟨p, hp, ⟨h1, h2, rfl⟩ | ⟨hne, rfl⟩⟩ := mem_modPlacement.1 hq
    · exact hP p hp h1 h2
    · exact absurd ⟨ho, hk⟩ hne

/-- The placement that is active at an origin is there under its name. -/
theorem exists_placed {s : State} {o : SiteId} {pl : Placement} (h : activeRegion s o = some pl) :
    ∃ p ∈ s.placements, p.origin = o ∧ p.ctx = pl.ctx :=
  ⟨pl, (activeRegion_spec h).1, (activeRegion_spec h).2.1, rfl⟩

@[simp] theorem wakeRegion_placements (s : State) (o : SiteId) : (wakeRegion s o).placements = s.placements := rfl
@[simp] theorem wakeRegion_sites (s : State) (o : SiteId) : (wakeRegion s o).sites = s.sites := rfl
@[simp] theorem wakeRegion_chans (s : State) (o : SiteId) : (wakeRegion s o).chans = s.chans := rfl
@[simp] theorem wakeRegion_mem (s : State) (o : SiteId) : (wakeRegion s o).mem = s.mem := rfl
@[simp] theorem wakeRegion_cores (s : State) (o : SiteId) : (wakeRegion s o).cores = s.cores := rfl

/-- Slices that watch a region are woken. -/
theorem woken_wakeRegion {s : State} {o : SiteId} {l : Slice} (hl : l ∈ (wakeRegion s o).slices) (hw : l.watch = some (.region o)) :
    l.woken = true := by
  simp only [wakeRegion, List.mem_map] at hl
  obtain ⟨l0, -, rfl⟩ := hl
  split at hw
  · rw [if_pos ‹_›]
  · exact absurd hw ‹_›

end Sys2Proof.Machine

namespace Sys2Proof.Machine

/-! ### Quiet reports, closing ports and completion (R55, R56, R507) -/

section Complete
variable {s : State} {o : SiteId} {pl : Placement} (h : activeRegion s o = some pl)
include h

/-- QUIET_REPORT of the active region, as one test. -/
theorem exec_quietReport : exec (.quietReport o) s =
    if pl.quiet || pl.frozen || pl.faultSite.isSome || !regionQuiet s pl then .next s
    else .next (wakeRegion (modPlacement s o pl.ctx fun p => { p with quiet := true }) o) := by
  simp only [exec, execQuietReport, h]

/-- ENTRY_PORT_CLOSE of a port of the active region. -/
theorem exec_entryPortClose {i : BitVec 8} {q : Port} (hq : pl.ports[i.toNat]? = some q) : exec (.entryPortClose o i) s =
    if q.exit || pl.closed.contains i.toNat then .next s
    else if pl.sources.contains i.toNat || upstreamClosed s pl q || queueCloses s q.site q.port.toNat then .next (closePort s pl i.toNat)
    else .next s := by
  simp only [exec, execEntryPortClose, h, hq]

/-- REGION_COMPLETION of the active region, as one test. -/
theorem exec_regionCompletion : exec (.regionCompletion o) s =
    if pl.complete || pl.armed.isSome || !reportedQuiet s pl || !entriesClosed pl || !gensClosed s pl ||
        !queuesEmpty s pl || !statsSent s pl then .next s
    else .next (closeExits s pl) := by
  simp only [exec, execRegionCompletion, h]

end Complete

/-- Every statistics count of a region has been delivered. -/
theorem statsSent_iff {s : State} {pl : Placement} : statsSent s pl = true ↔
    ∀ x ∈ pl.sites, (siteOf s x).tiles = [] ∧ ((siteOf s x).statDead = true ∨ ∀ n ∈ (siteOf s x).adder, n = 0) := by
  simp [statsSent]

/-- Some count is still to be delivered. -/
theorem statsSent_eq_false {s : State} {pl : Placement} : statsSent s pl = false ↔
    ∃ x ∈ pl.sites, (siteOf s x).tiles ≠ [] ∨ ((siteOf s x).statDead = false ∧ ∃ n ∈ (siteOf s x).adder, n ≠ 0) := by
  rw [← Bool.not_eq_true, statsSent_iff]
  push Not
  refine exists_congr fun x => and_congr_right fun _ => ?_
  rw [← Bool.not_eq_true]
  tauto

/-- Numbers put into a rising list one after another. -/
theorem mem_foldl_setInsert {α : Type} (key : α → Nat) (xs : List α) (l : List Nat) {i : Nat} :
    i ∈ xs.foldl (fun m e => setInsert m (key e)) l ↔ i ∈ l ∨ ∃ e ∈ xs, key e = i := by
  induction xs generalizing l with
  | nil => simp
  | cons a xs ih =>
    rw [List.foldl_cons, ih, mem_setInsert]
    simp only [List.exists_mem_cons_iff]
    tauto

/-- The exit ports of a placement by their numbers. -/
theorem mem_exitPorts {pl : Placement} {i : Nat} {q : Port} : (i, q) ∈ exitPorts pl ↔ pl.ports[i]? = some q ∧ q.exit = true := by
  simp only [exitPorts, List.mem_filterMap, List.mem_range]
  constructor
  · rintro ⟨j, -, hj⟩
    cases hp : pl.ports[j]? with
    | none => simp [hp] at hj
    | some k =>
      simp only [hp] at hj
      split at hj
      · simp only [Option.some.injEq, Prod.mk.injEq] at hj
        obtain ⟨rfl, rfl⟩ := hj
        exact ⟨hp, ‹_›⟩
      · cases hj
  · rintro ⟨hp, he⟩
    exact ⟨i, (List.getElem?_eq_some_iff.1 hp).1, by simp [hp, he]⟩

/-- A placement that has completed, its exit ports closed (R56). -/
def completed (pl p : Placement) : Placement :=
  { p with complete := true, closed := (exitPorts pl).foldl (fun m e => setInsert m e.1) p.closed }

/-- The exit ports of a placement that has completed are closed. -/
theorem exit_mem_closed_completed {pl p : Placement} {i : Nat} {k : Port} (hk : pl.ports[i]? = some k) (hx : k.exit = true) :
    i ∈ (completed pl p).closed :=
  (mem_foldl_setInsert Prod.fst _ _).2 (.inr ⟨(i, k), mem_exitPorts.2 ⟨hk, hx⟩, rfl⟩)

/-- A region completes; the wakes that tell of it change the slices alone. -/
theorem closeExits_eq (s : State) (pl : Placement) :
    closeExits s pl = { modPlacement s pl.origin pl.ctx (completed pl) with slices := (closeExits s pl).slices } := by
  have wakes : ∀ (xs : List (Nat × Port)) (u : State),
      let v := xs.foldl (fun u e => (portTracks e.2).foldl (fun v xt => wakeOutput v xt.1 xt.2) u) u
      v = { u with slices := v.slices } := by
    have inner : ∀ (ts : List (SiteId × Nat)) (u : State), let v := ts.foldl (fun v xt => wakeOutput v xt.1 xt.2) u
        v = { u with slices := v.slices } := by
      intro ts
      induction ts with
      | nil => intro u; rfl
      | cons t ts ih => intro u; rw [List.foldl_cons]; exact ih _
    intro xs
    induction xs with
    | nil => intro u; rfl
    | cons e xs ih =>
      intro u
      rw [List.foldl_cons]
      have h := ih ((portTracks e.2).foldl (fun v xt => wakeOutput v xt.1 xt.2) u)
      rw [inner (portTracks e.2) u] at h
      rw [inner (portTracks e.2) u]
      exact h
  exact wakes _ _

/-- Settles O39: QUIET_REPORT, ENTRY_PORT_CLOSE and REGION_COMPLETION are each one test of the active region, and what they change of
the placements they change at every one of its name. -/
theorem regionsReportAndComplete : Obligations.RegionsReportAndComplete := by
  intro s o pl h its still
  have placed := exists_placed h
  obtain ⟨-, horigin, -⟩ := activeRegion_spec h
  refine ⟨fun hstop => ?_, fun hq hf hn hr => ?_, fun i q hi => ⟨fun hstop => ?_, fun he hc hs => ?_⟩, fun hstop => ?_,
    fun hc ha hq he hg hw ht => ?_⟩
  · rw [exec_quietReport h, if_pos]
    simpa only [Bool.or_eq_true, Bool.not_eq_true', or_assoc] using hstop
  · refine ⟨wakeRegion (modPlacement s o pl.ctx fun p => { p with quiet := true }) o, ?_, ⟨rfl, rfl, rfl, rfl, rfl⟩, ?_,
      fun l hl hw => woken_wakeRegion hl hw⟩
    · rw [exec_quietReport h, if_neg (by simp [hq, hf, hn, hr])]
    show PlacedAs (modPlacement s o pl.ctx _) o pl.ctx _
    exact placedAs_modPlacement (P := fun q => q.quiet = true) (fun _ => ⟨rfl, rfl⟩) placed fun _ _ _ _ => rfl
  · rw [exec_entryPortClose h hi]
    rcases hstop with hx | hx | ⟨h1, h2, h3⟩
    · rw [if_pos (by simp [hx])]
    · rw [if_pos (by simp [hx])]
    · rw [if_neg (c := (pl.sources.contains i.toNat || upstreamClosed s pl q || queueCloses s q.site q.port.toNat) = true) (by simp [h1, h2, h3]),
        ite_self]
  · refine ⟨closePort s pl i.toNat, ?_, ⟨rfl, rfl, rfl, rfl, rfl⟩, rfl, ?_⟩
    · rw [exec_entryPortClose h hi, if_neg (by simp [he, hc]), if_pos]
      simpa [or_assoc] using hs
    · subst horigin
      show PlacedAs (modPlacement s pl.origin pl.ctx _) pl.origin pl.ctx _
      exact placedAs_modPlacement (P := fun k => i.toNat ∈ k.closed) (fun _ => ⟨rfl, rfl⟩) placed fun _ _ _ _ => mem_setInsert.2 (.inr rfl)
  · rw [exec_regionCompletion h, if_pos]
    simpa only [Bool.or_eq_true, Bool.not_eq_true', statsSent_eq_false, or_assoc] using hstop
  · refine ⟨closeExits s pl, ?_, ?_, ?_⟩
    · rw [exec_regionCompletion h, if_neg]
      simp [hc, ha, hq, he, hg, hw, statsSent_iff.2 ht]
    · rw [closeExits_eq]
      exact ⟨rfl, rfl, rfl, rfl, rfl⟩
    · rw [closeExits_eq]
      subst horigin
      show PlacedAs (modPlacement s pl.origin pl.ctx _) pl.origin pl.ctx _
      exact placedAs_modPlacement (f := completed pl) (P := fun q => q.complete = true ∧ ∀ i k, pl.ports[i]? = some k → k.exit = true → i ∈ q.closed)
        (fun _ => ⟨rfl, rfl⟩) placed fun _ _ _ _ => ⟨rfl, fun _ _ hk hx => exit_mem_closed_completed hk hx⟩

end Sys2Proof.Machine

namespace Sys2Proof.Machine

/-! ### Node faults and frozen regions (R57, R58, R275, R276, Table 8.6) -/

/-- The fields of the node fault register (Table 8.6). -/
theorem faultWord_fields (cat : Nat) {seq stage port track kind : Nat} (hq : seq < 2 ^ 12) (hg : stage < 2 ^ 4) (hp : port < 2 ^ 3)
    (ht : track < 2 ^ 3) (hk : kind < 2 ^ 8) :
    (faultWord cat seq stage port track kind).toNat % 256 = kind ∧ (faultWord cat seq stage port track kind).toNat / 2 ^ 26 % 8 = track ∧
      (faultWord cat seq stage port track kind).toNat / 2 ^ 29 % 8 = port ∧ (faultWord cat seq stage port track kind).toNat / 2 ^ 32 % 16 = stage ∧
      (faultWord cat seq stage port track kind).toNat / 2 ^ 36 % 2 ^ 12 = seq := by
  simp only [faultWord, BitVec.toNat_ofNat]
  omega

/-- The kind of a fault stands in the register's lowest byte, whatever the other fields are. -/
theorem faultWord_kind (cat seq stage port track : Nat) {kind : Nat} (hk : kind < 2 ^ 8) :
    (faultWord cat seq stage port track kind).toNat % 256 = kind := by
  simp only [faultWord, BitVec.toNat_ofNat]
  omega

/-- A site that has stopped, with the first fault in its register. -/
def stopped (k : Site) (w : Word) : Site := { k with frozen := true, fault := if k.fault = 0 then w else k.fault }

/-- The word that a fault of a site would record. -/
def faultHere (s : State) (x : SiteId) (kind stage port track seq : Nat) : Word :=
  faultWord (((activeCtx s x).map (·.catid.toNat)).getD 0xFFFF) seq stage port track kind

section NodeFault
variable (s : State) (x : SiteId) (kind stage port track seq : Nat)

/-- A node that faults stops, with the first fault in its register. -/
theorem siteOf_nodeFault_self :
    siteOf (nodeFault s x kind stage port track seq) x = stopped (siteOf s x) (faultHere s x kind stage port track seq) :=
  siteOf_modSite_self s x fun k => stopped k (faultHere s x kind stage port track seq)

/-- It stops alone. -/
theorem siteOf_nodeFault_ne {y : SiteId} (h : y ≠ x) : siteOf (nodeFault s x kind stage port track seq) y = siteOf s y :=
  siteOf_modSite_ne s (fun k => stopped k (faultHere s x kind stage port track seq)) h

/-- Nothing but the site and the placements over it changes. -/
theorem nodeFault_eq : nodeFault s x kind stage port track seq =
    { s with sites := (nodeFault s x kind stage port track seq).sites, placements := (nodeFault s x kind stage port track seq).placements } := rfl

/-- The regions over the site are on their way to a freeze. -/
theorem faultSite_nodeFault {k : Placement} (hk : k ∈ (nodeFault s x kind stage port track seq).placements) (ha : k.active = true)
    (hx : x ∈ rectSites k.origin k.rows k.cols) : k.faultSite.isSome = true := by
  simp only [nodeFault, List.mem_map] at hk
  obtain ⟨p, -, rfl⟩ := hk
  split at ha
  · rw [if_pos ‹_›]; rfl
  · rename_i hn
    rw [if_neg hn] at hx ⊢
    have hc : (rectSites p.origin p.rows p.cols).contains x = true := List.contains_iff_mem.2 hx
    rw [ha, hc] at hn
    cases hf : p.faultSite with
    | none => simp [hf] at hn
    | some y => rfl

end NodeFault

/-- NODE_FAULT, its test as one condition. -/
theorem exec_nodeFault (s : State) (x : SiteId) (kind : BitVec 8) (g p tr : BitVec 3) (q : BitVec 12) :
    exec (.nodeFault x kind g p tr q) s =
      if !siteOk x || !(siteOf s x).on || (siteOf s x).frozen || decide (kind = 0) || decide (7 < kind.toNat) then .next s
      else .next (nodeFault s x kind.toNat g.toNat p.toNat tr.toNat q.toNat) := rfl

/-! #### Freezing -/

/-- A list of sites is stopped, each with its blocked bit recorded (R58). -/
def stopSites (marks : List (SiteId × Bool)) (s : State) : State :=
  marks.foldl (fun u m => modSite u m.1 fun k => { k with frozen := true, blocked := m.2 }) s

/-- A freeze stops the region's sites, and its placement is frozen. -/
theorem freezeRegion_eq (s : State) (pl : Placement) : freezeRegion s pl =
    wakeRegion (modPlacement (stopSites (pl.sites.map fun x => (x, siteBlocked s x)) s) pl.origin pl.ctx fun p =>
      { p with frozen := true, quiet := false }) pl.origin := rfl

/-- The stopping of sites leaves all of them but whether they are stopped and blocked. -/
theorem siteOf_stopSites (marks : List (SiteId × Bool)) (s : State) (y : SiteId) :
    ∃ a b, siteOf (stopSites marks s) y = { siteOf s y with frozen := a, blocked := b } := by
  induction marks generalizing s with
  | nil => exact ⟨_, _, rfl⟩
  | cons m marks ih =>
    obtain ⟨a, b, h⟩ := ih (modSite s m.1 fun k => { k with frozen := true, blocked := m.2 })
    refine ⟨a, b, h.trans ?_⟩
    rw [siteOf_modSite]
    split
    · subst_vars; rfl
    · rfl

/-- Every site named is stopped. -/
theorem frozen_stopSites (marks : List (SiteId × Bool)) (s : State) {m : SiteId × Bool} (hm : m ∈ marks) :
    (siteOf (stopSites marks s) m.1).frozen = true :=
  siteOf_foldl_mem (key := fun m : SiteId × Bool => m.1) (P := fun k => k.frozen = true)
    (fun u a _ h => siteOf_modSite_ne u _ h) (fun u a => by rw [siteOf_modSite_self]) hm s

/-- Every site of a region that freezes is stopped. -/
theorem frozen_freezeRegion (s : State) (pl : Placement) {y : SiteId} (hy : y ∈ pl.sites) : (siteOf (freezeRegion s pl) y).frozen = true :=
  frozen_stopSites _ s (List.mem_map.2 ⟨y, hy, rfl⟩ : (y, siteBlocked s y) ∈ pl.sites.map fun x => (x, siteBlocked s x))

/-- A freeze leaves the fault registers. -/
theorem fault_freezeRegion (s : State) (pl : Placement) (y : SiteId) : (siteOf (freezeRegion s pl) y).fault = (siteOf s y).fault := by
  obtain ⟨a, b, h⟩ := siteOf_stopSites (pl.sites.map fun x => (x, siteBlocked s x)) s y
  show (siteOf (stopSites (pl.sites.map fun x => (x, siteBlocked s x)) s) y).fault = _
  rw [h]

/-- The stopping of sites changes sites alone. -/
theorem stopSites_eq (marks : List (SiteId × Bool)) (s : State) : stopSites marks s = { s with sites := (stopSites marks s).sites } := by
  induction marks generalizing s with
  | nil => rfl
  | cons m marks ih => exact ih (modSite s m.1 fun k => { k with frozen := true, blocked := m.2 })

/-- A freeze changes sites, the placements of the region's name and the slices that watch it. -/
theorem freezeRegion_changes (s : State) (pl : Placement) : freezeRegion s pl =
    { wakeRegion (modPlacement s pl.origin pl.ctx fun p => { p with frozen := true, quiet := false }) pl.origin with
      sites := (freezeRegion s pl).sites } := by
  rw [freezeRegion_eq, stopSites_eq]
  rfl

/-- The slice of an identifier after a freeze: as before, but for whether it is woken. -/
theorem findSlice_freezeRegion {s : State} {pl : Placement} {i : BitVec 32} {l : Slice} (h : findSlice s i = some l) :
    ∃ m, findSlice (freezeRegion s pl) i = some m ∧ m.core = l.core ∧ m.state = l.state := by
  unfold findSlice at h ⊢
  rw [freezeRegion_changes]
  simp only [wakeRegion, modPlacement_slices]
  rw [List.find?_map]
  refine ⟨if l.watch = some (.region pl.origin) then { l with woken := true } else l, ?_, ?_, ?_⟩
  · have same : (fun m : Slice => m.id == i) ∘ (fun l : Slice => if l.watch = some (.region pl.origin) then { l with woken := true } else l) =
        fun m => m.id == i := by funext m; simp only [Function.comp]; split <;> rfl
    rw [same, h]; rfl
  · split <;> rfl
  · split <;> rfl

/-- NODE is pending at the core of a live owner, and nothing else has changed. -/
theorem raiseNode_of_owner {s : State} {pl : Placement} {x : SiteId} {l : Slice} (h : findSlice s pl.owner = some l) (hl : l.state ≠ .retired) :
    raiseNode s pl x = setCore s l.core { coreOf s l.core with
      pendNode := (coreOf s l.core).pendNode ++
        [{ site := x, catid := fieldOf 16 48 (siteOf s x).fault.toNat, kind := fieldOf 8 0 (siteOf s x).fault.toNat, slice := pl.owner }] } := by
  simp [raiseNode, h, liveSlice, hl]

/-- NODE changes cores alone. -/
theorem raiseNode_eq (s : State) (pl : Placement) (x : SiteId) : raiseNode s pl x = { s with cores := (raiseNode s pl x).cores } := by
  unfold raiseNode
  split
  · rfl
  · split <;> rfl

section Freeze
variable {s : State} {o x : SiteId} {pl : Placement} (f : Placement → Placement)

/-- The state once a region has frozen and raised NODE for site x. -/
def frozenRaised (s : State) (o : SiteId) (pl : Placement) (x : SiteId) (f : Placement → Placement) : State :=
  modPlacement (raiseNode (freezeRegion s pl) pl x) o pl.ctx f

theorem frozenRaised_chans : (frozenRaised s o pl x f).chans = s.chans := by
  rw [frozenRaised, modPlacement_chans, raiseNode_eq, freezeRegion_changes]
  rfl

theorem frozenRaised_mem : (frozenRaised s o pl x f).mem = s.mem := by
  rw [frozenRaised, modPlacement_mem, raiseNode_eq, freezeRegion_changes]
  rfl

/-- Every site of the region is stopped. -/
theorem frozen_frozenRaised {y : SiteId} (hy : y ∈ pl.sites) : (siteOf (frozenRaised s o pl x f) y).frozen = true := by
  rw [frozenRaised, siteOf_modPlacement, raiseNode_eq]
  exact frozen_freezeRegion s pl hy

/-- The owner's core has NODE pending for the site, with the kind in its register. -/
theorem pendNode_frozenRaised {l : Slice} (h : findSlice s pl.owner = some l) (hl : l.state ≠ .retired) :
    (coreOf (frozenRaised s o pl x f) l.core).pendNode = (coreOf s l.core).pendNode ++
      [{ site := x, catid := fieldOf 16 48 (siteOf s x).fault.toNat, kind := fieldOf 8 0 (siteOf s x).fault.toNat, slice := pl.owner }] := by
  obtain ⟨m, hm, hcore, hstate⟩ := findSlice_freezeRegion (pl := pl) h
  have cores : ∀ c, coreOf (freezeRegion s pl) c = coreOf s c := fun c => by rw [freezeRegion_changes]; rfl
  show (coreOf (raiseNode (freezeRegion s pl) pl x) l.core).pendNode = _
  rw [raiseNode_of_owner hm (hstate ▸ hl), hcore, coreOf_setCore_self, cores, fault_freezeRegion]

/-- The placements of the region's name are frozen, and changed by f. -/
theorem placedAs_frozenRaised {P : Placement → Prop} (horigin : pl.origin = o) (hs : pl ∈ s.placements)
    (hf : ∀ p, (f p).origin = p.origin ∧ (f p).ctx = p.ctx)
    (hP : ∀ p ∈ s.placements, p.origin = o → p.ctx = pl.ctx → P (f { p with frozen := true, quiet := false })) :
    PlacedAs (frozenRaised s o pl x f) o pl.ctx P := by
  have placed : (raiseNode (freezeRegion s pl) pl x).placements =
      (modPlacement s o pl.ctx fun p => { p with frozen := true, quiet := false }).placements := by
    rw [raiseNode_eq, freezeRegion_changes, horigin]
    rfl
  refine placedAs_modPlacement hf ?_ ?_
  · rw [placed]
    exact ⟨_, mem_modPlacement.2 ⟨pl, hs, .inl ⟨horigin, rfl, rfl⟩⟩, horigin, rfl⟩
  · rw [placed]
    intro q hq ho hk
    obtain ⟨p, hp, ⟨h1, h2, rfl⟩ | ⟨hne, rfl⟩⟩ := mem_modPlacement.1 hq
    · exact hP p hp h1 h2
    · exact absurd ⟨ho, hk⟩ hne

end Freeze

section Events
variable {s : State} {o : SiteId} {pl : Placement} (h : activeRegion s o = some pl)
include h

/-- NODE_RAISE of the active region with a node fault. -/
theorem exec_nodeRaise {x : SiteId} (hx : pl.faultSite = some x) : exec (.nodeRaise o) s =
    if pl.raised || decide (leadCyc s pl < pl.lastMove + 64) then .next s
    else .next (frozenRaised s o pl x fun p => { p with raised := true }) := by
  simp only [exec, execNodeRaise, h, hx]
  rfl

/-- DEADLOCK_DETECTED of the active region. -/
theorem exec_deadlockDetected : exec (.deadlockDetected o) s =
    if pl.frozen || pl.faultSite.isSome || decide (leadCyc s pl < max pl.lastMove pl.countFrom + 65536) || (regionQuiet s pl || memoryBusy s pl)
    then .next s
    else .next (frozenRaised (modSite s o fun k => { k with fault := faultWord pl.catid.toNat 0 0 0 0 6 }) o pl o fun p =>
      { p with raised := true, faultSite := some o }) := by
  have ha := (activeRegion_spec h).2.2
  simp only [exec, execDeadlockDetected, h, countSuspended, ha, Bool.true_and]
  rfl

end Events

/-- Settles O40: a node fault by nodeFault, and the two freezes by one state, frozenRaised, with what each does to the placement. -/
theorem faultedRegionsFreeze : Obligations.FaultedRegionsFreeze := by
  constructor
  · intro s x kind g p tr q stops
    have test : (!siteOk x || !(siteOf s x).on || (siteOf s x).frozen || decide (kind = 0) || decide (7 < kind.toNat)) = true ↔ stops := by
      simp only [Bool.or_eq_true, Bool.not_eq_true', decide_eq_true_eq, or_assoc]
      exact Iff.rfl
    refine ⟨fun hs => by rw [exec_nodeFault, if_pos (test.2 hs)], fun hs => ?_⟩
    refine ⟨_, by rw [exec_nodeFault, if_neg (mt test.1 hs)], ?_, fun hf => ?_, fun hf => ?_, fun y hy => siteOf_nodeFault_ne _ _ _ _ _ _ _ hy,
      nodeFault_eq .., fun k hk ha hx => faultSite_nodeFault _ _ _ _ _ _ _ hk ha hx⟩
    · rw [siteOf_nodeFault_self]; rfl
    · rw [siteOf_nodeFault_self]; exact if_neg hf
    · have word : (siteOf (nodeFault s x kind.toNat g.toNat p.toNat tr.toNat q.toNat) x).fault = faultHere s x kind.toNat g.toNat p.toNat tr.toNat q.toNat := by
        rw [siteOf_nodeFault_self]; exact if_pos hf
      rw [word]
      exact faultWord_fields _ q.isLt (by omega) p.isLt tr.isLt kind.isLt
  · intro s o pl h cyc froze
    obtain ⟨hmem, horigin, -⟩ := activeRegion_spec h
    have lead : leadCyc s pl = cyc := by rw [leadCyc, horigin]
    refine ⟨fun x hx => ⟨fun hw => ?_, fun hr hl hu => ?_⟩, fun hn => ?_, fun hw => ?_, fun hf hn hl hc hq hb => ?_⟩
    · rw [exec_nodeRaise h hx, if_pos (by simpa [lead] using hw)]
    · refine ⟨_, by rw [exec_nodeRaise h hx, if_neg (by simpa [lead, hr] using hl)], fun y hy => frozen_frozenRaised _ hy, ?_⟩
      obtain ⟨placed, all⟩ := placedAs_frozenRaised (x := x) (fun p => { p with raised := true }) (P := fun q => q.frozen = true ∧ q.raised = true ∧ q.faultSite = some x)
        horigin hmem (fun _ => ⟨rfl, rfl⟩) fun p hp ho hk => by rw [hu p hp ho hk]; exact ⟨rfl, rfl, hx⟩
      refine ⟨placed, all, frozenRaised_chans _, frozenRaised_mem _, fun l hl hs => ⟨_, pendNode_frozenRaised _ hl hs, rfl, rfl, ?_⟩⟩
      simp [fieldOf]
    · simp only [exec, execNodeRaise, h, hn]
    · rw [exec_deadlockDetected h, if_pos]
      have early : leadCyc s pl < max pl.lastMove pl.countFrom + 65536 ↔ cyc < pl.lastMove + 65536 ∨ cyc < pl.countFrom + 65536 := by
        rw [lead]; omega
      simpa only [Bool.or_eq_true, decide_eq_true_eq, early, or_assoc] using hw
    · refine ⟨_, by rw [exec_deadlockDetected h, if_neg (by simp [hf, hn, hq, hb, lead]; omega)], fun y hy => frozen_frozenRaised _ hy, ?_⟩
      obtain ⟨placed, all⟩ := placedAs_frozenRaised (s := modSite s o fun k => { k with fault := faultWord pl.catid.toNat 0 0 0 0 6 }) (x := o)
        (fun p => { p with raised := true, faultSite := some o }) (P := fun q => q.frozen = true ∧ q.raised = true ∧ q.faultSite = some o)
        horigin hmem (fun _ => ⟨rfl, rfl⟩) fun p _ _ _ => ⟨rfl, rfl, rfl⟩
      refine ⟨placed, all, frozenRaised_chans _, frozenRaised_mem _, fun l hl hs => ⟨_, pendNode_frozenRaised _ hl hs, rfl, rfl, ?_⟩⟩
      rw [siteOf_modSite_self]
      exact BitVec.eq_of_toNat_eq (by simpa [fieldOf] using faultWord_kind pl.catid.toNat 0 0 0 0 (kind := 6) (by decide))

end Sys2Proof.Machine

namespace Sys2Proof.Machine

/-! ### Channels after an update -/

/-- A channel after one that holds something has been put. -/
theorem chanOf_setChan (s : State) (k j : Nat) {c : Chan} (hc : c ≠ {}) : chanOf (setChan s k c) j = if k = j then c else chanOf s j := by
  simp only [chanOf, setChan, if_neg hc, tblGet_tblSet]
  split <;> rfl

/-- A channel after one has been put, where the channels are listed in rising order. -/
theorem chanOf_setChan_rising {s : State} (h : keysFrom 0 s.chans = true) (k j : Nat) (c : Chan) :
    chanOf (setChan s k c) j = if k = j then c else chanOf s j := by
  by_cases hc : c = {}
  · simp only [chanOf, setChan, if_pos hc, tblGet_tblErase h]
    split
    · exact hc.symm
    · rfl
  · exact chanOf_setChan s k j hc

/-- The channels stay listed in rising order. -/
theorem keysFrom_modChan {s : State} (h : keysFrom 0 s.chans = true) (k : Nat) (f : Chan → Chan) :
    keysFrom 0 (modChan s k f).chans = true := by
  simp only [modChan, setChan]
  split
  · exact keysFrom_tblErase h
  · exact keysFrom_tblSet h (Nat.zero_le _)

/-- A channel after one has been changed to something that is not empty. -/
theorem chanOf_modChan (s : State) (k j : Nat) {f : Chan → Chan} (hf : f (chanOf s k) ≠ {}) :
    chanOf (modChan s k f) j = if k = j then f (chanOf s k) else chanOf s j := chanOf_setChan s k j hf

/-- A channel after one has been changed, where the channels are listed in rising order. -/
theorem chanOf_modChan_rising {s : State} (h : keysFrom 0 s.chans = true) (k j : Nat) (f : Chan → Chan) :
    chanOf (modChan s k f) j = if k = j then f (chanOf s k) else chanOf s j := chanOf_setChan_rising h k j _

/-- A channel whose oldest token has been consumed. -/
def Chan.consumed (c : Chan) : Chan := { c with slots := c.slots.drop 1, freed := c.freed + 1 }

theorem Chan.consumed_ne (c : Chan) : c.consumed ≠ {} := fun h => by simpa [Chan.consumed] using congrArg Chan.freed h

/-- A channel onto which a token has been written. -/
def Chan.sent (c : Chan) (f : Token × SiteId × Bool) : Chan := { c with flight := c.flight ++ [f] }

theorem Chan.sent_ne (c : Chan) (f : Token × SiteId × Bool) : c.sent f ≠ {} := fun h => by simpa [Chan.sent] using congrArg Chan.flight h

/-- The places of a grid of channels have keys of their own. -/
theorem chanKey_inj {x y : SiteId} {p q t u : Nat} (ht : t < 8) (hu : u < 8) (hp : p < 16) (hq : q < 16) :
    chanKey x p t = chanKey y q u ↔ x = y ∧ p = q ∧ t = u := by
  rw [← BitVec.toNat_inj]
  simp only [chanKey]
  omega

/-! ### A site that has acted -/

@[simp] theorem noteMove_chans (s : State) (x : SiteId) : (noteMove s x).chans = s.chans := rfl
@[simp] theorem noteMove_mem (s : State) (x : SiteId) : (noteMove s x).mem = s.mem := rfl
@[simp] theorem noteMove_cores (s : State) (x : SiteId) : (noteMove s x).cores = s.cores := rfl
@[simp] theorem noteMove_dies (s : State) (x : SiteId) : (noteMove s x).dies = s.dies := rfl
@[simp] theorem noteMove_slices (s : State) (x : SiteId) : (noteMove s x).slices = s.slices := rfl
@[simp] theorem noteMove_locks (s : State) (x : SiteId) : (noteMove s x).locks = s.locks := rfl
@[simp] theorem chanOf_noteMove (s : State) (x : SiteId) (k : Nat) : chanOf (noteMove s x) k = chanOf s k := rfl
@[simp] theorem dieOf_noteMove (s : State) (x : SiteId) (d : DieId) : dieOf (noteMove s x) d = dieOf s d := rfl
@[simp] theorem chanOf_modSite (s : State) (x : SiteId) (f : Site → Site) (k : Nat) : chanOf (modSite s x f) k = chanOf s k := rfl
@[simp] theorem chanOf_modPlacement (s : State) (o : SiteId) (c : BitVec 2) (f : Placement → Placement) (k : Nat) :
    chanOf (modPlacement s o c f) k = chanOf s k := rfl
@[simp] theorem chanOf_modDie (s : State) (d : DieId) (f : Die → Die) (k : Nat) : chanOf (modDie s d f) k = chanOf s k := rfl
@[simp] theorem nodeFault_chans (s : State) (x : SiteId) (a b c d e : Nat) : (nodeFault s x a b c d e).chans = s.chans := rfl
@[simp] theorem nodeFault_mem (s : State) (x : SiteId) (a b c d e : Nat) : (nodeFault s x a b c d e).mem = s.mem := rfl
@[simp] theorem nodeFault_locks (s : State) (x : SiteId) (a b c d e : Nat) : (nodeFault s x a b c d e).locks = s.locks := rfl

/-- A site that has acted is awake. -/
def moved (k : Site) (now : Nat) : Site := { k with drowsy := false, lastFire := now }

theorem siteOf_noteMove (s : State) (x y : SiteId) :
    siteOf (noteMove s x) y = if x = y then moved (siteOf s x) (dieOf s (siteDie x)).cyc else siteOf s y :=
  siteOf_modSite s x y fun k => moved k (dieOf s (siteDie x)).cyc

@[simp] theorem siteOf_noteMove_self (s : State) (x : SiteId) : siteOf (noteMove s x) x = moved (siteOf s x) (dieOf s (siteDie x)).cyc := by
  simp [siteOf_noteMove]

theorem siteOf_noteMove_ne (s : State) {x y : SiteId} (h : y ≠ x) : siteOf (noteMove s x) y = siteOf s y := by
  rw [siteOf_noteMove, if_neg (Ne.symm h)]

/-! ### Tokens written to tracks -/

/-- v is u with tokens written to tracks: nothing else has changed, and on each track they follow what was on its way. -/
structure Sends (u v : State) : Prop where
  others : v = { u with chans := v.chans }
  slots : ∀ j, (chanOf v j).slots = (chanOf u j).slots
  freed : ∀ j, (chanOf v j).freed = (chanOf u j).freed
  flight : ∀ j, (chanOf u j).flight <+: (chanOf v j).flight

theorem Sends.refl (u : State) : Sends u u := ⟨rfl, fun _ => rfl, fun _ => rfl, fun _ => List.prefix_refl _⟩

theorem Sends.trans {u v w : State} (h : Sends u v) (g : Sends v w) : Sends u w where
  others := by rw [g.others, h.others]
  slots j := (g.slots j).trans (h.slots j)
  freed j := (g.freed j).trans (h.freed j)
  flight j := (h.flight j).trans (g.flight j)

/-- Where a token goes does not depend on what the channels hold. -/
theorem Sends.outDest {u v : State} (h : Sends u v) (x : SiteId) (p t : Nat) (gate : Bool) : outDest v x p t gate = outDest u x p t gate := by
  rw [h.others]; rfl

theorem Sends.mem {u v : State} (h : Sends u v) : v.mem = u.mem := by rw [h.others]
theorem Sends.cores {u v : State} (h : Sends u v) : v.cores = u.cores := by rw [h.others]
theorem Sends.sites {u v : State} (h : Sends u v) : v.sites = u.sites := by rw [h.others]
theorem Sends.dies {u v : State} (h : Sends u v) : v.dies = u.dies := by rw [h.others]
theorem Sends.slices {u v : State} (h : Sends u v) : v.slices = u.slices := by rw [h.others]
theorem Sends.placements {u v : State} (h : Sends u v) : v.placements = u.placements := by rw [h.others]
theorem Sends.siteOf {u v : State} (h : Sends u v) (x : SiteId) : siteOf v x = siteOf u x := by rw [h.others]; rfl

/-- A track that leads somewhere after a token has been written to it. -/
theorem chanOf_emitTok {s : State} {x y : SiteId} {p t q r : Nat} {gate : Bool} (h : outDest s x p t gate = some (y, q, r)) (k : Token) (j : Nat) :
    chanOf (emitTok s x p t k gate) j = if chanKey y q r = j then (chanOf s j).sent (k, x, gate) else chanOf s j := by
  simp only [emitTok, h]
  refine (chanOf_modChan s (chanKey y q r) j (Chan.sent_ne _ (k, x, gate))).trans ?_
  split
  · subst_vars; rfl
  · rfl

/-- A token written to a track sends. -/
theorem sends_emitTok (s : State) (x : SiteId) (p t : Nat) (k : Token) (gate : Bool) : Sends s (emitTok s x p t k gate) := by
  cases h : outDest s x p t gate with
  | none => simp only [emitTok, h]; exact Sends.refl s
  | some d =>
    obtain ⟨y, q, r⟩ := d
    have chan := chanOf_emitTok h k
    refine ⟨by simp only [emitTok, h]; rfl, fun j => ?_, fun j => ?_, fun j => ?_⟩ <;> rw [chan] <;> split
    · rfl
    · rfl
    · rfl
    · rfl
    · exact List.prefix_append _ _
    · exact List.prefix_refl _

/-- Steps that each send send together. -/
theorem sends_foldl {α : Type} {g : State → α → State} (hg : ∀ u a, Sends u (g u a)) (xs : List α) (s : State) : Sends s (xs.foldl g s) := by
  induction xs generalizing s with
  | nil => exact Sends.refl s
  | cons a xs ih => exact (hg s a).trans (ih _)

/-- A token written to several outputs is on its way on each of them. -/
theorem mem_flight_of_ports {s : State} {x y : SiteId} {p t q r : Nat} {gate : Bool} {k : Token} {ps : List Nat} (hp : p ∈ ps)
    (h : outDest s x p t gate = some (y, q, r)) :
    (k, x, gate) ∈ (chanOf (ps.foldl (fun u p => emitTok u x p t k gate) s) (chanKey y q r)).flight := by
  induction ps generalizing s with
  | nil => simp at hp
  | cons a ps ih =>
    rw [List.foldl_cons]
    have one := sends_emitTok s x a t k gate
    rcases List.mem_cons.1 hp with rfl | hp
    · refine ((sends_foldl (fun u p => sends_emitTok u x p t k gate) ps _).flight _).subset ?_
      rw [chanOf_emitTok h, if_pos rfl]
      exact List.mem_append_right _ List.mem_cons_self
    · exact ih hp ((one.outDest ..).trans h)

end Sys2Proof.Machine

namespace Sys2Proof.Machine

/-! ### Switch words (R40, R41, R70, R378, R511) -/

/-- A bit of a word by its number. -/
theorem bitOf_toNat {w : Nat} (v : BitVec w) (i : Nat) : bitOf i v.toNat = v.getLsbD i := by
  rw [bitOf, BitVec.getLsbD, Nat.testBit_eq_decide_div_mod_eq, Bool.beq_eq_decide_eq]

/-- The ports of an OUT mask. -/
theorem outPorts_eq (o : BitVec 5) : outPorts o = [0, 1, 2, 3, 4].filter fun p => o.getLsbD p := by simp only [outPorts, bitOf_toNat]

/-- A word of a switch box has moved the token k from src, of which rest is left, to its outputs. -/
structure SwitchMoved (s u : State) (src : Nat) (k : Token) (rest : List Token) (ports : List Nat) (t : Nat) (gate : Bool) : Prop where
  mem : u.mem = s.mem
  cores : u.cores = s.cores
  slots : ∀ j, (chanOf u j).slots = if j = src then rest else (chanOf s j).slots
  freed : (chanOf u src).freed = (chanOf s src).freed + 1
  flight : ∀ p ∈ ports, ∀ y q r, outDest s s.focus p t gate = some (y, q, r) → (k, s.focus, gate) ∈ (chanOf u (chanKey y q r)).flight

/-- What a word moves. -/
theorem switchMove_moved {s : State} {i : Nat} {o : BitVec 5} {t : Nat} {k : Token} {rest : List Token}
    (h : (chanOf s (chanKey s.focus i t)).slots = k :: rest) (gate : Bool) :
    SwitchMoved s (switchMove s i o.toNat t k gate) (chanKey s.focus i t) k rest ([0, 1, 2, 3, 4].filter fun p => o.getLsbD p) t gate := by
  have sends := sends_foldl (fun u p => sends_emitTok u s.focus p t k gate) (outPorts (BitVec.ofNat 5 o.toNat))
    (modChan s (chanKey s.focus i t) Chan.consumed)
  have chan := fun j => chanOf_modChan s (chanKey s.focus i t) j (Chan.consumed_ne _)
  have ports : outPorts (BitVec.ofNat 5 o.toNat) = [0, 1, 2, 3, 4].filter fun p => o.getLsbD p := by rw [BitVec.ofNat_toNat, BitVec.setWidth_eq, outPorts_eq]
  refine ⟨?_, ?_, fun j => (sends.slots j).trans ?_, (sends.freed _).trans ?_, fun p hp y q r hd => mem_flight_of_ports (ports.symm ▸ hp) hd⟩
  · exact sends.mem
  · exact sends.cores
  · rw [chan]
    split
    · subst_vars
      rw [if_pos rfl, Chan.consumed, h]
      rfl
    · rw [if_neg (Ne.symm ‹_›)]
  · rw [chan, if_pos rfl]
    rfl

section Word
variable {s : State} {i t : BitVec 3} {o : BitVec 5} {k : Token} {rest : List Token}

/-- A word of a box in use sees the oldest token of its input. -/
theorem switchHead_eq (hi : i.toNat < 4) (hf : mayFire s s.focus = true) (hc : (activeCtx s s.focus).isSome = true)
    (h : (chanOf s (chanKey s.focus i.toNat t.toNat)).slots = k :: rest) : switchHead s i t = some k := by
  simp [switchHead, hi, hf, hc, h]

variable (hok : siteOk s.focus = true) (hh : switchHead s i t = some k)
include hok hh

/-- A word moves the token when every output it names has a free slot. -/
theorem switchWord_moves {gate : Bool} (hfree : ∀ p ∈ [0, 1, 2, 3, 4].filter (fun p => o.getLsbD p), outFree s s.focus p t.toNat gate = true) :
    switchWord i o t gate s = .next (switchMove s i.toNat o.toNat t.toNat k gate) := by
  simp only [switchWord, hok, hh, outPorts_eq, Bool.not_true, Bool.false_eq_true, if_false]
  rw [if_pos (List.all_eq_true.2 hfree)]

/-- Where one has none it moves nothing. -/
theorem switchWord_stays {gate : Bool} (hfull : ∃ p ∈ [0, 1, 2, 3, 4].filter (fun p => o.getLsbD p), outFree s s.focus p t.toNat gate = false) :
    switchWord i o t gate s = .next s := by
  obtain ⟨p, hp, hf⟩ := hfull
  simp only [switchWord, hok, hh, outPorts_eq, Bool.not_true, Bool.false_eq_true, if_false]
  rw [if_neg fun h => by rw [List.all_eq_true] at h; exact absurd (h p hp) (by rw [hf]; simp)]

end Word

/-- A branch that ends at a closed selvage has no wait. -/
theorem outFree_of_selvage {s : State} {x y : SiteId} {p t : Nat} (hp : p < 4) (hn : neighbour x p = some y) (hport : portAt s true x p t = none)
    (hd : domainOf s y ≠ domainOf s x) : outFree s x p t = true := by
  have dest : outDest s x p t false = some (x, p + 10, t) := by
    simp [outDest, hn, hport, comesThrough, hd, Nat.ne_of_lt hp]
  simp [outFree, dest]

/-! #### Merges -/

/-- The input an SWG word's merge grants, if any (R378). -/
def swgPick (s : State) (cx : Ctx) (o : BitVec 5) (t m : BitVec 3) : Option Nat :=
  let present (j : Nat) : Bool := !(chanOf s (chanKey s.focus j t.toNat)).slots.isEmpty
  match tblGet (siteOf s s.focus).swgHold (o.toNat * 8 + t.toNat) with
  | some h => some h
  | none => if m = 1 then (mergeInputs cx o t m).find? present
    else roundRobin (mergeInputs cx o t m) (tblGet (siteOf s s.focus).swgLast (o.toNat * 8 + t.toNat)) present

/-- The site whose merge has granted input i. -/
def granted (key i : Nat) (m : BitVec 3) (eos : Bool) (q : Site) : Site :=
  { q with swgLast := tblSet q.swgLast key i, swgHold := if m = 2 && !eos then tblSet q.swgHold key i else tblErase q.swgHold key }

/-- SWG as one test. -/
theorem exec_swg {s : State} {i t m : BitVec 3} {o : BitVec 5} {k : Token} {cx : Ctx} (hok : siteOk s.focus = true)
    (hh : switchHead s i t = some k) (hc : activeCtx s s.focus = some cx) : exec (.swg i o t m) s =
      if swgPick s cx o t m = some i.toNat && ([0, 1, 2, 3, 4].filter fun p => o.getLsbD p).all fun p => outFree s s.focus p t.toNat then
        .next (modSite (switchMove s i.toNat o.toNat t.toNat k false) s.focus (granted (o.toNat * 8 + t.toNat) i.toNat m k.eos))
      else .next s := by
  simp only [exec, execSwg, hok, hh, hc, outPorts_eq, Bool.not_true, Bool.false_eq_true, if_false]
  rfl

/-- The inputs of a merge rise. -/
theorem mergeInputs_sorted (cx : Ctx) (o : BitVec 5) (t m : BitVec 3) : (mergeInputs cx o t m).Pairwise (· < ·) :=
  List.Pairwise.filter _ (by decide)

/-- The first of a rising list that satisfies p is the one with none below it. -/
theorem find?_sorted {l : List Nat} (hl : l.Pairwise (· < ·)) {p : Nat → Bool} {i : Nat} (hi : i ∈ l) (hp : p i = true) :
    l.find? p = some i ↔ ∀ j ∈ l, j < i → p j = false := by
  induction l with
  | nil => simp at hi
  | cons a l ih =>
    obtain ⟨ha, hl⟩ := List.pairwise_cons.1 hl
    rw [List.find?_cons]
    rcases List.mem_cons.1 hi with rfl | hi
    · simp only [hp, List.mem_cons, forall_eq_or_imp, true_iff]
      exact ⟨fun h => absurd h (lt_irrefl _), fun j hj h => absurd (ha j hj) (by omega)⟩
    · cases hpa : p a with
      | true =>
        have hai := ha i hi
        simp only [Option.some.injEq, List.mem_cons, forall_eq_or_imp, hpa]
        constructor
        · omega
        · intro h; simp [hai] at h
      | false => simp [hpa, ih hl hi]

/-- The inputs before i in the order of a round robin after l. -/
def comesBefore (l i j : Nat) : Prop := if l < i then l < j ∧ j < i else l < j ∨ j < i

/-- A round robin grants the input before which none is present. -/
theorem roundRobin_eq_some {ins : List Nat} (hs : ins.Pairwise (· < ·)) {l i : Nat} {p : Nat → Bool} (hi : i ∈ ins) (hp : p i = true) :
    roundRobin ins (some l) p = some i ↔ ∀ j ∈ ins, j ≠ i → comesBefore l i j → p j = false := by
  have above := hs.filter fun j => decide (l < j)
  have below := hs.filter fun j => decide (j ≤ l)
  simp only [roundRobin, List.find?_append, comesBefore]
  by_cases hli : l < i
  · have mem : i ∈ ins.filter fun j => decide (l < j) := List.mem_filter.2 ⟨hi, by simpa using hli⟩
    have some : ∃ a, (ins.filter fun j => decide (l < j)).find? p = some a := by
      rw [← Option.isSome_iff_exists, List.find?_isSome]; exact ⟨i, mem, hp⟩
    obtain ⟨a, ha⟩ := some
    rw [ha, Option.some_or, ← ha, find?_sorted above mem hp]
    simp only [List.mem_filter, decide_eq_true_eq, if_pos hli, and_imp]
    exact ⟨fun h j hj _ h1 h2 => h j hj h1 h2, fun h j hj h1 h2 => h j hj (by omega) h1 h2⟩
  · have mem : i ∈ ins.filter fun j => decide (j ≤ l) := List.mem_filter.2 ⟨hi, by simpa using hli⟩
    simp only [if_neg hli]
    cases ha : (ins.filter fun j => decide (l < j)).find? p with
    | some a =>
      have hpa := List.find?_some ha
      obtain ⟨hai, hla⟩ := List.mem_filter.1 (List.mem_of_find?_eq_some ha)
      simp only [decide_eq_true_eq] at hla
      simp only [Option.some_or, Option.some.injEq]
      constructor
      · omega
      · intro h; exact absurd (h a hai (by omega) (.inl hla)) (by simp [hpa])
    | none =>
      have none_above : ∀ j ∈ ins, l < j → p j = false := by
        intro j hj hlj
        have := List.find?_eq_none.1 ha j (List.mem_filter.2 ⟨hj, by simpa using hlj⟩)
        simpa using this
      rw [Option.none_or, find?_sorted below mem hp]
      simp only [List.mem_filter, decide_eq_true_eq, and_imp]
      refine ⟨fun h j hj hne hb => hb.elim (none_above j hj) fun hji => ?_, fun h j hj h1 h2 => h j hj (by omega) (.inr h2)⟩
      by_cases hlj : l < j
      · exact none_above j hj hlj
      · exact h j hj (by omega) hji

section Merge
variable {s : State} {i t m : BitVec 3} {o : BitVec 5} {cx : Ctx}

/-- The input whose SEQ passes keeps the grant. -/
theorem swgPick_held {h : Nat} (hold : tblGet (siteOf s s.focus).swgHold (o.toNat * 8 + t.toNat) = some h) : swgPick s cx o t m = some h := by
  simp [swgPick, hold]

/-- An input where a token is present. -/
def inputPresent (s : State) (t : BitVec 3) (j : Nat) : Bool := !(chanOf s (chanKey s.focus j t.toNat)).slots.isEmpty

theorem inputPresent_iff {j : Nat} : inputPresent s t j = true ↔ (chanOf s (chanKey s.focus j t.toNat)).slots ≠ [] := by
  simp [inputPresent]

variable (free : tblGet (siteOf s s.focus).swgHold (o.toNat * 8 + t.toNat) = none) (hi : i.toNat ∈ mergeInputs cx o t m)
  (hp : inputPresent s t i.toNat = true)
include free hi hp

/-- By fixed priority, and before the first grant, the lowest present input is granted (R378). -/
theorem swgPick_lowest (hm : m = 1 ∨ tblGet (siteOf s s.focus).swgLast (o.toNat * 8 + t.toNat) = none) :
    swgPick s cx o t m = some i.toNat ↔ ∀ j ∈ mergeInputs cx o t m, j < i.toNat → inputPresent s t j = false := by
  have pick : swgPick s cx o t m = (mergeInputs cx o t m).find? (inputPresent s t) := by
    unfold swgPick
    rw [free]
    rcases hm with rfl | hl
    · rfl
    · simp only [hl, roundRobin, ite_self]
      rfl
  rw [pick]
  exact find?_sorted (mergeInputs_sorted ..) hi hp

/-- In turn, the next present input after the last granted is granted (R378). -/
theorem swgPick_next {l : Nat} (hm : m ≠ 1) (hl : tblGet (siteOf s s.focus).swgLast (o.toNat * 8 + t.toNat) = some l) :
    swgPick s cx o t m = some i.toNat ↔ ∀ j ∈ mergeInputs cx o t m, j ≠ i.toNat → comesBefore l i.toNat j → inputPresent s t j = false := by
  have pick : swgPick s cx o t m = roundRobin (mergeInputs cx o t m) (some l) (inputPresent s t) := by
    unfold swgPick
    rw [free, hl]
    exact if_neg hm
  rw [pick]
  exact roundRobin_eq_some (mergeInputs_sorted ..) hi hp

/-- The only input of a merge is granted. -/
theorem swgPick_only (hone : mergeInputs cx o t m = [i.toNat]) : swgPick s cx o t m = some i.toNat := by
  cases hl : tblGet (siteOf s s.focus).swgLast (o.toNat * 8 + t.toNat) with
  | none =>
    rw [swgPick_lowest free hi hp (.inr hl), hone]
    simp
  | some l =>
    by_cases hm : m = 1
    · rw [swgPick_lowest free hi hp (.inl hm), hone]
      simp
    · rw [swgPick_next free hi hp hm hl, hone]
      simp +contextual

end Merge

/-! ### Tokens on their way (R37, R38, R68, R69, R75 to R77) -/

/-- The token k that was the oldest on its way to a channel is present there, rest is still on its way, and nothing has happened to other
channels, to memory or to the cores. -/
structure Landed (s u : State) (key : Nat) (k : Token) (rest : List (Token × SiteId × Bool)) : Prop where
  slots : (chanOf u key).slots = (chanOf s key).slots ++ [k]
  flight : (chanOf u key).flight = rest
  others : ∀ j, j ≠ key → chanOf u j = chanOf s j
  mem : u.mem = s.mem
  cores : u.cores = s.cores

section Land
variable {s : State} {x src : SiteId} {p t : Nat} {k : Token} {gate : Bool} {rest : List (Token × SiteId × Bool)}
  (hs : keysFrom 0 s.chans = true) (hf : (chanOf s (chanKey x p t)).flight = (k, src, gate) :: rest)
include hs hf

/-- The oldest token in flight taken out of a channel. -/
theorem chanOf_dropFlight (j : Nat) : chanOf (dropFlight s (chanKey x p t)) j =
    if chanKey x p t = j then { chanOf s (chanKey x p t) with flight := rest } else chanOf s j := by
  rw [dropFlight, chanOf_modChan_rising hs, hf]
  rfl

/-- A token that a channel may carry becomes present. -/
theorem landed_present (h4 : k.kind ≠ 4) (h7 : k.kind ≠ 7) :
    Landed s (present (dropFlight s (chanKey x p t)) x p t k) (chanKey x p t) k rest := by
  have quiet : (decide (p < 5) && (decide (k.kind = 4) || decide (k.kind = 7))) = false := by simpa using fun _ => ⟨h4, h7⟩
  have rising : keysFrom 0 (dropFlight s (chanKey x p t)).chans = true := keysFrom_modChan hs _ _
  have put : present (dropFlight s (chanKey x p t)) x p t k =
      noteMove (modChan (dropFlight s (chanKey x p t)) (chanKey x p t) fun c => { c with slots := c.slots ++ [k] }) x :=
    if_neg (by rw [quiet]; simp)
  have chan := fun j => chanOf_modChan_rising rising (chanKey x p t) j fun c => { c with slots := c.slots ++ [k] }
  rw [put]
  refine ⟨?_, ?_, fun j hj => ?_, rfl, rfl⟩
  · rw [chanOf_noteMove, chan, if_pos rfl, chanOf_dropFlight hs hf, if_pos rfl]
  · rw [chanOf_noteMove, chan, if_pos rfl, chanOf_dropFlight hs hf, if_pos rfl]
  · rw [chanOf_noteMove, chan, if_neg (Ne.symm hj), chanOf_dropFlight hs hf, if_neg (Ne.symm hj)]

omit hs hf in
/-- Noting the cycle of a crossing keeps a token landed. -/
theorem Landed.crossed {u : State} (h : Landed s u (chanKey x p t) k rest) (now : Nat) :
    Landed s (modChan u (chanKey x p t) fun c => { c with crossed := some now }) (chanKey x p t) k rest ∧
      (chanOf (modChan u (chanKey x p t) fun c => { c with crossed := some now }) (chanKey x p t)).crossed = some now := by
  have chan := fun j => chanOf_modChan u (chanKey x p t) j (f := fun c => { c with crossed := some now })
    fun e => by simpa using congrArg Chan.crossed e
  refine ⟨⟨?_, ?_, fun j hj => ?_, h.mem, h.cores⟩, ?_⟩
  · rw [chan, if_pos rfl]; exact h.slots
  · rw [chan, if_pos rfl]; exact h.flight
  · rw [chan, if_neg (Ne.symm hj)]; exact h.others j hj
  · rw [chan, if_pos rfl]

omit hs hf in
/-- At an input that no port of the pattern covers a token lands where there is room. -/
theorem land_eq (hp : p < 5) (hport : portAt s false x p t = none) : land s x p t k src =
    if (chanOf s (chanKey x p t)).slots.length < 4 then present (dropFlight s (chanKey x p t)) x p t k else s := by
  simp [land, Nat.not_le.2 hp, hport]

end Land

section Transfer
variable {s : State} {x src : SiteId} {p : BitVec 4} {t : BitVec 3} {k : Token} {gate : Bool} {rest : List (Token × SiteId × Bool)}
  (hok : siteOk x = true) (hdie : dieGone s (siteDie x) = false) (hf : (chanOf s (chanKey x p.toNat t.toNat)).flight = (k, src, gate) :: rest)
include hok hdie hf

/-- TOKEN_TRANSFER of a token that comes through on its die. -/
theorem exec_tokenTransfer (hp : p.toNat < 5) (hsame : siteDie src = siteDie x) (hc : p = 4 ∨ src = x ∨ domainOf s x = domainOf s src) :
    exec (.tokenTransfer x p t) s = .next (land s x p.toNat t.toNat k src) := by
  have through : (decide (p.toNat < 4) && src != x && !crosses s x p.toNat t.toNat src gate) = false := by
    rcases hc with rfl | rfl | hd
    · rfl
    · simp
    · simp [crosses, comesThrough, hd]
  simp only [exec, execTokenTransfer, hok, hdie, hf]
  rw [if_neg (by simp; omega), if_neg (by rw [through]; simp [hsame])]

/-- BOUNDARY_TRACK_TRANSFER of a token of the same domain whose sender's die is there. -/
theorem exec_boundaryTrackTransfer (hp : p.toNat < 4) (hother : siteDie src ≠ siteDie x) (hsrc : dieGone s (siteDie src) = false)
    (hd : domainOf s x = domainOf s src) : exec (.boundaryTrackTransfer x p t) s =
      if !slotNow s (siteDie src) 4 (domainOf s src) || (chanOf s (chanKey x p.toNat t.toNat)).crossed == some (dieOf s (siteDie src)).cyc
      then .next s
      else .next (if (chanOf (land s x p.toNat t.toNat k src) (chanKey x p.toNat t.toNat)).flight.length < rest.length + 1 then
        modChan (land s x p.toNat t.toNat k src) (chanKey x p.toNat t.toNat) fun c => { c with crossed := some (dieOf s (siteDie src)).cyc }
        else land s x p.toNat t.toNat k src) := by
  simp only [exec, execBoundaryTrackTransfer, hok, hdie, hf]
  rw [if_neg (by simp; omega)]
  simp [hother, hsrc, crosses, comesThrough, hd]

end Transfer

/-! #### Drops -/

/-- The port that a dropped token's sender wrote it to (R69). -/
def droppedBy (p : Nat) : Nat := if 10 ≤ p then p - 10 else facing p

/-- A token has been taken off its track and counted in its sender's domain. -/
def droppedState (s : State) (key : Nat) (src : SiteId) : State :=
  modDie (dropFlight s key) (siteDie src) fun e => { e with
    selvDrops := tblSet e.selvDrops (domainOf s src).toNat ((tblGet e.selvDrops (domainOf s src).toNat).getD 0 + 1) }

/-- SELVAGE_DROP of a token that does not come through, at a link whose ends are there. -/
theorem exec_selvageDrop {s : State} {x src : SiteId} {p : BitVec 4} {t : BitVec 3} {k : Token} {gate : Bool} {rest : List (Token × SiteId × Bool)}
    (hok : siteOk x = true) (hdie : dieGone s (siteDie x) = false) (hf : (chanOf s (chanKey x p.toNat t.toNat)).flight = (k, src, gate) :: rest)
    (hdrop : (p.toNat < 4 ∧ src ≠ x ∧ domainOf s x ≠ domainOf s src ∧ gate = false) ∨
      (10 ≤ p.toNat ∧ dieGone s (siteDie ((neighbour x (p.toNat - 10)).getD x)) = false)) (hsrc : dieGone s (siteDie src) = false) :
    exec (.selvageDrop x p t) s =
      match activeAt s src with
      | some pl =>
        if pl.dropReported then .next (noteMove (droppedState s (chanKey x p.toNat t.toNat) src) src)
        else .next (modPlacement (nodeFault (noteMove (droppedState s (chanKey x p.toNat t.toNat) src) src) src 3 0 (droppedBy p.toNat)
          t.toNat k.seq.toNat) pl.origin pl.ctx fun q => { q with dropReported := true })
      | none => .next (droppedState s (chanKey x p.toNat t.toNat) src) := by
  have place : (decide (3 < p.toNat) && decide (p.toNat < 10)) = false := by simp; omega
  have ends : (selvageLink s x p.toNat src).2 = true := by
    rcases hdrop with ⟨hp, -⟩ | ⟨hp, hn⟩
    · simp [selvageLink, hsrc, hdie, Nat.not_le.2 (show p.toNat < 10 by omega)]
    · simp [selvageLink, hsrc, hn, hp]
  have barred : (decide (p.toNat < 4) && (src == x || crosses s x p.toNat t.toNat src gate)) = false := by
    rcases hdrop with ⟨-, hne, hd, rfl⟩ | ⟨hp, -⟩
    · simp [crosses, comesThrough, hne, hd]
    · simp [show ¬ p.toNat < 4 by omega]
  simp only [exec, execSelvageDrop, hok, hf, place, barred, ends]
  rfl

@[simp] theorem chanOf_nodeFault (s : State) (x : SiteId) (a b c d e k : Nat) : chanOf (nodeFault s x a b c d e) k = chanOf s k := rfl
@[simp] theorem dieOf_nodeFault (s : State) (x : SiteId) (a b c d e : Nat) (i : DieId) : dieOf (nodeFault s x a b c d e) i = dieOf s i := rfl
@[simp] theorem dieOf_modPlacement (s : State) (o : SiteId) (c : BitVec 2) (f : Placement → Placement) (i : DieId) :
    dieOf (modPlacement s o c f) i = dieOf s i := rfl

/-- A token has been dropped: it is off its track and counted, and the first drop of a configuration period is a node fault. -/
structure Dropped (s u : State) (key : Nat) (src : SiteId) (rest : List (Token × SiteId × Bool)) (port t : Nat) : Prop where
  flight : (chanOf u key).flight = rest
  slots : (chanOf u key).slots = (chanOf s key).slots
  drops : tblGet (dieOf u (siteDie src)).selvDrops (domainOf s src).toNat =
    some ((tblGet (dieOf s (siteDie src)).selvDrops (domainOf s src).toNat).getD 0 + 1)
  again : ∀ pl, activeAt s src = some pl → pl.dropReported = true →
    (siteOf u src).frozen = (siteOf s src).frozen ∧ (siteOf u src).fault = (siteOf s src).fault
  first : ∀ pl, activeAt s src = some pl → pl.dropReported = false → (siteOf u src).frozen = true ∧
    ((siteOf s src).fault = 0 → (siteOf u src).fault.toNat % 256 = 3 ∧ (siteOf u src).fault.toNat / 2 ^ 26 % 8 = t ∧
      (siteOf u src).fault.toNat / 2 ^ 29 % 8 = port) ∧
    ∀ q ∈ u.placements, q.origin = pl.origin → q.ctx = pl.ctx → q.dropReported = true

/-- The drop counters of the dies after a drop. -/
theorem dieOf_droppedState (s : State) (key : Nat) (src : SiteId) :
    dieOf (droppedState s key src) (siteDie src) = { dieOf s (siteDie src) with
      selvDrops := tblSet (dieOf s (siteDie src)).selvDrops (domainOf s src).toNat
        ((tblGet (dieOf s (siteDie src)).selvDrops (domainOf s src).toNat).getD 0 + 1) } := by
  simp only [droppedState, dieOf, modDie, setDie, tblGet_tblSet, if_true]
  rfl

/-- A drop is counted. -/
theorem selvDrops_droppedState (s : State) (key : Nat) (src : SiteId) :
    tblGet (dieOf (droppedState s key src) (siteDie src)).selvDrops (domainOf s src).toNat =
      some ((tblGet (dieOf s (siteDie src)).selvDrops (domainOf s src).toNat).getD 0 + 1) := by
  rw [dieOf_droppedState]
  exact (tblGet_tblSet _ _ _ _).trans (if_pos rfl)

/-- What a drop does (R68, R69). -/
theorem selvageDrop_dropped {s : State} {x src : SiteId} {p : BitVec 4} {t : BitVec 3} {k : Token} {gate : Bool} {rest : List (Token × SiteId × Bool)}
    (hok : siteOk x = true) (hdie : dieGone s (siteDie x) = false) (hs : keysFrom 0 s.chans = true)
    (hf : (chanOf s (chanKey x p.toNat t.toNat)).flight = (k, src, gate) :: rest)
    (hdrop : (p.toNat < 4 ∧ src ≠ x ∧ domainOf s x ≠ domainOf s src ∧ gate = false) ∨
      (10 ≤ p.toNat ∧ dieGone s (siteDie ((neighbour x (p.toNat - 10)).getD x)) = false)) (hsrc : dieGone s (siteDie src) = false) :
    ∃ u, exec (.selvageDrop x p t) s = .next u ∧ Dropped s u (chanKey x p.toNat t.toNat) src rest (droppedBy p.toNat) t.toNat := by
  have run := exec_selvageDrop hok hdie hf hdrop hsrc
  have chan : chanOf (droppedState s (chanKey x p.toNat t.toNat) src) (chanKey x p.toNat t.toNat) =
      { chanOf s (chanKey x p.toNat t.toNat) with flight := rest } := by
    rw [droppedState, chanOf_modDie, chanOf_dropFlight hs hf, if_pos rfl]
  have flight := congrArg Chan.flight chan
  have slots : (chanOf (droppedState s (chanKey x p.toNat t.toNat) src) (chanKey x p.toNat t.toNat)).slots =
    (chanOf s (chanKey x p.toNat t.toNat)).slots := by rw [chan]
  have port : droppedBy p.toNat < 2 ^ 3 := by
    have := p.isLt
    unfold droppedBy facing
    split <;> omega
  cases hpl : activeAt s src with
  | none =>
    rw [hpl] at run
    exact ⟨_, run, flight, slots, selvDrops_droppedState .., fun _ h => by simp [hpl] at h, fun _ h => by simp [hpl] at h⟩
  | some pl =>
    have only : ∀ {q}, activeAt s src = some q → q = pl := fun h => Option.some.inj (h.symm.trans hpl)
    rw [hpl] at run
    cases hr : pl.dropReported with
    | true =>
      simp only [hr, if_true] at run
      refine ⟨_, run, flight, slots, selvDrops_droppedState .., fun _ _ _ => ?_, fun q hq hno => ?_⟩
      · rw [siteOf_noteMove_self]
        exact ⟨rfl, rfl⟩
      · rw [only hq, hr] at hno
        exact absurd hno (by decide)
    | false =>
      simp only [hr, Bool.false_eq_true, if_false] at run
      refine ⟨_, run, ?_, ?_, ?_, fun q hq hyes => ?_, fun q hq _ => ?_⟩
      · rw [chanOf_modPlacement, chanOf_nodeFault]
        exact flight
      · rw [chanOf_modPlacement, chanOf_nodeFault]
        exact slots
      · rw [dieOf_modPlacement, dieOf_nodeFault]
        exact selvDrops_droppedState ..
      · rw [only hq, hr] at hyes
        exact absurd hyes (by decide)
      · rw [only hq, siteOf_modPlacement, siteOf_nodeFault_self, siteOf_noteMove_self]
        refine ⟨rfl, fun h0 => ?_, fun r hr ho hk => ?_⟩
        · obtain ⟨kind, track, port, -⟩ := faultWord_fields
            (((activeCtx (noteMove (droppedState s (chanKey x p.toNat t.toNat) src) src) src).map (·.catid.toNat)).getD 0xFFFF)
            k.seq.isLt (by decide : 0 < 2 ^ 4) port t.isLt (by decide : 3 < 2 ^ 8)
          have fault : (stopped (moved (siteOf (droppedState s (chanKey x p.toNat t.toNat) src) src)
              (dieOf (droppedState s (chanKey x p.toNat t.toNat) src) (siteDie src)).cyc)
              (faultHere (noteMove (droppedState s (chanKey x p.toNat t.toNat) src) src) src 3 0 (droppedBy p.toNat) t.toNat k.seq.toNat)).fault =
              faultHere (noteMove (droppedState s (chanKey x p.toNat t.toNat) src) src) src 3 0 (droppedBy p.toNat) t.toNat k.seq.toNat := if_pos h0
          rw [fault]
          exact ⟨kind, track, port⟩
        · obtain ⟨_, -, ⟨-, -, rfl⟩ | ⟨hne, rfl⟩⟩ := mem_modPlacement.1 hr
          · rfl
          · exact absurd ⟨ho, hk⟩ hne

/-- The merges of the site of a switch box after a word has moved a token. -/
theorem siteOf_switchMove (s : State) (i o t : Nat) (k : Token) (gate : Bool) :
    siteOf (switchMove s i o t k gate) s.focus = moved (siteOf s s.focus) (dieOf s (siteDie s.focus)).cyc := by
  have sends := sends_foldl (fun u p => sends_emitTok u s.focus p t k gate) (outPorts (BitVec.ofNat 5 o))
    (modChan s (chanKey s.focus i t) Chan.consumed)
  refine (siteOf_noteMove_self _ _).trans (congrArg₂ moved (sends.siteOf _) ?_)
  exact congrArg (fun ds => ((tblGet ds (siteDie s.focus).toNat).getD {}).cyc) sends.dies

section Words
variable {s : State} {i t m : BitVec 3} {o : BitVec 5} {k : Token} {rest : List Token} {cx : Ctx} (hok : siteOk s.focus = true)
  (hh : switchHead s i t = some k) (hslots : (chanOf s (chanKey s.focus i.toNat t.toNat)).slots = k :: rest)
include hok hh hslots

/-- SWP, SWM and SWB move the token when every output they name has a free slot. -/
theorem switchWord_moved {w : Instr} {gate : Bool} (hw : exec w s = switchWord i o t gate s)
    (hfree : ∀ p ∈ [0, 1, 2, 3, 4].filter (fun p => o.getLsbD p), outFree s s.focus p t.toNat gate = true) :
    ∃ u, exec w s = .next u ∧ SwitchMoved s u (chanKey s.focus i.toNat t.toNat) k rest ([0, 1, 2, 3, 4].filter fun p => o.getLsbD p) t.toNat gate :=
  ⟨_, hw.trans (switchWord_moves hok hh hfree), switchMove_moved hslots gate⟩

variable (hc : activeCtx s s.focus = some cx)
include hc

/-- SWG moves the token of the input that its merge grants, and notes the grant. -/
theorem swg_moved (hpick : swgPick s cx o t m = some i.toNat)
    (hfree : ∀ p ∈ [0, 1, 2, 3, 4].filter (fun p => o.getLsbD p), outFree s s.focus p t.toNat = true) :
    ∃ u, exec (.swg i o t m) s = .next u ∧
      SwitchMoved s u (chanKey s.focus i.toNat t.toNat) k rest ([0, 1, 2, 3, 4].filter fun p => o.getLsbD p) t.toNat false ∧
      siteOf u s.focus = granted (o.toNat * 8 + t.toNat) i.toNat m k.eos (moved (siteOf s s.focus) (dieOf s (siteDie s.focus)).cyc) := by
  refine ⟨_, by rw [exec_swg hok hh hc, if_pos (by rw [Bool.and_eq_true]; exact ⟨by simpa using hpick, List.all_eq_true.2 hfree⟩)], ?_, ?_⟩
  · have h := switchMove_moved hslots (o := o) false
    exact ⟨h.mem, h.cores, h.slots, h.freed, h.flight⟩
  · rw [siteOf_modSite_self, siteOf_switchMove]

end Words

/-- Settles O38: the words by what switchMove does to the channels and which input a merge grants; transfers and drops by what land and
droppedState do, on channels that are listed in rising order. -/
theorem tokensMove : Obligations.TokensMove := by
  constructor
  · intro s i t m o k rest hok hi x src ports moved hfire hctx hslots
    have hh := switchHead_eq hi hfire hctx hslots
    have of : ∀ {w gate}, (∃ u, exec w s = .next u ∧ SwitchMoved s u src k rest ports t.toNat gate) → moved w gate :=
      fun ⟨u, hu, h⟩ => ⟨u, hu, h.mem, h.cores, h.slots, h.freed, h.flight⟩
    have stuck : ∀ {cx : Ctx}, activeCtx s x = some cx → swgPick s cx o t m ≠ some i.toNat ∨ (∃ p ∈ ports, outFree s x p t.toNat = false) →
        exec (.swg i o t m) s = .next s := fun {cx} hc hno => by
      rw [exec_swg hok hh hc, if_neg]
      rw [Bool.and_eq_true, List.all_eq_true]
      rintro ⟨hpick, hfree⟩
      rcases hno with hno | ⟨p, hp, hf⟩
      · exact hno (by simpa using hpick)
      · exact absurd (hfree p hp) (by rw [hf]; simp)
    refine ⟨fun hfree => ⟨of (switchWord_moved hok hh hslots rfl hfree), of (switchWord_moved hok hh hslots rfl hfree)⟩,
      fun hfree => of (switchWord_moved hok hh hslots rfl hfree), fun hfull => ⟨switchWord_stays hok hh hfull, switchWord_stays hok hh hfull⟩,
      fun hfull => switchWord_stays hok hh hfull, fun p y hp hn hport hd => outFree_of_selvage hp hn hport hd, fun cx hc hone hhold => ?_, ?_⟩
    · have hpick := swgPick_only hhold (by rw [hone]; exact List.mem_cons_self) (inputPresent_iff.2 (by rw [hslots]; simp)) hone
      refine ⟨fun hfree => ?_, fun hfull => stuck hc (.inr hfull)⟩
      obtain ⟨u, hu, h, -⟩ := swg_moved hok hh hslots hc hpick hfree
      exact of ⟨u, hu, h⟩
    · intro cx hc hkh hkl key present inputs goes stays hfree
      have here : inputPresent s t i.toNat = true := inputPresent_iff.2 (by rw [hslots]; simp)
      have absent : ∀ {j}, inputPresent s t j = false ↔ ¬ present j := fun {j} => by rw [← Bool.not_eq_true, inputPresent_iff]
      have go : swgPick s cx o t m = some i.toNat → goes := fun hpick => by
        obtain ⟨u, hu, h, hsite⟩ := swg_moved hok hh hslots hc hpick hfree
        refine ⟨of ⟨u, hu, h⟩, u, hu, ?_, ?_⟩ <;> rw [hsite]
        · exact (tblGet_tblSet _ _ _ _).trans (if_pos rfl)
        · simp only [granted, Machine.moved]
          by_cases hm : m = 2 ∧ k.eos = false
          · rw [if_pos (by simpa using hm), if_pos hm, tblGet_tblSet, if_pos rfl]
          · rw [if_neg (by simpa using hm), if_neg hm, tblGet_tblErase hkh, if_pos rfl]
      refine ⟨fun hold => go (swgPick_held hold), fun h hold hne => stuck hc (.inl ?_), fun free hin => ⟨fun hm hlow => ?_, fun hm hlow => ?_, ?_⟩⟩
      · rw [swgPick_held hold]
        exact fun e => hne (Option.some.inj e)
      · exact go ((swgPick_lowest free hin here hm).2 fun j hj hji => absent.2 (hlow j hj hji))
      · obtain ⟨j, hj, hji, hp⟩ := hlow
        exact stuck hc (.inl fun hpick => absent.1 ((swgPick_lowest free hin here hm).1 hpick j hj hji) hp)
      · intro l hm hl before
        refine ⟨fun hb => ?_, fun hb => ?_⟩
        · exact go ((swgPick_next free hin here hm hl).2 fun j hj hne hbefore => absent.2 fun hp => hb j ⟨hj, hp, hne, hbefore⟩)
        · obtain ⟨j, hj, hp, hne, hbefore⟩ := hb
          exact stuck hc (.inl fun hpick => absent.1 ((swgPick_next free hin here hm hl).1 hpick j hj hne hbefore) hp)
  · intro s x src p t k gate rest hinv key landed
    have of : ∀ {i u}, exec i s = .next u → Landed s u key k rest → landed i :=
      fun hu h => ⟨_, hu, h.slots, h.flight, h.others, h.mem, h.cores⟩
    refine ⟨⟨_, rfl, ?_⟩, fun hok hdie hf => ⟨fun hp hsame hport hc h4 h7 => ⟨fun hroom => ?_, fun hfull => ?_⟩, ?_, fun hdrop hsrc => ?_⟩⟩
    · have chan := fun j => chanOf_modChan_rising hinv.chans key j fun c => { c with freed := c.freed - 1 }
      refine ⟨?_, ?_, fun j hj => (chan j).trans (if_neg (Ne.symm hj))⟩ <;> rw [chan, if_pos rfl]
    · exact of (by rw [exec_tokenTransfer hok hdie hf hp hsame hc, land_eq hp hport, if_pos hroom]) (landed_present hinv.chans hf h4 h7)
    · rw [exec_tokenTransfer hok hdie hf hp hsame hc, land_eq hp hport, if_neg (Nat.not_lt.2 hfull)]
    · intro hp hother hsrc hport hd h4 h7 now
      refine ⟨fun hslot hcross hroom => ?_, fun hno => ?_⟩
      · have hl := landed_present hinv.chans hf h4 h7
        obtain ⟨hland, hcrossed⟩ := hl.crossed now
        have run : exec (.boundaryTrackTransfer x p t) s = .next (modChan (present (dropFlight s key) x p.toNat t.toNat k) key fun c =>
            { c with crossed := some now }) := by
          rw [exec_boundaryTrackTransfer hok hdie hf hp hother hsrc hd, if_neg (by simp [hslot]; exact hcross), land_eq (by omega) hport, if_pos hroom,
            if_pos (by rw [hl.flight]; omega)]
        exact ⟨of run hland, _, run, hcrossed⟩
      · rw [exec_boundaryTrackTransfer hok hdie hf hp hother hsrc hd, if_pos]
        simpa using hno
    · obtain ⟨u, hu, h⟩ := selvageDrop_dropped hok hdie hinv.chans hf hdrop hsrc
      exact ⟨u, hu, h.flight, h.slots, h.drops, fun pl hpl => ⟨h.again pl hpl, h.first pl hpl⟩⟩

end Sys2Proof.Machine

namespace Sys2Proof.Machine

/-! ### A memory element at a column the fabric does not have (R20) -/

/-- A site of kind 1 at column 88, which the fabric does not have. -/
def strayElement : SiteId := 88#14

/-- A state whose one site with a context is the stray one: its word is SPFIFO. -/
def strayState : State :=
  modSite {} strayElement fun k => { k with
    on := true, ctxs := .replicate 4 (some { catid := 0, kind := 1, owner := 0, origin := 0, ewords := [0x96000000#32] }) }

/-- The element's token is accepted by its word, which finds no site there. -/
theorem exec_meTokenAccept_stray : exec (.meTokenAccept strayElement) strayState = .fault .noSuchSite := rfl

/-- Refutes O60: METOKENACCEPT asks that its site is of kind 1 and has a context, not that the fabric has it. -/
theorem not_noInstructionStops : ¬ Obligations.NoInstructionStops := by
  unfold Obligations.NoInstructionStops
  intro h
  obtain ⟨t, ht⟩ := h (.meTokenAccept strayElement) strayState (by decide)
  rw [exec_meTokenAccept_stray] at ht
  exact absurd ht (by simp)

end Sys2Proof.Machine

namespace Sys2Proof.Machine

/-! ### What a node's operations leave as it was -/

/-- v is u with other tokens on its tracks. -/
structure OnlyChans (u v : State) : Prop where
  others : v = { u with chans := v.chans }

namespace OnlyChans
variable {u v w : State}

theorem refl (u : State) : OnlyChans u u := ⟨rfl⟩
theorem trans (h : OnlyChans u v) (g : OnlyChans v w) : OnlyChans u w := ⟨by rw [g.others, h.others]⟩
theorem siteOf (h : OnlyChans u v) (x : SiteId) : siteOf v x = siteOf u x := by rw [h.others]; rfl
theorem activeCtx (h : OnlyChans u v) (x : SiteId) : activeCtx v x = activeCtx u x := by rw [h.others]; rfl
theorem mayFire (h : OnlyChans u v) (x : SiteId) : mayFire v x = mayFire u x := by rw [h.others]; rfl
theorem mem (h : OnlyChans u v) : v.mem = u.mem := by rw [h.others]
theorem locks (h : OnlyChans u v) : v.locks = u.locks := by rw [h.others]
theorem draws (h : OnlyChans u v) : v.draws = u.draws := by rw [h.others]
theorem serial (h : OnlyChans u v) : v.serial = u.serial := by rw [h.others]
theorem placements (h : OnlyChans u v) : v.placements = u.placements := by rw [h.others]
theorem streams (h : OnlyChans u v) : v.streams = u.streams := by rw [h.others]
theorem dies (h : OnlyChans u v) : v.dies = u.dies := by rw [h.others]
theorem findSlice (h : OnlyChans u v) (i : BitVec 32) : findSlice v i = findSlice u i := by rw [h.others]; rfl

end OnlyChans

theorem Sends.onlyChans {u v : State} (h : Sends u v) : OnlyChans u v := ⟨h.others⟩

/-- Steps that each change tokens only do so together. -/
theorem onlyChans_foldl {α : Type} {g : State → α → State} (hg : ∀ u a, OnlyChans u (g u a)) (xs : List α) (s : State) :
    OnlyChans s (xs.foldl g s) := by
  induction xs generalizing s with
  | nil => exact OnlyChans.refl s
  | cons a xs ih => exact (hg s a).trans (ih _)

theorem onlyChans_modChan (s : State) (k : Nat) (f : Chan → Chan) : OnlyChans s (modChan s k f) := by
  constructor
  simp only [modChan, setChan]

theorem consumeTok_eq (s : State) (x : SiteId) (p t : Nat) :
    consumeTok s x p t = modChan s (chanKey (trackAt x t).1 p (trackAt x t).2) Chan.consumed := rfl

theorem onlyChans_consumeTok (s : State) (x : SiteId) (p t : Nat) : OnlyChans s (consumeTok s x p t) := by
  rw [consumeTok_eq]
  exact onlyChans_modChan ..

theorem onlyChans_consumeBundle (s : State) (x : SiteId) (p t w : Nat) : OnlyChans s (consumeBundle s x p t w) :=
  onlyChans_foldl (fun u k => onlyChans_consumeTok u x p (t + k)) _ s

theorem emitAll_eq (s : State) (x : SiteId) (ts : List (Nat × Nat × Token)) :
    emitAll s x ts = ts.foldl (fun u k => emitTok u (trackAt x k.2.1).1 k.1 (trackAt x k.2.1).2 k.2.2 false) s := rfl

/-- Tokens written to a node's outputs are sent. -/
theorem sends_emitAll (s : State) (x : SiteId) (ts : List (Nat × Nat × Token)) : Sends s (emitAll s x ts) := by
  rw [emitAll_eq]
  exact sends_foldl (fun u k => sends_emitTok u (trackAt x k.2.1).1 k.1 (trackAt x k.2.1).2 k.2.2 false) ts s

theorem onlyChans_emitAll (s : State) (x : SiteId) (ts : List (Nat × Nat × Token)) : OnlyChans s (emitAll s x ts) := (sends_emitAll s x ts).onlyChans

@[simp] theorem emitAll_nil (s : State) (x : SiteId) : emitAll s x [] = s := rfl

theorem onlyChans_consumeAll (s : State) (x : SiteId) (ins : List (Nat × Nat)) :
    OnlyChans s (ins.foldl (fun u i => consumeTok u x i.1 i.2) s) :=
  onlyChans_foldl (g := fun u (i : Nat × Nat) => consumeTok u x i.1 i.2) (fun u i => onlyChans_consumeTok u x i.1 i.2) ins s

/-- A first stage that takes its inputs changes tokens only. -/
theorem onlyChans_takeFirst {s u : State} {x : SiteId} {cx : Ctx} {srcs : List Src} {cin : Bool} {v : Inv} {ports : List (Nat × Token)}
    (h : takeFirst s x cx srcs cin = .take u v ports) : OnlyChans s u := by
  have consume := onlyChans_consumeAll s x (firstInputs cx srcs cin)
  unfold takeFirst at h
  extract_lets ins lead at h
  split at h
  · cases h
  · split at h
    · cases h
    · split at h
      · cases h
      · split at h
        · cases h
        · split at h
          · exact (First.take.inj h).1 ▸ consume
          · split at h
            · cases h
            · exact (First.take.inj h).1 ▸ consume

/-- v is u with other counts of its converters and other tiles to send. -/
structure Tallied (u v : State) : Prop where
  others : v = { u with sites := v.sites }
  site : ∀ y, siteOf v y = { siteOf u y with stats := (siteOf v y).stats, tiles := (siteOf v y).tiles }

namespace Tallied
variable {u v w : State}

theorem refl (u : State) : Tallied u u := ⟨rfl, fun _ => rfl⟩
theorem trans (h : Tallied u v) (g : Tallied v w) : Tallied u w := ⟨by rw [g.others, h.others], fun y => by rw [g.site, h.site]⟩
theorem mem (h : Tallied u v) : v.mem = u.mem := by rw [h.others]
theorem chans (h : Tallied u v) : v.chans = u.chans := by rw [h.others]
theorem locks (h : Tallied u v) : v.locks = u.locks := by rw [h.others]
theorem placements (h : Tallied u v) : v.placements = u.placements := by rw [h.others]
theorem gateways (h : Tallied u v) : v.gateways = u.gateways := by rw [h.others]
theorem serial (h : Tallied u v) : v.serial = u.serial := by rw [h.others]
theorem win (h : Tallied u v) (y : SiteId) : (siteOf v y).win = (siteOf u y).win := by rw [h.site]
theorem fifo (h : Tallied u v) (y : SiteId) : (siteOf v y).fifo = (siteOf u y).fifo := by rw [h.site]
theorem arcs (h : Tallied u v) (y : SiteId) : (siteOf v y).arcs = (siteOf u y).arcs := by rw [h.site]
theorem node (h : Tallied u v) (y : SiteId) : (siteOf v y).node = (siteOf u y).node := by rw [h.site]
theorem domain (h : Tallied u v) (y : SiteId) : domainOf v y = domainOf u y := by
  rw [domainOf, h.site]
  rfl

end Tallied

/-- A site of which only counts and tiles change. -/
theorem tallied_modSite {s : State} {x : SiteId} {f : Site → Site} (hf : ∀ k, f k = { k with stats := (f k).stats, tiles := (f k).tiles }) :
    Tallied s (modSite s x f) := by
  refine ⟨rfl, fun y => ?_⟩
  rw [siteOf_modSite]
  split
  · subst_vars; exact hf _
  · rfl

theorem tallied_countAt (s : State) (x : SiteId) (k i n : Nat) : Tallied s (countAt s x k i n) := by
  unfold countAt
  split
  · exact Tallied.refl s
  · exact tallied_modSite fun _ => rfl

theorem tallied_endTile (s : State) (x : SiteId) (k : Nat) (eos : Bool) (seq : BitVec 12) : Tallied s (endTile s x k eos seq) := by
  unfold endTile
  split
  · exact Tallied.refl s
  · split_ifs
    · unfold closeTile
      exact (tallied_modSite fun _ => rfl).trans (tallied_modSite fun _ => rfl)
    · exact tallied_modSite fun _ => rfl

theorem activeAt_congr {u v : State} (hp : v.placements = u.placements) (x : SiteId) : activeAt v x = activeAt u x := by
  rw [activeAt, activeAt, hp]

theorem portAt_congr {u v : State} (hp : v.placements = u.placements) (exit : Bool) (x : SiteId) (p t : Nat) :
    portAt v exit x p t = portAt u exit x p t := by
  rw [portAt, portAt, activeAt_congr hp]

theorem domainOf_congr {u v : State} (hs : v.sites = u.sites) (x : SiteId) : domainOf v x = domainOf u x := by
  rw [domainOf, domainOf, siteOf, siteOf, hs]

theorem comesThrough_congr {u v : State} (hs : v.sites = u.sites) (hg : v.gateways = u.gateways) (x : SiteId) (p t : Nat) (y : SiteId)
    (gate : Bool) : comesThrough v x p t y gate = comesThrough u x p t y gate := by
  rw [comesThrough, comesThrough, domainOf_congr hs, domainOf_congr hs, hg]

/-- Where a token goes is told by the domains, the ports and the gateways. -/
theorem outDest_congr {u v : State} (hs : v.sites = u.sites) (hp : v.placements = u.placements) (hg : v.gateways = u.gateways) (x : SiteId)
    (p t : Nat) (gate : Bool) : outDest v x p t gate = outDest u x p t gate := by
  simp only [outDest, portAt_congr hp, comesThrough_congr hs hg]

/-- A channel changed in states that have the same channels. -/
theorem modChan_chans_congr {u v : State} (hc : v.chans = u.chans) (k : Nat) (f : Chan → Chan) : (modChan v k f).chans = (modChan u k f).chans := by
  have here : chanOf v k = chanOf u k := by rw [chanOf, chanOf, hc]
  simp only [modChan, setChan, here]
  split <;> rw [hc]

/-- The tracks after tokens have been written are told by what stood on them, the domains, the ports and the gateways. -/
theorem emitAll_chans_congr {u v : State} (hc : v.chans = u.chans) (hs : v.sites = u.sites) (hp : v.placements = u.placements)
    (hg : v.gateways = u.gateways) (x : SiteId) (ts : List (Nat × Nat × Token)) : (emitAll v x ts).chans = (emitAll u x ts).chans := by
  have one : ∀ (u v : State), v.chans = u.chans → v.sites = u.sites → v.placements = u.placements → v.gateways = u.gateways →
      ∀ y p t k gate, (emitTok v y p t k gate).chans = (emitTok u y p t k gate).chans := fun u v hc hs hp hg y p t k gate => by
    simp only [emitTok, outDest_congr hs hp hg]
    split
    · exact hc
    · exact modChan_chans_congr hc ..
  induction ts generalizing u v with
  | nil => exact hc
  | cons k ts ih =>
    have hu := (sends_emitTok u (trackAt x k.2.1).1 k.1 (trackAt x k.2.1).2 k.2.2 false).others
    have hv := (sends_emitTok v (trackAt x k.2.1).1 k.1 (trackAt x k.2.1).2 k.2.2 false).others
    rw [emitAll_eq, emitAll_eq, List.foldl_cons, List.foldl_cons, ← emitAll_eq, ← emitAll_eq]
    refine ih (one u v hc hs hp hg ..) ?_ ?_ ?_
    · rw [hv, hu]; exact hs
    · rw [hv, hu]; exact hp
    · rw [hv, hu]; exact hg

/-- Tokens written after the state has drawn a free value go where they would have gone. -/
@[simp] theorem emitAll_draws (s : State) (n : Nat) (x : SiteId) (ts : List (Nat × Nat × Token)) :
    (emitAll { s with draws := n } x ts).chans = (emitAll s x ts).chans :=
  emitAll_chans_congr (u := s) (v := { s with draws := n }) rfl rfl rfl rfl x ts

/-! ### What a site keeps when it has acted -/

section Kept
variable (s : State) (x y : SiteId)

@[simp] theorem win_noteMove : (siteOf (noteMove s x) y).win = (siteOf s y).win := by
  rw [siteOf_noteMove]
  split
  · subst_vars; rfl
  · rfl

@[simp] theorem fifo_noteMove : (siteOf (noteMove s x) y).fifo = (siteOf s y).fifo := by
  rw [siteOf_noteMove]
  split
  · subst_vars; rfl
  · rfl

@[simp] theorem arcs_noteMove : (siteOf (noteMove s x) y).arcs = (siteOf s y).arcs := by
  rw [siteOf_noteMove]
  split
  · subst_vars; rfl
  · rfl

@[simp] theorem node_noteMove : (siteOf (noteMove s x) y).node = (siteOf s y).node := by
  rw [siteOf_noteMove]
  split
  · subst_vars; rfl
  · rfl

@[simp] theorem frozen_noteMove : (siteOf (noteMove s x) y).frozen = (siteOf s y).frozen := by
  rw [siteOf_noteMove]
  split
  · subst_vars; rfl
  · rfl

@[simp] theorem fault_noteMove : (siteOf (noteMove s x) y).fault = (siteOf s y).fault := by
  rw [siteOf_noteMove]
  split
  · subst_vars; rfl
  · rfl

end Kept

/-! ### Lanes -/

/-- A lane of a word given lane by lane. -/
theorem laneOf_laneList {f : Nat → W32} {l : Nat} (h : l < 16) : laneOf (laneList f) l = f l := by
  unfold laneOf laneList
  interval_cases l <;> rfl

/-- The valid lanes of a word. -/
theorem mem_validLanes {v : BitVec 16} {l : Nat} : l ∈ validLanes v ↔ l < 16 ∧ v.getLsbD l = true := by
  rw [validLanes, List.mem_filter, List.mem_range, bitOf_toNat]

/-! ### Numbers in memory -/

theorem leBytes_length (n v : Nat) : (leBytes n v).length = n := by
  induction n generalizing v with
  | zero => rfl
  | succ n ih => simp [leBytes, ih]

/-- A number that n bytes hold, read back from its bytes. -/
theorem leNat_leBytes (n v : Nat) : leNat (leBytes n v) = v % 2 ^ (8 * n) := by
  induction n generalizing v with
  | zero => simp [leBytes, leNat, Nat.mod_one]
  | succ n ih =>
    simp only [leBytes, leNat, ih, BitVec.toNat_ofNat]
    rw [show 8 * (n + 1) = 8 + 8 * n by ring, Nat.pow_add, Nat.mod_mul]

/-- Bytes read after they have been written. -/
theorem memBytes_memWrite {m : List Host.Cell} (h : Memory.wf m = true) (a : Nat) (bs : List Byte) : memBytes (memWrite m a bs) a bs.length = bs := by
  induction bs generalizing m a with
  | nil => rfl
  | cons b bs ih =>
    have head := memByte_memWrite_in h a 0 (b :: bs) (by simp)
    simp only [memWrite, List.length_cons, memBytes] at head ⊢
    rw [ih (memPut_wf h a b)]
    simpa using head

/-- A number of four bytes read after it has been written. -/
theorem leNat_memBytes_memWrite {m : List Host.Cell} (h : Memory.wf m = true) (a : Nat) (w : W32) :
    leNat (memBytes (memWrite m a (leBytes 4 w.toNat)) a 4) = w.toNat := by
  have read := memBytes_memWrite h a (leBytes 4 w.toNat)
  rw [leBytes_length] at read
  rw [read, leNat_leBytes]
  exact Nat.mod_eq_of_lt w.isLt

@[simp] theorem wakeSync_mem (s : State) (pa : Nat) : (wakeSync s pa).mem = s.mem := rfl
@[simp] theorem wakeSync_sites (s : State) (pa : Nat) : (wakeSync s pa).sites = s.sites := rfl
@[simp] theorem wakeSync_placements (s : State) (pa : Nat) : (wakeSync s pa).placements = s.placements := rfl

end Sys2Proof.Machine

namespace Sys2Proof.Machine

/-- The state with another serial number for the next accepted token. -/
def numbered (s : State) (n : Nat) : State := { s with serial := n }

@[simp] theorem siteOf_numbered (s : State) (n : Nat) (x : SiteId) : siteOf (numbered s n) x = siteOf s x := rfl

/-! ### Memory elements accept tokens (R158, R498) -/

/-- The lanes of a token that an element's operation accesses. -/
def accessLanes (u : State) (e : StageEnv) (a : Src) : List Nat := (validLanes e.inv.valid).filter fun l => offsetOk (srcLane u e a l).toNat

/-- The window entry of a token whose lanes are accessed. -/
def accessEntry (u : State) (e : StageEnv) (a b : Src) : MeEntry :=
  { bundle := invTokens e.inv
    accs := (accessLanes u e a).map fun l => { lane := l, offset := (srcLane u e a l).toNat, operand := srcLane u e b l }
    words := []
    valid := e.inv.valid &&& laneMask fun l => offsetOk (srcLane u e a l).toNat
    serial := u.serial
    done := if (accessLanes u e a).isEmpty then some u.serial else none }

/-- The window entry of a token that is held only. -/
def heldEntry (u : State) (v : Inv) : MeEntry :=
  { bundle := invTokens v, accs := [], words := [], valid := v.valid, serial := u.serial, done := some u.serial }

/-- An element has entered a token in its window. -/
structure Entered (s u t : State) (w : MeEntry) : Prop where
  win : (siteOf t s.focus).win = (siteOf u s.focus).win ++ [w]
  mem : t.mem = s.mem

section Accept
variable {s u : State} {cx : Ctx} {v : Inv} {ports : List (Nat × Token)} {srcs : List Src}
  (hok : siteOk s.focus = true) (hc : activeCtx s s.focus = some cx) (hmay : mayFire s s.focus = true)
include hok hc

/-- A full window accepts nothing. -/
theorem meAccept_full (hfull : 32 ≤ (siteOf s s.focus).win.length) (acc : Bool) (a b : Src) : meAccept s srcs acc a b = .next s := by
  simp [meAccept, hok, hc, hfull]

include hmay
variable (hroom : (siteOf s s.focus).win.length < 32) (hk : v.kind = 0) (hout : canEmit s s.focus (selWrites cx 1 v) = true)
  (htake : takeFirst s s.focus cx srcs false = .take u v ports)
include hroom hk hout htake

omit hok hc hmay hroom hk hout in
/-- A window after an entry has been put. -/
theorem entered_window (n : Nat) (w : MeEntry) :
    Entered s u (noteMove (numbered (modSite (countAt (emitAll u s.focus (selWrites cx 1 v)) s.focus 1 5 n) s.focus fun k =>
      { k with win := k.win ++ [w] }) (u.serial + 1)) s.focus) w := by
  have counted := tallied_countAt (emitAll u s.focus (selWrites cx 1 v)) s.focus 1 5 n
  have sent := onlyChans_emitAll u s.focus (selWrites cx 1 v)
  constructor
  · rw [win_noteMove, siteOf_numbered, siteOf_modSite_self, counted.win, sent.siteOf]
  · exact counted.mem.trans (sent.mem.trans (onlyChans_takeFirst htake).mem)

/-- A data token's lanes are entered in the window. -/
theorem meAccept_access (a b : Src) :
    ∃ t, meAccept s srcs true a b = .next t ∧ Entered s u t (accessEntry u { site := s.focus, cx := cx, inv := v, ports := ports } a b) := by
  refine ⟨_, ?_, entered_window htake ((validLanes v.valid).length -
    (accessLanes u { site := s.focus, cx := cx, inv := v, ports := ports } a).length) _⟩
  simp only [meAccept, hok, hc, hmay, htake, hk, hout, Nat.not_le.2 hroom]
  rfl

/-- SPSYNC holds its data token. -/
theorem meAccept_hold : ∃ t, meAccept s srcs false 0 0 = .next t ∧ Entered s u t (heldEntry u v) := by
  refine ⟨_, ?_, entered_window htake 0 _⟩
  simp only [meAccept, hok, hc, hmay, htake, hk, hout, Nat.not_le.2 hroom]
  rfl

end Accept

/-- An offset the fabric may use, in numbers. -/
theorem offsetOk_iff {o : Nat} : offsetOk o = true ↔ o < 0x80000 ∧ o % 4 = 0 := by simp [offsetOk]

/-- The lanes of an entry are those of the token that are valid and whose offsets are good. -/
theorem getLsbD_accessEntry (u : State) (e : StageEnv) (a b : Src) {l : Nat} (hl : l < 16) : (accessEntry u e a b).valid.getLsbD l =
    (e.inv.valid.getLsbD l && decide ((srcLane u e a l).toNat < 0x80000 ∧ (srcLane u e a l).toNat % 4 = 0)) := by
  simp only [accessEntry, BitVec.getLsbD_and, getLsbD_laneMask, hl, decide_true, Bool.true_and, offsetOk, Bool.beq_eq_decide_eq,
    Bool.decide_and]

theorem getLsbD_accessEntry_iff (u : State) (e : StageEnv) (a b : Src) {l : Nat} (hl : l < 16) :
    (accessEntry u e a b).valid.getLsbD l = true ↔ l ∈ accessLanes u e a := by
  rw [getLsbD_accessEntry u e a b hl, accessLanes, List.mem_filter, mem_validLanes, offsetOk_iff, Bool.and_eq_true, decide_eq_true_eq]
  exact ⟨fun h => ⟨⟨hl, h.1⟩, h.2⟩, fun h => ⟨h.1.2, h.2⟩⟩

/-- An entry's accesses are those of its lanes. -/
theorem mem_accs_accessEntry {u : State} {e : StageEnv} {a b : Src} {q : LaneAcc} (h : q ∈ (accessEntry u e a b).accs) :
    q.offset = (srcLane u e a q.lane).toNat ∧ q.operand = srcLane u e b q.lane ∧ q.granted = false ∧
      (accessEntry u e a b).valid.getLsbD q.lane = true := by
  obtain ⟨l, hl, rfl⟩ := List.mem_map.1 h
  have h16 : l < 16 := (mem_validLanes.1 (List.mem_filter.1 hl).1).1
  exact ⟨rfl, rfl, rfl, (getLsbD_accessEntry_iff u e a b h16).2 hl⟩

/-- Each lane of an entry is accessed. -/
theorem exists_acc {u : State} {e : StageEnv} {a b : Src} {l : Nat} (hl : l < 16) (h : (accessEntry u e a b).valid.getLsbD l = true) :
    ∃ q ∈ (accessEntry u e a b).accs, q.lane = l :=
  ⟨_, List.mem_map_of_mem ((getLsbD_accessEntry_iff u e a b hl).1 h), rfl⟩

/-! ### Bank grants (R158, R159) -/

section Grant
variable {s : State} {x : SiteId} {bank : BitVec 4} {cx : Ctx} {i : Nat} {q : LaneAcc} {op : Instr}

/-- The word that an access reads. -/
def bankWord (s : State) (x : SiteId) (o : Nat) : W32 := BitVec.ofNat 32 (leNat (memBytes s.mem (elementPa (siteCore x) (elementOf x) o) 4))

/-- A state whose window has noted a granted access. -/
def grantNoted (s : State) (x : SiteId) (i : Nat) (q : LaneAcc) (w : W32) : State :=
  noteMove (numbered (modSite s x fun k => { k with
    win := (List.range k.win.length).filterMap fun j => (k.win[j]?).map fun e =>
      if j = i then grantLane e q (some w) s.serial else e }) (s.serial + 1)) x

@[simp] theorem grantNoted_mem (s : State) (x : SiteId) (i : Nat) (q : LaneAcc) (w : W32) : (grantNoted s x i q w).mem = s.mem := rfl

/-- A list whose elements are each taken by number. -/
theorem filterMap_range_getElem? {α : Type} (l : List α) (f : Nat → α → α) (i : Nat) :
    ((List.range l.length).filterMap fun j => (l[j]?).map (f j))[i]? = (l[i]?).map (f i) := by
  have all : ((List.range l.length).filterMap fun j => (l[j]?).map (f j)) = l.mapIdx f := by
    induction l using List.reverseRecOn with
    | nil => rfl
    | append_singleton l a ih =>
      have before : ((List.range l.length).filterMap fun j => ((l ++ [a])[j]?).map (f j)) =
          (List.range l.length).filterMap fun j => (l[j]?).map (f j) :=
        List.filterMap_congr fun j hj => by rw [List.getElem?_append_left (List.mem_range.1 hj)]
      rw [List.length_append, List.length_singleton, List.range_succ, List.filterMap_append, before, ih, List.mapIdx_append]
      simp
  rw [all, List.getElem?_mapIdx]

/-- The window place of a granted access. -/
theorem win_grantNoted {e : MeEntry} (h : (siteOf s x).win[i]? = some e) (w : W32) :
    (siteOf (grantNoted s x i q w) x).win[i]? = some (grantLane e q (some w) s.serial) := by
  rw [grantNoted, win_noteMove, siteOf_numbered, siteOf_modSite_self]
  simp only [filterMap_range_getElem? _ fun j e => if j = i then grantLane e q (some w) s.serial else e, h, Option.map_some, if_true]

variable (hc : activeCtx s x = some cx) (hkind : siteKind x = 1) (hdie : dieGone s (siteDie x) = false) (hop : (stageOps cx).head? = some op)
  (hnext : nextAccess (siteOf s x).win bank.toNat = some (i, q))
  (hclean : s.poison.contains (elementPa (siteCore x) (elementOf x) q.offset / 64) = false)
include hc hkind hdie hop hnext hclean

/-- A grant on a line that is not poisoned. -/
theorem exec_bankGrant : exec (.bankGrant x bank) s = .next (grantNoted
    (match laneEffect op (bankWord s x q.offset) q.operand with
      | some (some new) => wakeSync { s with mem := memWrite s.mem (elementPa (siteCore x) (elementOf x) q.offset) (leBytes 4 new.toNat) }
          (elementPa (siteCore x) (elementOf x) q.offset / 16 * 16)
      | _ => s) x i q (bankWord s x q.offset)) := by
  have clean : ∀ r : Bool, (r && s.poison.contains (lineOf (elementPa (siteCore x) (elementOf x) q.offset))) = false := fun r => by
    rw [lineOf, hclean, Bool.and_false]
  simp only [exec, execBankGrant, hc, hop, hnext, hkind, hdie, clean]
  rfl

/-- A read grant leaves memory as it is. -/
theorem bankGrant_reads (heff : ∀ o w, laneEffect op o w = some none) :
    ∃ t, exec (.bankGrant x bank) s = .next t ∧ t.mem = s.mem ∧ ∀ e, (siteOf s x).win[i]? = some e →
      ∃ f, (siteOf t x).win[i]? = some f ∧ f.words = e.words ++ [(q.lane, bankWord s x q.offset)] ∧ f.valid = e.valid := by
  have run := exec_bankGrant hc hkind hdie hop hnext hclean
  rw [heff] at run
  exact ⟨_, run, rfl, fun e he => ⟨_, win_grantNoted he _, rfl, rfl⟩⟩

/-- A writing grant changes its word alone. -/
theorem bankGrant_writes (hwf : Memory.wf s.mem = true) {new : W32} (heff : laneEffect op (bankWord s x q.offset) q.operand = some (some new)) :
    ∃ t, exec (.bankGrant x bank) s = .next t ∧ sameBytesBut s t (elementPa (siteCore x) (elementOf x) q.offset) 4 ∧
      leNat (memBytes t.mem (elementPa (siteCore x) (elementOf x) q.offset) 4) = new.toNat := by
  have run := exec_bankGrant hc hkind hdie hop hnext hclean
  rw [heff] at run
  refine ⟨_, run, fun a ha => ?_, ?_⟩
  · exact memByte_memWrite_out hwf _ _ _ (by rwa [leBytes_length])
  · exact leNat_memBytes_memWrite hwf _ new

end Grant

/-! ### Responses (R160, R498) -/

/-- Tokens have left a node by ts. -/
structure Answered (s t : State) (x : SiteId) (ts : List (Nat × Nat × Token)) : Prop where
  chans : t.chans = (emitAll s x ts).chans
  mem : t.mem = s.mem

/-- The oldest entry of an untagged element answers when it is done. -/
theorem exec_meResponse {s : State} {x : SiteId} {cx : Ctx} {e : MeEntry} {rest : List MeEntry} {d : BitVec 2} {a : Src}
    (hc : activeCtx s x = some cx) (hkind : siteKind x = 1) (hdie : dieGone s (siteDie x) = false) (hmay : mayFire s x = true)
    (hop : (stageOps cx).head? = some (.spld d a false)) (hwin : (siteOf s x).win = e :: rest) :
    exec (.meResponse x) s =
      if e.done.isSome && canEmit s x (selWrites cx 0 (responseInv s.draws (.spld d a false) e)) then
        .next (noteMove (endTile (modSite (emitAll { s with draws := s.draws + 1 } x (selWrites cx 0 (responseInv s.draws (.spld d a false) e))) x
          fun k => { k with win := k.win.erase e }) x 1 (responseInv s.draws (.spld d a false) e).eos
            (responseInv s.draws (.spld d a false) e).seq) x)
      else .next s := by
  simp only [exec, execMeResponse, hc, hop, hkind, hdie, nextResponse, tagged, hwin, hmay]
  cases hd : e.done with
  | none => rfl
  | some n =>
    cases ho : canEmit s x (selWrites cx 0 (responseInv s.draws (.spld d a false) e)) with
    | false => simp [ho]
    | true => simp [ho]

/-- An answer takes its entry out of the window and goes out on selection 0. -/
theorem answered_entry (s : State) (x : SiteId) (ts : List (Nat × Nat × Token)) {e : MeEntry} {rest : List MeEntry}
    (hwin : (siteOf s x).win = e :: rest) (eos : Bool) (seq : BitVec 12) :
    let t := noteMove (endTile (modSite (emitAll { s with draws := s.draws + 1 } x ts) x fun k => { k with win := k.win.erase e }) x 1 eos seq) x
    (siteOf t x).win = rest ∧ Answered s t x ts := by
  intro t
  have tallied := tallied_endTile (modSite (emitAll { s with draws := s.draws + 1 } x ts) x fun k => { k with win := k.win.erase e }) x 1 eos seq
  have sent := onlyChans_emitAll { s with draws := s.draws + 1 } x ts
  refine ⟨?_, tallied.chans.trans (emitAll_draws s _ x ts), tallied.mem.trans sent.mem⟩
  rw [win_noteMove, tallied.win, siteOf_modSite_self, sent.siteOf]
  change (siteOf s x).win.erase e = rest
  rw [hwin, List.erase_cons_head]

/-- The head of a response is that of the request, with the entry's VALID. -/
theorem tokensInv_cons (h : Token) (hs : List Token) :
    tokensInv (h :: hs) = { kind := h.kind, seq := h.seq, eos := h.eos, valid := h.valid, p := (h :: hs).map (·.lanes) } := rfl

/-- A register of an invocation after one has been written. -/
theorem getElem?_putP (v : Inv) (d : BitVec 2) (w : Lanes) {j : Nat} (hj : j < 4) :
    (putP v d w).p[j]? = some (if j = d.toNat then w else v.p[j]?.getD []) := by
  simp [putP, hj]

/-- A lane of a word with free values in its invalid lanes. -/
theorem laneOf_freeInvalid (draw j : Nat) (valid : BitVec 16) (w : Lanes) {l : Nat} (hl : l < 16) (h : valid.getLsbD l = true) :
    laneOf (freeInvalid draw j valid w) l = laneOf w l := by
  rw [freeInvalid, laneOf_laneList hl, bitOf_toNat, h]
  rfl

section Response
variable (n : Nat) (d : BitVec 2) (a : Src) {e : MeEntry} {h : Token} {hs : List Token} (hb : e.bundle = h :: hs) (hk : h.kind ≠ 6)
include hb hk

/-- The response of SPLD writes the words read to its register. -/
theorem responseInv_spld : responseInv n (.spld d a false) e =
    putP { tokensInv (h :: hs) with valid := e.valid } d (freeInvalid n 0 e.valid (laneList fun l =>
      ((e.words.find? fun q => q.1 == l).map (·.2)).getD (laneOf (((h :: hs).map (·.lanes))[d.toNat]?.getD []) l))) := by
  simp only [responseInv, hb, tokensInv_cons, if_neg hk]

/-- Its other registers come back as they came. -/
theorem responseInv_others (hlen : hs.length = 3) {j : Nat} (hj : j < 4) (hne : j ≠ d.toNat) :
    (responseInv n (.spld d a false) e).p[j]? = ((h :: hs)[j]?).map (·.lanes) := by
  have here : j < (h :: hs).length := by simp [hlen, hj]
  rw [responseInv_spld n d a hb hk, getElem?_putP _ _ _ hj, if_neg hne]
  change some (((h :: hs).map (·.lanes))[j]?.getD []) = _
  rw [List.getElem?_map, List.getElem?_eq_getElem here]
  rfl

/-- A valid lane of its register has the word read. -/
theorem responseInv_word {l : Nat} {w : W32} (hl : l < 16) (hv : e.valid.getLsbD l = true) (hw : e.words.find? (fun q => q.1 == l) = some (l, w)) :
    laneOf (((responseInv n (.spld d a false) e).p[d.toNat]?).getD []) l = w := by
  rw [responseInv_spld n d a hb hk, getElem?_putP _ _ _ d.isLt, if_pos rfl, Option.getD_some, laneOf_freeInvalid _ _ _ _ hl hv, laneOf_laneList hl, hw]
  rfl

end Response

/-! ### SPFIFO (R500, R501) -/

/-- Token j of bundle ts written to its line at place i of a FIFO's store. -/
def fifoPut (x : SiteId) (cx : Ctx) (i : Nat) (ts : List Token) (u : State) (j : Nat) : State :=
  { u with
    mem := memWrite u.mem (fifoPa x cx i j) (laneBytes ((ts[j]?.map (·.lanes)).getD []))
    poison := u.poison.erase (lineOf (fifoPa x cx i j)) }

/-- The state whose FIFO's store has bundle ts at place i. -/
def fifoStored (s : State) (x : SiteId) (cx : Ctx) (i : Nat) (ts : List Token) : State := (List.range ts.length).foldl (fifoPut x cx i ts) s

theorem fifoStored_keeps (s : State) (x : SiteId) (cx : Ctx) (i : Nat) (ts : List Token) :
    (fifoStored s x cx i ts).chans = s.chans ∧ (fifoStored s x cx i ts).sites = s.sites :=
  ⟨foldl_keeps State.chans (g := fifoPut x cx i ts) (fun _ _ => rfl) .., foldl_keeps State.sites (g := fifoPut x cx i ts) (fun _ _ => rfl) ..⟩

section Fifo
variable {s : State} {cx : Ctx} {ts : List Token} (hok : siteOk s.focus = true) (hc : activeCtx s s.focus = some cx)
  (hmay : mayFire s s.focus = true) (hb : headBundle s s.focus (primaryPort cx) (primaryTrack cx) (primaryWidth cx) = some ts)
include hok hc hb

/-- A full FIFO takes nothing. -/
theorem spfifo_full (hfull : ((cx.ks[1]?).getD 0).toNat ≤ (siteOf s s.focus).fifo.length) : exec .spfifo s = .next s := by
  simp only [exec, execSpfifo, hok, hc, hb, decide_eq_true hfull, Bool.or_true, Bool.true_or]
  rfl

include hmay

/-- A bundle is taken while the FIFO has room. -/
theorem spfifo_takes (hk : ∀ k ∈ ts, k.kind ≠ 3) (hroom : (siteOf s s.focus).fifo.length < ((cx.ks[1]?).getD 0).toNat) :
    ∃ t, exec .spfifo s = .next t ∧ (siteOf t s.focus).fifo = (siteOf s s.focus).fifo ++ [ts] ∧
      t.chans = (consumeBundle s s.focus (primaryPort cx) (primaryTrack cx) (primaryWidth cx)).chans := by
  have plain : (ts.any fun q => q.kind == 3) = false := by simpa using hk
  obtain ⟨chans, sites⟩ := fifoStored_keeps (consumeBundle s s.focus (primaryPort cx) (primaryTrack cx) (primaryWidth cx)) s.focus cx
    ((siteOf s s.focus).node.j % ((cx.ks[1]?).getD 0).toNat) ts
  have taken := onlyChans_consumeBundle s s.focus (primaryPort cx) (primaryTrack cx) (primaryWidth cx)
  refine ⟨noteMove (modSite (fifoStored (consumeBundle s s.focus (primaryPort cx) (primaryTrack cx) (primaryWidth cx)) s.focus cx
    ((siteOf s s.focus).node.j % ((cx.ks[1]?).getD 0).toNat) ts) s.focus fun n => { n with
      fifo := n.fifo ++ [ts], node := { n.node with j := n.node.j + 1 } }) s.focus, ?_, ?_, ?_⟩
  · simp only [exec, execSpfifo, hok, hc, hb, hmay, plain, Nat.not_le.2 hroom]
    rfl
  · rw [fifo_noteMove, siteOf_modSite_self]
    refine congrArg (fun k : Site => k.fifo ++ [ts]) ?_
    rw [siteOf, sites]
    exact taken.siteOf s.focus
  · rw [noteMove_chans, modSite_chans]
    exact chans

end Fifo

/-- A token without lanes, which fills a bundle up to four. -/
def blankTok : Token := { kind := 0, seq := 0, eos := false, valid := 0, lanes := [] }

/-- What goes out when a FIFO's oldest bundle, one data token, leaves. -/
def fifoOut (s : State) (x : SiteId) (cx : Ctx) (k : Token) : List (Nat × Nat × Token) :=
  selWrites cx 0 (tokensInv ({ k with
    lanes := bytesLanes (memBytes s.mem (fifoPa x cx (((siteOf s x).node.j - (siteOf s x).fifo.length) % ((cx.ks[1]?).getD 0).toNat) 0) 64) } ::
      [blankTok, blankTok, blankTok]))

/-- The oldest bundle of a FIFO, one data token, leaves when its outputs have room. -/
theorem fifoLeave_eq {s : State} {x : SiteId} {cx : Ctx} {k : Token} {rest : List (List Token)} (hmay : mayFire s x = true)
    (hf : (siteOf s x).fifo = [k] :: rest) (hk : k.kind = 0)
    (hclean : s.poison.contains (fifoPa x cx (((siteOf s x).node.j - (siteOf s x).fifo.length) % ((cx.ks[1]?).getD 0).toNat) 0 / 64) = false) :
    fifoLeave s x cx = if canEmit s x (fifoOut s x cx k) then
      noteMove (endTile (modSite (emitAll { s with draws := s.draws + 1 } x (fifoOut s x cx k)) x fun n => { n with fifo := rest }) x 1 k.eos k.seq) x
    else s := by
  rw [fifoOut]
  rw [hf] at hclean ⊢
  have clean : fifoPoison s x cx (((siteOf s x).node.j - ([k] :: rest).length) % ((cx.ks[1]?).getD 0).toNat) 1 = [] := by
    simp only [fifoPoison, List.range_one, List.map_cons, List.map_nil, List.filter_cons, lineOf, hclean, Bool.false_eq_true, if_false, List.filter_nil]
  unfold fifoLeave
  simp only [hf, List.length_singleton, clean, ite_self, List.range_one, List.map_cons, List.map_nil, List.getElem?_cons_zero, Option.getD_some, hk,
    List.isEmpty_nil, if_true, decide_true, Bool.true_or, hmay, Bool.true_and, List.foldl_nil, List.cons_append, List.nil_append, tokensInv_cons,
    Prod.mk.eta, List.map_id']
  rfl

section Leave
variable {s : State} {x : SiteId} {cx : Ctx} {k : Token} {rest : List (List Token)} (hc : activeCtx s x = some cx) (hkind : siteKind x = 1)
  (hmay : mayFire s x = true) (hop : (stageOps cx).head? = some .spfifo)
include hc hkind hmay hop

/-- ME_RESPONSE of an SPFIFO. -/
theorem exec_meResponse_spfifo : exec (.meResponse x) s = .next (fifoLeave s x cx) := by
  have hdie : dieGone s (siteDie x) = false := by
    simp only [mayFire, Bool.and_eq_true, Bool.not_eq_true'] at hmay
    exact hmay.2
  simp only [exec, execMeResponse, hc, hop, hkind, hdie]
  rfl

variable (hf : (siteOf s x).fifo = [k] :: rest) (hk : k.kind = 0)
  (hclean : s.poison.contains (fifoPa x cx (((siteOf s x).node.j - (siteOf s x).fifo.length) % ((cx.ks[1]?).getD 0).toNat) 0 / 64) = false)
include hf hk hclean

/-- The oldest bundle leaves with its lanes from the store. -/
theorem spfifo_leaves (hout : canEmit s x (fifoOut s x cx k) = true) : ∃ t, exec (.meResponse x) s = .next t ∧ (siteOf t x).fifo = rest ∧
    t.chans = (emitAll s x (fifoOut s x cx k)).chans := by
  have tallied := tallied_endTile (modSite (emitAll { s with draws := s.draws + 1 } x (fifoOut s x cx k)) x fun n => { n with fifo := rest })
    x 1 k.eos k.seq
  refine ⟨_, by rw [exec_meResponse_spfifo hc hkind hmay hop, fifoLeave_eq hmay hf hk hclean, if_pos hout], ?_, ?_⟩
  · rw [fifo_noteMove, tallied.fifo, siteOf_modSite_self]
  · rw [noteMove_chans, tallied.chans, modSite_chans, emitAll_draws]

/-- Where its outputs have no room it stays. -/
theorem spfifo_stays (hout : canEmit s x (fifoOut s x cx k) = false) : exec (.meResponse x) s = .next s := by
  rw [exec_meResponse_spfifo hc hkind hmay hop, fifoLeave_eq hmay hf hk hclean, hout]
  rfl

end Leave

/-! ### Locks (R161 to R164, R455, R456) -/

/-- A lock is that of an offset's lock token, in numbers (R161). -/
theorem isLock_lockOf (k : Lock) (c : CoreId) (n : BitVec 3) (o : Nat) : isLock k c n (lockOf o) = true ↔
    k.core = c ∧ k.me = n ∧ k.bank.toNat = o / 64 % 16 ∧ k.tok.toNat = (o / 64 / 16 % 64) ^^^ (o / 64 / 1024 % 8) := by
  have low : o / 64 / 1024 % 8 % 64 = o / 64 / 1024 % 8 := Nat.mod_eq_of_lt (by omega)
  simp only [isLock, lockOf, Bool.and_eq_true, beq_iff_eq, and_assoc]
  rw [← BitVec.toNat_inj (x := k.bank), ← BitVec.toNat_inj (x := k.tok), BitVec.toNat_xor, BitVec.toNat_ofNat, BitVec.toNat_ofNat, BitVec.toNat_ofNat]
  simp only [Nat.reducePow, low]

/-- The lanes of a VALID of one lane. -/
theorem validLanes_single {l : Nat} (hl : l < 16) : validLanes (BitVec.ofNat 16 (2 ^ l)) = [l] := by
  interval_cases l <;> decide

section Lock
variable {s u : State} {cx : Ctx} {v : Inv} {ports : List (Nat × Token)} {d : BitVec 2} {a : Src}
  (hok : siteOk s.focus = true) (hc : activeCtx s s.focus = some cx) (hmay : mayFire s s.focus = true)
  (htake : takeFirst s s.focus cx [a] false = .take u v ports) (hk2 : v.kind ≠ 2)
  {f : State → SiteId → Inv → List (Nat × BitVec 4 × BitVec 6) → Option (List Lock)}
  {bad : State → SiteId → Inv → List (Nat × BitVec 4 × BitVec 6) → Bool}

/-- What a lock node's word sees. -/
def lockEnv (s : State) (cx : Ctx) (v : Inv) (ports : List (Nat × Token)) : StageEnv := { site := s.focus, cx := cx, inv := v, ports := ports }

/-- The state after a lock node has passed its token w on. -/
def lockPassed (s u : State) (cx : Ctx) (w : Inv) (locks : List Lock) (drops : Nat) : State :=
  noteMove (endTile (countAt { (emitAll u s.focus (selWrites cx 0 w)) with locks := locks } s.focus 1 5 drops) s.focus 1 w.eos w.seq) s.focus

theorem lockPassed_keeps (w : Inv) (locks : List Lock) (drops : Nat) : (lockPassed s u cx w locks drops).locks = locks ∧
    (lockPassed s u cx w locks drops).chans = (emitAll u s.focus (selWrites cx 0 w)).chans := by
  have counted := (tallied_countAt { (emitAll u s.focus (selWrites cx 0 w)) with locks := locks } s.focus 1 5 drops).trans
    (tallied_endTile _ s.focus 1 w.eos w.seq)
  exact ⟨counted.locks, counted.chans⟩

include hok hc hmay htake hk2

/-- A fault of a lock node. -/
theorem lockNode_bad (hbad : bad s s.focus v (lockLanes u (lockEnv s cx v ports) d a).2.1 = true) :
    ∃ t, lockNode s d a f bad = .next t ∧ (siteOf t s.focus).frozen = true ∧ t.locks = s.locks := by
  refine ⟨noteMove (nodeFault s s.focus 3 0 (primaryPort cx) (primaryTrack cx) v.seq.toNat) s.focus, ?_, ?_, rfl⟩
  · simp only [lockNode, hok, hc, hmay, htake, if_neg hk2]
    change (if bad s s.focus v (lockLanes u (lockEnv s cx v ports) d a).2.1 = true then _ else _) = _
    rw [if_pos hbad]
  · rw [frozen_noteMove, siteOf_nodeFault_self]
    rfl

variable (hgood : bad s s.focus v (lockLanes u (lockEnv s cx v ports) d a).2.1 = false)
include hgood

/-- A lock node that waits. -/
theorem lockNode_waits (hf : f s s.focus v (lockLanes u (lockEnv s cx v ports) d a).2.1 = none) : lockNode s d a f bad = .next s := by
  simp only [lockNode, hok, hc, hmay, htake, if_neg hk2]
  change (if bad s s.focus v (lockLanes u (lockEnv s cx v ports) d a).2.1 = true then _ else
    match f s s.focus v (lockLanes u (lockEnv s cx v ports) d a).2.1 with | none => _ | some _ => _) = _
  rw [hgood, hf]
  rfl

/-- A lock node that passes its token on. -/
theorem lockNode_passes {locks : List Lock} (hf : f s s.focus v (lockLanes u (lockEnv s cx v ports) d a).2.1 = some locks)
    (hout : canEmit s s.focus (selWrites cx 0 (lockLanes u (lockEnv s cx v ports) d a).1) = true) :
    lockNode s d a f bad = .next (lockPassed s u cx (lockLanes u (lockEnv s cx v ports) d a).1 locks
      (lockLanes u (lockEnv s cx v ports) d a).2.2) := by
  simp only [lockNode, hok, hc, hmay, htake, if_neg hk2]
  change (if bad s s.focus v (lockLanes u (lockEnv s cx v ports) d a).2.1 = true then _ else
    match f s s.focus v (lockLanes u (lockEnv s cx v ports) d a).2.1 with | none => _ | some _ => _) = _
  rw [hgood, hf]
  simp only [Bool.false_eq_true, if_false]
  change (if (!canEmit s s.focus (selWrites cx 0 (lockLanes u (lockEnv s cx v ports) d a).1)) = true then _ else _) = _
  rw [hout]
  rfl

end Lock

/-- The lock tokens of a token of one lane, whose offset is good. -/
theorem lockLanes_single {u : State} {e : StageEnv} {d : BitVec 2} {a : Src} {l : Nat} (hk : e.inv.kind = 0) (hl : l < 16)
    (hv : e.inv.valid = BitVec.ofNat 16 (2 ^ l)) (hoff : offsetOk (srcLane u e a l).toNat = true) :
    lockLanes u e d a = (putP e.inv d (srcWord u e a), [(l, lockOf (srcLane u e a l).toNat)], 0) := by
  have valid : (e.inv.valid &&& laneMask fun l => offsetOk (srcLane u e a l).toNat) = e.inv.valid := by
    apply BitVec.eq_of_getLsbD_eq
    intro j hj
    rw [BitVec.getLsbD_and, getLsbD_laneMask]
    by_cases hjv : e.inv.valid.getLsbD j = true
    · have hjl : j ∈ validLanes e.inv.valid := mem_validLanes.2 ⟨hj, hjv⟩
      rw [hv, validLanes_single hl, List.mem_singleton] at hjl
      subst hjl
      simp [hj, hoff]
    · simp [hjv]
  have lanes : validLanes e.inv.valid = [l] := by rw [hv, validLanes_single hl]
  have head : ({ putP e.inv d (srcWord u e a) with valid := e.inv.valid &&& laneMask fun l => offsetOk (srcLane u e a l).toNat } : Inv) =
      putP e.inv d (srcWord u e a) := by rw [valid]; rfl
  simp only [lockLanes, if_neg (show ¬ e.inv.kind = 6 by rw [hk]; decide), lanes, List.filter_cons, hoff, if_true, List.filter_nil, List.map_cons,
    List.map_nil]
  exact congrArg (fun w => (w, [(l, lockOf (srcLane u e a l).toNat)], 0)) head

/-- A lock that another SEQ holds makes a token wait; a free one is taken (R162). -/
theorem takeLocks_single (s : State) (x : SiteId) (n : BitVec 3) (v : Inv) (l : Nat) (bt : BitVec 4 × BitVec 6) :
    ((∃ k ∈ s.locks, isLock k (siteCore x) n bt = true ∧ k.seq ≠ v.seq) → takeLocks s x n v [(l, bt)] = none) ∧
      ((∀ k ∈ s.locks, ¬ isLock k (siteCore x) n bt = true) → takeLocks s x n v [(l, bt)] = some (s.locks ++
        [{ core := siteCore x, me := n, bank := bt.1, tok := bt.2, seq := v.seq, since := s.ticks, lanes := BitVec.ofNat 16 (2 ^ l) }])) := by
  refine ⟨fun ⟨k, hk, hl, hne⟩ => ?_, fun hfree => ?_⟩
  · refine if_pos ?_
    simp only [List.any_cons, List.any_nil, Bool.or_false, List.any_eq_true, Bool.and_eq_true, bne_iff_ne]
    exact ⟨k, hk, hl, hne⟩
  · have none : (s.locks.any fun k => isLock k (siteCore x) n bt) = false := by
      rw [List.any_eq_false]
      exact hfree
    have none' : (s.locks.any fun k => isLock k (siteCore x) n bt && k.seq != v.seq) = false := by
      rw [List.any_eq_false]
      exact fun k hk h => hfree k hk (Bool.and_eq_true _ _ ▸ h).1
    simp only [takeLocks, List.any_cons, List.any_nil, Bool.or_false, none, none', List.foldl_cons, List.foldl_nil, Bool.false_eq_true, if_false]

/-- The locks after a token has passed: those of its SEQ less its lanes, or less all at its EOS, and the others (R163). -/
theorem mem_giveLocks {s : State} {x : SiteId} {n : BitVec 3} {v : Inv} (hk : v.kind = 0) {k : Lock} :
    k ∈ giveLocks s x n v ↔ k.lanes ≠ 0 ∧ ∃ b ∈ s.locks,
      k = if b.core = siteCore x ∧ b.me = n ∧ b.seq = v.seq then { b with lanes := if v.eos then 0 else b.lanes &&& ~~~ v.valid } else b := by
  have six : ¬ v.kind = 6 := by rw [hk]; decide
  simp only [giveLocks, List.mem_filter, List.mem_map, bne_iff_ne, if_neg six, Bool.and_eq_true, decide_eq_true_eq, and_assoc]
  rw [and_comm]
  simp only [eq_comm (a := k)]

/-- A SEQ's locks at an element. -/
def holdsNone (s : State) (x : SiteId) (n : BitVec 3) (seq : BitVec 12) : Prop := ∀ k ∈ s.locks, ¬ (k.core = siteCore x ∧ k.me = n ∧ k.seq = seq)

/-- LGIVE's fault: a lane whose lock its SEQ does not hold, or a SEQ that holds nothing there. -/
def giveBad (n : BitVec 3) (s : State) (x : SiteId) (v : Inv) (ls : List (Nat × BitVec 4 × BitVec 6)) : Bool :=
  (ls.any fun l => !(s.locks.any fun k => isLock k (siteCore x) n l.2 && k.seq == v.seq)) ||
    !(s.locks.any fun k => k.core == siteCore x && k.me == n && k.seq == v.seq)

theorem exec_lgive (d : BitVec 2) (a : Src) (n : BitVec 3) (s : State) :
    exec (.lgive d a n) s = lockNode s d a (fun s x v _ => some (giveLocks s x n v)) (giveBad n) := rfl

theorem exec_ltake (d : BitVec 2) (a : Src) (n : BitVec 3) (s : State) :
    exec (.ltake d a n) s = lockNode s d a (fun s x v ls => takeLocks s x n v ls) fun _ _ _ _ => false := rfl

theorem giveBad_of_none {n : BitVec 3} {s : State} {x : SiteId} {v : Inv} (h : holdsNone s x n v.seq) (ls : List (Nat × BitVec 4 × BitVec 6)) :
    giveBad n s x v ls = true := by
  have none : (s.locks.any fun k => k.core == siteCore x && k.me == n && k.seq == v.seq) = false := by
    rw [List.any_eq_false]
    intro k hk hh
    simp only [Bool.and_eq_true, beq_iff_eq, and_assoc] at hh
    exact h k hk hh
  rw [giveBad, none]
  simp

/-- For a token of one lane LGIVE faults unless its SEQ holds that lock. -/
theorem giveBad_single {n : BitVec 3} {s : State} {x : SiteId} {v : Inv} {l : Nat} {bt : BitVec 4 × BitVec 6} :
    giveBad n s x v [(l, bt)] = false ↔ ∃ k ∈ s.locks, isLock k (siteCore x) n bt = true ∧ k.seq = v.seq := by
  simp only [giveBad, List.any_cons, List.any_nil, Bool.or_false, Bool.or_eq_false_iff, Bool.not_eq_false', List.any_eq_true, Bool.and_eq_true,
    beq_iff_eq]
  refine ⟨fun h => h.1, fun h => ⟨h, ?_⟩⟩
  obtain ⟨k, hk, hl, hs⟩ := h
  simp only [isLock, Bool.and_eq_true, beq_iff_eq] at hl
  exact ⟨k, hk, ⟨hl.1.1.1, hl.1.1.2⟩, hs⟩

/-- A lock held too long stops its element (R164). -/
theorem exec_lockTimeout {s : State} {x : SiteId} {k : Lock} (hkind : siteKind x = 1) (hon : (siteOf s x).on = true)
    (hfr : (siteOf s x).frozen = false) (hl : s.locks = [k]) (hcore : k.core = siteCore x) (hme : k.me.toNat = siteRow x % 8) :
    exec (.lockTimeout x) s = .next (if k.since + 16384 < s.ticks then nodeFault s x 4 0 0 0 k.seq.toNat else s) := by
  simp only [exec, execLockTimeout, hl, List.find?_cons, List.find?_nil, hcore, hme, elementOf, beq_self_eq_true, Bool.true_and, hkind, hon, hfr]
  by_cases h : k.since + 16384 < s.ticks
  · simp only [h, decide_true, if_true]
    rfl
  · simp only [h, decide_false, if_false]

/-! ### Every operation of an element answers -/

/-- An outcome that is a next state. -/
def Answers (o : Out) : Prop := ∃ t, o = .next t

theorem answers_next (t : State) : Answers (.next t) := ⟨t, rfl⟩

theorem answers_ite {p : Prop} [Decidable p] {a b : Out} (ha : Answers a) (hb : Answers b) : Answers (if p then a else b) := by
  split
  · exact ha
  · exact hb

theorem answers_passMarker (st s1 : State) (x : SiteId) (cx : Ctx) (v : Inv) : Answers (passMarker st s1 x cx v) :=
  answers_ite (answers_next _) (answers_next _)

/-- An element's token is accepted, or waits. -/
theorem answers_meAccept {s : State} (hok : siteOk s.focus = true) (srcs : List Src) (acc : Bool) (a b : Src) : Answers (meAccept s srcs acc a b) := by
  simp only [meAccept, hok, Bool.not_true, Bool.false_eq_true, if_false]
  split
  · exact answers_next _
  · refine answers_ite (answers_next _) ?_
    split
    · exact answers_next _
    · exact answers_next _
    · exact answers_ite (answers_passMarker ..) (answers_ite (answers_next _) (answers_ite (answers_next _) (answers_next _)))

theorem answers_spfifo {s : State} (hok : siteOk s.focus = true) : Answers (execSpfifo s) := by
  simp only [execSpfifo, hok, Bool.not_true, Bool.false_eq_true, if_false]
  split
  · exact answers_next _
  · split
    · exact answers_next _
    · exact answers_ite (answers_next _) (answers_next _)

theorem answers_lockNode {s : State} (hok : siteOk s.focus = true) (d : BitVec 2) (a : Src)
    (f : State → SiteId → Inv → List (Nat × BitVec 4 × BitVec 6) → Option (List Lock))
    (bad : State → SiteId → Inv → List (Nat × BitVec 4 × BitVec 6) → Bool) : Answers (lockNode s d a f bad) := by
  simp only [lockNode, hok, Bool.not_true, Bool.false_eq_true, if_false]
  split
  · exact answers_next _
  · refine answers_ite (answers_next _) ?_
    split
    · exact answers_next _
    · exact answers_next _
    · refine answers_ite (answers_passMarker ..) (answers_ite (answers_next _) ?_)
      split
      · exact answers_next _
      · exact answers_ite (answers_next _) (answers_next _)

/-- The state in which an element's operation fires. -/
def firingAt (s : State) (x : SiteId) : State := { s with focus := x, focusStage := 1 }

/-- ME_TOKEN_ACCEPT is the firing of the element's operation at its site. -/
theorem exec_meTokenAccept {s : State} {x : SiteId} {cx : Ctx} {d : BitVec 2} {a b : Src} {tg : Bool} {p sc : BitVec 3} {i : Instr}
    (hi : i ∈ ([.spld d a tg, .spst d a b tg, .spamo d a b tg p, .spfifo, .ltake d a sc, .lgive d a sc, .spsync sc] : List Instr))
    (hc : activeCtx s x = some cx) (hkind : siteKind x = 1) (hop : (stageOps cx).head? = some i) :
    exec (.meTokenAccept x) s = exec i (firingAt s x) := by
  change execMeTokenAccept x s = _
  unfold execMeTokenAccept
  extract_lets st
  rw [show activeCtx st x = some cx from hc]
  dsimp only
  rw [hkind, hop]
  simp only [List.mem_cons, List.not_mem_nil, or_false] at hi
  rcases hi with rfl | rfl | rfl | rfl | rfl | rfl | rfl <;> rfl

/-- The operations of an element answer. -/
theorem answers_element {s : State} (hok : siteOk s.focus = true) {d : BitVec 2} {a b : Src} {tg : Bool} {p sc : BitVec 3} {i : Instr}
    (hi : i ∈ ([.spld d a tg, .spst d a b tg, .spamo d a b tg p, .spfifo, .ltake d a sc, .lgive d a sc, .spsync sc] : List Instr)) :
    Answers (exec i s) := by
  simp only [List.mem_cons, List.not_mem_nil, or_false] at hi
  rcases hi with rfl | rfl | rfl | rfl | rfl | rfl | rfl
  · exact answers_meAccept hok ..
  · exact answers_meAccept hok ..
  · exact answers_meAccept hok ..
  · exact answers_spfifo hok
  · rw [exec_ltake]
    exact answers_lockNode hok ..
  · rw [exec_lgive]
    exact answers_lockNode hok ..
  · exact answers_meAccept hok ..

/-- Settles O35: what an element accepts and grants by the entry it makes and the word it writes, its answers by responseInv and fifoLeave,
and lock nodes by the locks that takeLocks and giveLocks leave for a token of one lane. -/
theorem memoryElementsAndLocks : Obligations.MemoryElementsAndLocks := by
  refine ⟨⟨?_, ?_, ?_, ?_⟩, ?_, ?_, ?_, ?_, ?_⟩
  · intro s u cx v ports d a b tg p sc x win hok hc hmay
    refine ⟨fun hfull i hi => ?_, ?_⟩
    · simp only [List.mem_cons, List.not_mem_nil, or_false] at hi
      rcases hi with rfl | rfl | rfl | rfl <;> exact meAccept_full hok hc hfull ..
    · intro hroom hk hout e entered
      have enter : ∀ {i srcs b}, (∀ s, exec i s = meAccept s srcs true a b) → entered i srcs (srcLane u e b) := fun {i srcs b} hi htake => by
        obtain ⟨t, ht, h⟩ := meAccept_access hok hc hmay hroom hk hout htake a b
        exact ⟨t, _, (hi s).trans ht, h.win, h.mem, fun l hl => getLsbD_accessEntry u e a b hl, fun q hq => mem_accs_accessEntry hq,
          fun l hl hv => exists_acc hl hv⟩
      refine ⟨enter fun _ => rfl, enter fun _ => rfl, enter fun _ => rfl, fun htake => ?_⟩
      obtain ⟨t, ht, h⟩ := meAccept_hold hok hc hmay hroom hk hout htake
      exact ⟨t, _, ht, h.win, rfl, rfl, h.mem⟩
  · intro s x bank cx i q op hwf hc hkind hdie hop hnext pa old after hclean
    refine ⟨fun d a tg he => ?_, fun d a b tg he => ?_, fun d a b tg p he => ?_⟩ <;> subst he
    · exact bankGrant_reads hc hkind hdie hop hnext hclean fun _ _ => rfl
    · exact bankGrant_writes hc hkind hdie hop hnext hclean hwf rfl
    · exact bankGrant_writes hc hkind hdie hop hnext hclean hwf rfl
  · intro s x cx e rest d a hc hkind hdie hmay hop hwin
    have run := exec_meResponse hc hkind hdie hmay hop hwin
    refine ⟨fun hd => ?_, fun hd hout => ?_⟩
    · rw [run, hd]
      rfl
    · obtain ⟨hrest, h⟩ := answered_entry s x (selWrites cx 0 (responseInv s.draws (.spld d a false) e)) hwin
        (responseInv s.draws (.spld d a false) e).eos (responseInv s.draws (.spld d a false) e).seq
      exact ⟨_, run.trans (if_pos (by rw [hd, hout]; rfl)), hrest, h.mem, h.chans⟩
  · intro n d a e h hs hb hk hlen v
    have hv := responseInv_spld n d a hb hk
    refine ⟨?_, ?_, ?_, ?_, fun j hj hne => responseInv_others n d a hb hk hlen hj hne, fun l w hl hval hw => responseInv_word n d a hb hk hl hval hw⟩ <;>
      exact congrArg _ hv
  · intro s cx ts hok hc hmay x hb hk
    exact ⟨spfifo_full hok hc hb, spfifo_takes hok hc hmay hb hk⟩
  · intro s x cx k rest hc hkind hmay hop hf hk place pa blank out hclean
    exact ⟨spfifo_leaves hc hkind hmay hop hf hk hclean, spfifo_stays hc hkind hmay hop hf hk hclean⟩
  · intro s u cx v ports d a n l hok hc hmay x e off isIt none_
    rw [exec_lgive, exec_ltake]
    refine ⟨fun htake hk2 hnone => lockNode_bad hok hc hmay htake hk2 (giveBad_of_none hnone _), fun htake hk hl hv hlt hmod => ?_⟩
    have hk2 : v.kind ≠ 2 := by rw [hk]; decide
    have lanes := lockLanes_single (u := u) (e := lockEnv s cx v ports) (d := d) (a := a) hk hl hv (offsetOk_iff.2 ⟨hlt, hmod⟩)
    have ls : (lockLanes u (lockEnv s cx v ports) d a).2.1 = [(l, lockOf off)] := congrArg (·.2.1) lanes
    have word : (lockLanes u (lockEnv s cx v ports) d a).1 = putP v d (srcWord u e a) := congrArg (·.1) lanes
    have it : ∀ k, isLock k (siteCore x) n (lockOf off) = true ↔ isIt k := fun k => isLock_lockOf k (siteCore x) n off
    obtain ⟨wait, take⟩ := takeLocks_single s x n v l (lockOf off)
    refine ⟨fun ⟨k, hkm, hki, hne⟩ => ?_, fun hfree => ⟨fun hout => ?_, ?_⟩, fun ⟨k, hkm, hki, hs⟩ hout => ?_⟩
    · exact lockNode_waits (f := fun s x v ls => takeLocks s x n v ls) hok hc hmay htake hk2 rfl (by rw [ls]; exact wait ⟨k, hkm, (it k).2 hki, hne⟩)
    · have run := lockNode_passes (bad := fun _ _ _ _ => false) (f := fun s x v ls => takeLocks s x n v ls) (d := d) hok hc hmay htake hk2 rfl
        (by rw [ls]; exact take fun k hkm h => hfree k hkm ((it k).1 h)) (by rw [word]; exact hout)
      obtain ⟨locks, chans⟩ := lockPassed_keeps (s := s) (u := u) (cx := cx) (lockLanes u (lockEnv s cx v ports) d a).1 (s.locks ++
        [{ core := siteCore x, me := n, bank := (lockOf off).1, tok := (lockOf off).2, seq := v.seq, since := s.ticks,
           lanes := BitVec.ofNat 16 (2 ^ l) }]) (lockLanes u (lockEnv s cx v ports) d a).2.2
      refine ⟨_, _, run, locks, (it _).1 (by simp [isLock]), rfl, rfl, hv.symm, ?_⟩
      rw [chans, word]
    · refine lockNode_bad hok hc hmay htake hk2 ?_
      rw [ls, ← Bool.not_eq_false, giveBad_single]
      rintro ⟨k, hkm, h, -⟩
      exact hfree k hkm ((it k).1 h)
    · have run := lockNode_passes (bad := giveBad n) (f := fun s x v _ => some (giveLocks s x n v)) (d := d) hok hc hmay htake hk2
        (by rw [ls]; exact giveBad_single.2 ⟨k, hkm, (it k).2 hki, hs⟩) rfl (by rw [word]; exact hout)
      refine ⟨_, run, fun k => ?_⟩
      rw [(lockPassed_keeps _ _ _).1]
      exact mem_giveLocks hk
  · intro s x cx d a b tg p sc i hok hi hc hkind hop
    obtain ⟨t, ht⟩ := answers_element (s := firingAt s x) hok hi
    exact ⟨t, (exec_meTokenAccept hi hc hkind hop).trans ht, ht⟩
  · intro s x k hkind hon hfr hl hcore hme
    have run := exec_lockTimeout hkind hon hfr hl hcore hme
    refine ⟨fun hlate => ⟨_, run.trans (congrArg Host.Outcome.next (if_pos hlate)), ?_⟩, fun hearly => ?_⟩
    · rw [siteOf_nodeFault_self]
      rfl
    · exact run.trans (congrArg Host.Outcome.next (if_neg (Nat.not_lt.2 hearly)))

end Sys2Proof.Machine

namespace Sys2Proof.Machine

/-! ### A back edge with a drain marker beside a HOLE (R27, R52, R258) -/

/-- A token without lanes of a kind. -/
def bareTok (kind : BitVec 3) : Token := { kind := kind, seq := 0, eos := true, valid := 0, lanes := [] }

/-- A context without words and outputs. -/
def plainCtx : Ctx := { catid := 0, kind := 0, owner := 0, origin := 0 }

/-- A state whose site 0 may fire and has a drain marker and a HOLE on the first two tracks of its port E. -/
def mixedEdge : State :=
  let on := modSite (modDie {} 0 fun d => { d with firmware := true }) 0 fun k => { k with on := true, ctxs := .replicate 4 (some plainCtx) }
  let marker := modChan on (chanKey 0 1 0) fun c => { c with slots := [bareTok 2] }
  modChan marker (chanKey 0 1 1) fun c => { c with slots := [bareTok 6] }

/-- The bundle of the two tracks counts as HOLEs, and may be taken. -/
theorem mergeOffers_mixedEdge : mergeOffers mixedEdge 0 1 0 1 = some [{ bareTok 6 with lanes := [] }, { bareTok 6 with lanes := [] }] := by
  decide

/-- The loop-mode MERGE consumes the marker, and no invocation enters its arc. -/
theorem arcOf_merge_mixedEdge {t : State} (h : exec (.merge 4 5 1 true) mixedEdge = .next t) : arcOf t 0 1 = none := by
  have run : exec (.merge 4 5 1 true) mixedEdge = .next (noteMove (consumeBundle mixedEdge 0 1 0 1) 0) := rfl
  rw [run] at h
  cases h
  decide

/-- Refutes O34: where a marker is the head of the back edge's first track and a HOLE that of its second, their bundle counts as HOLEs that
the statement has taken, and the loop-mode MERGE consumes it as a marker that has come round. -/
theorem not_nodesMergeOrderAndPack : ¬ Obligations.NodesMergeOrderAndPack := by
  unfold Obligations.NodesMergeOrderAndPack
  rintro ⟨merges, -⟩
  obtain ⟨-, -, -, backEdge, -⟩ := merges mixedEdge plainCtx 0 1 1 (by decide) (by decide) (by decide) (by decide) (by decide)
  obtain ⟨t, run, entered, -⟩ := backEdge _ _ _ mergeOffers_mixedEdge rfl (by decide)
  rw [show arcOf t mixedEdge.focus 1 = none from arcOf_merge_mixedEdge run] at entered
  exact absurd entered (by simp)

end Sys2Proof.Machine

namespace Sys2Proof.Machine

/-! ### The turn at an engine (R71, R178) -/

/-- The turn of the first stream at an engine is the engine's where it gives an accepted result. -/
theorem firstTurn_first {s : State} {e : EngineId} {x : Stream} {turn : State → Stream → Option Made} {ok : Made → Bool} {m : Made}
    (hx : s.streams.find? (fun u => u.eng == e) = some x) (ht : turn s x = some m) (hm : ok m = true) : firstTurn s e turn ok = some m := by
  obtain ⟨hxe, before, after, hs, hb⟩ := List.find?_eq_some_iff_append.1 hx
  have here : (if (x.eng == e) = true then (turn s x).filter ok else none) = some m := by
    rw [if_pos hxe, ht]
    simp [hm]
  have skip : before.findSome? (fun t => if (t.eng == e) = true then (turn s t).filter ok else none) = none := by
    rw [List.findSome?_eq_none_iff]
    intro t ht
    rw [if_neg (by simpa using hb t ht)]
  rw [firstTurn, hs, List.findSome?_append, skip, Option.none_or, List.findSome?_cons, here]

/-- Where the only stream of an engine has no turn, neither has the engine. -/
theorem firstTurn_none {s : State} {e : EngineId} {x : Stream} {turn : State → Stream → Option Made} {ok : Made → Bool}
    (only : ∀ y ∈ s.streams, y.eng = e → y = x) (ht : turn s x = none) : firstTurn s e turn ok = none := by
  rw [firstTurn, List.findSome?_eq_none_iff]
  intro y hy
  by_cases he : y.eng = e
  · rw [only y hy he, ht]
    simp
  · simp [he]

section Steps
variable {s : State} {e : EngineId} {x : Stream} {m : Made} (hx : s.streams.find? (fun u => u.eng == e) = some x) (hm : m.flt = none)
include hx hm

theorem streamBundleDelivery_first (ht : readTurn s x = some m) : exec (.streamBundleDelivery e) s = .next (finishBundle m) := by
  simp only [exec, execStreamBundleDelivery, firstTurn_first (ok := fun m => m.flt.isNone) hx ht (by simp [hm])]

theorem streamWrite_first (ht : writeTurn s x = some m) : exec (.streamWrite e) s = .next (finishBundle m) := by
  simp only [exec, execStreamWrite, firstTurn_first (ok := fun m => m.flt.isNone) hx ht (by simp [hm])]

theorem scoreAddLane_first (ht : scoreTurn s x = some m) : exec (.scoreAddLane e) s = .next (finishBundle m) := by
  simp only [exec, execScoreAddLane, firstTurn_first (ok := fun m => m.flt.isNone) hx ht (by simp [hm])]

end Steps

/-- The turn that a deferred fault is looked for in. -/
def anyTurn (s : State) (t : Stream) : Option Made := ((readTurn s t).orElse fun _ => writeTurn s t).orElse fun _ => scoreTurn s t

/-- What the first turn of an engine that faults does. -/
def faultTurn (s : State) (e : EngineId) : Out :=
  match firstTurn s e anyTurn fun m => m.flt.isSome with
  | .none => .next s
  | some m => match m.flt with | some (f, n) => .next (faultStream m f n) | .none => .next s

theorem exec_streamDeferredFault (s : State) (e : EngineId) :
    exec (.streamDeferredFault e) s = if (engineOf s e).held.isSome then .next s else faultTurn s e := rfl

theorem streamDeferredFault_first {s : State} {e : EngineId} {x : Stream} {m : Made} {f : Flt} {n : Nat}
    (hx : s.streams.find? (fun u => u.eng == e) = some x) (hheld : (engineOf s e).held = none) (ht : anyTurn s x = some m)
    (hm : m.flt = some (f, n)) : exec (.streamDeferredFault e) s = .next (faultStream m f n) := by
  have first : firstTurn s e anyTurn (fun m => m.flt.isSome) = some m := firstTurn_first hx ht (by rw [hm]; rfl)
  simp only [exec_streamDeferredFault, hheld, faultTurn, first, hm]
  rfl

/-- A stream without a turn changes nothing. -/
theorem stream_idle {s : State} {e : EngineId} {x : Stream} (only : ∀ y ∈ s.streams, y.eng = e → y = x) (hp : streamPort s x = none) :
    exec (.streamBundleDelivery e) s = .next s ∧ exec (.streamWrite e) s = .next s ∧ exec (.scoreAddLane e) s = .next s ∧
      exec (.streamDeferredFault e) s = .next s := by
  have read : readTurn s x = none := by simp only [readTurn, hp]
  have write : writeTurn s x = none := by simp only [writeTurn, hp]
  have score : scoreTurn s x = none := by simp only [scoreTurn, hp]
  have any : anyTurn s x = none := by simp only [anyTurn, read, write, score, Option.orElse]
  have idle : firstTurn s e anyTurn (fun m => m.flt.isSome) = none := firstTurn_none only any
  refine ⟨?_, ?_, ?_, ?_⟩
  · simp only [exec, execStreamBundleDelivery, firstTurn_none only read]
  · simp only [exec, execStreamWrite, firstTurn_none only write]
  · simp only [exec, execScoreAddLane, firstTurn_none only score]
  · simp only [exec_streamDeferredFault, faultTurn, idle, ite_self]

/-! ### What the end of a turn leaves -/

/-- Counts for a region's root change only what a site has to send. -/
theorem reportStats_others (s : State) (pl : Placement) (counts : List Nat) (seq : BitVec 12) :
    reportStats s pl counts seq = { s with sites := (reportStats s pl counts seq).sites } := by
  unfold reportStats
  split
  · split
    · rfl
    · rfl
  · rfl

/-- Without counts nothing is reported. -/
theorem reportStats_nil (s : State) (pl : Placement) (seq : BitVec 12) : reportStats s pl [] seq = s := by
  unfold reportStats
  split <;> rfl

theorem leaveTable_others (s : State) (i : BitVec 32) : leaveTable s i = { s with dies := (leaveTable s i).dies } := by
  unfold leaveTable
  split <;> rfl

/-- A stream that has ended is gone; no token and no byte has changed. -/
theorem endStream_keeps (s : State) (t : Stream) : (endStream s t).streams = (dropStream s t).streams ∧ (endStream s t).chans = s.chans ∧
    (endStream s t).mem = s.mem := by
  have reported : ∀ pl, (reportStream (dropStream s t) t pl).streams = (dropStream s t).streams ∧
      (reportStream (dropStream s t) t pl).chans = s.chans ∧ (reportStream (dropStream s t) t pl).mem = s.mem := fun pl => by
    rw [reportStream, reportStats_others]
    exact ⟨rfl, rfl, rfl⟩
  unfold endStream
  extract_lets s1 s2
  rw [leaveTable_others]
  change s2.streams = _ ∧ s2.chans = _ ∧ s2.mem = _
  simp only [s2, s1]
  split
  · exact ⟨rfl, rfl, rfl⟩
  · split
    · exact reported _
    · exact reported _

/-- No stream of a number is left. -/
def Gone (t : State) (n : Nat) : Prop := ∀ u ∈ t.streams, u.cmd.order ≠ n

theorem gone_endStream (s : State) (t : Stream) : Gone (endStream s t) t.cmd.order := by
  intro u hu
  rw [(endStream_keeps s t).1] at hu
  simpa using (List.mem_filter.1 hu).2

theorem mem_putStream (s : State) (t : Stream) : t ∈ (putStream s t).streams := List.mem_append_right _ (List.mem_singleton.2 rfl)

/-- A finished turn moves no token and no byte of its own. -/
theorem finishBundle_keeps (m : Made) : (finishBundle m).chans = m.s.chans ∧ (finishBundle m).mem = m.s.mem := by
  unfold finishBundle
  split
  · exact ⟨(endStream_keeps m.s m.t).2.1, (endStream_keeps m.s m.t).2.2⟩
  · exact ⟨rfl, rfl⟩

theorem finishBundle_of_fin {m : Made} (h : m.fin = true) : Gone (finishBundle m) m.t.cmd.order := by
  rw [finishBundle, if_pos h]
  exact gone_endStream m.s m.t

theorem finishBundle_of_more {m : Made} (h : m.fin = false) : finishBundle m = putStream m.s m.t := by rw [finishBundle, h]; rfl

/-! ### Ports of one track -/

theorem portTracks_single {q : Port} (h : q.width = 0) : portTracks q = [trackAt q.site q.track.toNat] := by
  rw [portTracks, h]
  rfl

/-- A queue of one track has room for fewer than four tokens. -/
theorem queueRoomAt_single {s : State} {pl : Placement} {q : Port} (h : q.width = 0)
    (hroom : (chanOf s (entryKey pl.ctx q.port.toNat (trackAt q.site q.track.toNat))).slots.length < 4) : queueRoomAt s pl q = true := by
  rw [queueRoomAt, entryQueues, portTracks_single h]
  simp [entryCapacity, hroom]

/-- The place of an exit port's one track. -/
def outKey (q : Port) : Nat := chanKey (trackAt q.site q.track.toNat).1 (q.port.toNat + 5) (trackAt q.site q.track.toNat).2

theorem takeExit_single {s : State} {q : Port} (h : q.width = 0) : takeExit s q = modChan s (outKey q) Chan.consumed := by
  rw [takeExit, portTracks_single h]
  rfl

theorem exitBundle_single {s : State} {q : Port} (h : q.width = 0) {k : Token} {ks : List Token} (hk : (chanOf s (outKey q)).slots = k :: ks) :
    exitBundle s q = some (oneKind [k]) := by
  rw [exitBundle, portTracks_single h]
  have head : (chanOf s (chanKey (trackAt q.site q.track.toNat).1 (q.port.toNat + 5) (trackAt q.site q.track.toNat).2)).slots.head? = some k := by
    rw [show chanKey (trackAt q.site q.track.toNat).1 (q.port.toNat + 5) (trackAt q.site q.track.toNat).2 = outKey q from rfl, hk]
    rfl
  simp [head]

theorem exitDone_single {s : State} {pl : Placement} {t : Stream} {q : Port} (h : q.width = 0) :
    exitDone s pl t q = (pl.closed.contains t.port && ((chanOf s (outKey q)).slots.isEmpty && (chanOf s (outKey q)).flight.isEmpty)) := by
  rw [exitDone, portTracks_single h]
  simp [outKey]

/-- The tokens of a bundle enter queues; nothing else changes. -/
theorem onlyChans_enterQueue (s : State) (pl : Placement) (q : Port) (ts : List Token) : OnlyChans s (enterQueue s pl q ts) :=
  onlyChans_foldl (g := fun u (e : (SiteId × Nat) × Token) => modChan u (entryKey pl.ctx q.port.toNat e.1) fun c => { c with slots := c.slots ++ [e.2] })
    (fun u _ => onlyChans_modChan u _ _) _ s

theorem enterQueue_single {s : State} {pl : Placement} {q : Port} (h : q.width = 0) (k : Token) : enterQueue s pl q [k] =
    modChan s (entryKey pl.ctx q.port.toNat (trackAt q.site q.track.toNat)) fun c => { c with slots := c.slots ++ [k] } := by
  rw [enterQueue, portTracks_single h]
  rfl

end Sys2Proof.Machine

namespace Sys2Proof.Machine

/-! ### Elements read in order (R124, R171) -/

section Reads
variable {w : Who} {c : Cmd}

/-- One more element read. -/
theorem readVisits_cons (v : Visit) (vs : List Visit) (g : Got) : readVisits w c (v :: vs) g =
    match readVisit g.s w c v with
    | .error f => { g with flt := some f }
    | .ok (s1, e, ks) => readVisits w c vs { g with s := s1, vals := g.vals ++ [e], stats := addCounts g.stats ks } := rfl

/-- What has been read before only stands before what is read. -/
theorem readVisits_start (vs : List Visit) (g : Got) (hg : g.flt = none) : (readVisits w c vs g).s = (readVisits w c vs { s := g.s }).s ∧
    (readVisits w c vs g).vals = g.vals ++ (readVisits w c vs { s := g.s }).vals ∧
    (readVisits w c vs g).flt = (readVisits w c vs { s := g.s }).flt := by
  induction vs generalizing g with
  | nil => exact ⟨rfl, (List.append_nil _).symm, hg⟩
  | cons v vs ih =>
    rw [readVisits_cons, readVisits_cons]
    cases hv : readVisit g.s w c v with
    | error f => exact ⟨rfl, (List.append_nil _).symm, rfl⟩
    | ok r =>
      obtain ⟨s1, e, ks⟩ := r
      obtain ⟨hs, hvals, hflt⟩ := ih { g with s := s1, vals := g.vals ++ [e], stats := addCounts g.stats ks } hg
      obtain ⟨hs', hvals', hflt'⟩ := ih { s := s1, vals := [e], stats := addCounts [] ks } rfl
      refine ⟨hs.trans hs'.symm, ?_, hflt.trans hflt'.symm⟩
      refine hvals.trans ?_
      refine Eq.trans ?_ (congrArg (g.vals ++ ·) hvals').symm
      exact List.append_assoc ..

/-- Elements read after others. -/
theorem readVisits_append (as bs : List Visit) (g : Got) (h : (readVisits w c as g).flt = none) :
    readVisits w c (as ++ bs) g = readVisits w c bs (readVisits w c as g) := by
  induction as generalizing g with
  | nil => rfl
  | cons v vs ih =>
    rw [List.cons_append, readVisits_cons, readVisits_cons] at *
    cases hv : readVisit g.s w c v with
    | error f => simp [hv] at h
    | ok r =>
      simp only [hv] at h ⊢
      exact ih _ h

/-- A read that faults goes no further. -/
theorem readVisits_fault (as bs : List Visit) (g : Got) (h : (readVisits w c as g).flt ≠ none) : (readVisits w c (as ++ bs) g).flt ≠ none := by
  induction as generalizing g with
  | nil =>
    obtain ⟨f, hf⟩ := Option.ne_none_iff_exists'.1 h
    have kept : ∀ (bs : List Visit) (g : Got) f, g.flt = some f → (readVisits w c bs g).flt ≠ none := fun bs => by
      induction bs with
      | nil => intro g f h; simp [readVisits, h]
      | cons v vs ih =>
        intro g f h
        rw [readVisits_cons]
        cases hv : readVisit g.s w c v with
        | error f => simp
        | ok r => exact ih _ f h
    exact kept bs g f hf
  | cons v vs ih =>
    rw [List.cons_append, readVisits_cons] at *
    cases hv : readVisit g.s w c v with
    | error f => simp
    | ok r =>
      simp only [hv] at h ⊢
      exact ih _ h

/-- As many values are read as there are elements. -/
theorem length_vals_readVisits (vs : List Visit) (g : Got) (hg : g.flt = none) (h : (readVisits w c vs g).flt = none) :
    (readVisits w c vs g).vals.length = g.vals.length + vs.length := by
  induction vs generalizing g with
  | nil => rfl
  | cons v vs ih =>
    rw [readVisits_cons] at *
    cases hv : readVisit g.s w c v with
    | error f => simp [hv] at h
    | ok r =>
      simp only [hv] at h ⊢
      refine (ih { g with s := r.1, vals := g.vals ++ [r.2.1], stats := addCounts g.stats r.2.2 } hg h).trans ?_
      simp
      omega

end Reads

/-! ### Shuttles cut from elements (R171) -/

/-- Shuttle i of values cut into shuttles of e. -/
def cutAt (vals : List (Option Nat)) (e i : Nat) : List (Option Nat) := (vals.drop (i * e)).take e

/-- The shuttles of values cut into e each, as they go into a bundle. -/
def Shuttles (c : Cmd) (e : Nat) (vals : List (Option Nat)) (ss : List (List W32 × Bool)) : Prop :=
  ∀ i, ss[i]? = if i * e < vals.length then some (shuttleOf c.form c.width (cutAt vals e i)) else none

/-- The jobs from one shuttle on. -/
theorem cutJobs_succ (total e m n : Nat) (f : Nat → Nat → List Visit) : cutJobs total e m (n + 1) f =
    (if m * e < total then [.visits (f (m * e) (min e (total - m * e)))] else []) ++ cutJobs total e (m + 1) n f := by
  have head : ((List.range (n + 1)).map (m + ·)) = m :: ((List.range n).map (m + 1 + ·)) := by
    rw [List.range_succ_eq_map, List.map_cons, List.map_map]
    refine congrArg (m :: ·) (List.map_congr_left fun i _ => ?_)
    simp only [Function.comp_apply]
    omega
  rw [cutJobs, head, List.filterMap_cons, cutJobs]
  split <;> split <;> simp_all

/-- Beyond the last element there is no job. -/
theorem cutJobs_past {total e : Nat} (n : Nat) {m : Nat} (h : total ≤ m * e) (f : Nat → Nat → List Visit) : cutJobs total e m n f = [] := by
  rw [cutJobs, List.filterMap_eq_nil_iff]
  intro i hi
  obtain ⟨j, -, rfl⟩ := List.mem_map.1 hi
  have : total ≤ (m + j) * e := h.trans (Nat.mul_le_mul_right e (Nat.le_add_right m j))
  rw [if_neg (by omega)]

/-- A shuttle whose elements have been read. -/
theorem runJobs_visits {w : Who} {c : Cmd} {f8 : Bool} {vs : List Visit} (js : List Job) (g : Got) (ss : List (List W32 × Bool)) (k : Nat)
    (hvs : vs ≠ []) (h : (readVisits w c vs { s := g.s }).flt = none) : ∃ g1 k1, g1.s = (readVisits w c vs { s := g.s }).s ∧ g1.flt = none ∧
      runJobs w c f8 (.visits vs :: js) g ss k =
        runJobs w c f8 js g1 (ss ++ [shuttleOf c.form c.width (readVisits w c vs { s := g.s }).vals]) k1 := by
  have some : (readVisits w c vs { s := g.s }).vals.isEmpty = false := by
    have len := length_vals_readVisits vs { s := g.s } rfl h
    rw [List.isEmpty_eq_false_iff_exists_mem, ← List.length_pos_iff_exists_mem, len]
    exact Nat.lt_of_lt_of_le (List.length_pos_iff.2 hvs) (Nat.le_add_left _ _)
  refine ⟨{ readVisits w c vs { s := g.s } with
    stats := addCount (sumCounts g.stats (readVisits w c vs { s := g.s }).stats) 5 (droppedIn f8 (readVisits w c vs { s := g.s }).vals) },
    k + (readVisits w c vs { s := g.s }).vals.length, rfl, h, ?_⟩
  simp only [runJobs, runJob, h, some, Bool.false_eq_true, if_false]

/-- Values of a first shuttle before others. -/
theorem shuttles_cons {c : Cmd} {e : Nat} (he : 0 < e) {as bs : List (Option Nat)} {xs : List (List W32 × Bool)} (ha : as ≠ [])
    (hlen : as.length = e ∨ (as.length < e ∧ bs = [])) (h : Shuttles c e bs xs) : Shuttles c e (as ++ bs) (shuttleOf c.form c.width as :: xs) := by
  have pos := List.length_pos_iff.2 ha
  intro i
  cases i with
  | zero =>
    rw [List.getElem?_cons_zero, if_pos (by rw [List.length_append]; omega), cutAt, Nat.zero_mul, List.drop_zero]
    rcases hlen with hl | ⟨hl, rfl⟩
    · rw [← hl, List.take_left']
      rfl
    · rw [List.append_nil, List.take_of_length_le hl.le]
  | succ i =>
    rw [List.getElem?_cons_succ, h i, cutAt, cutAt, List.length_append, Nat.succ_mul]
    rcases hlen with hl | ⟨hl, rfl⟩
    · subst hl
      have later : (as ++ bs).drop (i * as.length + as.length) = bs.drop (i * as.length) := by
        rw [Nat.add_comm, List.drop_append]
        simp
      rw [later]
      exact if_congr (by omega) rfl rfl
    · rw [if_neg (by simp), if_neg (by simp; omega)]

/-- Reading a bundle shuttle by shuttle is reading its elements in order. -/
theorem runJobs_cutJobs {w : Who} {c : Cmd} {f8 : Bool} {total e : Nat} (he : 0 < e) {V : Nat → Visit} (n m : Nat) (g : Got)
    (ss : List (List W32 × Bool)) (k : Nat) (hg : g.flt = none)
    (h : (readVisits w c ((List.range (min (n * e) (total - m * e))).map fun j => V (m * e + j)) { s := g.s }).flt = none) :
    let r := runJobs w c f8 (cutJobs total e m n fun a b => (List.range b).map fun j => V (a + j)) g ss k
    let all := readVisits w c ((List.range (min (n * e) (total - m * e))).map fun j => V (m * e + j)) { s := g.s }
    r.1.s = all.s ∧ r.1.flt = none ∧ ∃ xs, r.2.1 = ss ++ xs ∧ Shuttles c e all.vals xs := by
  induction n generalizing m g ss k with
  | zero =>
    intro r all
    have nothing : all = { s := g.s } := by simp only [all, Nat.zero_mul, Nat.zero_min, List.range_zero, List.map_nil, readVisits]
    rw [nothing]
    exact ⟨rfl, hg, [], (List.append_nil _).symm, fun i => by simp⟩
  | succ n ih =>
    intro r all
    by_cases hm : m * e < total
    · have first : min ((n + 1) * e) (total - m * e) = min e (total - m * e) + min (n * e) (total - (m + 1) * e) := by
        rw [Nat.succ_mul, Nat.succ_mul]
        omega
      have rest : ((List.range (min ((n + 1) * e) (total - m * e))).map fun j => V (m * e + j)) =
          ((List.range (min e (total - m * e))).map fun j => V (m * e + j)) ++
            (List.range (min (n * e) (total - (m + 1) * e))).map fun j => V ((m + 1) * e + j) := by
        rw [first, List.range_add, List.map_append, List.map_map]
        refine congrArg (_ ++ ·) ?_
        by_cases hlast : total ≤ (m + 1) * e
        · rw [Nat.sub_eq_zero_of_le hlast, Nat.min_zero]
          rfl
        · refine List.map_congr_left fun j _ => congrArg V ?_
          have one : (m + 1) * e = m * e + e := Nat.succ_mul m e
          show m * e + (min e (total - m * e) + j) = (m + 1) * e + j
          omega
      have first_flt : (readVisits w c ((List.range (min e (total - m * e))).map fun j => V (m * e + j)) { s := g.s }).flt = none := by
        by_contra hne
        exact readVisits_fault _ _ _ hne (rest ▸ h)
      have whole : all = readVisits w c ((List.range (min (n * e) (total - (m + 1) * e))).map fun j => V ((m + 1) * e + j))
          (readVisits w c ((List.range (min e (total - m * e))).map fun j => V (m * e + j)) { s := g.s }) := by
        simp only [all]
        rw [rest, readVisits_append _ _ _ first_flt]
      have nonempty : ((List.range (min e (total - m * e))).map fun j => V (m * e + j)) ≠ [] := by
        rw [← List.length_pos_iff, List.length_map, List.length_range]
        omega
      obtain ⟨g1, k1, hs1, hf1, run⟩ := runJobs_visits (f8 := f8) (cutJobs total e (m + 1) n fun a b => (List.range b).map fun j => V (a + j)) g ss k
        nonempty first_flt
      obtain ⟨hs, hvals, hflt⟩ := readVisits_start (w := w) (c := c)
        ((List.range (min (n * e) (total - (m + 1) * e))).map fun j => V ((m + 1) * e + j)) _ first_flt
      have later : (readVisits w c ((List.range (min (n * e) (total - (m + 1) * e))).map fun j => V ((m + 1) * e + j)) { s := g1.s }).flt = none := by
        rw [hs1, ← hflt, ← whole]
        exact h
      obtain ⟨rs, rflt, xs, rxs, rsh⟩ := ih (m + 1) g1 (ss ++ [shuttleOf c.form c.width
        (readVisits w c ((List.range (min e (total - m * e))).map fun j => V (m * e + j)) { s := g.s }).vals]) k1 hf1 later
      have here : r = runJobs w c f8 (cutJobs total e (m + 1) n fun a b => (List.range b).map fun j => V (a + j)) g1 (ss ++ [shuttleOf c.form c.width
          (readVisits w c ((List.range (min e (total - m * e))).map fun j => V (m * e + j)) { s := g.s }).vals]) k1 := by
        simp only [r]
        rw [cutJobs_succ, if_pos hm]
        exact run
      rw [here, whole, hs, hvals, ← hs1]
      refine ⟨rs, rflt, _ :: xs, by rw [rxs, List.append_assoc]; rfl, shuttles_cons he ?_ ?_ rsh⟩
      · rw [← List.length_pos_iff, length_vals_readVisits _ _ rfl first_flt]
        simp
        omega
      · have len := length_vals_readVisits (w := w) (c := c) ((List.range (min e (total - m * e))).map fun j => V (m * e + j)) { s := g.s } rfl first_flt
        rw [List.length_map, List.length_range] at len
        by_cases hlast : e ≤ total - m * e
        · exact .inl (len.trans (by simp [hlast]))
        · have one : (m + 1) * e = m * e + e := Nat.succ_mul m e
          have ended : total - (m + 1) * e = 0 := by omega
          refine .inr ⟨by rw [len, List.length_nil]; omega, ?_⟩
          rw [ended, Nat.min_zero]
          rfl
    · have past : total ≤ m * e := Nat.le_of_not_lt hm
      have nothing : all = { s := g.s } := by
        simp only [all, Nat.sub_eq_zero_of_le past, Nat.min_zero, List.range_zero, List.map_nil, readVisits]
      simp only [r, cutJobs_past (n + 1) past, runJobs]
      rw [nothing]
      exact ⟨rfl, hg, [], (List.append_nil _).symm, fun i => by simp⟩

/-! ### A bundle of shuttles (R26, R171) -/

theorem perShuttle_pos (c : Cmd) : 0 < c.perShuttle := by
  have form : 0 < formCount c.form := by
    unfold formCount formBytes
    split <;> decide
  exact Nat.mul_pos (Nat.succ_pos _) form

/-- A shuttle's VALID and units. -/
theorem shuttleOf_valid (form width : Nat) (vs : List (Option Nat)) : (shuttleOf form width vs).2 = true ↔ vs ≠ [] ∧ none ∉ vs := by
  simp only [shuttleOf, Bool.and_eq_true, Bool.not_eq_true', List.isEmpty_eq_false_iff, List.all_eq_true]
  refine and_congr_right fun _ => ⟨fun h hn => by simpa using h none hn, fun h v hv => ?_⟩
  cases v with
  | none => exact absurd hv h
  | some v => rfl

theorem shuttleOf_unit (form width : Nat) (vs : List (Option Nat)) {u : Nat} (hu : u ≤ width) :
    (shuttleOf form width vs).1[u]? = some (unitWord form ((vs.drop (u * formCount form)).take (formCount form))) := by
  simp [shuttleOf, Nat.lt_succ_of_le hu]

/-- VALID of a bundle of shuttles. -/
def bundleValid (xs : List (List W32 × Bool)) : BitVec 16 := laneMask fun i => ((xs[i]?).map (·.2)).getD false

/-- Token u of a bundle of shuttles. -/
def bundleTok (draw seq u : Nat) (xs : List (List W32 × Bool)) : Token :=
  { kind := 0, seq := BitVec.ofNat 12 seq, eos := true, valid := bundleValid xs
    lanes := freeInvalid draw u (bundleValid xs) (laneList fun i => ((xs[i]?).bind fun q => q.1[u]?).getD 0) }

theorem bundleOf_eq (draw width seq : Nat) (xs : List (List W32 × Bool)) :
    bundleOf draw width seq xs = (List.range (width + 1)).map fun u => bundleTok draw seq u xs := rfl

/-- Token u of a bundle of shuttles cut from values. -/
theorem bundleOf_token {c : Cmd} {e : Nat} {vals : List (Option Nat)} {xs : List (List W32 × Bool)} (h : Shuttles c e vals xs) (draw seq : Nat)
    {u : Nat} (hu : u ≤ c.width) : ∃ k, (bundleOf draw c.width seq xs)[u]? = some k ∧ k.kind = 0 ∧ k.seq = BitVec.ofNat 12 seq ∧ k.eos = true ∧
      ∀ i, i < 16 → (k.valid.getLsbD i = true ↔ cutAt vals e i ≠ [] ∧ none ∉ cutAt vals e i) ∧
        (k.valid.getLsbD i = true →
          laneOf k.lanes i = unitWord c.form (((cutAt vals e i).drop (u * formCount c.form)).take (formCount c.form))) := by
  have valid : ∀ i, i < 16 → ((bundleValid xs).getLsbD i = true ↔ cutAt vals e i ≠ [] ∧ none ∉ cutAt vals e i) := by
    intro i hi
    rw [bundleValid, getLsbD_laneMask, decide_eq_true hi, Bool.true_and, h i]
    split
    · exact shuttleOf_valid c.form c.width _
    · rename_i hpast
      rw [cutAt, List.drop_eq_nil_of_le (Nat.le_of_not_lt hpast)]
      simp
  have token : (bundleOf draw c.width seq xs)[u]? = some (bundleTok draw seq u xs) := by
    rw [bundleOf_eq, List.getElem?_map, List.getElem?_range (Nat.lt_succ_of_le hu), Option.map_some]
  refine ⟨_, token, rfl, rfl, rfl, fun i hi => ⟨valid i hi, fun hv => ?_⟩⟩
  have hv : (bundleValid xs).getLsbD i = true := hv
  rw [bundleTok, laneOf_freeInvalid _ _ _ _ hi hv, laneOf_laneList hi, h i]
  have some : i * e < vals.length := by
    by_contra hpast
    have := ((valid i hi).1 hv).1
    rw [cutAt, List.drop_eq_nil_of_le (Nat.le_of_not_lt hpast)] at this
    simp at this
  rw [if_pos some, Option.bind_some, shuttleOf_unit c.form c.width _ hu]
  rfl

/-- The elements of an affine stream without F8C pages. -/
def affineElem (c : Cmd) (i : Nat) : Visit := (elemVa c.base c.esize (c.visit i), none)

/-- The bundles of a number of elements in shuttles of e are at most n when 16 n shuttles hold them. -/
theorem bundlesFor_le {total e : Nat} (he : 0 < e) (n : Nat) : bundlesFor total e ≤ n ↔ total ≤ 16 * n * e := by
  unfold bundlesFor
  rw [Nat.div_le_iff_le_mul_add_pred (by decide), show 16 * n + (16 - 1) = 16 * n + 15 from rfl, Nat.add_le_add_iff_right,
    Nat.div_le_iff_le_mul_add_pred he, Nat.mul_comm e]
  omega

/-- The next bundle of an affine read that does not fault: its elements in order, cut into shuttles. -/
theorem affineBundle_reads {s : State} {w : Who} {x : Stream} (hf : (peekFmt s w x.cmd.base).map (·.1) ≠ some 5)
    (hmore : 16 * x.bundles * x.cmd.perShuttle < x.cmd.total)
    (hflt : (readVisits w x.cmd ((List.range (min (16 * x.cmd.perShuttle) (x.cmd.total - 16 * x.bundles * x.cmd.perShuttle))).map fun j =>
      affineElem x.cmd (16 * x.bundles * x.cmd.perShuttle + j)) { s := s }).flt = none) :
    let g := readVisits w x.cmd ((List.range (min (16 * x.cmd.perShuttle) (x.cmd.total - 16 * x.bundles * x.cmd.perShuttle))).map fun j =>
      affineElem x.cmd (16 * x.bundles * x.cmd.perShuttle + j)) { s := s }
    (affineBundle s w x).flt = none ∧ (affineBundle s w x).s = g.s ∧
      ((affineBundle s w x).fin = true ↔ x.cmd.total ≤ 16 * x.bundles * x.cmd.perShuttle + 16 * x.cmd.perShuttle) ∧
      ∃ xs, (affineBundle s w x).tokens = bundleOf s.draws x.cmd.width (x.cmd.seq0 + x.bundles) xs ∧ Shuttles x.cmd x.cmd.perShuttle g.vals xs := by
  intro g
  have per := perShuttle_pos x.cmd
  have raw : ((peekFmt s w x.cmd.base).map (·.1) == some 5) = false := by simpa using hf
  obtain ⟨rs, rflt, xs, rxs, rsh⟩ := runJobs_cutJobs (f8 := false) per (V := affineElem x.cmd) 16 (16 * x.bundles)
    { s := s, stats := x.stats, index := x.index } [] 0 rfl hflt
  have jobs : cutJobs x.cmd.total x.cmd.perShuttle (16 * x.bundles) 16 (affineVisits x.cmd false) =
      cutJobs x.cmd.total x.cmd.perShuttle (16 * x.bundles) 16 fun a b => (List.range b).map fun j => affineElem x.cmd (a + j) := rfl
  rw [List.nil_append] at rxs
  have some : xs.isEmpty = false := by
    have first := rsh 0
    have len := length_vals_readVisits (w := w) (c := x.cmd) _ { s := s } rfl hflt
    rw [List.length_map, List.length_range] at len
    rw [if_pos (by
      rw [Nat.zero_mul]
      change 0 < g.vals.length
      rw [len]
      simp only [List.length_nil]
      omega)] at first
    cases xs with
    | nil => simp at first
    | cons a xs => rfl
  refine ⟨?_, ?_, ?_, xs, ?_, rsh⟩
  · simp only [affineBundle, makeBundle, raw, jobs, rflt, Option.map_none]
  · simp only [affineBundle, makeBundle, raw, jobs]
    exact rs
  · simp only [affineBundle, decide_eq_true_eq, bundlesFor_le per]
    rw [show 16 * (x.bundles + 1) * x.cmd.perShuttle = 16 * x.bundles * x.cmd.perShuttle + 16 * x.cmd.perShuttle by ring]
  · simp only [affineBundle, makeBundle, raw, jobs, rxs, some, Bool.false_eq_true, if_false]

/-! ### Elements written in order (R125, R174) -/

/-- What a write of an affine stream wants of its pages. -/
def writeRule (c : Cmd) : EngRule := { acc := .engWrite, hidden := true, fmt := fun f => f != 5 && encodable f c.form && pageElem f c.form == c.esize }

/-- The code of visit p.1 written where it stands. -/
def putElem (w : Who) (c : Cmd) (r : Except Flt State) (p : Nat × Nat) : Except Flt State := r.bind fun u =>
  engWrite u w (writeRule c) c.sync (elemVa c.base c.esize (c.visit p.1))
    (leBytes c.esize (encodeElem (((peekFmt u w (elemVa c.base c.esize (c.visit p.1))).map (·.1)).getD 0) c.form p.2).1)

theorem foldl_putElem_error (w : Who) (c : Cmd) (f : Flt) (es : List (Nat × Nat)) : es.foldl (putElem w c) (.error f) = .error f := by
  induction es with
  | nil => rfl
  | cons p es ih => exact ih

/-- An element's write in terms of the state alone. -/
theorem writeElem_eq (s : State) (w : Who) (t : Stream) (k v : Nat) : writeElem s w t k v =
    match putElem w t.cmd (.ok s) (k, v) with
    | .error f => .error f
    | .ok s1 => .ok (s1, (encodeElem (((peekFmt s w (elemVa t.cmd.base t.cmd.esize (t.cmd.visit k))).map (·.1)).getD 0) t.cmd.form v).2) := rfl

/-- The elements of a bundle are written one after another. -/
theorem writeElems_foldl {w : Who} {c : Cmd} {u : State} (es : List (Nat × Option Nat)) (m : Made) (hm : m.flt = none) (hc : m.t.cmd = c)
    (h : (es.filterMap fun e => e.2.map fun v => (e.1, v)).foldl (putElem w c) (.ok m.s) = .ok u) :
    (writeElems w es m).flt = none ∧ (writeElems w es m).s = u := by
  induction es generalizing m with
  | nil => exact ⟨hm, Except.ok.inj h⟩
  | cons e es ih =>
    obtain ⟨k, v⟩ := e
    cases v with
    | none => exact ih _ hm hc h
    | some v =>
      rw [List.filterMap_cons] at h
      simp only [Option.map_some, List.foldl_cons] at h
      cases hp : putElem w c (.ok m.s) (k, v) with
      | error f =>
        rw [hp, foldl_putElem_error] at h
        cases h
      | ok s1 =>
        rw [hp] at h
        simp only [writeElems, writeElem_eq, hc, hp]
        exact ih _ hm rfl h

/-- Numbers told by row and column. -/
theorem flatMap_range_map {α : Type} (g : Nat → Nat → α) (a n : Nat) :
    ((List.range a).flatMap fun i => (List.range n).map fun j => g i j) = (List.range (a * n)).map fun j => g (j / n) (j % n) := by
  induction a with
  | zero => simp
  | succ a ih =>
    rw [List.range_succ, List.flatMap_append, ih, Nat.succ_mul, List.range_add, List.map_append, List.map_map, List.flatMap_singleton]
    refine congrArg (_ ++ ·) (List.map_congr_left fun j hj => ?_)
    have hj := List.mem_range.1 hj
    have row : (a * n + j) / n = a := by
      rw [Nat.mul_comm, Nat.mul_add_div (Nat.zero_lt_of_lt hj), Nat.div_eq_of_lt hj, Nat.add_zero]
    have col : (a * n + j) % n = j := by
      rw [Nat.mul_comm, Nat.mul_add_mod, Nat.mod_eq_of_lt hj]
    simp only [Function.comp_apply, row, col]

/-- The code of element j of a token. -/
def tokenCode (c : Cmd) (h : Token) (j : Nat) : Nat :=
  (laneOf h.lanes (j / c.perShuttle)).toNat / 2 ^ (8 * formBytes c.form * (j % c.perShuttle)) % 2 ^ (8 * formBytes c.form)

/-- The elements of a bundle of one data token. -/
theorem bundleElems_single {c : Cmd} (hw : c.width = 0) {h : Token} (hk : h.kind = 0) (first : Nat) : bundleElems c first [h] =
    (List.range (16 * c.perShuttle)).map fun j =>
      (first + j, if h.valid.getLsbD (j / c.perShuttle) = true then some (tokenCode c h j) else none) := by
  have per : c.perShuttle = formCount c.form := by rw [Cmd.perShuttle, hw, Nat.zero_add, Nat.one_mul]
  have data : asData h = h := if_neg (by rw [hk]; decide)
  have rows := flatMap_range_map (fun i j => (first + (i * formCount c.form + j),
    if h.valid.getLsbD i = true then some (bitsAt (8 * formBytes c.form * j) (8 * formBytes c.form) (laneOf h.lanes i).toNat) else none))
    16 (formCount c.form)
  rw [per]
  refine Eq.trans ?_ (rows.trans (List.map_congr_left fun j hj => ?_))
  · simp only [bundleElems, hw, List.head?_cons, Option.getD_some, data, hk, Nat.zero_add, List.range_one, List.flatMap_cons, List.flatMap_nil,
      List.append_nil, List.getElem?_cons_zero, Nat.mul_one, Nat.add_zero, Nat.add_assoc, bitOf_toNat, decide_true, Bool.true_and]
  · rw [Nat.div_add_mod']
    simp only [tokenCode, per, bitsAt]

/-- The codes that a token holds for visits that there are. -/
def tokenElems (c : Cmd) (first : Nat) (h : Token) : List (Nat × Nat) := (List.range (16 * c.perShuttle)).filterMap fun j =>
  if first + j < c.total ∧ h.valid.getLsbD (j / c.perShuttle) = true then some (first + j, tokenCode c h j) else none

theorem filterMap_bundleElems {c : Cmd} (hw : c.width = 0) {h : Token} (hk : h.kind = 0) (first : Nat) :
    ((bundleElems c first [h]).filter fun e => decide (e.1 < c.total)).filterMap (fun e => e.2.map fun v => (e.1, v)) = tokenElems c first h := by
  rw [bundleElems_single hw hk, List.filterMap_filter, List.filterMap_map, tokenElems]
  refine List.filterMap_congr fun j _ => ?_
  by_cases hlt : first + j < c.total <;> by_cases hv : h.valid.getLsbD (j / c.perShuttle) = true <;> simp [hlt, hv]

/-- A data token of an affine write without F8C pages: the codes of its valid lanes are written where their visits stand. -/
theorem writeBundle_data {s u : State} {x : Stream} {h : Token} (hw : x.cmd.width = 0) (hf : f8cGeom s (whoEngine x.cmd x.eng) x.cmd = none)
    (hk : h.kind = 0) (hput : (tokenElems x.cmd (x.bundles * 16 * x.cmd.perShuttle) h).foldl (putElem (whoEngine x.cmd x.eng) x.cmd) (.ok s) = .ok u) :
    (writeBundle s x [h]).flt = none ∧ (writeBundle s x [h]).s = u := by
  have data : asData h = h := if_neg (by rw [hk]; decide)
  have kind : ¬ (h.kind ≠ 0 && h.kind ≠ 6) = true := by rw [hk]; decide
  by_cases hlast : x.cmd.total ≤ x.bundles * 16 * x.cmd.perShuttle
  · have none : tokenElems x.cmd (x.bundles * 16 * x.cmd.perShuttle) h = [] := by
      rw [tokenElems, List.filterMap_eq_nil_iff]
      intro j _
      rw [if_neg (by omega)]
    rw [none] at hput
    cases hput
    simp only [writeBundle, List.head?_cons, Option.getD_some, data, if_neg kind, if_pos hlast]
    exact ⟨trivial, trivial⟩
  · simp only [writeBundle, List.head?_cons, Option.getD_some, data, if_neg kind, if_neg hlast, hf]
    exact writeElems_foldl _ _ rfl rfl (by rw [filterMap_bundleElems hw hk]; exact hput)

/-- A HOLE's elements have no codes. -/
theorem bundleElems_hole {c : Cmd} {h : Token} (hk : h.kind = 6) (first : Nat) : bundleElems c first [h] =
    (List.range 16).flatMap fun i => (List.range (c.width + 1)).flatMap fun u => (List.range (formCount c.form)).map fun j =>
      (first + (i * (c.width + 1) + u) * formCount c.form + j, none) := by
  have hole : asData h = h := if_neg (by rw [hk]; decide)
  have six : ¬ ((6 : BitVec 3) = 0) := by decide
  simp only [bundleElems, List.head?_cons, Option.getD_some, hole, hk, six, decide_false, Bool.false_and, Bool.false_eq_true, if_false]

/-- What a write takes of a HOLE is its SEQ. -/
theorem writeBundle_hole (s : State) (x : Stream) {h g : Token} (hh : h.kind = 6) (hg : g.kind = 6) (hseq : h.seq = g.seq) :
    writeBundle s x [h] = writeBundle s x [g] := by
  have holeH : asData h = h := if_neg (by rw [hh]; decide)
  have holeG : asData g = g := if_neg (by rw [hg]; decide)
  simp only [writeBundle, List.head?_cons, Option.getD_some, holeH, holeG, hh, hg, hseq, bundleElems_hole hh, bundleElems_hole hg]
  rfl

/-- A bundle of one token is written as the token is. -/
theorem writeBundle_oneKind (s : State) (x : Stream) (h : Token) : writeBundle s x (oneKind [h]) = writeBundle s x [h] := by
  by_cases hk : h.kind = 6
  · rw [oneKind, if_pos (by simp [hk])]
    exact writeBundle_hole s x rfl hk rfl
  · rw [oneKind, if_neg (by simpa using hk)]

/-- A bundle that is neither data, initial nor a HOLE is taken and nothing written. -/
theorem writeBundle_other (s : State) (x : Stream) {h : Token} (h0 : h.kind ≠ 0) (h1 : h.kind ≠ 1) (h6 : h.kind ≠ 6) :
    (writeBundle s x [h]).s = s := by
  have same : asData h = h := if_neg h1
  have other : (decide (h.kind ≠ 0) && decide (h.kind ≠ 6)) = true := by
    rw [Bool.and_eq_true]
    exact ⟨decide_eq_true h0, decide_eq_true h6⟩
  simp only [writeBundle, List.head?_cons, Option.getD_some, same, if_pos other]

/-! ### Turns -/

section Turn
variable {s : State} {x : Stream} {pl : Placement} {q : Port} (hp : streamPort s x = some (pl, q)) (hq : q.width = 0)
include hp

/-- The turn of a stream that reads, where its queue has room. -/
theorem readTurn_eq (hexit : q.exit = false) (hroom : queueRoomAt s pl q = true) {m : Made} (hn : nextBundle s x = some m) :
    readTurn s x = some { m with s := enterQueue m.s pl q m.tokens } := by
  simp [readTurn, hp, hexit, hroom, hn]

/-- A stream at an exit port reads nothing. -/
theorem readTurn_exit (hexit : q.exit = true) : readTurn s x = none := by simp [readTurn, hp, hexit]

section Exit
variable (hop : x.cmd.op = .stream) (hact : pl.active = true)
include hop hact

/-- The end of a write whose exit has closed. -/
theorem writeTurn_done (hk : x.cmd.kind = 1) (hdone : exitDone s pl x q = true) : writeTurn s x = some (writeEnd s x) := by
  simp [writeTurn, hp, hop, hact, hk, hdone]

include hq in
/-- The turn of a write at whose exit a token waits. -/
theorem writeTurn_takes (hk : x.cmd.kind = 1) {h : Token} {hs : List Token} (hslots : (chanOf s (outKey q)).slots = h :: hs)
    (hheld : ∀ p ∈ x.cmd.visited, backingHeld s (whoEngine x.cmd x.eng) (some x.cmd.order) p.1 p.2 = false) :
    writeTurn s x = some (writeBundle (noteMove (takeExit s q) q.site) x [h]) := by
  have open_ : exitDone s pl x q = false := by
    rw [exitDone_single hq, hslots]
    simp
  have held : (x.cmd.visited.any fun p => backingHeld s (whoEngine x.cmd x.eng) (some x.cmd.order) p.1 p.2) = false := by
    rw [List.any_eq_false]
    intro p hpm
    rw [hheld p hpm]
    decide
  simp [writeTurn, hp, hop, hact, hk, open_, exitBundle_single hq hslots, held, writeBundle_oneKind]

omit hop hact in
/-- A score add does not write as an affine write does. -/
theorem writeTurn_other (hk : x.cmd.kind ≠ 1) : writeTurn s x = none := by simp [writeTurn, hp, hk]

variable (hk : x.cmd.kind = 4) (hstart : x.started = true)
include hk hstart

/-- The end of a score add whose exit has closed. -/
theorem scoreTurn_done (hl : x.lanes = []) (hdone : exitDone s pl x q = true) : scoreTurn s x = some { s := s, t := x, fin := true } := by
  simp [scoreTurn, hp, hop, hact, hk, hstart, hl, hdone]

/-- A lane's turn. -/
theorem scoreTurn_lane {p w : W32} {ls : List (W32 × W32)} {s1 : State} {x1 : Stream} (hl : x.lanes = (p, w) :: ls)
    (hs : scoreLane s x p.toNat w = .ok (s1, x1)) : scoreTurn s x = some { s := s1, t := { x1 with lanes := ls, done := x.done + 1 } } := by
  simp [scoreTurn, hp, hop, hact, hk, hstart, hl, hs]

/-- A lane's fault. -/
theorem scoreTurn_fault {p w : W32} {ls : List (W32 × W32)} {f : Flt} (hl : x.lanes = (p, w) :: ls)
    (hs : scoreLane s x p.toNat w = .error f) : scoreTurn s x = some { s := s, t := x, flt := some (f, x.done) } := by
  simp [scoreTurn, hp, hop, hact, hk, hstart, hl, hs]

end Exit

end Turn

/-- The end of a write without codes in hand changes nothing but that it ends. -/
theorem writeEnd_plain {s : State} {x : Stream} (hc : x.codes = []) : writeEnd s x = { s := s, t := x, fin := true } := by
  cases hg : f8cGeom s (whoEngine x.cmd x.eng) x.cmd with
  | none => simp only [writeEnd, hg, Option.isNone_none]
  | some geom => simp only [writeEnd, hg, f8cFinish, hc, List.isEmpty_nil, if_true, Option.isNone_none]

/-! ### Lanes of a score add (R175) -/

section Score
variable {s s1 : State} {x : Stream} {ds : List Byte} (hpage : x.page = 0)
  (hd : kvRead s (whoEngine x.cmd x.eng) x.cmd.strict .engRead x.cmd.base 64 = .ok (s1, ds))
  (hb : annexBlank s1 (whoEngine x.cmd x.eng) x.cmd.base false = false)

theorem bitOf_eq_testBit (i v : Nat) : bitOf i v = v.testBit i := by
  rw [bitOf, Nat.testBit_eq_decide_div_mod_eq, Bool.beq_eq_decide_eq]

/-- A chain is followed for as long as it needs. -/
theorem chainFuel_succ : chainFuel = (2 ^ 57 - 1) + 1 := by decide

/-- The search ends at once at the end of the chain. -/
theorem seekPage_end (w : Who) (strict : Bool) (p : Nat) (s : State) : seekPage w strict p chainFuel s 0 = .ok (s, none) := by
  rw [chainFuel_succ, seekPage, if_pos rfl]

/-- The search ends at the first page that reaches beyond the position. -/
theorem seekPage_here {w : Who} {strict : Bool} {p va : Nat} {s s2 : State} {bs : List Byte} (hva : va ≠ 0)
    (hr : kvRead s w strict .engRead va 64 = .ok (s2, bs)) (hblank : annexBlank s2 w va false = false) (hp : p < (kvPage bs).first + 64) :
    seekPage w strict p chainFuel s va = .ok (s2, some (va, kvPage bs)) := by
  rw [chainFuel_succ, seekPage, if_neg hva, hr]
  simp only [hblank, Bool.false_eq_true, if_false, if_neg (Nat.not_le.2 hp)]

include hpage hd hb

/-- A lane of a cache without pages is dropped. -/
theorem scoreLane_empty (p : Nat) (wt : W32) (hhead : (kvDesc ds).head = 0) :
    scoreLane s x p wt = .ok (s1, { x with page := 0, stats := addCount x.stats 5 1 }) := by
  simp only [scoreLane, hd, hb, Bool.false_eq_true, if_false, scoreStart, hpage, if_true, hhead, seekPage_end]

variable {s2 : State} {bs : List Byte} {p : Nat} (hhead : (kvDesc ds).head ≠ 0)
  (hr : kvRead s1 (whoEngine x.cmd x.eng) x.cmd.strict .engRead (kvDesc ds).head 64 = .ok (s2, bs))
  (hblank : annexBlank s2 (whoEngine x.cmd x.eng) (kvDesc ds).head false = false) (hp : p < (kvPage bs).first + 64)
include hhead hr hblank hp

/-- A lane whose position has no word is dropped. -/
theorem scoreLane_drops (wt : W32) (hno : p < (kvPage bs).first ∨ (kvPage bs).pvalid.testBit (p - (kvPage bs).first) = false ∨ (kvPage bs).score = 0) :
    scoreLane s x p wt = .ok (s2, { x with page := (kvDesc ds).head, stats := addCount x.stats 5 1 }) := by
  have none : (decide (p < (kvPage bs).first) || !bitOf (p - (kvPage bs).first) (kvPage bs).pvalid || decide ((kvPage bs).score = 0)) = true := by
    rw [bitOf_eq_testBit]
    rcases hno with h | h | h <;> simp [h]
  simp only [scoreLane, hd, hb, Bool.false_eq_true, if_false, scoreStart, hpage, if_true, seekPage_here hhead hr hblank hp, none]

/-- A lane's weight is added to its position's word. -/
theorem scoreLane_adds {s3 : State} {old : Nat} (wt : W32) (hfirst : (kvPage bs).first ≤ p)
    (hv : (kvPage bs).pvalid.testBit (p - (kvPage bs).first) = true) (hs : (kvPage bs).score ≠ 0)
    (hheld : backingHeld s2 (whoEngine x.cmd x.eng) (some x.cmd.order) ((kvPage bs).score + 4 * (p - (kvPage bs).first)) 4 = false)
    (ha : engAtomic s2 (whoEngine x.cmd x.eng) { acc := .engWrite, hidden := true, fmt := fun f => f == 0 || f == 1 }
      ((kvPage bs).score + 4 * (p - (kvPage bs).first)) 4 (fun old => addScore old wt.toNat) x.cmd.sync = .ok (s3, old, false)) :
    scoreLane s x p wt = .ok (s3, { x with page := (kvDesc ds).head }) := by
  have some : (decide (p < (kvPage bs).first) || !bitOf (p - (kvPage bs).first) (kvPage bs).pvalid || decide ((kvPage bs).score = 0)) = false := by
    rw [bitOf_eq_testBit]
    simp [hv, hs, hfirst]
  simp only [scoreLane, hd, hb, Bool.false_eq_true, if_false, scoreStart, hpage, if_true, seekPage_here hhead hr hblank hp, some, hheld, ha]

end Score

/-! ### Deferred faults (R176, R272 to R274) -/

/-- A slice found after the slices of an identifier have been changed. -/
theorem findSlice_modSlice (s : State) (i j : BitVec 32) {f : Slice → Slice} (hf : ∀ l, (f l).id = l.id) :
    findSlice (modSlice s i f) j = (findSlice s j).map fun k => if k.id = i then f k else k := by
  have same : ∀ k : Slice, ((if k.id = i then f k else k).id == j) = (k.id == j) := fun k => by
    split
    · rw [hf]
    · rfl
  simp only [findSlice, modSlice, List.find?_map, Function.comp_def, same]

/-- The slice that is found has the identifier. -/
theorem id_of_findSlice {s : State} {i : BitVec 32} {l : Slice} (h : findSlice s i = some l) : l.id = i := by
  simpa using List.find?_some h

section Record
variable (s : State) (e : EngineId) (r : DeferRec)

/-- A posted record leaves the streams, and of the slices only that one is woken. -/
theorem postRecord_keeps : (postRecord s e r).streams = s.streams ∧
    ∀ {l : Slice}, findSlice s r.slice = some l → ∃ l', findSlice (postRecord s e r) r.slice = some l' ∧ l'.faulted = l.faulted := by
  unfold postRecord
  split
  · rename_i s1 h
    unfold sendRecord at h
    split at h
    · dsimp only at h
      split_ifs at h
      cases h
      rename_i k _ _
      refine ⟨rfl, fun {l} hl => ⟨if l.id = k.id then { l with woken := true } else l, ?_, by split <;> rfl⟩⟩
      exact (findSlice_modSlice (setCore s k.core _) k.id r.slice (f := fun l => { l with woken := true }) fun _ => rfl).trans
        (congrArg _ hl)
    · obtain ⟨c, k, h⟩ : ∃ c k, sendSuper s c k { cause := 0x0E, addr := r.addr, slice := r.slice, inner := r.cause, record := some r } =
          some s1 := by
        revert h
        split
        exact fun h => ⟨_, _, h⟩
      unfold sendSuper at h
      dsimp only at h
      split_ifs at h
      cases h
      exact ⟨rfl, fun {l} hl => ⟨l, hl, rfl⟩⟩
  · exact ⟨rfl, fun {l} hl => ⟨l, hl, rfl⟩⟩

/-- The record of a live slice with room in its core's list is put there. -/
theorem deferred_postRecord {l : Slice} (hl : findSlice s r.slice = some l) (hlive : l.state ≠ .retired)
    (hroom : (coreOf s l.core).deferred.length < 16) : (coreOf (postRecord s e r) l.core).deferred = (coreOf s l.core).deferred ++ [r] := by
  have live : (findSlice s r.slice).filter liveSlice = some l := by
    rw [hl, Option.filter_some, if_pos (by simpa [liveSlice] using hlive)]
  simp only [postRecord, sendRecord, live, if_neg (Nat.not_le.2 hroom)]
  change (coreOf (setCore s l.core _) l.core).deferred = _
  rw [coreOf_setCore_self]

end Record

section Stop
variable {s : State} {x : Stream} {f : Flt} {n : Nat} (hstats : x.stats = [])
include hstats

/-- A stream without counts stops: its record is posted, and what it writes is marked. -/
theorem stopStream_eq : stopStream s x f n =
    modSlice (postRecord (putStream s { x with faulted := some (cmdRecord x.cmd n f), started := true }) x.eng (cmdRecord x.cmd n f)) x.cmd.slice
      fun l => { l with faulted := l.faulted ++ streamDest s x.cmd x.eng } := by
  simp only [stopStream, reportStream, hstats, reportStats_nil]
  split <;> rfl

/-- What a faulted stream without counts leaves. -/
theorem faultStream_leaves {m : Made} (hs : m.s = s) (ht : m.t = x) : (∃ y ∈ (faultStream m f n).streams, y.cmd.order = x.cmd.order ∧
      y.faulted = some (cmdRecord x.cmd n f)) ∧
    ∀ l, findSlice s x.cmd.slice = some l →
      (∃ l', findSlice (faultStream m f n) x.cmd.slice = some l' ∧ l'.faulted = l.faulted ++ streamDest s x.cmd x.eng) ∧
      (l.state ≠ .retired → (coreOf s l.core).deferred.length < 16 →
        (coreOf (faultStream m f n) l.core).deferred = (coreOf s l.core).deferred ++ [cmdRecord x.cmd n f]) := by
  obtain ⟨streams, slices⟩ := postRecord_keeps (putStream s { x with faulted := some (cmdRecord x.cmd n f), started := true }) x.eng
    (cmdRecord x.cmd n f)
  rw [faultStream, leaveTable_others, hs, ht, stopStream_eq hstats]
  refine ⟨⟨{ x with faulted := some (cmdRecord x.cmd n f), started := true }, ?_, rfl, rfl⟩, fun l hl => ⟨?_, fun hlive hroom => ?_⟩⟩
  · change _ ∈ (postRecord _ _ _).streams
    rw [streams]
    exact mem_putStream ..
  · obtain ⟨l', hl', hf⟩ := slices (l := l) hl
    have found := (findSlice_modSlice (postRecord (putStream s { x with faulted := some (cmdRecord x.cmd n f), started := true }) x.eng
      (cmdRecord x.cmd n f)) x.cmd.slice x.cmd.slice (f := fun l => { l with faulted := l.faulted ++ streamDest s x.cmd x.eng }) fun _ => rfl).trans
      (congrArg _ hl')
    have hid : l'.id = x.cmd.slice := id_of_findSlice hl'
    refine ⟨_, found, ?_⟩
    beta_reduce
    rw [if_pos hid]
    exact congrArg (· ++ streamDest s x.cmd x.eng) hf
  · exact deferred_postRecord _ x.eng (cmdRecord x.cmd n f) (l := l) hl hlive hroom

end Stop

/-! ### Streams move bundles (R71, R170 to R176) -/

section Moves
variable {s : State} {e : EngineId} {x : Stream} (hx : s.streams.find? (fun u => u.eng == e) = some x) {pl : Placement} {q : Port}
  (hp : streamPort s x = some (pl, q)) (hq : q.width = 0)
include hx

theorem eng_of_find : x.eng = e := by simpa using List.find?_some hx

include hp hq

/-- The queue of an entry port. -/
def inKey (pl : Placement) (q : Port) : Nat := entryKey pl.ctx q.port.toNat (trackAt q.site q.track.toNat)

/-- A bundle of one token is delivered at its port's queue. -/
theorem delivers_one (hexit : q.exit = false) (hroom : (chanOf s (inKey pl q)).slots.length < 4) {m : Made} (hn : nextBundle s x = some m)
    (hm : m.flt = none) {k : Token} (hk : m.tokens = [k]) (hsame : chanOf m.s (inKey pl q) = chanOf s (inKey pl q)) :
    ∃ t, exec (.streamBundleDelivery e) s = .next t ∧ (chanOf t (inKey pl q)).slots = (chanOf s (inKey pl q)).slots ++ [k] ∧ t.mem = m.s.mem ∧
      (m.fin = false → m.t ∈ t.streams ∧ t.sites = m.s.sites) := by
  have turn := readTurn_eq hp hexit (queueRoomAt_single hq hroom) hn
  obtain ⟨chans, mem⟩ := finishBundle_keeps { m with s := enterQueue m.s pl q m.tokens }
  have only := onlyChans_enterQueue m.s pl q m.tokens
  refine ⟨_, streamBundleDelivery_first (m := { m with s := enterQueue m.s pl q m.tokens }) hx hm turn, ?_, mem.trans only.mem, fun hfin => ?_⟩
  · rw [chanOf, chans]
    change (chanOf (enterQueue m.s pl q m.tokens) (inKey pl q)).slots = _
    rw [hk, enterQueue_single hq, ← hsame]
    exact congrArg Chan.slots ((chanOf_modChan m.s (inKey pl q) (inKey pl q) (f := fun c => { c with slots := c.slots ++ [k] })
      fun h => by simpa using congrArg Chan.slots h).trans (if_pos rfl))
  · rw [finishBundle_of_more (m := { m with s := enterQueue m.s pl q m.tokens }) hfin]
    refine ⟨mem_putStream _ _, ?_⟩
    change (enterQueue m.s pl q m.tokens).sites = _
    rw [only.others]

/-- A stream that has delivered its last bundle is gone. -/
theorem delivers_last (hexit : q.exit = false) (hroom : (chanOf s (inKey pl q)).slots.length < 4) {m : Made} (hn : nextBundle s x = some m)
    (hm : m.flt = none) (hfin : m.fin = true) : ∃ t, exec (.streamBundleDelivery e) s = .next t ∧ Gone t m.t.cmd.order := by
  have turn := readTurn_eq hp hexit (queueRoomAt_single hq hroom) hn
  exact ⟨_, streamBundleDelivery_first (m := { m with s := enterQueue m.s pl q m.tokens }) hx hm turn,
    finishBundle_of_fin (m := { m with s := enterQueue m.s pl q m.tokens }) hfin⟩

/-- At a closed exit port without tokens a write or a score add with nothing in hand ends. -/
theorem ends_at_closed_exit (hop : x.cmd.op = .stream) (hact : pl.active = true)
    (hkind : (x.cmd.kind = 1 ∧ x.codes = []) ∨ (x.cmd.kind = 4 ∧ x.started = true ∧ x.lanes = [])) (hclosed : x.port ∈ pl.closed)
    (hslots : (chanOf s (outKey q)).slots = []) (hflight : (chanOf s (outKey q)).flight = []) :
    ∃ t, exec (if x.cmd.kind = 1 then .streamWrite e else .scoreAddLane e) s = .next t ∧ Gone t x.cmd.order ∧ t.chans = s.chans := by
  have done : exitDone s pl x q = true := by simp [exitDone_single hq, hslots, hflight, hclosed]
  rcases hkind with ⟨hk, hc⟩ | ⟨hk, hstart, hl⟩
  · have turn := writeTurn_done hp hop hact hk done
    rw [writeEnd_plain hc] at turn
    rw [if_pos hk]
    exact ⟨_, streamWrite_first hx rfl turn, finishBundle_of_fin rfl, (finishBundle_keeps _).1⟩
  · have turn := scoreTurn_done hp hop hact hk hstart hl done
    rw [if_neg (by rw [hk]; decide)]
    exact ⟨_, scoreAddLane_first hx rfl turn, finishBundle_of_fin rfl, (finishBundle_keeps _).1⟩

/-- A write takes the token that waits at its exit; what is no element writes nothing. -/
theorem write_takes (hop : x.cmd.op = .stream) (hact : pl.active = true) (hk : x.cmd.kind = 1) {h : Token} {hs : List Token}
    (hslots : (chanOf s (outKey q)).slots = h :: hs)
    (hheld : ∀ p ∈ x.cmd.visited, backingHeld s (whoEngine x.cmd e) (some x.cmd.order) p.1 p.2 = false)
    (hm : (writeBundle (noteMove (takeExit s q) q.site) x [h]).flt = none) (hfin : (writeBundle (noteMove (takeExit s q) q.site) x [h]).fin = false) :
    ∃ t, exec (.streamWrite e) s = .next t ∧ t.mem = (writeBundle (noteMove (takeExit s q) q.site) x [h]).s.mem ∧
      (writeBundle (noteMove (takeExit s q) q.site) x [h]).t ∈ t.streams ∧
      (h.kind ≠ 0 → h.kind ≠ 1 → h.kind ≠ 6 → t.mem = s.mem ∧ (chanOf t (outKey q)).slots = hs) := by
  have turn := writeTurn_takes hp hq hop hact hk hslots (by rw [eng_of_find hx]; exact hheld)
  refine ⟨_, streamWrite_first hx hm turn, ?_⟩
  rw [finishBundle_of_more hfin]
  refine ⟨rfl, mem_putStream _ _, fun h0 h1 h6 => ?_⟩
  rw [writeBundle_other _ x h0 h1 h6]
  refine ⟨?_, ?_⟩
  · change (noteMove (takeExit s q) q.site).mem = _
    rw [takeExit_single hq]
    rfl
  · change (chanOf (noteMove (takeExit s q) q.site) (outKey q)).slots = hs
    rw [takeExit_single hq]
    change (chanOf (modChan s (outKey q) Chan.consumed) (outKey q)).slots = hs
    rw [chanOf_modChan _ _ _ (Chan.consumed_ne _), if_pos rfl, Chan.consumed, hslots]
    rfl

omit hq in
/-- A lane of a score add. -/
theorem score_lane (hop : x.cmd.op = .stream) (hact : pl.active = true) (hk : x.cmd.kind = 4) (hstart : x.started = true) {p w : W32}
    {ls : List (W32 × W32)} {s1 : State} {x1 : Stream} (hl : x.lanes = (p, w) :: ls) (hs : scoreLane s x p.toNat w = .ok (s1, x1)) :
    ∃ t, exec (.scoreAddLane e) s = .next t ∧ t.mem = s1.mem ∧ { x1 with lanes := ls, done := x.done + 1 } ∈ t.streams := by
  refine ⟨_, scoreAddLane_first hx rfl (scoreTurn_lane hp hop hact hk hstart hl hs), ?_⟩
  rw [finishBundle_of_more rfl]
  exact ⟨rfl, mem_putStream _ _⟩

omit hq in
/-- A lane that faults stops its stream and posts the record. -/
theorem score_fault (hexit : q.exit = true) (hop : x.cmd.op = .stream) (hact : pl.active = true) (hk : x.cmd.kind = 4) (hstart : x.started = true)
    {p w : W32} {ls : List (W32 × W32)} {f : Flt} (hl : x.lanes = (p, w) :: ls) (hs : scoreLane s x p.toNat w = .error f)
    (hheld : (engineOf s e).held = none) (hstats : x.stats = []) :
    ∃ t r, exec (.streamDeferredFault e) s = .next t ∧ r.cause = f.cause ∧ r.addr = f.addr ∧ r.slice = x.cmd.slice ∧
      r.msgSeq = x.cmd.msgSeq ∧ (∃ y ∈ t.streams, y.cmd.order = x.cmd.order ∧ y.faulted = some r) ∧
      ∀ l, findSlice s x.cmd.slice = some l → (∃ l', findSlice t x.cmd.slice = some l' ∧ l'.faulted = l.faulted ++ streamDest s x.cmd x.eng) ∧
        (l.state ≠ .retired → (coreOf s l.core).deferred.length < 16 →
          (coreOf t l.core).deferred = (coreOf s l.core).deferred ++ [r]) := by
  have turn : anyTurn s x = some { s := s, t := x, flt := some (f, x.done) } := by
    rw [anyTurn, readTurn_exit hp hexit, writeTurn_other hp (by rw [hk]; decide), scoreTurn_fault hp hop hact hk hstart hl hs]
    rfl
  obtain ⟨left, slices⟩ := faultStream_leaves hstats (f := f) (n := x.done) (m := { s := s, t := x, flt := some (f, x.done) }) rfl rfl
  exact ⟨_, cmdRecord x.cmd x.done f, streamDeferredFault_first hx hheld turn rfl, rfl, rfl, rfl, rfl, left, slices⟩

end Moves

/-- An element that is neither poisoned nor on a blank page is read. -/
theorem readVisit_reads {s s1 : State} {w : Who} {c : Cmd} {va e0 : Nat}
    (hr : engReadNat s w { acc := .engRead, annex := true, fmt := fun f => f != 5 && decodable f c.form && pageElem f c.form == c.esize } va c.esize =
      .ok (s1, e0, false)) (hb : annexBlank s1 w va false = false) :
    ∃ ks, readVisit s w c (va, none) = .ok (s1, some (decodeElem (((peekFmt s1 w va).map (·.1)).getD 0) c.form e0).1, ks) := by
  simp only [readVisit, hr, hb, Bool.false_and, Bool.false_eq_true, if_false, Bool.or_self]
  exact ⟨_, rfl⟩

/-- An affine stream's next bundle, with the shuttles of Table 6.14. -/
theorem nextBundle_affine {s : State} {x : Stream} (hk : x.cmd.kind = 0) (hop : x.cmd.op = .stream) :
    nextBundle s x = some (affineBundle s (whoEngine x.cmd x.eng) x) := by
  simp [nextBundle, hk, hop]

/-- Settles O53: each turn is followed to what it leaves, and the shuttles of a bundle are the elements read in order, cut. -/
theorem streamsMoveBundles : Obligations.StreamsMoveBundles := by
  unfold Obligations.StreamsMoveBundles
  intro s e x hx gone c w per
  have he := eng_of_find hx
  refine ⟨?_, ?_, ?_, ?_, ?_, fun hnone only => stream_idle only hnone⟩
  · intro pl q hp hq key ek out
    refine ⟨fun hexit hroom m hn hm => ⟨fun k hk hsame => delivers_one hx hp hq hexit hroom hn hm hk hsame, fun hfin horder => ?_⟩,
      fun hexit hop hact => ⟨fun hkind hclosed hslots hflight => ends_at_closed_exit hx hp hq hop hact hkind hclosed hslots hflight,
        fun hk h hs hslots hheld => ?_, ?_, fun hk hstart =>
          ⟨fun p w ls s1 x1 hl hs => score_lane hx hp hop hact hk hstart hl hs,
            fun p w ls f hl hs hheld hstats => score_fault hx hp hexit hop hact hk hstart hl hs hheld hstats⟩⟩⟩
    · obtain ⟨t, ht, hgone⟩ := delivers_last hx hp hq hexit hroom hn hm hfin
      rw [horder] at hgone
      exact ⟨t, ht, hgone⟩
    · intro m hm hfin
      exact write_takes hx hp hq hop hact hk hslots hheld hm hfin
    · intro _ hw _ hf h hkind first b es rule put u hu
      exact writeBundle_data hw hf hkind hu
  · intro hk hop _ hf first n g hmore hflt
    obtain ⟨flt, state, fin, xs, tokens, cut⟩ := affineBundle_reads hf hmore hflt
    refine ⟨_, nextBundle_affine hk hop, flt, state, fin, ?_, fun u hu => ?_⟩
    · rw [tokens, bundleOf_eq, List.length_map, List.length_range]
    · rw [tokens]
      exact bundleOf_token cut s.draws (x.cmd.seq0 + x.bundles) hu
  · intro va s1 e0 rule hr hb
    exact readVisit_reads hr hb
  · intro p wt s1 ds hpage hd hb
    refine ⟨scoreLane_empty hpage hd hb p wt, fun s2 bs hhead hr hblank hlt => ?_⟩
    intro hd' a
    exact ⟨scoreLane_drops hpage hd hb hhead hr hblank hlt wt, fun hfirst hv hs hheld s3 old ha =>
      scoreLane_adds hpage hd hb hhead hr hblank hlt wt hfirst hv hs hheld ha⟩
  · intro hheld
    rw [exec_streamDeferredFault, if_pos hheld]

end Sys2Proof.Machine

namespace Sys2Proof.Machine

/-! ### Memory work leaves the fabric (R181 to R193) -/

/-- The sites and the placements of a state. -/
def fabricOf (s : State) : List (Nat × Site) × List Placement := (s.sites, s.placements)

section Memory
variable (s : State)

@[simp] theorem fabricOf_holdLink (c : Option CoreId) (d h : DieId) : fabricOf (holdLink s c d h) = fabricOf s := by
  unfold holdLink
  split <;> rfl

@[simp] theorem fabricOf_reach (d : DieId) (l : Nat) : fabricOf (reach s d l) = fabricOf s := by
  unfold reach
  split
  · exact fabricOf_holdLink s none d _
  · split <;> rfl

@[simp] theorem fabricOf_putLine (d : DieId) (l : Nat) (data : List Byte) (dirty : BitVec 64) :
    fabricOf (putLine s d l data dirty) = fabricOf s := by
  unfold putLine
  split
  · rfl
  · exact fabricOf_reach s d l

@[simp] theorem fabricOf_yieldLine (c : Option CoreId) (l : Nat) : fabricOf (yieldLine s c l) = fabricOf s := by
  refine foldl_keeps fabricOf (fun u a => ?_) _ _
  dsimp only
  split
  · rfl
  · split
    · rfl
    · exact (fabricOf_putLine _ _ _ _ _).trans (fabricOf_holdLink ..)

@[simp] theorem fabricOf_flushForwards (d h : DieId) : fabricOf (flushForwards s d h) = fabricOf s :=
  foldl_keeps fabricOf (fun _ _ => (fabricOf_putLine ..).trans (fabricOf_yieldLine ..)) _ _

@[simp] theorem fabricOf_arriveFirst (d : DieId) (l : Nat) : fabricOf (arriveFirst s d l) = fabricOf s := by
  unfold arriveFirst exchange
  split
  · rw [fabricOf_flushForwards, fabricOf_flushForwards]
  · rfl

@[simp] theorem fabricOf_atHome (d : DieId) (l : Nat) : fabricOf (atHome s d l) = fabricOf s := by
  rw [atHome, recallLine, fabricOf_yieldLine, foldl_keeps fabricOf fun _ _ => fabricOf_arriveFirst _ _ _, fabricOf_arriveFirst, fabricOf_reach]

@[simp] theorem fabricOf_homeAtomic (d : DieId) (pa n : Nat) (f : Nat → Nat) : fabricOf (homeAtomic s d pa n f).1 = fabricOf s :=
  fabricOf_atHome s d _

@[simp] theorem fabricOf_dieFill (dom : BitVec 4) (l : Nat) : fabricOf (dieFill s dom l) = fabricOf s := by
  unfold dieFill
  split
  · extract_lets m share here way kept
    split_ifs <;> rfl
  · rfl

@[simp] theorem fabricOf_putNear (w : Who) (e : TlbEntry) : fabricOf (putNear s w e) = fabricOf s := by
  unfold putNear
  split <;> rfl

@[simp] theorem fabricOf_useLeaf (w : Who) (va : Nat) (f : Found) (write : Bool) : fabricOf (useLeaf s w va f write).1 = fabricOf s := by
  have walked : fabricOf (walkReads s w va) = fabricOf s :=
    foldl_keeps fabricOf (fun u a => (fabricOf_dieFill ..).trans (fabricOf_reach ..)) _ _
  have used : fabricOf (useLeaf s w va f write).1 = fabricOf (match f.entry with
      | some at_ =>
        if f.leaf.pte.toNat ||| 32 ||| (if write then 64 else 0) = f.leaf.pte.toNat then walkReads s w va
        else (homeAtomic (walkReads s w va) w.die at_ 8 fun v => v ||| 32 ||| (if write then 64 else 0)).1
      | none => s) := by
    unfold useLeaf
    dsimp only
    split
    · exact fabricOf_putNear ..
    · exact fabricOf_putNear ..
  rw [used]
  generalize (f.leaf.pte.toNat ||| 32 ||| (if write then 64 else 0)) = set
  split
  · split
    · exact walked
    · exact (fabricOf_homeAtomic ..).trans walked
  · rfl

theorem fabricOf_checkAccess {s s1 : State} {w : Who} {va n : Nat} {a : Acc} {hidden setD : Bool} {page : Leaf → Nat → Bool} {t : Target}
    (h : checkAccess s w va n a hidden page setD = .ok (s1, t)) : fabricOf s1 = fabricOf s := by
  unfold checkAccess at h
  extract_lets here window at h
  split at h
  · cases h
  · split at h
    · cases h
    · split at h
      · cases h
        rfl
      · split at h
        · cases h
        · dsimp only at h
          split_ifs at h
          cases h
          exact fabricOf_useLeaf ..

@[simp] theorem fabricOf_engRequest (s1 : State) (w : Who) (va n : Nat) (t : Target) (write : Bool) :
    fabricOf (engRequest s s1 w va n t write) = fabricOf s1 := by
  have claim : fabricOf (engClaim s s1 w va t write) = fabricOf s1 := by
    unfold engClaim
    split
    · split <;> rfl
    · extract_lets h s2 s3
      have link : fabricOf s2 = fabricOf s1 := by
        simp only [s2]
        split
        · rfl
        · exact fabricOf_holdLink ..
      have walk : fabricOf s3 = fabricOf s2 := by
        simp only [s3, walkClaim]
        split <;> rfl
      split
      · exact walk.trans link
      · exact walk.trans link
  unfold engRequest
  split
  · exact claim
  · dsimp only
    split
    · exact claim
    · exact (foldl_keeps fabricOf (fun u a => fabricOf_atHome u _ _) _ _).trans claim

@[simp] theorem fabricOf_arrives (pa n m : Nat) (sync : Option Nat) : fabricOf (queueArrival (wakeRange s pa n) sync m) = fabricOf s := by
  have woken : fabricOf (wakeRange s pa n) = fabricOf s :=
    foldl_keeps (g := fun t w => wakeSync t (16 * w)) fabricOf (fun _ _ => rfl) _ s
  unfold queueArrival
  split
  · exact woken
  · exact woken

theorem fabricOf_countUe (d : DieId) (pa : Nat) : fabricOf (countUe s d pa) = fabricOf s := rfl
theorem fabricOf_mem (m : List Host.Cell) : fabricOf { s with mem := m } = fabricOf s := rfl

/-- An atomic access of an engine leaves the fabric. -/
theorem fabricOf_engAtomic {s s1 : State} {w : Who} {r : EngRule} {va n old : Nat} {f : Nat → Nat} {sync : Option Nat} {bad : Bool}
    (h : engAtomic s w r va n f sync = .ok (s1, old, bad)) : fabricOf s1 = fabricOf s := by
  unfold engAtomic at h
  split at h
  · cases h
  · rename_i s0 t hc
    rw [← fabricOf_checkAccess hc, ← fabricOf_engRequest s s0 w va n t true]
    dsimp only at h
    generalize engRequest s s0 w va n t true = u at h ⊢
    split at h
    · rw [← (Prod.mk.inj (Except.ok.inj h)).1, fabricOf_countUe]
    · split at h
      · rw [← (Prod.mk.inj (Except.ok.inj h)).1, fabricOf_arrives, fabricOf_mem]
      · rw [← (Prod.mk.inj (Except.ok.inj h)).1]
        split
        · rw [fabricOf_arrives, fabricOf_homeAtomic]
        · rw [fabricOf_homeAtomic]

/-- A record sent to a core leaves the fabric. -/
theorem fabricOf_sendRecord {s v : State} {r : DeferRec} (h : sendRecord s r = some v) : fabricOf v = fabricOf s := by
  unfold sendRecord at h
  split at h
  · dsimp only at h
    split_ifs at h
    cases h
    rfl
  · obtain ⟨c, d, h⟩ : ∃ c d, sendSuper s c d { cause := 0x0E, addr := r.addr, slice := r.slice, inner := r.cause, record := some r } = some v := by
      revert h
      split
      exact fun h => ⟨_, _, h⟩
    unfold sendSuper at h
    dsimp only at h
    split_ifs at h
    cases h
    rfl

end Memory

/-! ### Statistics on their way (R59, R369) -/

/-- v has the placements of u, and its sites but for their counts. -/
structure CountsSent (u v : State) : Prop where
  placements : v.placements = u.placements
  site : ∀ y, siteOf v y = { siteOf u y with
    stats := (siteOf v y).stats, tiles := (siteOf v y).tiles, adder := (siteOf v y).adder, statDead := (siteOf v y).statDead }

namespace CountsSent
variable {u v w : State}

theorem refl (u : State) : CountsSent u u := ⟨rfl, fun _ => rfl⟩
theorem trans (h : CountsSent u v) (g : CountsSent v w) : CountsSent u w := ⟨g.placements.trans h.placements, fun y => by rw [g.site, h.site]⟩
theorem ctxs (h : CountsSent u v) (y : SiteId) : (siteOf v y).ctxs = (siteOf u y).ctxs := by rw [h.site]
theorem act (h : CountsSent u v) (y : SiteId) : (siteOf v y).act = (siteOf u y).act := by rw [h.site]
theorem ctxAt (h : CountsSent u v) (y : SiteId) (k : BitVec 2) : ctxAt v y k = ctxAt u y k := by
  rw [Machine.ctxAt, h.ctxs]
  rfl

theorem of_fabric (h : fabricOf v = fabricOf u) : CountsSent u v := by
  obtain ⟨sites, placements⟩ := Prod.mk.inj h
  have site : ∀ y, siteOf v y = siteOf u y := fun y => by rw [siteOf, sites, siteOf]
  exact ⟨placements, fun y => by rw [site]⟩

theorem modSite {x : SiteId} {f : Site → Site}
    (hf : ∀ k, f k = { k with stats := (f k).stats, tiles := (f k).tiles, adder := (f k).adder, statDead := (f k).statDead }) :
    CountsSent u (modSite u x f) := by
  refine ⟨rfl, fun y => ?_⟩
  rw [siteOf_modSite]
  split
  · subst_vars
    exact hf _
  · rfl

theorem foldl {α : Type} {g : State → α → State} (hg : ∀ u a, CountsSent u (g u a)) (xs : List α) (u : State) : CountsSent u (xs.foldl g u) := by
  induction xs generalizing u with
  | nil => exact refl u
  | cons a xs ih => exact (hg u a).trans (ih _)

end CountsSent

theorem countsSent_addStats (s : State) (y : SiteId) (counts : List Nat) : CountsSent s (addStats s y counts) :=
  CountsSent.modSite fun k => by
    split <;> rfl

theorem countsSent_closeTile (s : State) (x : SiteId) (k : Nat) : CountsSent s (closeTile s x k) :=
  CountsSent.modSite (f := fun q => { q with
    stats := tblErase q.stats k
    tiles := if (tileAt s x k).counts.any (· ≠ 0) then q.tiles ++ [statToken (tileAt s x k).counts (tileAt s x k).seq] else q.tiles }) fun _ => rfl

theorem countsSent_sendTile (s : State) (pl : Placement) (x : SiteId) : CountsSent s (sendTile s pl x) := by
  unfold sendTile
  split
  · exact CountsSent.refl s
  · rename_i rest _
    have taken : CountsSent s (modSite s x fun q => { q with tiles := rest }) := CountsSent.modSite fun _ => rfl
    dsimp only
    split
    · exact taken.trans (countsSent_addStats ..)
    · exact taken

theorem countsSent_sendSums (s : State) (pl : Placement) (x : SiteId) : CountsSent s (sendSums s pl x) := by
  unfold sendSums
  split
  · exact CountsSent.refl s
  · have taken : CountsSent s (modSite s x fun q => { q with adder := [] }) := CountsSent.modSite fun _ => rfl
    dsimp only
    split
    · exact CountsSent.refl s
    · split
      · exact taken.trans (countsSent_addStats ..)
      · exact taken

/-- The update of a root's record, or the end of its counts. -/
theorem countsSent_rootRecord (s : State) (x : SiteId) (cx : Option Ctx) : CountsSent s (rootRecord s x cx) := by
  unfold rootRecord
  split
  · exact CountsSent.refl s
  · extract_lets k kk va dead
    have died : ∀ u f, CountsSent s u → CountsSent s (dead u f) := by
      intro u f hu
      simp only [dead]
      split
      · exact CountsSent.refl s
      · exact (hu.trans (.of_fabric (fabricOf_sendRecord ‹_›))).trans (CountsSent.modSite fun _ => rfl)
    split
    · exact CountsSent.refl s
    · split
      · exact CountsSent.refl s
      · extract_lets
        split
        · exact died _ _ (CountsSent.refl s)
        · split
          · exact CountsSent.refl s
          · split
            · exact died _ _ (CountsSent.refl s)
            · exact died _ _ (.of_fabric (fabricOf_engAtomic ‹_›))
            · exact (CountsSent.of_fabric (fabricOf_engAtomic ‹_›)).trans (CountsSent.modSite fun _ => rfl)

/-- What a region still holds of counts goes out. -/
theorem countsSent_flushStats (s : State) (pl : Placement) : CountsSent s (flushStats s pl) := by
  unfold flushStats
  extract_lets xs s1 s2 s3
  have closed : CountsSent s s1 := CountsSent.foldl (fun u x => CountsSent.foldl (fun v (e : Nat × TileCount) => countsSent_closeTile v x e.1) _ u) _ s
  have tiles : CountsSent s1 s2 := CountsSent.foldl (fun u x => CountsSent.foldl (fun u e => countsSent_sendTile ..) _ u) _ s1
  have sums : CountsSent s2 s3 := CountsSent.foldl (fun u k => CountsSent.foldl (fun u e => by
    split
    · exact countsSent_sendSums ..
    · exact CountsSent.refl u) _ u) _ s2
  have all := (closed.trans tiles).trans sums
  split
  · exact all
  · exact (all.trans (countsSent_rootRecord ..)).trans (.of_fabric rfl)

end Sys2Proof.Machine

namespace Sys2Proof.Machine

/-! ### Configuration tokens at entry ports (R63) -/

/-- An entry port that cannot inject a configuration token now. -/
def injectWaits (s : State) (pl : Placement) (i : Nat) (q : Port) : Bool :=
  q.exit || pl.frozen || pl.injected.contains i || !pl.closed.contains i || !((entryQueues s pl q).all (·.isEmpty))

theorem injectWaits_eq_false {s : State} {pl : Placement} {i : Nat} {q : Port} : injectWaits s pl i q = false ↔
    q.exit = false ∧ pl.frozen = false ∧ i ∉ pl.injected ∧ i ∈ pl.closed ∧ ∀ c ∈ entryQueues s pl q, c = [] := by
  simp [injectWaits, and_assoc]

theorem exec_wavefrontInject {s : State} {o : SiteId} {i : BitVec 8} {pl : Placement} {k : BitVec 2} {q : Port} (hr : activeRegion s o = some pl)
    (ha : pl.armed = some k) (hq : pl.ports[i.toNat]? = some q) : exec (.wavefrontInject o i) s =
      if injectWaits s pl i.toNat q then .next s
      else .next (modPlacement (injectPort s q (configTok k)) o pl.ctx fun p => { p with
        injected := setInsert p.injected i.toNat, quiet := false }) := by
  simp only [exec, execWavefrontInject, hr, ha, hq]
  rfl

/-- What a port of one track injects. -/
theorem injectPort_single {s : State} {q : Port} (h : q.width = 0) (k : Token) : injectPort s q k =
    modChan s (chanKey (trackAt q.site q.track.toNat).1 q.port.toNat (trackAt q.site q.track.toNat).2) fun c => { c with
      flight := (k, q.site, true) :: c.flight } := by
  rw [injectPort, portTracks_single h]
  rfl

theorem onlyChans_injectPort (s : State) (q : Port) (k : Token) : OnlyChans s (injectPort s q k) :=
  onlyChans_foldl (g := fun u (xt : SiteId × Nat) => modChan u (chanKey xt.1 q.port.toNat xt.2) fun c => { c with
    flight := (k, q.site, true) :: c.flight }) (fun _ _ => onlyChans_modChan _ _ _) _ s

/-- An armed port that is ready injects one configuration token of the new context number. -/
theorem wavefrontInject_ready {s : State} {o : SiteId} {i : BitVec 8} {pl : Placement} {k : BitVec 2} {q : Port} (hr : activeRegion s o = some pl)
    (ha : pl.armed = some k) (hq : pl.ports[i.toNat]? = some q) (ready : injectWaits s pl i.toNat q = false) (hw : q.width = 0) :
    ∃ t, exec (.wavefrontInject o i) s = .next t ∧
      (∀ x tr, trackAt q.site q.track.toNat = (x, tr) → ∃ c, c.kind = 3 ∧ c.lanes = [k.zeroExtend 32] ∧
        (chanOf t (chanKey x q.port.toNat tr)).flight = (c, q.site, true) :: (chanOf s (chanKey x q.port.toNat tr)).flight) ∧
      t.mem = s.mem ∧ t.sites = s.sites ∧ PlacedAs t o pl.ctx fun p => i.toNat ∈ p.injected := by
  have only := onlyChans_injectPort s q (configTok k)
  have run := exec_wavefrontInject hr ha hq
  rw [ready, if_neg Bool.false_ne_true] at run
  refine ⟨_, run, fun x tr hx => ⟨configTok k, rfl, rfl, ?_⟩, only.mem, ?_, ?_⟩
  · rw [chanOf_modPlacement, injectPort_single hw, hx, chanOf_modChan _ _ _ fun h => by simpa using congrArg Chan.flight h, if_pos rfl]
  · change (injectPort s q (configTok k)).sites = _
    rw [only.others]
  · obtain ⟨p, hp, horigin, hctx⟩ := exists_placed hr
    refine placedAs_modPlacement (fun _ => ⟨rfl, rfl⟩) ⟨p, only.placements ▸ hp, horigin, hctx⟩ fun _ _ _ _ => ?_
    exact mem_setInsert.2 (.inr rfl)

/-! ### A site takes the new context (R64, R65) -/

/-- A configuration token that is not the one the site waits for. -/
def strayAt (s : State) (x : SiteId) (due : Option (BitVec 2)) (i : Nat × Nat) : Bool :=
  configAt s x none i && !(due.isSome && configAt s x due i)

/-- A token other than a configuration token stands first. -/
def loneAt (s : State) (x : SiteId) (i : Nat × Nat) : Bool := (headTok s x i.1 i.2).any fun h => h.kind != 3

/-- The inputs at which a site waits for its configuration tokens. -/
def entryInputs (cx : Ctx) : List (Nat × Nat) := (inputsOf cx).filter fun i => (loopMerge cx).all fun m => i.1 != m.1

/-- The site has taken its configuration tokens and passed them on. -/
def wavePassed (s : State) (x : SiteId) (cx : Ctx) (k : BitVec 2) : State :=
  emitAll ((entryInputs cx).foldl (fun u i => consumeTok u x i.1 i.2) s) x ((outTracks cx).map fun o => (o.1, o.2, configTok k))

theorem onlyChans_wavePassed (s : State) (x : SiteId) (cx : Ctx) (k : BitVec 2) : OnlyChans s (wavePassed s x cx k) :=
  (onlyChans_consumeAll s x (entryInputs cx)).trans (onlyChans_emitAll _ x _)

theorem entryInputs_of_none {cx : Ctx} (h : loopMerge cx = none) : entryInputs cx = inputsOf cx := by simp [entryInputs, h]

theorem entryInputs_of_some {cx : Ctx} {m : Nat × Nat} (h : loopMerge cx = some m) :
    entryInputs cx = (inputsOf cx).filter fun i => i.1 != m.1 := by simp [entryInputs, h]

theorem configAt_none {s : State} {x : SiteId} {i : Nat × Nat} : configAt s x none i = true ↔ ∃ h, headTok s x i.1 i.2 = some h ∧ h.kind = 3 := by
  simp [configAt, Option.any_eq_true]

theorem configAt_some {s : State} {x : SiteId} {k : BitVec 2} {i : Nat × Nat} : configAt s x (some k) i = true ↔
    ∃ h, headTok s x i.1 i.2 = some h ∧ h.kind = 3 ∧ laneOf h.lanes 0 = k.zeroExtend 32 := by
  simp [configAt, Option.any_eq_true]

theorem loneAt_iff {s : State} {x : SiteId} {i : Nat × Nat} : loneAt s x i = true ↔ ∃ h, headTok s x i.1 i.2 = some h ∧ h.kind ≠ 3 := by
  simp [loneAt, Option.any_eq_true]

section Switch
variable {s : State} {x : SiteId} {pl tp : Placement} {k : BitVec 2} {cx : Ctx} (hpl : activeAt s x = some pl) (ha : pl.armed = some k)
  (hlow : lowerRow x = false) (hf : (siteOf s x).frozen = false) (hcx : ctxAt s x (siteOf s x).act = some cx)
include hpl ha hlow hf hcx

/-- A configuration token that comes round to a site that has switched, or that names another context, is consumed. -/
theorem wavefrontSwitch_stray {i : Nat × Nat}
    (hi : (inputsOf cx).find? (strayAt s x ((some k).filter fun k => (siteOf s x).act != k)) = some i) :
    exec (.wavefrontSiteSwitch x) s = .next (noteMove (consumeTok s x i.1 i.2) x) := by
  unfold strayAt at hi
  simp only [exec, execWavefrontSiteSwitch, hpl, ha, hlow, hf, hcx, Bool.or_self, Bool.false_eq_true, if_false, Option.map_some, Option.getD_some, hi]

section Due
variable (hne : (siteOf s x).act ≠ k) (htp : placementAt s pl.origin k = some tp) (hno : (inputsOf cx).find? (strayAt s x (some k)) = none)
include hne htp hno

omit hpl ha hlow hf hcx htp hno in
theorem due_eq : ((some k).filter fun k => (siteOf s x).act != k) = some k := by simp [hne]

/-- A lone operand beside a configuration token is stranded. -/
theorem wavefrontSwitch_stranded (hm : matchesInputs cx = true) (hc : (inputsOf cx).any (configAt s x (some k)) = true) {i : Nat × Nat}
    (hi : (inputsOf cx).find? (loneAt s x) = some i) :
    ∃ q, exec (.wavefrontSiteSwitch x) s = .next (noteMove (nodeFault s x 2 0 i.1 i.2 q) x) := by
  have due := due_eq hne
  unfold strayAt at hno
  unfold loneAt at hi
  refine ⟨(((headTok s x i.1 i.2).map (·.seq.toNat)).getD 0), ?_⟩
  simp only [exec, execWavefrontSiteSwitch, hpl, ha, hlow, hf, hcx, Bool.or_self, Bool.false_eq_true, if_false, Option.map_some,
    Option.getD_some, due, hno, Option.bind_some, htp, hm, hc, Bool.and_self, if_true, hi]

/-- Without a lone operand the site waits until it can take the new context. -/
theorem wavefrontSwitch_rest (hl : (inputsOf cx).find? (loneAt s x) = none) : exec (.wavefrontSiteSwitch x) s =
    if !((entryInputs cx).all (configAt s x (some k))) || ((inputsOf cx).isEmpty && !allInjected pl) || !siteIdle s pl x cx ||
        !(outTracks cx).all (nodeOutFree s x) then .next s
    else .next (waveSite (wavePassed s x cx k) pl tp x) := by
  have due := due_eq hne
  unfold strayAt at hno
  unfold loneAt at hl
  simp only [exec, execWavefrontSiteSwitch, hpl, ha, hlow, hf, hcx, Bool.or_self, Bool.false_eq_true, if_false, Option.map_some,
    Option.getD_some, due, hno, Option.bind_some, htp, hl, ite_self]
  cases hm : loopMerge cx with
  | none => rw [wavePassed, entryInputs_of_none hm]
  | some m => rw [wavePassed, entryInputs_of_some hm]

end Due

end Switch

/-- A site that has taken a context of a placement: it starts with the context's initial counters and nothing in its stages. -/
structure TakesContext (s : State) (pl : Placement) (x : SiteId) (n : Site) : Prop where
  act : n.act = pl.ctx
  on : n.on = true
  arcs : ∀ a ∈ n.arcs.toList, a = none
  cs : n.cs = ((ctxAt s x pl.ctx).map (·.cs)).getD []

theorem TakesContext.moved {s : State} {pl : Placement} {x : SiteId} {n : Site} (h : TakesContext s pl x n) (now : Nat) :
    TakesContext s pl x (Machine.moved n now) := ⟨h.act, h.on, h.arcs, h.cs⟩

theorem takesContext_enterSite (s : State) (pl : Placement) (x : SiteId) : TakesContext s pl x (siteOf (enterSite s pl x) x) := by
  rw [enterSite, siteOf_modSite_self]
  exact ⟨rfl, rfl, by simp, rfl⟩

theorem siteOf_enterSite_ne (s : State) (pl : Placement) {x y : SiteId} (h : y ≠ x) : siteOf (enterSite s pl x) y = siteOf s y :=
  siteOf_modSite_ne s _ h

/-- No context is loaded or discarded. -/
theorem ctxAt_enterSite (s : State) (pl : Placement) (x y : SiteId) (k : BitVec 2) : ctxAt (enterSite s pl x) y k = ctxAt s y k := by
  have ctxs : (siteOf (enterSite s pl x) y).ctxs = (siteOf s y).ctxs := by
    rw [enterSite, siteOf_modSite]
    split
    · subst_vars
      rfl
    · rfl
  rw [ctxAt, ctxs, ctxAt]

theorem onlyChans_putPrimes (s : State) (ps : List (SiteId × Nat × Nat × Nat)) : OnlyChans s (putPrimes s ps) :=
  onlyChans_foldl (g := fun u (q : SiteId × Nat × Nat × Nat) => modChan u (chanKey q.1 q.2.1 q.2.2.1) fun c => { c with
    slots := c.slots ++ List.replicate q.2.2.2 initialTok }) (fun _ _ => onlyChans_modChan _ _ _) _ s

theorem finishWave_sites (s : State) (pl : Placement) (k : BitVec 2) : (finishWave s pl k).sites = s.sites := by
  unfold finishWave
  split <;> rfl

/-- A memory site's other row. -/
theorem lower_ne (x : SiteId) : x + 128 ≠ x := by
  intro h
  have := congrArg BitVec.toNat h
  simp at this
  omega

/-- A site that switches takes the new context with its initial counters; other sites keep theirs. -/
theorem waveSite_enters (s : State) (pl tp : Placement) (x : SiteId) : TakesContext s tp x (siteOf (waveSite s pl tp x) x) ∧
    ∀ y, y ≠ x → y ≠ x + 128 → (siteOf (waveSite s pl tp x) y).act = (siteOf s y).act := by
  have flushed := countsSent_flushStats s pl
  have entered : TakesContext s tp x (siteOf (if siteKind x = 2 then enterSite (enterSite (flushStats s pl) tp x) tp (x + 128) else
      enterSite (flushStats s pl) tp x) x) := by
    have here : TakesContext s tp x (siteOf (enterSite (flushStats s pl) tp x) x) := by
      obtain ⟨act, on, arcs, cs⟩ := takesContext_enterSite (flushStats s pl) tp x
      exact ⟨act, on, arcs, by rw [cs, flushed.ctxAt]⟩
    split
    · rwa [siteOf_enterSite_ne _ _ (lower_ne x).symm]
    · exact here
  have others : ∀ y, y ≠ x → y ≠ x + 128 → (siteOf (if siteKind x = 2 then enterSite (enterSite (flushStats s pl) tp x) tp (x + 128) else
      enterSite (flushStats s pl) tp x) y).act = (siteOf s y).act := by
    intro y hy hy'
    split
    · rw [siteOf_enterSite_ne _ _ hy', siteOf_enterSite_ne _ _ hy, flushed.act]
    · rw [siteOf_enterSite_ne _ _ hy, flushed.act]
  unfold waveSite
  extract_lets s0 s1 s2
  have primed : OnlyChans s1 s2 := onlyChans_putPrimes _ _
  have site : ∀ y, siteOf (finishWave (noteMove s2 x) pl tp.ctx) y = siteOf (noteMove s2 x) y := fun y => by
    rw [siteOf, finishWave_sites, siteOf]
  refine ⟨?_, fun y hy hy' => ?_⟩
  · rw [site, siteOf_noteMove_self, primed.siteOf]
    exact entered.moved _
  · rw [site, siteOf_noteMove_ne _ hy, primed.siteOf]
    exact others y hy hy'

/-! ### The choice of a pattern (R60 to R62) -/

/-- The better of two, the first where neither is. -/
def choose {α : Type} (better : α → α → Bool) : Option α → α → Option α
  | none, p => some p
  | some q, p => if better q p then some p else some q

/-- What is chosen of a list is one of it that the order puts before every other. -/
theorem foldl_choose {α : Type} {better : α → α → Bool} {R : α → α → Prop} (refl : ∀ a, R a a) (trans : ∀ a b c, R a b → R b c → R a c)
    (yes : ∀ q p, better q p = true → R p q) (no : ∀ q p, better q p = false → R q p) (xs : List α) {b : α}
    (h : xs.foldl (choose better) none = some b) : b ∈ xs ∧ ∀ p ∈ xs, R b p := by
  induction xs using List.reverseRecOn generalizing b with
  | nil => cases h
  | append_singleton xs a ih =>
    rw [List.foldl_append, List.foldl_cons, List.foldl_nil] at h
    cases hc : xs.foldl (choose better) none with
    | none =>
      rw [hc] at h
      obtain rfl : a = b := Option.some.inj h
      have nothing : xs = [] := by
        by_contra hne
        obtain ⟨ys, y, rfl⟩ := List.eq_nil_or_concat xs |>.resolve_left hne
        rw [List.concat_eq_append, List.foldl_append, List.foldl_cons, List.foldl_nil] at hc
        cases hd : ys.foldl (choose better) none with
        | none => simp [hd, choose] at hc
        | some z =>
          simp only [hd, choose] at hc
          split_ifs at hc
      subst nothing
      exact ⟨by simp, fun p hp => by simp at hp; exact hp ▸ refl a⟩
    | some q =>
      obtain ⟨hq, hall⟩ := ih hc
      rw [hc] at h
      cases hb : better q a with
      | true =>
        simp only [choose, hb, if_true, Option.some.injEq] at h
        subst h
        refine ⟨by simp, fun p hp => ?_⟩
        rcases List.mem_append.1 hp with hp | hp
        · exact trans _ _ _ (yes q a hb) (hall p hp)
        · rw [List.mem_singleton.1 hp]
          exact refl a
      | false =>
        simp only [choose, hb, Bool.false_eq_true, if_false, Option.some.injEq] at h
        subst h
        refine ⟨by simp [hq], fun p hp => ?_⟩
        rcases List.mem_append.1 hp with hp | hp
        · exact hall p hp
        · rw [List.mem_singleton.1 hp]
          exact no q a hb

/-- The choice falls on the pattern with most shuttles waiting, of those on the lowest catalogue number. -/
theorem bestPattern_spec {s : State} {ps : List Placement} {b : Placement} (h : bestPattern s ps = some b) : b ∈ ps ∧
    ∀ p ∈ ps, waiting s p < waiting s b ∨ (waiting s p = waiting s b ∧ b.catid.toNat ≤ p.catid.toNat) := by
  have chosen : bestPattern s ps = ps.foldl (choose fun q p =>
      waiting s q < waiting s p || (waiting s q == waiting s p && decide (p.catid.toNat < q.catid.toNat))) none := by
    unfold bestPattern
    congr 1
    funext b p
    cases b <;> rfl
  rw [chosen] at h
  refine foldl_choose (R := fun b p => waiting s p < waiting s b ∨ (waiting s p = waiting s b ∧ b.catid.toNat ≤ p.catid.toNat))
    (fun _ => .inr ⟨rfl, Nat.le_refl _⟩) (fun a b c => by omega) (fun q p hb => ?_) (fun q p hb => ?_) ps h
  · simp only [Bool.or_eq_true, decide_eq_true_eq, Bool.and_eq_true, beq_iff_eq] at hb
    omega
  · simp only [Bool.or_eq_false_iff, decide_eq_false_iff_not, Bool.and_eq_false_iff, beq_eq_false_iff_ne] at hb
    omega

/-- The context number of which no site runs a context, active longest ago. -/
theorem leastRecent_spec {s : State} {xs : List SiteId} {j : BitVec 2} (h : leastRecent s xs = some j) :
    (¬ ∃ x ∈ xs, (siteOf s x).on = true ∧ (siteOf s x).act = j) ∧
      ∀ k, (¬ ∃ x ∈ xs, (siteOf s x).on = true ∧ (siteOf s x).act = k) → lastActive s xs j ≤ lastActive s xs k := by
  have chosen : leastRecent s xs = (([0, 1, 2, 3] : List (BitVec 2)).filter fun k =>
      xs.all fun x => !((siteOf s x).on && (siteOf s x).act == k)).foldl (choose fun j k => lastActive s xs k < lastActive s xs j) none := by
    unfold leastRecent
    congr 1
    funext b p
    cases b with
    | none => rfl
    | some j => simp [choose]
  rw [chosen] at h
  obtain ⟨hj, hall⟩ := foldl_choose (R := fun j k => lastActive s xs j ≤ lastActive s xs k) (fun _ => Nat.le_refl _)
    (fun _ _ _ => Nat.le_trans) (fun q p hb => (of_decide_eq_true hb).le) (fun q p hb => Nat.le_of_not_lt (of_decide_eq_false hb)) _ h
  have mem : ∀ k : BitVec 2, k ∈ (([0, 1, 2, 3] : List (BitVec 2)).filter fun k => xs.all fun x => !((siteOf s x).on && (siteOf s x).act == k)) ↔
      ¬ ∃ x ∈ xs, (siteOf s x).on = true ∧ (siteOf s x).act = k := fun k => by
    have number : k ∈ ([0, 1, 2, 3] : List (BitVec 2)) := by revert k; decide
    rw [List.mem_filter, and_iff_right number]
    simp only [List.all_eq_true, Bool.not_eq_true', Bool.and_eq_false_iff, beq_eq_false_iff_ne, not_exists, not_and]
    refine forall₂_congr fun x _ => ?_
    cases (siteOf s x).on <;> simp
  exact ⟨(mem j).1 hj, fun k hk => hall k ((mem k).2 hk)⟩

/-- Changes of sites change no more than sites. -/
theorem foldl_modSite_eq {α : Type} {key : α → SiteId} {f : State → α → Site → Site} (xs : List α) (s : State) :
    xs.foldl (fun u a => modSite u (key a) (f u a)) s = { s with sites := (xs.foldl (fun u a => modSite u (key a) (f u a)) s).sites } := by
  induction xs generalizing s with
  | nil => rfl
  | cons a xs ih => exact ih (modSite s (key a) (f s a))

section Scheduler
variable {s : State} {o : SiteId} {pl : Placement} (hr : activeRegion s o = some pl)
include hr

/-- The placements of the scheduled region are changed, and no token, byte or core. -/
def Reschedules (s t : State) (o : SiteId) (pl : Placement) (P : Placement → Prop) : Prop :=
  (∃ q ∈ t.placements, q.origin = o ∧ q.ctx = pl.ctx) ∧ (∀ q ∈ t.placements, q.origin = o → q.ctx = pl.ctx → P q) ∧
    t.chans = s.chans ∧ t.mem = s.mem ∧ t.cores = s.cores

theorem exec_blockSchedulerChoice : exec (.blockSchedulerChoice o) s =
    if !schedulerFree s pl then .next s
    else if pl.stopped then
      if reportedQuiet s pl && (bestPattern s (boundHere s pl)).any fun b => b.ctx == pl.ctx then
        .next (modPlacement (resumeAdmission s pl) o pl.ctx fun p => { p with activeSince := leadCyc s pl })
      else .next s
    else if waiting s pl = 0 && !pl.admitted.isEmpty then .next (leavePattern s pl)
    else .next s := by
  simp only [exec, execBlockSchedulerChoice, hr]

theorem exec_quantumExpiry : exec (.quantumExpiry o) s =
    if schedulerFree s pl && !pl.stopped && decide (pl.activeSince + 4096 ≤ leadCyc s pl) then .next (leavePattern s pl) else .next s := by
  simp only [exec, execQuantumExpiry, hr]

/-- A pattern that is left stops admission. -/
theorem reschedules_leavePattern : Reschedules s (leavePattern s pl) o pl fun q => q.stopped = true := by
  obtain ⟨named, all⟩ := placedAs_modPlacement (s := s) (o := o) (k := pl.ctx) (f := fun p => { p with stopped := true, quiet := false })
    (P := fun q => q.stopped = true) (fun _ => ⟨rfl, rfl⟩) (exists_placed hr) fun _ _ _ _ => rfl
  rw [leavePattern, (activeRegion_spec hr).2.1]
  exact ⟨named, all, rfl, rfl, rfl⟩

omit hr in
theorem resumeAdmission_eq (s : State) (pl : Placement) : resumeAdmission s pl =
    { modPlacement s pl.origin pl.ctx (fun p => { p with
        stopped := false, draining := false, drainOwn := false, markersOut := [], quiet := false, lastMove := leadCyc s pl }) with
      sites := (resumeAdmission s pl).sites } :=
  foldl_modSite_eq (key := id) pl.sites _

/-- A pattern that stays admits again, with a new quantum. -/
theorem reschedules_resume : Reschedules s (modPlacement (resumeAdmission s pl) o pl.ctx fun p => { p with activeSince := leadCyc s pl }) o pl
    fun q => q.stopped = false ∧ q.activeSince = leadCyc s pl := by
  have origin := (activeRegion_spec hr).2.1
  obtain ⟨named, all⟩ := placedAs_modPlacement (s := s) (o := o) (k := pl.ctx) (f := fun p => { p with
      stopped := false, draining := false, drainOwn := false, markersOut := [], quiet := false, lastMove := leadCyc s pl })
    (P := fun q => q.stopped = false) (fun _ => ⟨rfl, rfl⟩) (exists_placed hr) fun _ _ _ _ => rfl
  have resumed : (resumeAdmission s pl).placements = (modPlacement s o pl.ctx (fun p => { p with
      stopped := false, draining := false, drainOwn := false, markersOut := [], quiet := false, lastMove := leadCyc s pl })).placements := by
    rw [resumeAdmission_eq, origin]
  obtain ⟨named', all'⟩ := placedAs_modPlacement (s := resumeAdmission s pl) (o := o) (k := pl.ctx)
    (f := fun p => { p with activeSince := leadCyc s pl }) (P := fun q => q.stopped = false ∧ q.activeSince = leadCyc s pl) (fun _ => ⟨rfl, rfl⟩)
    (by rw [resumed]; exact named) fun p hp ho hk => ⟨all p (resumed ▸ hp) ho hk, rfl⟩
  refine ⟨named', all', ?_, ?_, ?_⟩ <;> rw [resumeAdmission_eq] <;> rfl

end Scheduler

/-! ### A pattern becomes active (R60, R62) -/

/-- Every site named takes the context. -/
theorem takesContext_foldl (pl : Placement) (xs : List SiteId) (s : State) {x : SiteId} (hx : x ∈ xs) :
    TakesContext s pl x (siteOf (xs.foldl (fun u y => enterSite u pl y) s) x) := by
  induction xs generalizing s with
  | nil => simp at hx
  | cons a xs ih =>
    rw [List.foldl_cons]
    by_cases hmem : x ∈ xs
    · obtain ⟨act, on, arcs, cs⟩ := ih (enterSite s pl a) hmem
      exact ⟨act, on, arcs, by rw [cs, ctxAt_enterSite]⟩
    · obtain rfl : x = a := (List.mem_cons.1 hx).resolve_right hmem
      rw [siteOf_foldl_notMem (key := id) (g := fun u y => enterSite u pl y) (fun u a y h => siteOf_enterSite_ne u pl h)
        fun a ha (h : x = a) => hmem (h ▸ ha)]
      exact takesContext_enterSite s pl x

theorem onlyChans_clearInputs (s : State) (x : SiteId) : OnlyChans s (clearInputs s x) :=
  onlyChans_foldl (g := fun u (e : SiteId × Nat × Nat × Chan) =>
    if e.2.1 < 5 then modChan u (chanKey e.1 e.2.1 e.2.2.1) fun c => { c with slots := [] } else u) (fun u e => by
      split
      · exact onlyChans_modChan u _ _
      · exact OnlyChans.refl u) _ s

/-- A placement of a name and a catalogue number that admits. -/
def RunsAt (s : State) (o : SiteId) (j : BitVec 2) (c : BitVec 16) : Prop :=
  ∃ q ∈ s.placements, q.origin = o ∧ q.ctx = j ∧ q.catid = c ∧ q.active = true ∧ q.stopped = false

/-- A change of placements that keeps what a placement runs. -/
theorem runsAt_map {s t : State} {o : SiteId} {j : BitVec 2} {c : BitVec 16} {f : Placement → Placement}
    (hf : ∀ p, (f p).origin = p.origin ∧ (f p).ctx = p.ctx ∧ (f p).catid = p.catid ∧ (f p).active = p.active ∧ (f p).stopped = p.stopped)
    (ht : t.placements = s.placements.map f) (h : RunsAt s o j c) : RunsAt t o j c := by
  obtain ⟨q, hq, origin, ctx, catid, active, stopped⟩ := h
  obtain ⟨forigin, fctx, fcatid, factive, fstopped⟩ := hf q
  exact ⟨f q, ht ▸ List.mem_map_of_mem hq, forigin.trans origin, fctx.trans ctx, fcatid.trans catid, factive.trans active, fstopped.trans stopped⟩

/-- A region on a lost die is frozen: what it runs stays. -/
theorem freezeLost_keeps (s : State) (pl : Placement) : (∀ {o j c}, RunsAt s o j c → RunsAt (freezeLost s pl) o j c) ∧
    ∀ y, (siteOf (freezeLost s pl) y).act = (siteOf s y).act ∧ (siteOf (freezeLost s pl) y).on = (siteOf s y).on ∧
      (siteOf (freezeLost s pl) y).cs = (siteOf s y).cs := by
  unfold freezeLost
  split
  · rename_i x _
    refine ⟨fun h => ?_, fun y => ?_⟩
    · have faulted : RunsAt (nodeFault s x 7 0 0 0 0) _ _ _ := runsAt_map (fun p => by split <;> exact ⟨rfl, rfl, rfl, rfl, rfl⟩) rfl h
      rw [freezeRegion_changes]
      exact runsAt_map (fun p => by split <;> exact ⟨rfl, rfl, rfl, rfl, rfl⟩) rfl faulted
    · obtain ⟨a, b, h⟩ := siteOf_stopSites (pl.sites.map fun y => (y, siteBlocked (nodeFault s x 7 0 0 0 0) y)) (nodeFault s x 7 0 0 0 0) y
      have frozen : siteOf (freezeRegion (nodeFault s x 7 0 0 0 0) pl) y = { siteOf (nodeFault s x 7 0 0 0 0) y with frozen := a, blocked := b } := h
      rw [frozen]
      by_cases hy : y = x
      · subst hy
        rw [siteOf_nodeFault_self]
        exact ⟨rfl, rfl, rfl⟩
      · rw [siteOf_nodeFault_ne s x 7 0 0 0 0 hy]
        exact ⟨rfl, rfl, rfl⟩
  · exact ⟨id, fun _ => ⟨rfl, rfl, rfl⟩⟩

/-- The sites of a pattern that becomes active run its context from its initial counters, and it admits. -/
theorem activate_runs {s : State} {pl : Placement} {c : BitVec 16} (h : ∃ p ∈ s.placements, p.origin = pl.origin ∧ p.ctx = pl.ctx ∧ p.catid = c) :
    RunsAt (activate s pl) pl.origin pl.ctx c ∧ ∀ x ∈ pl.sites, (siteOf (activate s pl) x).act = pl.ctx ∧ (siteOf (activate s pl) x).on = true ∧
      (siteOf (activate s pl) x).cs = ((ctxAt s x pl.ctx).map (·.cs)).getD [] := by
  have flushed : CountsSent s (flushOver s pl) := CountsSent.foldl (fun u p => countsSent_flushStats u p) _ s
  unfold activate
  extract_lets s1 s2
  have cleared : OnlyChans s1 s2 := onlyChans_foldl onlyChans_clearInputs _ s1
  have primed := onlyChans_putPrimes (pl.sites.foldl (fun u x => enterSite u pl x) s2) (primeSlots s2 pl)
  obtain ⟨runs, sites⟩ := freezeLost_keeps (putPrimes (pl.sites.foldl (fun u x => enterSite u pl x) s2) (primeSlots s2 pl)) pl
  refine ⟨runs ?_, fun x hx => ?_⟩
  · obtain ⟨p, hp, origin, ctx, catid⟩ := h
    have fresh : RunsAt s1 pl.origin pl.ctx c := by
      refine ⟨freshPlacement s p, mem_modPlacement.2 ⟨p, ?_, .inl ⟨origin, ctx, rfl⟩⟩, origin, ctx, catid, rfl, rfl⟩
      simp only [deactivate, flushed.placements, List.mem_map]
      exact ⟨p, hp, by simp [origin, ctx]⟩
    have same : (putPrimes (pl.sites.foldl (fun u x => enterSite u pl x) s2) (primeSlots s2 pl)).placements = s1.placements :=
      primed.placements.trans ((foldl_keeps (g := fun u x => enterSite u pl x) State.placements (fun _ _ => rfl) _ s2).trans cleared.placements)
    unfold RunsAt
    rw [same]
    exact fresh
  · obtain ⟨act, on, cs⟩ := sites x
    obtain ⟨act', on', -, cs'⟩ := takesContext_foldl pl pl.sites s2 hx
    have ctx : ctxAt s2 x pl.ctx = ctxAt s x pl.ctx := by
      rw [← flushed.ctxAt x pl.ctx, ctxAt, cleared.siteOf]
      rfl
    rw [act, on, cs, primed.siteOf, act', on', cs', ctx]
    exact ⟨rfl, rfl, rfl⟩

section Bring
variable {s : State} {o : SiteId} {k : BitVec 2} {tp : Placement} (htp : placementAt s o k = some tp)
include htp

/-- A context switch that may not be done yet. -/
theorem contextSwitch_waits {pl : Placement} (hr : activeRegion s o = some pl) (hsaved : tp.saved = false)
    (h : schedulerFree s pl = false ∨ pl.stopped = false ∨ reportedQuiet s pl = false) : exec (.contextSwitch o k) s = .next s := by
  have kept : (some tp).filter (fun p => !p.saved) = some tp := by simp [hsaved]
  simp only [exec, execContextSwitch, htp, kept, hr]
  refine if_neg fun hall => ?_
  simp only [Bool.and_eq_true] at hall
  rcases h with h | h | h <;> simp [h] at hall

/-- A context switch brings the pattern that is chosen, once its place is free. -/
theorem contextSwitch_brings (hsaved : tp.saved = false) (hbest : bestPattern s (boundHere s tp) = some tp)
    (hfree : (∃ pl, activeRegion s o = some pl ∧ pl.ctx ≠ k ∧ schedulerFree s pl = true ∧ pl.stopped = true ∧ reportedQuiet s pl = true) ∨
      ∀ p ∈ s.placements, p.active = true → p.origin ≠ o ∧ ∀ x ∈ p.sites, x ∉ tp.sites) :
    exec (.contextSwitch o k) s = .next (bringPattern s tp) := by
  have kept : (some tp).filter (fun p => !p.saved) = some tp := by simp [hsaved]
  have chosen : (some tp).any (fun b => b.ctx == k) = true := by simp [(placementAt_spec htp).2.2]
  rcases hfree with ⟨pl, hr, hne, hfree, hstopped, hquiet⟩ | hnone
  · simp only [exec, execContextSwitch, htp, kept, hr, hbest, chosen, hfree, hstopped, hquiet, bne_iff_ne.2 hne, Bool.and_self, if_true]
  · have inactive : activeRegion s o = none := by
      rw [activeRegion, List.find?_eq_none]
      intro p hp h
      simp only [Bool.and_eq_true, beq_iff_eq] at h
      exact (hnone p hp h.2).1 h.1
    have clear : (s.placements.any fun p => p.active && p.sites.any tp.sites.contains) = false := by
      simp only [List.any_eq_false, Bool.and_eq_true, List.any_eq_true, List.contains_iff_mem, not_and, not_exists]
      exact fun p hp ha x hx => (hnone p hp ha).2 x hx
    simp only [exec, execContextSwitch, htp, kept, inactive, hbest, chosen, clear, Bool.not_false, Bool.and_self, if_true]

/-- A pattern whose contexts are all resident becomes active as it stands. -/
theorem bringPattern_resident (hres : ∀ x ∈ tp.sites, (ctxAt s x k).isSome) : RunsAt (bringPattern s tp) o k tp.catid ∧
    ∀ x ∈ tp.sites, (siteOf (bringPattern s tp) x).act = k ∧ (siteOf (bringPattern s tp) x).on = true ∧
      (siteOf (bringPattern s tp) x).cs = ((ctxAt s x k).map (·.cs)).getD [] := by
  obtain ⟨mem, rfl, rfl⟩ := placementAt_spec htp
  have here : bringPattern s tp = activate s tp := by
    rw [bringPattern, if_pos (by simpa using hres)]
  rw [here]
  exact activate_runs ⟨tp, mem, rfl, rfl, rfl⟩

/-- A pattern that must be loaded becomes active under the number it is loaded into. -/
theorem bringPattern_loads (hgone : ∃ x ∈ tp.sites, ctxAt s x k = none) {l : Slice} {j : BitVec 2} {u : State} (hl : findSlice s tp.owner = some l)
    (hj : leastRecent s tp.sites = some j)
    (hu : reloadImage { s with placements := s.placements.filter fun p => !(p.origin == o && p.ctx == k) } l o j tp.catid.toNat
      (fun im => im.rows == tp.rows && im.cols == tp.cols) = some u) : RunsAt (bringPattern s tp) o j tp.catid ∧
    ∀ x ∈ tp.sites, (siteOf (bringPattern s tp) x).act = j ∧ (siteOf (bringPattern s tp) x).on = true := by
  obtain ⟨-, rfl, rfl⟩ := placementAt_spec htp
  have absent : ¬ (tp.sites.all fun x => (ctxAt s x tp.ctx).isSome) = true := by
    obtain ⟨x, hx, hc⟩ := hgone
    simp only [List.all_eq_true, not_forall]
    exact ⟨x, hx, by rw [hc]; decide⟩
  have here : bringPattern s tp = activate (renumber u tp j) { tp with ctx := j } := by
    rw [bringPattern, if_neg absent, hl, hj]
    simp only [Option.bind_some, hu, Option.map_some, Option.getD_some]
  have placed : ∃ p ∈ u.placements, p.origin = tp.origin ∧ p.ctx = j := by
    unfold reloadImage at hu
    dsimp only at hu
    split at hu
    · cases hu
    · split at hu
      · cases hu
      · cases hu
        exact ⟨_, List.mem_append_right _ (List.mem_singleton.2 rfl), rfl, rfl⟩
  have loaded : ∃ p ∈ (renumber u tp j).placements, p.origin = tp.origin ∧ p.ctx = j ∧ p.catid = tp.catid := by
    obtain ⟨p, hp, origin, ctx⟩ := placed
    refine ⟨{ tp with ctx := j }, List.mem_map.2 ⟨p, hp, ?_⟩, rfl, rfl, rfl⟩
    simp [origin, ctx]
  rw [here]
  obtain ⟨runs, sites⟩ := activate_runs (pl := { tp with ctx := j }) loaded
  exact ⟨runs, fun x hx => ⟨(sites x hx).1, (sites x hx).2.1⟩⟩

end Bring

/-! ### Contexts change (R60 to R65) -/

/-- Entry ports inject configuration tokens. -/
theorem wavefrontInjects (s : State) (o : SiteId) (i : BitVec 8) (pl : Placement) (k : BitVec 2) (q : Port) (hr : activeRegion s o = some pl)
    (ha : pl.armed = some k) (hq : pl.ports[i.toNat]? = some q) :
    let ready : Prop := q.exit = false ∧ pl.frozen = false ∧ i.toNat ∉ pl.injected ∧ i.toNat ∈ pl.closed ∧ ∀ c ∈ entryQueues s pl q, c = []
    (¬ ready → exec (.wavefrontInject o i) s = .next s) ∧
    (ready → q.width = 0 → ∃ t, exec (.wavefrontInject o i) s = .next t ∧
      (∀ x tr, trackAt q.site q.track.toNat = (x, tr) → ∃ c, c.kind = 3 ∧ c.lanes = [k.zeroExtend 32] ∧
        (chanOf t (chanKey x q.port.toNat tr)).flight = (c, q.site, true) :: (chanOf s (chanKey x q.port.toNat tr)).flight) ∧
      t.mem = s.mem ∧ t.sites = s.sites ∧ PlacedAs t o pl.ctx fun p => i.toNat ∈ p.injected) := by
  intro ready
  refine ⟨fun hnot => ?_, fun hready => wavefrontInject_ready hr ha hq (injectWaits_eq_false.2 hready)⟩
  have waits : injectWaits s pl i.toNat q = true := by
    by_contra hf
    exact hnot (injectWaits_eq_false.1 (Bool.eq_false_of_not_eq_true hf))
  rw [exec_wavefrontInject hr ha hq, if_pos waits]

section Site
variable {s : State} {x : SiteId} {pl tp : Placement} {k : BitVec 2} {cx : Ctx} (hpl : activeAt s x = some pl) (ha : pl.armed = some k)
  (hlow : lowerRow x = false) (hf : (siteOf s x).frozen = false) (hcx : ctxAt s x (siteOf s x).act = some cx)
include hpl ha hlow hf hcx

/-- A stray configuration token is consumed, and no site changes its context. -/
theorem siteSwitch_consumes
    (h : ((siteOf s x).act = k ∧ ∃ i ∈ inputsOf cx, configAt s x none i = true) ∨
      ∃ i ∈ inputsOf cx, configAt s x none i = true ∧ ¬ configAt s x (some k) i = true) :
    ∃ t, exec (.wavefrontSiteSwitch x) s = .next t ∧
      (∃ i ∈ inputsOf cx, configAt s x none i = true ∧ t.chans = (consumeTok s x i.1 i.2).chans) ∧
      t.mem = s.mem ∧ ∀ y, (siteOf t y).act = (siteOf s y).act := by
  have stray : ∃ i ∈ inputsOf cx, strayAt s x ((some k).filter fun k => (siteOf s x).act != k) i = true := by
    rcases h with ⟨hact, i, hi, hc⟩ | ⟨i, hi, hc, hn⟩
    · exact ⟨i, hi, by simp [strayAt, hc, hact]⟩
    · refine ⟨i, hi, ?_⟩
      rw [strayAt, hc]
      by_cases hact : (siteOf s x).act = k
      · simp [hact]
      · rw [due_eq hact]
        simp [hn]
  obtain ⟨i, hi⟩ := Option.isSome_iff_exists.1 (List.find?_isSome.2 stray)
  have found : strayAt s x ((some k).filter fun k => (siteOf s x).act != k) i = true := List.find?_some hi
  have config : configAt s x none i = true := (Bool.and_eq_true_iff.1 found).1
  have only := onlyChans_consumeTok s x i.1 i.2
  refine ⟨_, wavefrontSwitch_stray hpl ha hlow hf hcx hi, ⟨i, List.mem_of_find?_eq_some hi, config, rfl⟩, only.mem, fun y => ?_⟩
  rw [siteOf_noteMove]
  split
  · subst_vars
    rw [only.siteOf]
    rfl
  · rw [only.siteOf]

section Due
variable (hne : (siteOf s x).act ≠ k) (htp : placementAt s pl.origin k = some tp)
  (hall : ∀ i ∈ inputsOf cx, configAt s x none i = true → configAt s x (some k) i = true)
include hne htp hall

omit hpl ha hlow hf hcx hne htp in
/-- Every configuration token is the one that is due. -/
theorem noStray : (inputsOf cx).find? (strayAt s x (some k)) = none := by
  rw [List.find?_eq_none]
  intro i hi h
  simp only [strayAt, Bool.and_eq_true, Option.isSome_some, Bool.true_and, Bool.not_eq_true'] at h
  rw [hall i hi h.1] at h
  exact absurd h.2 (by decide)

/-- A lone operand beside a configuration token stops the site with STRANDED. -/
theorem siteSwitch_strands (hc : ∃ i ∈ inputsOf cx, configAt s x (some k) i = true) (hl : ∃ i ∈ inputsOf cx, loneAt s x i = true)
    (hm : mergeOf cx = none) (hk : cx.kind ≠ 2) :
    ∃ t, exec (.wavefrontSiteSwitch x) s = .next t ∧ (siteOf t x).frozen = true ∧ t.chans = s.chans ∧
      ((siteOf s x).fault = 0 → (siteOf t x).fault.toNat % 256 = 2) := by
  obtain ⟨i, hi⟩ := Option.isSome_iff_exists.1 (List.find?_isSome.2 hl)
  obtain ⟨q, run⟩ := wavefrontSwitch_stranded hpl ha hlow hf hcx hne htp (noStray hall) (by simpa [matchesInputs, hm] using hk)
    (List.any_eq_true.2 hc) hi
  refine ⟨_, run, ?_, rfl, fun hfault => ?_⟩
  · rw [siteOf_noteMove_self, siteOf_nodeFault_self]
    rfl
  · rw [siteOf_noteMove_self, siteOf_nodeFault_self]
    change (if (siteOf s x).fault = 0 then faultHere s x 2 0 i.1 i.2 q else (siteOf s x).fault).toNat % 256 = 2
    rw [if_pos hfault]
    exact faultWord_kind _ _ _ _ _ (by decide)

variable (hheads : ∀ i ∈ inputsOf cx, ∀ h, headTok s x i.1 i.2 = some h → h.kind = 3)
include hheads

omit hpl ha hlow hf hcx hne htp hall in
theorem noLone : (inputsOf cx).find? (loneAt s x) = none := by
  rw [List.find?_eq_none]
  intro i hi h
  obtain ⟨h, hh, hk⟩ := loneAt_iff.1 h
  exact hk (hheads i hi h hh)

/-- A site without a configuration token on every input waits. -/
theorem siteSwitch_waits (h : ∃ i ∈ entryInputs cx, ¬ configAt s x (some k) i = true) : exec (.wavefrontSiteSwitch x) s = .next s := by
  have missing : (entryInputs cx).all (configAt s x (some k)) = false := by
    obtain ⟨i, hi, hn⟩ := h
    rw [List.all_eq_false]
    exact ⟨i, hi, hn⟩
  rw [wavefrontSwitch_rest hpl ha hlow hf hcx hne htp (noStray hall) (noLone hheads), missing]
  rfl

/-- A site with one on every input, nothing in its stages and room on every output takes the new context. -/
theorem siteSwitch_takes (hin : inputsOf cx ≠ []) (h : ∀ i ∈ entryInputs cx, configAt s x (some k) i = true)
    (hidle : siteIdle s pl x cx = true) (hout : ∀ p ∈ outTracks cx, nodeOutFree s x p = true) :
    ∃ t, exec (.wavefrontSiteSwitch x) s = .next t ∧ (siteOf t x).act = k ∧ (siteOf t x).on = true ∧
      (∀ a ∈ (siteOf t x).arcs.toList, a = none) ∧ (siteOf t x).cs = ((ctxAt s x k).map (·.cs)).getD [] ∧
      ∀ y, y ≠ x → y ≠ x + 128 → (siteOf t y).act = (siteOf s y).act := by
  have present : (entryInputs cx).all (configAt s x (some k)) = true := List.all_eq_true.2 h
  have free : (outTracks cx).all (nodeOutFree s x) = true := List.all_eq_true.2 hout
  have run := wavefrontSwitch_rest hpl ha hlow hf hcx hne htp (noStray hall) (noLone hheads)
  rw [present, free, hidle, List.isEmpty_eq_false_iff.2 hin] at run
  simp only [Bool.not_true, Bool.false_and, Bool.or_self, Bool.false_eq_true, if_false] at run
  have only := onlyChans_wavePassed s x cx k
  obtain ⟨takes, others⟩ := waveSite_enters (wavePassed s x cx k) pl tp x
  have number := (placementAt_spec htp).2.2
  refine ⟨_, run, takes.act.trans number, takes.on, takes.arcs, ?_, fun y hy hy' => ?_⟩
  · rw [takes.cs, number, ctxAt, only.siteOf, ctxAt]
  · rw [others y hy hy', only.siteOf]

end Due

end Site

section Choice
variable {s : State} {o : SiteId} {pl : Placement} (hr : activeRegion s o = some pl)
include hr

/-- The scheduler leaves a region that it may not change. -/
theorem scheduler_off (h : schedulerFree s pl = false) : exec (.blockSchedulerChoice o) s = .next s ∧ exec (.quantumExpiry o) s = .next s := by
  rw [exec_blockSchedulerChoice hr, exec_quantumExpiry hr, h]
  exact ⟨rfl, rfl⟩

/-- A pattern that admits is left when it has no bundle waiting or its quantum has passed. -/
theorem scheduler_admitting (hfree : schedulerFree s pl = true) (hs : pl.stopped = false) :
    (waiting s pl = 0 → pl.admitted ≠ [] → ∃ t, exec (.blockSchedulerChoice o) s = .next t ∧ Reschedules s t o pl fun q => q.stopped = true) ∧
    (0 < waiting s pl → exec (.blockSchedulerChoice o) s = .next s) ∧
    (pl.activeSince + 4096 ≤ leadCyc s pl → ∃ t, exec (.quantumExpiry o) s = .next t ∧ Reschedules s t o pl fun q => q.stopped = true) ∧
    (leadCyc s pl < pl.activeSince + 4096 → exec (.quantumExpiry o) s = .next s) := by
  have choice := exec_blockSchedulerChoice hr
  have quantum := exec_quantumExpiry hr
  rw [hfree, hs] at choice quantum
  simp only [Bool.not_true, Bool.false_eq_true, if_false, Bool.not_false, Bool.true_and, decide_eq_true_eq] at choice quantum
  refine ⟨fun hw hadm => ⟨_, ?_, reschedules_leavePattern hr⟩, fun hw => ?_, fun hc => ⟨_, ?_, reschedules_leavePattern hr⟩, fun hc => ?_⟩
  · rw [choice, if_pos (by simp [hw, hadm])]
  · rw [choice, if_neg (by simp; omega)]
  · rw [quantum, if_pos hc]
  · rw [quantum, if_neg (by omega)]

/-- The pattern that is chosen again admits again. -/
theorem scheduler_resumes (hfree : schedulerFree s pl = true) (hs : pl.stopped = true) (hq : reportedQuiet s pl = true)
    (hb : bestPattern s (boundHere s pl) = some pl) :
    ∃ t, exec (.blockSchedulerChoice o) s = .next t ∧ Reschedules s t o pl fun q => q.stopped = false ∧ q.activeSince = leadCyc s pl := by
  refine ⟨_, ?_, reschedules_resume hr⟩
  rw [exec_blockSchedulerChoice hr, hfree, hs, hq, hb]
  simp

end Choice

/-- Settles O41: each step by what it tests, a switch by what a site that enters a context holds. -/
theorem contextsChange : Obligations.ContextsChange := by
  unfold Obligations.ContextsChange
  refine ⟨⟨wavefrontInjects, ?_⟩, fun s ps b hb => bestPattern_spec hb, ?_, ?_, fun s xs j hj => leastRecent_spec hj⟩
  · intro s x pl tp k cx hpl ha htp hlow hf hcx n head config named entry
    have isConfig : ∀ i, config i ↔ configAt s x none i = true := fun i => configAt_none.symm
    have isNamed : ∀ i, named i ↔ configAt s x (some k) i = true := fun i => configAt_some.symm
    simp only [isConfig, isNamed]
    refine ⟨fun h => siteSwitch_consumes hpl ha hlow hf hcx h, fun hne hall =>
      ⟨fun hc hl hm hk => ?_, fun hmiss hheads => ?_, fun hin hent hheads hidle hout => ?_⟩⟩
    · exact siteSwitch_strands hpl ha hlow hf hcx hne htp hall hc (by simpa only [loneAt_iff] using hl) hm hk
    · exact siteSwitch_waits hpl ha hlow hf hcx hne htp hall hheads hmiss
    · exact siteSwitch_takes hpl ha hlow hf hcx hne htp hall hheads hin hent hidle hout
  · intro s o pl hr cyc its
    refine ⟨scheduler_off hr, scheduler_admitting hr, scheduler_resumes hr, fun k tp htp hsaved hne h => contextSwitch_waits htp hr hsaved h⟩
  · intro s o k tp htp hsaved hbest hfree runs
    have run := contextSwitch_brings htp hsaved hbest hfree
    refine ⟨fun hres => ?_, fun hgone l j u hl hj hu => ?_⟩
    · obtain ⟨there, sites⟩ := bringPattern_resident htp hres
      exact ⟨_, ⟨run, there, fun x hx => ⟨(sites x hx).1, (sites x hx).2.1⟩⟩, fun x hx => (sites x hx).2.2⟩
    · obtain ⟨there, sites⟩ := bringPattern_loads htp hgone hl hj hu
      exact ⟨_, run, there, sites⟩

end Sys2Proof.Machine

namespace Sys2Proof.Machine

/-! ### Every E-word answers (R20, R372) -/

section Answering
variable {s : State} (hok : siteOk s.focus = true)

theorem answers_mergeTake (s : State) (x : SiteId) (p t w : Nat) (ts : List Token) (f : Node → Node) : Answers (mergeTake s x p t w ts f) :=
  answers_next _

theorem answers_mergePlain (s : State) (x : SiteId) (pa ta pb tb w : Nat) : Answers (mergePlain s x pa ta pb tb w) := by
  unfold mergePlain
  dsimp only
  split
  · exact answers_ite (answers_mergeTake ..) (answers_mergeTake ..)
  · exact answers_mergeTake ..
  · exact answers_mergeTake ..
  · exact answers_ite (answers_next _) (answers_next _)

theorem answers_mergeLoop (s : State) (x : SiteId) (pa ta pb tb w : Nat) : Answers (mergeLoop s x pa ta pb tb w) := by
  unfold mergeLoop
  refine answers_ite (answers_next _) ?_
  split
  · exact answers_mergeTake ..
  · split
    · exact answers_ite (answers_next _) (answers_mergeTake ..)
    · exact answers_ite (answers_next _) (answers_next _)

theorem answers_genFirst (s : State) (d : BitVec 2) (slice hi : Bool) : Answers (genFirst s d slice hi) := by
  unfold genFirst
  dsimp only
  split
  · exact answers_next _
  · exact answers_ite (answers_ite (answers_next _) (answers_next _)) (answers_ite (answers_next _) (answers_next _))

theorem answers_passThrough (s : State) : Answers (passThrough s) := by
  unfold passThrough
  dsimp only
  split
  · exact answers_next _
  · refine answers_ite (answers_next _) ?_
    split <;> exact answers_next _

include hok

/-- A stage fires, or waits. -/
theorem answers_fireStage (srcs : List Src) (cin : Bool) (f : State → StageEnv → State × Option Inv) (bad : State → StageEnv → Bool) :
    Answers (fireStage s srcs cin f bad) := by
  simp only [fireStage, hok, Bool.not_true, Bool.false_eq_true, if_false]
  split
  · exact answers_next _
  · refine answers_ite (answers_next _) (answers_ite (answers_ite (answers_next _) ?_) ?_)
    · split
      · exact answers_next _
      · exact answers_next _
      · exact answers_ite (answers_next _) (answers_next _)
    · split
      · exact answers_next _
      · refine answers_ite (answers_next _) ?_
        split <;> exact answers_next _

theorem answers_vnop (d : BitVec 2) (a : Src) : Answers (execVnop d a s) :=
  answers_ite (answers_passThrough s) (answers_ite (answers_next _) (answers_ite (answers_fireStage hok ..) (answers_fireStage hok ..)))

theorem answers_vred (d : BitVec 2) (a b : Src) (m : BitVec 3) (f : Bool) (r : BitVec 3) : Answers (execVred d a b m f r s) :=
  answers_ite (answers_ite (answers_next _) (answers_fireStage hok ..)) (answers_fireStage hok ..)

theorem answers_merge (a b : Src) (w : BitVec 2) (l : Bool) : Answers (execMerge a b w l s) := by
  simp only [execMerge, hok, Bool.not_true, Bool.false_eq_true, if_false]
  split
  · exact answers_next _
  · exact answers_ite (answers_mergeLoop ..) (answers_mergePlain ..)

theorem answers_pack : Answers (execPack s) := by
  simp only [execPack, hok, Bool.not_true, Bool.false_eq_true, if_false]
  split
  · exact answers_next _
  · split
    · exact answers_next _
    · exact answers_next _
    · exact answers_ite (answers_next _) (answers_ite (answers_next _) (answers_next _))

theorem answers_ordr : Answers (execOrdr s) := by
  simp only [execOrdr, hok, Bool.not_true, Bool.false_eq_true, if_false]
  split
  · exact answers_next _
  · split
    · exact answers_next _
    · exact answers_next _
    · exact answers_ite (answers_ite (answers_next _) (answers_next _))
        (answers_ite (answers_next _) (answers_ite (answers_next _) (answers_ite (answers_next _) (answers_next _))))

theorem answers_gen (d : BitVec 2) (c h : Bool) (k : BitVec 3) : Answers (execGen d c h k s) := by
  simp only [execGen, hok, Bool.not_true, Bool.false_eq_true, if_false]
  exact answers_ite (answers_genFirst ..) (answers_fireStage hok ..)

theorem answers_stat (r : Bool) : Answers (execStat r s) := by
  simp only [execStat, hok, Bool.not_true, Bool.false_eq_true, if_false]
  exact answers_ite (answers_next _) (answers_next _)

theorem answers_topk (d : BitVec 2) (a b : Src) (l : Bool) : Answers (execTopk d a b l s) := by
  simp only [execTopk, hok, Bool.not_true, Bool.false_eq_true, if_false]
  split
  · exact answers_next _
  · refine answers_ite (answers_next _) ?_
    split
    · exact answers_next _
    · exact answers_next _
    · exact answers_ite (answers_ite (answers_next _) (answers_next _)) (answers_ite (answers_next _) (answers_next _))

theorem answers_mload : Answers (execMload s) := by
  simp only [execMload, hok, Bool.not_true, Bool.false_eq_true, if_false]
  split
  · exact answers_next _
  · split
    · exact answers_next _
    · exact answers_ite (answers_next _) (answers_ite (answers_next _) (answers_ite (answers_next _) (answers_next _)))

theorem answers_mswap (p : Bool) : Answers (execMswap p s) := by
  simp only [execMswap, hok, Bool.not_true, Bool.false_eq_true, if_false]
  split
  · exact answers_next _
  · refine answers_ite (answers_next _) ?_
    split <;> exact answers_next _

theorem answers_mrow (p : BitVec 2) : Answers (execMrow p s) := by
  simp only [execMrow, hok, Bool.not_true, Bool.false_eq_true, if_false]
  split
  · exact answers_next _
  · split
    · exact answers_next _
    · refine answers_ite (answers_next _) (answers_ite (answers_next _) ?_)
      split
      · exact answers_next _
      · exact answers_ite (answers_next _) (answers_next _)

theorem answers_mdrain (c : Bool) (f : BitVec 2) : Answers (execMdrain c f s) := by
  simp only [execMdrain, hok, Bool.not_true, Bool.false_eq_true, if_false]
  split
  · exact answers_next _
  · exact answers_ite (answers_next _) (answers_next _)

theorem answers_mclr : Answers (execMclr s) := by
  simp only [execMclr, hok, Bool.not_true, Bool.false_eq_true, if_false]
  split
  · exact answers_next _
  · exact answers_ite (answers_next _) (answers_next _)

theorem answers_barn (l w c e n : Bool) : Answers (execBarn l w c e n s) := by
  simp only [execBarn, hok, Bool.not_true, Bool.false_eq_true, if_false]
  split
  · exact answers_next _
  · split
    · exact answers_next _
    · exact answers_ite (answers_next _) (answers_ite (answers_next _) (answers_ite (answers_next _)
        (answers_ite (answers_next _) (answers_next _))))

end Answering

/-- The decoded word fires as it executes, and answers. -/
def Fires (o : Option Instr) : Prop := ∀ i, o = some i → ∀ s, siteOk s.focus = true → fireWord i s = exec i s ∧ Answers (fireWord i s)

theorem fires_none : Fires none := fun _ h => by cases h

theorem fires_some {i : Instr} (h : ∀ s, fireWord i s = exec i s) (ha : ∀ s, siteOk s.focus = true → Answers (fireWord i s)) : Fires (some i) := by
  intro j hj s hok
  cases hj
  exact ⟨h s, ha s hok⟩

theorem fires_ite {p : Prop} [Decidable p] {i : Instr} (h : ∀ s, fireWord i s = exec i s)
    (ha : ∀ s, siteOk s.focus = true → Answers (fireWord i s)) : Fires (if p then some i else none) := by
  split
  · exact fires_some h ha
  · exact fires_none

/-- Every E-word, in the order of Table 12.10: those with a firing of their own, and at the end the stages that all fire alike. -/
theorem fires_rawE (w : Nat) : Fires (rawE w) := by
  unfold rawE
  split
  case h_67 => exact fires_none
  case h_32 =>
    refine fires_some (fun _ => rfl) fun _ hok => ?_
    unfold fireWord
    dsimp only [execVfcvt, convStage]
    exact answers_fireStage hok ..
  case h_1 => exact fires_ite (fun _ => rfl) fun _ hok => answers_vnop hok ..
  case h_38 => exact fires_ite (fun _ => rfl) fun _ hok => answers_vred hok ..
  case h_42 => exact fires_ite (fun _ => rfl) fun _ hok => answers_merge hok ..
  case h_43 => exact fires_ite (fun _ => rfl) fun _ hok => answers_pack hok
  case h_47 => exact fires_ite (fun _ => rfl) fun _ hok => answers_ordr hok
  case h_48 => exact fires_ite (fun _ => rfl) fun _ hok => answers_gen hok _ _ _ (fieldOf 3 0 w)
  case h_50 => exact fires_ite (fun _ => rfl) fun _ hok => answers_stat hok _
  case h_51 => exact fires_ite (fun _ => rfl) fun _ hok => answers_topk hok ..
  case h_52 => exact fires_ite (fun _ => rfl) fun _ hok => answers_meAccept hok ..
  case h_53 => exact fires_ite (fun _ => rfl) fun _ hok => answers_meAccept hok ..
  case h_54 => exact fires_ite (fun _ => rfl) fun _ hok => answers_meAccept hok ..
  case h_55 => exact fires_ite (fun _ => rfl) fun _ hok => answers_spfifo hok
  case h_56 =>
    refine fires_ite (fun _ => rfl) fun _ hok => ?_
    unfold fireWord
    dsimp only [execLtake]
    exact answers_lockNode hok ..
  case h_57 =>
    refine fires_ite (fun _ => rfl) fun _ hok => ?_
    unfold fireWord
    dsimp only [execLgive]
    exact answers_lockNode hok ..
  case h_58 => exact fires_ite (fun _ => rfl) fun _ hok => answers_meAccept hok ..
  case h_59 => exact fires_ite (fun _ => rfl) fun _ hok => answers_mload hok
  case h_60 => exact fires_ite (fun _ => rfl) fun _ hok => answers_mswap hok _
  case h_61 => exact fires_ite (fun _ => rfl) fun _ hok => answers_mrow hok _
  case h_62 => exact fires_ite (fun _ => rfl) fun _ hok => answers_mdrain hok (bitOf 6 w) (fieldOf 2 4 w)
  case h_63 => exact fires_ite (fun _ => rfl) fun _ hok => answers_mclr hok
  case h_66 => exact fires_ite (fun _ => rfl) fun _ hok => answers_barn hok ..
  all_goals
    refine fires_ite (fun _ => rfl) fun _ hok => ?_
    unfold fireWord
    dsimp only [execViadd, execVisub, execVimul, execVimulh, execVimad, execVand, execVor, execVxor, execVshl, execVshr, execVsha,
      execVimin, execVimax, execVicmp, execVsel, execVaddc, execVsubc, execVmulc, execVhash, execVclz, execVpopc, execVbfx, execVfadd, execVfsub,
      execVfmul, execVfma, execVfmin, execVfmax, execVfcmp, execVfsign, execVfrcpe, execVfrsqe, execVfexp2, execVpqz, execVpmul, execFork,
      execFilt, execSteer, execPerm, execSplat, execTagseq, execCntl, execVanc, execEcount, intStage, wordStage, floatStage, laneStage, convStage,
      carryStage, headStage]
    exact answers_fireStage hok ..

theorem fires_decodeE {w : Nat} {i : Instr} (h : decodeE w = .ok i) {s : State} (hok : siteOk s.focus = true) :
    fireWord i s = exec i s ∧ Answers (fireWord i s) := by
  refine fires_rawE w i ?_ s hok
  unfold decodeE checkRaw at h
  split at h
  · cases h
  · split at h
    · cases h
    · split at h
      · rename_i hraw _
        cases h
        exact hraw
      · cases h

/-- A stage fires the word that stands in it. -/
theorem fireAt_stage {s : State} {x : SiteId} {k : BitVec 3} {cx : Ctx} {i : Instr} (hok : siteOk x = true) (hc : activeCtx s x = some cx)
    (hi : decodeE ((cx.ewords[k.toNat - 1]?).getD 0).toNat = .ok i) :
    ∃ t, fireAt s x k.toNat false = .next t ∧ exec i { s with focus := x, focusStage := k.zeroExtend 5 } = .next t := by
  have stage : BitVec.ofNat 5 k.toNat = k.zeroExtend 5 := BitVec.ofNat_toNat ..
  have word : roleOp cx (k.toNat - 1) = some i := by rw [roleOp, hi]
  obtain ⟨same, t, ht⟩ := fires_decodeE hi (s := { s with focus := x, focusStage := k.zeroExtend 5 }) hok
  refine ⟨t, ?_, same ▸ ht⟩
  rw [fireAt, hc]
  simp only [Bool.false_eq_true, if_false, word, stage, ht]

end Sys2Proof.Machine

namespace Sys2Proof.Machine

/-! ### What a stage of a processing element does to the rest (R33) -/

/-- v is u with other counts, arcs and draws: its tracks, its domains and what its nodes hold are the same. -/
structure Computed (u v : State) : Prop where
  others : v = { u with sites := v.sites, draws := v.draws }
  domain : ∀ y, domainOf v y = domainOf u y
  node : ∀ y, (siteOf v y).node = (siteOf u y).node
  cs : ∀ y, (siteOf v y).cs = (siteOf u y).cs

namespace Computed
variable {u v w : State}

theorem refl (u : State) : Computed u u := ⟨rfl, fun _ => rfl, fun _ => rfl, fun _ => rfl⟩
theorem trans (h : Computed u v) (g : Computed v w) : Computed u w :=
  ⟨by rw [g.others, h.others], fun y => (g.domain y).trans (h.domain y), fun y => (g.node y).trans (h.node y), fun y => (g.cs y).trans (h.cs y)⟩
theorem of_tallied (h : Tallied u v) : Computed u v :=
  ⟨by rw [h.others], h.domain, h.node, fun y => by rw [h.site]⟩
theorem draws (u : State) (n : Nat) : Computed u { u with draws := n } := ⟨rfl, fun _ => rfl, fun _ => rfl, fun _ => rfl⟩
theorem chans (h : Computed u v) : v.chans = u.chans := by rw [h.others]
theorem mem (h : Computed u v) : v.mem = u.mem := by rw [h.others]
theorem cores (h : Computed u v) : v.cores = u.cores := by rw [h.others]
theorem slices (h : Computed u v) : v.slices = u.slices := by rw [h.others]
theorem placements (h : Computed u v) : v.placements = u.placements := by rw [h.others]
theorem gateways (h : Computed u v) : v.gateways = u.gateways := by rw [h.others]
theorem chanOf (h : Computed u v) (k : Nat) : chanOf v k = chanOf u k := by rw [Machine.chanOf, h.chans, Machine.chanOf]

theorem outDest (h : Computed u v) (x : SiteId) (p t : Nat) (gate : Bool) : outDest v x p t gate = outDest u x p t gate := by
  have comes : ∀ y, comesThrough v x p t y gate = comesThrough u x p t y gate := fun y => by
    rw [comesThrough, h.domain, h.domain, h.gateways, comesThrough]
  simp only [Machine.outDest, comes, portAt_congr h.placements]

theorem outFree (h : Computed u v) (x : SiteId) (p t : Nat) : outFree v x p t = outFree u x p t := by
  rw [Machine.outFree, h.outDest, Machine.outFree]
  split
  · rfl
  · simp only [h.chanOf]

theorem setArc (u : State) (x : SiteId) (k : Nat) (v : Option Inv) : Computed u (setArc u x k v) := by
  refine ⟨rfl, fun y => ?_, fun y => ?_, fun y => ?_⟩ <;> simp only [domainOf, Machine.setArc, siteOf_modSite] <;> split <;> simp_all

/-- Sources read the same. -/
theorem srcLane (h : Computed u v) (e : StageEnv) (c : Src) (l : Nat) : srcLane v e c l = srcLane u e c l := by
  have slice : findSlice v e.cx.owner = findSlice u e.cx.owner := by rw [findSlice, h.slices, findSlice]
  simp only [Machine.srcLane, h.cs, slice]

end Computed

/-! ### Arcs -/

theorem arcOf_setArc_self (s : State) (x : SiteId) {k : Nat} (hk : 1 ≤ k ∧ k ≤ 6) (v : Option Inv) : arcOf (setArc s x k v) x k = v := by
  have hk' : k - 1 < 6 := by omega
  simp [arcOf, setArc, hk']

theorem arcOf_setArc_ne (s : State) (x : SiteId) {j k : Nat} (hj : 1 ≤ j) (hk : 1 ≤ k) (h : j ≠ k) (v : Option Inv) :
    arcOf (setArc s x k v) x j = arcOf s x j := by
  have hne : k - 1 ≠ j - 1 := by omega
  simp [arcOf, setArc, hne]

theorem arcOf_of_tallied {u v : State} (h : Tallied u v) (x : SiteId) (k : Nat) : arcOf v x k = arcOf u x k := by rw [arcOf, h.arcs, arcOf]

@[simp] theorem arcOf_noteMove (s : State) (x y : SiteId) (k : Nat) : arcOf (noteMove s x) y k = arcOf s y k := by rw [arcOf, arcs_noteMove, arcOf]

@[simp] theorem arcOf_draws (s : State) (n : Nat) (x : SiteId) (k : Nat) : arcOf { s with draws := n } x k = arcOf s x k := rfl

/-! ### E-words that compute lane by lane (R519, R522 to R534) -/

/-- What a lane-by-lane E-word does in a stage: the invocation that goes on has the lanes of f in register d where it is valid, and
differs in its registers alone. -/
def WritesLanes (d : BitVec 2) (f : State → StageEnv → Nat → W32) (body : State → StageEnv → State × Option Inv) : Prop :=
  ∀ s e, computes e.inv → ∃ w, (body s e).2 = some w ∧ w = { e.inv with p := w.p } ∧
    (∀ l, l < 16 → e.inv.valid.getLsbD l = true → laneOf ((w.p[d.toNat]?).getD []) l = f s e l) ∧
    Computed s (body s e).1 ∧ ∀ k, arcOf (body s e).1 e.site k = arcOf s e.site k

/-- Register d after it has been written. -/
theorem getElem?_putP_self (v : Inv) (d : BitVec 2) (w : Lanes) : ((putP v d w).p[d.toNat]?).getD [] = w := by
  have hd : d.toNat < 4 := d.isLt
  simp [putP, hd]

theorem passes_of_computes {v : Inv} (h : computes v) : passes v = false := by
  exact Bool.or_eq_false_iff.2 ⟨beq_false_of_ne h.1, beq_false_of_ne h.2⟩

/-- A function of the lanes of three sources. -/
def ofSources (h : W32 → W32 → W32 → W32) (a b c : Src) (s : State) (e : StageEnv) (l : Nat) : W32 :=
  h (srcLane s e a l) (srcLane s e b l) (srcLane s e c l)

/-- An instruction that fires in a processing element as a stage whose lanes are f. -/
def FiresLanes (i : Instr) (d : BitVec 2) (srcs : List Src) (f : State → StageEnv → Nat → W32) : Prop :=
  ∀ s, siteKind s.focus = 0 → ∃ body, exec i s = fireStage s srcs false body ∧ WritesLanes d f body

theorem firesLanes_laneStage {i : Instr} {d : BitVec 2} {srcs : List Src} {f : State → StageEnv → Nat → W32}
    (h : ∀ s, siteKind s.focus = 0 → exec i s = laneStage s d srcs f) : FiresLanes i d srcs f := by
  refine fun s hs => ⟨_, h s hs, fun s e he => ?_⟩
  simp only [passes_of_computes he, Bool.false_eq_true, if_false]
  refine ⟨_, rfl, rfl, fun l hl hv => ?_, Computed.draws s _, fun k => rfl⟩
  rw [getElem?_putP_self, laneOf_laneList hl, bitOf_toNat, if_pos hv]

/-- Counts change no more than counts. -/
theorem tallied_counts (x : SiteId) (k : Nat) (cs : List Nat) (s : State) : Tallied s (cs.foldl (fun u i => countAt u x k i 1) s) := by
  induction cs generalizing s with
  | nil => exact Tallied.refl s
  | cons c cs ih => exact (tallied_countAt s x k c 1).trans (ih _)

theorem firesLanes_convStage {i : Instr} {d : BitVec 2} {srcs : List Src} {f : State → StageEnv → Nat → Counted}
    {whole : State → StageEnv → List Nat} (h : ∀ s, exec i s = convStage s d srcs f whole) : FiresLanes i d srcs fun s e l => (f s e l).1 := by
  refine fun s _ => ⟨_, h s, fun s e he => ?_⟩
  simp only [passes_of_computes he, Bool.false_eq_true, if_false]
  have counted := tallied_counts e.site s.focusStage.toNat (((validLanes e.inv.valid).flatMap fun l => (f s e l).2) ++ whole s e) s
  refine ⟨_, rfl, rfl, fun l hl hv => ?_, (Computed.of_tallied counted).trans (Computed.draws _ _), fun k => ?_⟩
  · rw [getElem?_putP_self, laneOf_laneList hl, bitOf_toNat, if_pos hv]
  · rw [arcOf_draws, arcOf_of_tallied counted]

theorem exec_vnop_element {s : State} (hs : siteKind s.focus = 0) (d : BitVec 2) (a : Src) : exec (.vnop d a) s =
    if a.toNat = d.toNat then fireStage s [a] false fun s e => (s, some e.inv) else laneStage s d [a] fun u e l => srcLane u e a l := by
  change execVnop d a s = _
  rw [execVnop, hs, if_neg (by decide), if_neg (by decide)]

theorem firesLanes_vnop (d : BitVec 2) (a : Src) : FiresLanes (.vnop d a) d [a] fun s e l => srcLane s e a l := by
  by_cases ha : a.toNat = d.toNat
  · refine fun s hs => ⟨fun s e => (s, some e.inv), (exec_vnop_element hs d a).trans (if_pos ha), fun s e _ =>
      ⟨e.inv, rfl, rfl, fun l _ _ => ?_, Computed.refl s, fun _ => rfl⟩⟩
    have hd : d.toNat < 4 := d.isLt
    simp only [srcLane, ha, if_pos hd]
  · exact firesLanes_laneStage fun s hs => (exec_vnop_element hs d a).trans (if_neg ha)

/-- What SPLAT does with an invocation. -/
def splatBody (d : BitVec 2) (a : Src) (n : BitVec 4) (s : State) (e : StageEnv) : State × Option Inv :=
  if passes e.inv then (s, some e.inv) else (s, some (putP e.inv d (laneList fun _ => srcLane s e a n.toNat)))

theorem firesLanes_splat (d : BitVec 2) (a : Src) (n : BitVec 4) : FiresLanes (.splat d a n) d [a] fun s e _ => srcLane s e a n.toNat := by
  refine fun s _ => ⟨splatBody d a n, rfl, fun s e he => ?_⟩
  simp only [splatBody, passes_of_computes he, Bool.false_eq_true, if_false]
  refine ⟨_, rfl, rfl, fun l hl hv => ?_, Computed.refl s, fun _ => trivial⟩
  rw [getElem?_putP_self, laneOf_laneList hl]

/-- How two E-words of one kind compute alike: the lanes of their sources tell their lanes. -/
def Lanewise (word : BitVec 2 → Src → Src → Src → Instr × List Src) : Prop :=
  ∃ f : (Nat → W32) → (Nat → W32) → (Nat → W32) → Nat → W32,
    (∀ la lb lc ma mb mc, (∀ l, l < 16 → la l = ma l ∧ lb l = mb l ∧ lc l = mc l) → ∀ l, l < 16 → f la lb lc l = f ma mb mc l) ∧
    ∀ d a b c, FiresLanes (word d a b c).1 d (word d a b c).2 fun s e l => f (srcLane s e a) (srcLane s e b) (srcLane s e c) l

theorem lanewise_of_lane {word : BitVec 2 → Src → Src → Src → Instr × List Src} (h : W32 → W32 → W32 → W32)
    (hw : ∀ d a b c, FiresLanes (word d a b c).1 d (word d a b c).2 fun s e l => h (srcLane s e a l) (srcLane s e b l) (srcLane s e c l)) :
    Lanewise word := by
  refine ⟨fun la lb lc l => h (la l) (lb l) (lc l), fun la lb lc ma mb mc same l hl => ?_, hw⟩
  obtain ⟨ha, hb, hc⟩ := same l hl
  simp only [ha, hb, hc]

/-- A word whose lanes are h of the lanes of its sources. -/
theorem lanewise_laneStage {word : BitVec 2 → Src → Src → Src → Instr × List Src} (h : W32 → W32 → W32 → W32)
    (hw : ∀ d a b c s, exec (word d a b c).1 s =
      laneStage s d (word d a b c).2 fun u e l => h (srcLane u e a l) (srcLane u e b l) (srcLane u e c l)) : Lanewise word :=
  lanewise_of_lane h fun d a b c => firesLanes_laneStage fun s _ => hw d a b c s

/-- A converter whose lanes are h of the lanes of its sources. -/
theorem lanewise_convStage {word : BitVec 2 → Src → Src → Src → Instr × List Src} (h : W32 → W32 → W32 → Counted)
    (whole : BitVec 2 → Src → Src → Src → State → StageEnv → List Nat)
    (hw : ∀ d a b c s, exec (word d a b c).1 s =
      convStage s d (word d a b c).2 (fun u e l => h (srcLane u e a l) (srcLane u e b l) (srcLane u e c l)) (whole d a b c)) : Lanewise word :=
  lanewise_of_lane (fun x y z => (h x y z).1) fun d a b c => firesLanes_convStage fun s => hw d a b c s

/-- The lanes of an E-word of two integers. -/
theorem lanewise_int {word : BitVec 2 → Src → Src → Src → Instr × List Src} (sat n : Bool) (f : Int → Int → Int)
    (hw : ∀ d a b c s, exec (word d a b c).1 s = intStage s d a b sat n f) (hs : ∀ d a b c, (word d a b c).2 = [a, b]) : Lanewise word :=
  lanewise_laneStage (fun x y _ => laneInt sat n (f (intOf n x) (intOf n y))) fun d a b c s => by rw [hw, hs]; rfl

/-- The lanes of an E-word of two words. -/
theorem lanewise_word {word : BitVec 2 → Src → Src → Src → Instr × List Src} (f : W32 → W32 → W32)
    (hw : ∀ d a b c s, exec (word d a b c).1 s = wordStage s d a b f) (hs : ∀ d a b c, (word d a b c).2 = [a, b]) : Lanewise word :=
  lanewise_laneStage (fun x y _ => f x y) fun d a b c s => by rw [hw, hs]; rfl

section Words
variable (e f : Bool) (p : BitVec 3) (n : BitVec 4) (q : BitVec 2)

theorem lanewise_vnop : Lanewise fun d a _ _ => (.vnop d a, [a]) := lanewise_of_lane (fun x _ _ => x) fun d a _ _ => firesLanes_vnop d a

theorem lanewise_splat : Lanewise fun d a _ _ => (.splat d a n, [a]) :=
  ⟨fun la _ _ _ => la n.toNat, fun _ _ _ _ _ _ same _ _ => (same n.toNat n.isLt).1, fun d a _ _ => firesLanes_splat d a n⟩

/-- VRED with a mode from 4 on. -/
theorem lanewise_vred (m : BitVec 3) (hm : ¬ m.toNat < 4) : Lanewise fun d a b _ => (.vred d a b m f p, [a, b]) :=
  lanewise_convStage (fun x y _ => (vredLane m.toNat x y, (if m.toNat < 6 && isNan32 x then [2] else []) ++
      (if isNan32 (vredLane m.toNat x y) then [3] else [])))
    (fun _ _ b _ u e => if m = 4 && e.inv.eos && srcLane u e b 0 == 0 then [6] else []) fun _ _ _ _ _ => if_neg hm

/-- The E-words that compute lane by lane. -/
def laneWords : List (BitVec 2 → Src → Src → Src → Instr × List Src) :=
  [fun d a _ _ => (.vnop d a, [a]), fun d a b _ => (.viadd d a b e f, [a, b]), fun d a b _ => (.visub d a b e f, [a, b]),
      fun d a b _ => (.vimul d a b e f, [a, b]), fun d a b _ => (.vimulh d a b f, [a, b]),
      fun d a b c => (.vimad d a b c e f, [a, b, c]), fun d a b _ => (.vand d a b, [a, b]), fun d a b _ => (.vor d a b, [a, b]),
      fun d a b _ => (.vxor d a b, [a, b]), fun d a b _ => (.vshl d a b, [a, b]), fun d a b _ => (.vshr d a b, [a, b]),
      fun d a b _ => (.vsha d a b, [a, b]), fun d a b _ => (.vimin d a b f, [a, b]), fun d a b _ => (.vimax d a b f, [a, b]),
      fun d a b _ => (.vicmp d a b p, [a, b]), fun d a b c => (.vsel d a b c, [a, b, c]), fun d a b _ => (.vhash d a b, [a, b]),
      fun d a _ _ => (.vclz d a, [a]), fun d a _ _ => (.vpopc d a, [a]), fun d a b c => (.vbfx d a b c f, [a, b, c]),
      fun d a b _ => (.vfadd d a b f p, [a, b]), fun d a b _ => (.vfsub d a b f p, [a, b]), fun d a b _ => (.vfmul d a b f p, [a, b]),
      fun d a b c => (.vfma d a b c f p, [a, b, c]), fun d a b _ => (.vfmin d a b, [a, b]), fun d a b _ => (.vfmax d a b, [a, b]),
      fun d a b _ => (.vfcmp d a b q, [a, b]), fun d a b _ => (.vfsign d a b q, [a, b]),
      fun d a b c => (.vfcvt d a b c n f p, [a, b, c]), fun d a _ _ => (.vfrcpe d a f p, [a]), fun d a _ _ => (.vfrsqe d a f p, [a]),
      fun d a _ _ => (.vfexp2 d a f p, [a]), fun d a _ c => (.vpqz d a c q, [a, c]), fun d a b _ => (.vpmul d a b q, [a, b]),
      fun d a b _ => (.vred d a b 4 f p, [a, b]), fun d a b _ => (.vred d a b 5 f p, [a, b]), fun d a b _ => (.vred d a b 6 f p, [a, b]),
      fun d a _ _ => (.splat d a n, [a])]

/-- Each of them, in this order. -/
theorem lanewise_of_mem {word : BitVec 2 → Src → Src → Src → Instr × List Src} (h : word ∈ laneWords e f p n q) : Lanewise word := by
  simp only [laneWords, List.mem_cons, List.not_mem_nil, or_false] at h
  rcases h with rfl | rfl | rfl | rfl | rfl | rfl | rfl | rfl | rfl | rfl | rfl | rfl | rfl | rfl | rfl | rfl | rfl | rfl | rfl | rfl | rfl |
    rfl | rfl | rfl | rfl | rfl | rfl | rfl | rfl | rfl | rfl | rfl | rfl | rfl | rfl | rfl | rfl | rfl
  · exact lanewise_vnop
  · exact lanewise_int e f (fun x y => x + y) (fun _ _ _ _ _ => rfl) fun _ _ _ _ => rfl
  · exact lanewise_int e f (fun x y => x - y) (fun _ _ _ _ _ => rfl) fun _ _ _ _ => rfl
  · exact lanewise_int e f (fun x y => x * y) (fun _ _ _ _ _ => rfl) fun _ _ _ _ => rfl
  · exact lanewise_int false f (fun x y => Int.fdiv (x * y) (2 ^ 32)) (fun _ _ _ _ _ => rfl) fun _ _ _ _ => rfl
  · exact lanewise_laneStage (fun x y z => laneInt e f (intOf f x * intOf f y + intOf f z)) fun _ _ _ _ _ => rfl
  · exact lanewise_word (fun x y => x &&& y) (fun _ _ _ _ _ => rfl) fun _ _ _ _ => rfl
  · exact lanewise_word (fun x y => x ||| y) (fun _ _ _ _ _ => rfl) fun _ _ _ _ => rfl
  · exact lanewise_word (fun x y => x ^^^ y) (fun _ _ _ _ _ => rfl) fun _ _ _ _ => rfl
  · exact lanewise_word (fun x y => x <<< (y.toNat % 32)) (fun _ _ _ _ _ => rfl) fun _ _ _ _ => rfl
  · exact lanewise_word (fun x y => x >>> (y.toNat % 32)) (fun _ _ _ _ _ => rfl) fun _ _ _ _ => rfl
  · exact lanewise_word (fun x y => x.sshiftRight (y.toNat % 32)) (fun _ _ _ _ _ => rfl) fun _ _ _ _ => rfl
  · exact lanewise_int false f (fun x y => Min.min x y) (fun _ _ _ _ _ => rfl) fun _ _ _ _ => rfl
  · exact lanewise_int false f (fun x y => Max.max x y) (fun _ _ _ _ _ => rfl) fun _ _ _ _ => rfl
  · exact lanewise_word (fun x y => if condHolds p x y then 1 else 0) (fun _ _ _ _ _ => rfl) fun _ _ _ _ => rfl
  · exact lanewise_laneStage (fun x y z => if x ≠ 0 then y else z) fun _ _ _ _ _ => rfl
  · exact lanewise_word hash32 (fun _ _ _ _ _ => rfl) fun _ _ _ _ => rfl
  · exact lanewise_laneStage (fun x _ _ => BitVec.ofNat 32 (leadingZeros 32 x.toNat)) fun _ _ _ _ _ => rfl
  · exact lanewise_laneStage (fun x _ _ => BitVec.ofNat 32 (popCount 32 x.toNat)) fun _ _ _ _ _ => rfl
  · exact lanewise_laneStage (fun x y z => laneField f x y z) fun _ _ _ _ _ => rfl
  · exact lanewise_word (fun x y => flush32 f (fpAdd (rndOf p.toNat) (num32 x) (num32 y)).1) (fun _ _ _ _ _ => rfl) fun _ _ _ _ => rfl
  · exact lanewise_word (fun x y => flush32 f (fpAdd (rndOf p.toNat) (num32 x) (negNum (num32 y))).1) (fun _ _ _ _ _ => rfl) fun _ _ _ _ => rfl
  · exact lanewise_word (fun x y => flush32 f (fpMul (rndOf p.toNat) (num32 x) (num32 y)).1) (fun _ _ _ _ _ => rfl) fun _ _ _ _ => rfl
  · exact lanewise_laneStage (fun x y z => flush32 f (fpFma (rndOf p.toNat) (num32 x) (num32 y) (num32 z)).1) fun _ _ _ _ _ => rfl
  · exact lanewise_word (pickMax false) (fun _ _ _ _ _ => rfl) fun _ _ _ _ => rfl
  · exact lanewise_word (pickMax true) (fun _ _ _ _ _ => rfl) fun _ _ _ _ => rfl
  · exact lanewise_word (fun x y => if fpHolds q.toNat (num32 x) (num32 y) then 1 else 0) (fun _ _ _ _ _ => rfl) fun _ _ _ _ => rfl
  · exact lanewise_word (signLane q.toNat) (fun _ _ _ _ _ => rfl) fun _ _ _ _ => rfl
  · exact lanewise_convStage (fun x y z => vcvtLane n.toNat (rndOf p.toNat) f x y z) (fun _ _ _ _ _ _ => []) fun _ _ _ _ _ => rfl
  · exact lanewise_laneStage (fun x _ _ => rcpEst x) fun _ _ _ _ _ => rfl
  · exact lanewise_laneStage (fun x _ _ => rsqrtEst x) fun _ _ _ _ _ => rfl
  · exact lanewise_laneStage (fun x _ _ => flush32 f (round32 (rndOf p.toNat) (exp2Num (num32 x)))) fun _ _ _ _ _ => rfl
  · exact lanewise_convStage (fun x _ z => (putByte z q.toNat (p6Quant x).1, (if (p6Quant x).2.1 then [2] else []) ++
      (if (p6Quant x).2.2 then [0] else []))) (fun _ _ _ _ _ _ => []) fun _ _ _ _ _ => rfl
  · exact lanewise_convStage (fun x y _ => (p6Mul x (y.toNat / 2 ^ (8 * q.toNat) % 256), (if isNan32 x then [2] else []) ++
      (if isNan32 (p6Mul x (y.toNat / 2 ^ (8 * q.toNat) % 256)) then [3] else []))) (fun _ _ _ _ _ _ => []) fun _ _ _ _ _ => rfl
  · exact lanewise_vred f p 4 (by decide)
  · exact lanewise_vred f p 5 (by decide)
  · exact lanewise_vred f p 6 (by decide)
  · exact lanewise_splat n

end Words

/-! ### A stage between (R33) -/

/-- An invocation that goes on from a stage below 6 stands in the free arc after it. -/
theorem passOn_arc {s : State} {x : SiteId} {cx : Ctx} {k : Nat} {w : Inv} (hk : k < 6) (harc : arcOf s x k = none) :
    passOn s x cx k (some w) = some (setArc (endTile s x k w.eos w.seq) x k (some w)) := by
  simp only [passOn, if_pos hk, harc, Option.isNone_none, if_true]

section Fires
variable {s : State} {cx : Ctx} {srcs : List Src} {body : State → StageEnv → State × Option Inv}

section Later
variable {k : Nat} {v : Inv} (h : AtStage s cx k v) (hsix : k = 6 → flushSix s s.focus cx = s)
include h hsix

omit hsix in
/-- A later stage is not the first, and nothing leaves before it fires. -/
theorem later_notFirst (hsix : k = 6 → flushSix s s.focus cx = s) : ¬ k = 1 ∧ (if k = 6 then flushSix s s.focus cx else s) = s := by
  refine ⟨by have := h.later; omega, ?_⟩
  split
  · exact hsix ‹_›
  · rfl

/-- The firing of a stage after the first: what its word makes of the invocation goes on. -/
theorem fireStage_goes {u : State}
    (hu : passOn (body (setArc s s.focus (k - 1) none) (stageEnv s cx v)).1 s.focus cx k
      (body (setArc s s.focus (k - 1) none) (stageEnv s cx v)).2 = some u) : fireStage s srcs false body = .next (noteMove u s.focus) := by
  obtain ⟨first, held⟩ := later_notFirst h hsix
  unfold stageEnv at hu
  simp only [fireStage, h.site, h.context, h.fires, h.stage, Bool.not_true, Bool.false_eq_true, if_false, if_neg first, held, h.stands, hu]

/-- It stays where it is while it cannot go on. -/
theorem fireStage_holds
    (hu : passOn (body (setArc s s.focus (k - 1) none) (stageEnv s cx v)).1 s.focus cx k
      (body (setArc s s.focus (k - 1) none) (stageEnv s cx v)).2 = none) : fireStage s srcs false body = .next s := by
  obtain ⟨first, held⟩ := later_notFirst h hsix
  unfold stageEnv at hu
  simp only [fireStage, h.site, h.context, h.fires, h.stage, Bool.not_true, Bool.false_eq_true, if_false, if_neg first, held, h.stands, hu]

end Later

/-- A lane-by-lane word in a stage between: its invocation stands in the arc after the stage. -/
theorem lanes_between {m : Nat} {v : Inv} {d : BitVec 2} {f : State → StageEnv → Nat → W32} (h : AtStage s cx m v) (hm : m < 6) (hc : computes v)
    (hw : WritesLanes d f body) : ∃ t w, fireStage s srcs false body = .next t ∧ arcOf t s.focus m = some w ∧
      ∀ l, l < 16 → v.valid.getLsbD l = true →
        laneOf ((w.p[d.toNat]?).getD []) l = f (setArc s s.focus (m - 1) none) (stageEnv s cx v) l := by
  have later := h.later
  obtain ⟨w, out, -, lanes, -, arcs⟩ := hw (setArc s s.focus (m - 1) none) (stageEnv s cx v) hc
  have free : arcOf (body (setArc s s.focus (m - 1) none) (stageEnv s cx v)).1 s.focus m = none := by
    rw [show arcOf _ s.focus m = _ from arcs m, show (stageEnv s cx v).site = s.focus from rfl,
      arcOf_setArc_ne s s.focus (by omega) (by omega) (by omega), h.free hm]
  refine ⟨_, w, fireStage_goes h (fun h6 => absurd h6 (by omega)) (by rw [out]; exact passOn_arc hm free), ?_, lanes⟩
  rw [arcOf_noteMove, arcOf_setArc_self _ _ (by omega)]

section First
variable {u : State} {v : Inv} {ports : List (Nat × Token)} (hok : siteOk s.focus = true) (hc : activeCtx s s.focus = some cx)
  (hf : mayFire s s.focus = true) (hk : s.focusStage = 1) (harc : arcOf s s.focus 1 = none) (hout : outsFree s s.focus cx = true)
  (ht : takeFirst s s.focus cx srcs false = .take u v ports)
include hok hc hf hk harc hout ht

/-- The firing of a first stage that takes its inputs. -/
theorem fireStage_first {t : State}
    (hp : passOn (body u { site := s.focus, cx := cx, inv := v, ports := ports }).1 s.focus cx 1
      (body u { site := s.focus, cx := cx, inv := v, ports := ports }).2 = some t) : fireStage s srcs false body = .next (noteMove t s.focus) := by
  have one : s.focusStage.toNat = 1 := by rw [hk]; rfl
  simp only [fireStage, hok, hc, hf, one, harc, hout, ht, hp, Bool.not_true, Bool.false_eq_true, if_false, if_true, Option.isSome_none,
    Bool.or_self, Option.getD_some]

/-- A lane-by-lane word in the first stage. -/
theorem lanes_first {d : BitVec 2} {f : State → StageEnv → Nat → W32} (hv : computes v) (hw : WritesLanes d f body) :
    ∃ t w, fireStage s srcs false body = .next t ∧ arcOf t s.focus 1 = some w ∧
      (w.kind, w.seq, w.eos, w.valid) = (v.kind, v.seq, v.eos, v.valid) ∧ t.chans = u.chans ∧ t.mem = s.mem ∧ t.cores = s.cores ∧
      ∀ l, l < 16 → v.valid.getLsbD l = true →
        laneOf ((w.p[d.toNat]?).getD []) l = f u { site := s.focus, cx := cx, inv := v, ports := ports } l := by
  have only := onlyChans_takeFirst ht
  obtain ⟨w, out, same, lanes, computed, arcs⟩ := hw u { site := s.focus, cx := cx, inv := v, ports := ports } hv
  have free : arcOf (body u { site := s.focus, cx := cx, inv := v, ports := ports }).1 s.focus 1 = none := by
    rw [show arcOf _ s.focus 1 = _ from arcs 1]
    change arcOf u s.focus 1 = none
    rw [arcOf, only.siteOf, ← arcOf, harc]
  have tile := tallied_endTile (body u { site := s.focus, cx := cx, inv := v, ports := ports }).1 s.focus 1 w.eos w.seq
  have all := computed.trans ((Computed.of_tallied tile).trans (Computed.setArc _ s.focus 1 (some w)))
  have run : fireStage s srcs false body = .next (noteMove (setArc (endTile (body u { site := s.focus, cx := cx, inv := v, ports := ports }).1
      s.focus 1 w.eos w.seq) s.focus 1 (some w)) s.focus) :=
    fireStage_first hok hc hf hk harc hout ht (by rw [out]; exact passOn_arc (by decide) free)
  refine ⟨_, w, run, ?_, by rw [same], all.chans, all.mem.trans only.mem, ?_, lanes⟩
  · rw [arcOf_noteMove, arcOf_setArc_self _ _ (by decide)]
  · rw [noteMove_cores, all.cores, only.others]

end First

end Fires

/-! ### Stage 6 (R33, R42, R561) -/

/-- The context writes one track, and nothing that its words say sends tokens elsewhere. -/
structure OneOutput (cx : Ctx) (o : OutSel) : Prop where
  sels : outSels cx = [o]
  width : o.width = 0
  fork : hasFork cx = false
  steer : steerBack cx = none
  cntl : cntlOf cx = none
  carry : (carryOf cx).1 = false
  copies : swmCopies cx o.port o.track = []

/-- The token that leaves on the one output. -/
def outToken (o : OutSel) (w : Inv) : Token := { invHead w with lanes := (w.p[o.preg]?).getD [] }

namespace OneOutput
variable {cx : Ctx} {o : OutSel} (h : OneOutput cx o)
include h

/-- Stage 6 waits for the one track. -/
theorem leaveTracks (v : Option Inv) : leaveTracks cx v = [(o.port, o.track)] := by
  have one : (outSels cx).filter (fun o => !(hasFork cx && o.side == 2)) = [o] := by rw [h.sels, h.fork]; rfl
  simp only [Machine.leaveTracks, h.steer, h.carry, one]
  simp [selTracks, h.width, h.copies]

/-- A data invocation leaves as one token. -/
theorem outTokens {w : Inv} (hw : w.kind = 0) : withCopies cx (outTokens cx w false) = [(o.port, o.track, outToken o w)] := by
  have kind : ∀ k, cntlKind cx k = k := fun k => by rw [cntlKind, cntlHits, h.cntl]; rfl
  have goes : cntlAbsorbs cx w = false := by rw [cntlAbsorbs, cntlHits, h.cntl]; rfl
  have out : Machine.outTokens cx w false = [(o.port, o.track, outToken o w)] := by
    simp only [Machine.outTokens, goes, h.steer, h.fork, h.carry, h.sels, kind, hw]
    simp [selTokens, h.width, outToken, invHead, hw]
  simp [out, withCopies, h.copies]

/-- Stage 6 cannot let an invocation out while the track has no slot. -/
theorem leaveSix_waits {s : State} {x : SiteId} (hx : siteKind x = 0) (hfull : outFree s x o.port o.track = false) (v : Option Inv) :
    leaveSix s x cx v = none := by
  simp [leaveSix, h.leaveTracks, nodeOutFree, trackAt, hx, hfull]

/-- A data invocation leaves when the track has a slot and nothing is held. -/
theorem leaveSix_leaves {s : State} {x : SiteId} (hx : siteKind x = 0) (hfree : outFree s x o.port o.track = true)
    (hside : (siteOf s x).node.side2 = none) (harc : arcOf s x 6 = none) {w : Inv} (hw : w.kind = 0) :
    leaveSix s x cx (some w) = some (emitTok s x o.port o.track (outToken o w) false) := by
  simp [leaveSix, h.leaveTracks, nodeOutFree, trackAt, hx, hfree, hside, harc, h.outTokens hw, h.fork, emitAll_eq]

end OneOutput

/-- Stage 6 with nothing held has nothing to let out. -/
theorem flushSix_nothing {s : State} {x : SiteId} {cx : Ctx} (hside : (siteOf s x).node.side2 = none) (harc : arcOf s x 6 = none) :
    flushSix s x cx = s := by
  simp only [flushSix, flushSide2, hside, harc]

/-- Stage 6 keeps what it holds while its outputs have no slot. -/
theorem flushSix_waits {s : State} {x : SiteId} {cx : Ctx} {o : OutSel} (h : OneOutput cx o) (hx : siteKind x = 0)
    (hside : (siteOf s x).node.side2 = none) (hfull : outFree s x o.port o.track = false) : flushSix s x cx = s := by
  cases harc : arcOf s x 6 with
  | none => exact flushSix_nothing hside harc
  | some v =>
    have full : outFree (setArc s x 6 none) x o.port o.track = false := ((Computed.setArc s x 6 none).outFree ..).trans hfull
    simp only [flushSix, flushSide2, hside, harc, h.leaveSix_waits hx full, Option.getD_none]

section Six
variable {s : State} {cx : Ctx} {srcs : List Src} {body : State → StageEnv → State × Option Inv} {v : Inv} {o : OutSel} (h : AtStage s cx 6 v)
  (one : OneOutput cx o)
include h one

/-- A data invocation leaves stage 6 as one token on the one output, when that has a slot. -/
theorem fireStage_emits {w : Inv} {z : SiteId} {p t : Nat} (harc : arcOf s s.focus 6 = none)
    (hdest : outDest s s.focus o.port o.track false = some (z, p, t))
    (hfree : outFree s s.focus o.port o.track = true) (hout : (body (setArc s s.focus 5 none) (stageEnv s cx v)).2 = some w) (hw : w.kind = 0)
    (hcomp : Computed (setArc s s.focus 5 none) (body (setArc s s.focus 5 none) (stageEnv s cx v)).1)
    (harcs : ∀ k, arcOf (body (setArc s s.focus 5 none) (stageEnv s cx v)).1 s.focus k = arcOf (setArc s s.focus 5 none) s.focus k) :
    ∃ u, fireStage s srcs false body = .next u ∧ arcOf u s.focus 5 = none ∧
      (∀ j, chanOf u j = if chanKey z p t = j then (chanOf s j).sent (outToken o w, s.focus, false) else chanOf s j) ∧
      u.mem = s.mem ∧ u.cores = s.cores := by
  have tile := tallied_endTile (body (setArc s s.focus 5 none) (stageEnv s cx v)).1 s.focus 6 w.eos w.seq
  have all := (Computed.setArc s s.focus 5 none).trans (hcomp.trans (Computed.of_tallied tile))
  have arcs : ∀ k, arcOf (endTile (body (setArc s s.focus 5 none) (stageEnv s cx v)).1 s.focus 6 w.eos w.seq) s.focus k =
      arcOf (setArc s s.focus 5 none) s.focus k := fun k => (arcOf_of_tallied tile s.focus k).trans (harcs k)
  generalize hu : endTile (body (setArc s s.focus 5 none) (stageEnv s cx v)).1 s.focus 6 w.eos w.seq = u at tile all arcs
  have held : arcOf u s.focus 6 = none := (arcs 6).trans ((arcOf_setArc_ne s s.focus (by decide) (by decide) (by decide) none).trans harc)
  have goes := one.leaveSix_leaves h.element ((all.outFree ..).trans hfree) (by rw [all.node]; exact h.side2) held hw
  have run : fireStage s srcs false body = .next (noteMove (emitTok u s.focus o.port o.track (outToken o w) false) s.focus) := by
    refine fireStage_goes h (fun _ => flushSix_nothing h.side2 harc) ?_
    rw [hout]
    simp only [passOn, hu, takeSix, goes, Nat.lt_irrefl, if_false]
  have sends := sends_emitTok u s.focus o.port o.track (outToken o w) false
  refine ⟨_, run, ?_, fun j => ?_, ?_, ?_⟩
  · rw [arcOf_noteMove, arcOf, sends.siteOf, ← arcOf, arcs, arcOf_setArc_self s s.focus (by decide)]
  · rw [chanOf_noteMove, chanOf_emitTok ((all.outDest ..).trans hdest), all.chanOf]
  · rw [noteMove_mem, sends.mem, all.mem]
  · rw [noteMove_cores, sends.cores, all.cores]

/-- An invocation that cannot leave is held in the arc after stage 6, if that is free. -/
theorem fireStage_held (harc : arcOf s s.focus 6 = none) (hfull : outFree s s.focus o.port o.track = false) :
    ∃ u, fireStage s srcs false (fun s e => (s, some e.inv)) = .next u ∧ arcOf u s.focus 5 = none ∧ arcOf u s.focus 6 = some v ∧
      u.chans = s.chans ∧ u.mem = s.mem := by
  have tile := tallied_endTile (setArc s s.focus 5 none) s.focus 6 v.eos v.seq
  have all := (Computed.setArc s s.focus 5 none).trans (Computed.of_tallied tile)
  have arcs : ∀ k, arcOf (endTile (setArc s s.focus 5 none) s.focus 6 v.eos v.seq) s.focus k = arcOf (setArc s s.focus 5 none) s.focus k :=
    fun k => arcOf_of_tallied tile s.focus k
  generalize hu : endTile (setArc s s.focus 5 none) s.focus 6 v.eos v.seq = u at tile all arcs
  have held : arcOf u s.focus 6 = none := (arcs 6).trans ((arcOf_setArc_ne s s.focus (by decide) (by decide) (by decide) none).trans harc)
  have waits := one.leaveSix_waits h.element ((all.outFree ..).trans hfull) (some v)
  have side2 : (siteOf u s.focus).node.side2 = none := by rw [all.node]; exact h.side2
  have run : fireStage s srcs false (fun s e => (s, some e.inv)) = .next (noteMove (setArc u s.focus 6 (some v)) s.focus) := by
    refine fireStage_goes h (fun _ => flushSix_nothing h.side2 harc) ?_
    change passOn (setArc s s.focus 5 none) s.focus cx 6 (some v) = _
    simp only [passOn, hu, takeSix, waits, side2, held, Nat.lt_irrefl, if_false, Option.isSome_some, Option.isNone_none, Bool.and_self, if_true]
  refine ⟨_, run, ?_, ?_, all.chans, all.mem⟩
  · rw [arcOf_noteMove, arcOf_setArc_ne _ _ (by decide) (by decide) (by decide), arcs, arcOf_setArc_self s s.focus (by decide)]
  · rw [arcOf_noteMove, arcOf_setArc_self _ _ (by decide)]

/-- It stays where it is while another is held. -/
theorem fireStage_stays (harc : arcOf s s.focus 6 ≠ none) (hfull : outFree s s.focus o.port o.track = false) :
    fireStage s srcs false (fun s e => (s, some e.inv)) = .next s := by
  have tile := tallied_endTile (setArc s s.focus 5 none) s.focus 6 v.eos v.seq
  have all := (Computed.setArc s s.focus 5 none).trans (Computed.of_tallied tile)
  have waits := one.leaveSix_waits h.element ((all.outFree ..).trans hfull) (some v)
  have held : (arcOf (endTile (setArc s s.focus 5 none) s.focus 6 v.eos v.seq) s.focus 6).isNone = false := by
    rw [arcOf_of_tallied tile, arcOf_setArc_ne s s.focus (by decide) (by decide) (by decide)]
    cases hcase : arcOf s s.focus 6 with
    | none => exact absurd hcase harc
    | some _ => rfl
  refine fireStage_holds h (fun _ => flushSix_waits one h.element h.side2 hfull) ?_
  change passOn (setArc s s.focus 5 none) s.focus cx 6 (some v) = none
  simp only [passOn, takeSix, waits, held, Nat.lt_irrefl, if_false, Bool.and_false, Bool.false_eq_true]

end Six

/-! ### Two inputs (R32, R34, R35) -/

/-- In a processing element every track is the site's own. -/
theorem trackAt_element {x : SiteId} (hx : siteKind x = 0) (t : Nat) : trackAt x t = (x, t) := by
  simp [trackAt, hx]

theorem firstInputs_two {cx : Ctx} {q : Nat} (hp : primaryPort cx < 5) (hw : primaryWidth cx = 0) (hq : q < 5) (hne : q ≠ primaryPort cx) :
    firstInputs cx [0, BitVec.ofNat 5 (q + 4)] false = [(primaryPort cx, primaryTrack cx), (q, portTrack cx q)] := by
  have named : ([0, 1, 2, 3, 4].filterMap fun p =>
      if ([0, BitVec.ofNat 5 (q + 4)] : List Src).any fun n => n.toNat == p + 4 then some (p, portTrack cx p) else none) = [(q, portTrack cx q)] := by
    interval_cases q <;> rfl
  have other : ((q, portTrack cx q) == (primaryPort cx, primaryTrack cx)) = false := by simp [hne]
  simp only [firstInputs, if_pos hp, hw, named]
  simp [List.eraseDups_cons, other]

/-- A port's token among those that are named. -/
theorem find?_filterMap_key {α : Type} (f : Nat → Option α) (xs : List Nat) {q : Nat} (hq : q ∈ xs) :
    (xs.filterMap fun p => (f p).map fun k => (p, k)).find? (fun e => e.1 == q) = (f q).map fun k => (q, k) := by
  induction xs with
  | nil => simp at hq
  | cons p xs ih =>
    by_cases hp : p = q
    · subst hp
      cases hf : f p with
      | none =>
        rw [List.filterMap_cons_none (by rw [hf]; rfl)]
        by_cases hmem : p ∈ xs
        · rw [ih hmem, hf]
        · simp only [Option.map_none, List.find?_eq_none, List.mem_filterMap, Option.map_eq_some_iff]
          rintro e ⟨r, hr, k, -, rfl⟩ he
          obtain rfl : r = p := by simpa using he
          exact hmem hr
      | some k =>
        rw [List.filterMap_cons_some (b := (p, k)) (by rw [hf]; rfl)]
        simp
    · have hmem : q ∈ xs := (List.mem_cons.1 hq).resolve_left fun h => hp h.symm
      cases hf : f p with
      | none => rw [List.filterMap_cons_none (by rw [hf]; rfl), ih hmem]
      | some k =>
        rw [List.filterMap_cons_some (b := (p, k)) (by rw [hf]; rfl), List.find?_cons_of_neg (by simpa using hp), ih hmem]

theorem headTok_element {x : SiteId} (hx : siteKind x = 0) (s : State) (p t : Nat) :
    headTok s x p t = (chanOf s (chanKey x p t)).slots.head? := by
  rw [headTok, trackAt_element hx]

/-- What a first stage takes of a data token on its primary bundle and one on another port. -/
def takenInv (h : Token) (s : State) (x : SiteId) (cx : Ctx) : Inv :=
  let word (j : Nat) : Lanes :=
    if primaryPort cx < 5 && j ≤ primaryWidth cx then
      ((headTok s x (primaryPort cx) (primaryTrack cx + j)).map fun k => (asData k).lanes).getD []
    else []
  { kind := 0, seq := h.seq, eos := h.eos, valid := h.valid, p := [word 0, word 1, word 2, word 3] }

/-- The tokens of the ports that a word names. -/
def namedToken (cx : Ctx) (ps : List ((Nat × Nat) × Token)) (p : Nat) : Option Token := (ps.find? fun q => q.1 == (p, portTrack cx p)).map (·.2)

section Two
variable {s : State} {x : SiteId} {cx : Ctx} {q : Nat} (hp : primaryPort cx < 5) (hw : primaryWidth cx = 0) (hq : q < 5)
  (hne : q ≠ primaryPort cx)
include hp hw hq hne

/-- Without a token on one of its two inputs a first stage waits. -/
theorem takeFirst_two_waits (h : headTok s x (primaryPort cx) (primaryTrack cx) = none ∨ headTok s x q (portTrack cx q) = none) :
    takeFirst s x cx [0, BitVec.ofNat 5 (q + 4)] false = .wait := by
  have missing : ([(primaryPort cx, primaryTrack cx), (q, portTrack cx q)].mapM fun i => headTok s x i.1 i.2) = none := by
    rcases h with h | h
    · simp [h]
    · cases hp' : headTok s x (primaryPort cx) (primaryTrack cx) <;> simp [h, hp']
  simp only [takeFirst, firstInputs_two hp hw hq hne, missing]
  rfl

variable {h g : Token} (hh : headTok s x (primaryPort cx) (primaryTrack cx) = some h) (hg : headTok s x q (portTrack cx q) = some g)
  (kh : h.kind = 0) (kg : g.kind = 0)
include hh hg kh kg

/-- With a data token on each it takes both. -/
theorem takeFirst_two_takes : takeFirst s x cx [0, BitVec.ofNat 5 (q + 4)] false =
    .take (consumeTok (consumeTok s x (primaryPort cx) (primaryTrack cx)) x q (portTrack cx q)) (takenInv h s x cx)
      ([0, 1, 2, 3, 4].filterMap fun p =>
        (namedToken cx [((primaryPort cx, primaryTrack cx), h), ((q, portTrack cx q), g)] p).map fun k => (p, k)) := by
  have both : ([(primaryPort cx, primaryTrack cx), (q, portTrack cx q)].mapM fun i => headTok s x i.1 i.2) = some [h, g] := by simp [hh, hg]
  have dataH : asData h = h := if_neg (by rw [kh]; decide)
  have dataG : asData g = g := if_neg (by rw [kg]; decide)
  have config : ([h, g].any fun k => k.kind == 3) = false := by simp [kh, kg]
  have markers : ([h, g].all fun k => k.kind == 2) = false := by simp [kh]
  have marker : ([h, g].any fun k => k.kind == 2) = false := by simp [kh, kg]
  have hole : ([h, g].any fun k => k.kind == 6) = false := by simp [kh, kg]
  simp only [takeFirst, firstInputs_two hp hw hq hne, both, config, markers, marker, hole, List.isEmpty_cons, List.zip_cons_cons, dataH, dataG,
    Bool.false_eq_true, if_false, kh, takenInv, List.map_cons, List.map_nil, List.zip_nil_right]
  rfl

omit hq hne hg kg in
/-- Register 0 holds the primary token's lanes. -/
theorem srcLane_primary (u : State) (ports : List (Nat × Token)) (l : Nat) :
    srcLane u { site := x, cx := cx, inv := takenInv h s x cx, ports := ports } 0 l = laneOf h.lanes l := by
  have dataH : asData h = h := if_neg (by rw [kh]; decide)
  have word : (takenInv h s x cx).p[0]?.getD [] = h.lanes := by
    simp [takenInv, hp, hw, hh, dataH]
  exact congrArg (laneOf · l) word

omit hp hw hh hg kh kg in
/-- A port source reads the token of its port. -/
theorem srcLane_port (u : State) (v : Inv) (l : Nat) :
    srcLane u { site := x, cx := cx, inv := v, ports := [0, 1, 2, 3, 4].filterMap fun p =>
      (namedToken cx [((primaryPort cx, primaryTrack cx), h), ((q, portTrack cx q), g)] p).map fun k => (p, k) } (BitVec.ofNat 5 (q + 4)) l =
        laneOf g.lanes l := by
  have code : (BitVec.ofNat 5 (q + 4)).toNat = q + 4 := by simp; omega
  have other : ((primaryPort cx, primaryTrack cx) == (q, portTrack cx q)) = false := by simp [hne.symm]
  have named : namedToken cx [((primaryPort cx, primaryTrack cx), h), ((q, portTrack cx q), g)] q = some g := by
    simp [namedToken, other]
  have mem : q ∈ [0, 1, 2, 3, 4] := by interval_cases q <;> decide
  have found := find?_filterMap_key (namedToken cx [((primaryPort cx, primaryTrack cx), h), ((q, portTrack cx q), g)]) [0, 1, 2, 3, 4] mem
  rw [named] at found
  have low : ¬ q + 4 < 4 := by omega
  have high : q + 4 < 9 := by omega
  simp only [srcLane, code, if_neg low, if_pos high, Nat.add_sub_cancel, found, Option.map_some, Option.getD_some]

end Two

/-- The exact sum of two lanes, without saturation, is their sum. -/
theorem laneInt_add (n : Bool) (x y : W32) : laneInt false n (intOf n x + intOf n y) = x + y := by
  cases n <;> simp [laneInt, intOf, BitVec.ofInt_add]

theorem firesLanes_viadd (d : BitVec 2) (a b : Src) (sat n : Bool) : FiresLanes (.viadd d a b sat n) d [a, b] fun u e l =>
    laneInt sat n (intOf n (srcLane u e a l) + intOf n (srcLane u e b l)) :=
  firesLanes_laneStage fun _ _ => rfl

section Waits
variable {s : State} {cx : Ctx} {srcs : List Src} {body : State → StageEnv → State × Option Inv} (hok : siteOk s.focus = true)
  (hc : activeCtx s s.focus = some cx) (hf : mayFire s s.focus = true) (hk : s.focusStage = 1) (harc : arcOf s s.focus 1 = none)
include hok hc hf hk harc

/-- A first stage waits for its inputs and for a free slot on every output. -/
theorem fireStage_first_waits (h : outsFree s s.focus cx = false ∨ takeFirst s s.focus cx srcs false = .wait) :
    fireStage s srcs false body = .next s := by
  have one : s.focusStage.toNat = 1 := by rw [hk]; rfl
  cases hout : outsFree s s.focus cx with
  | false => simp only [fireStage, hok, hc, hf, one, harc, hout, Bool.not_true, Bool.false_eq_true, if_false, if_true, Option.isSome_none,
      Bool.not_false, Bool.or_true]
  | true =>
    have waits : takeFirst s s.focus cx srcs false = .wait := h.resolve_left (by rw [hout]; decide)
    simp only [fireStage, hok, hc, hf, one, harc, hout, waits, Bool.not_true, Bool.false_eq_true, if_false, if_true, Option.isSome_none,
      Bool.or_self]

end Waits

/-! ### Stages fire their word (R32 to R35) -/

/-- FIRST_STAGE_FIRING and STAGE_FIRING fire the word of the stage. -/
theorem firing_is_exec {s : State} {x : SiteId} {k : BitVec 3} {cx : Ctx} {i : Instr} (hok : siteOk x = true) (hc : activeCtx s x = some cx)
    (hi : decodeE ((cx.ewords[k.toNat - 1]?).getD 0).toNat = .ok i) :
    let u : State := { s with focus := x, focusStage := k.zeroExtend 5 }
    (k = 1 → siteKind x ≠ 2 → ∃ t, exec (.firstStageFiring x) s = .next t ∧ exec i u = .next t) ∧
    (2 ≤ k.toNat → k.toNat ≤ 6 → siteKind x = 0 → ∃ t, exec (.stageFiring x k) s = .next t ∧ exec i u = .next t) := by
  intro u
  obtain ⟨t, fires, runs⟩ := fireAt_stage hok hc hi
  refine ⟨fun hk hkind => ⟨t, ?_, runs⟩, fun h2 h6 hkind => ⟨t, ?_, runs⟩⟩
  · subst hk
    change execFirstStageFiring x s = _
    rw [execFirstStageFiring, hok, if_neg (by decide), if_neg hkind]
    exact fires
  · change execStageFiring x k s = _
    rw [execStageFiring, if_neg (by simp [hok, hkind]; omega)]
    exact fires

section Viadd
variable {s : State} {cx : Ctx} {q : Nat} (hok : siteOk s.focus = true) (hx : siteKind s.focus = 0) (hc : activeCtx s s.focus = some cx)
  (hf : mayFire s s.focus = true) (hk : s.focusStage = 1) (harc : arcOf s s.focus 1 = none) (hp : primaryPort cx < 5) (hw : primaryWidth cx = 0)
  (hq : q < 5) (hne : q ≠ primaryPort cx)
include hok hx hc hf hk harc hp hw hq hne

/-- VIADD of the primary word and another port waits for both tokens and for its outputs. -/
theorem viadd_waits (d : BitVec 2) (sat n : Bool)
    (h : (chanOf s (chanKey s.focus (primaryPort cx) (primaryTrack cx))).slots = [] ∨
      (chanOf s (chanKey s.focus q (portTrack cx q))).slots = [] ∨ outsFree s s.focus cx = false) :
    exec (.viadd d 0 (BitVec.ofNat 5 (q + 4)) sat n) s = .next s := by
  obtain ⟨body, run, -⟩ := firesLanes_viadd d 0 (BitVec.ofNat 5 (q + 4)) sat n s hx
  rw [run]
  refine fireStage_first_waits hok hc hf hk harc ?_
  rcases h with h | h | h
  · exact .inr (takeFirst_two_waits hp hw hq hne (.inl (by rw [headTok_element hx, h]; rfl)))
  · exact .inr (takeFirst_two_waits hp hw hq hne (.inr (by rw [headTok_element hx, h]; rfl)))
  · exact .inl h

/-- It takes one token of each and adds. -/
theorem viadd_takes (d : BitVec 2) (sat n : Bool) {h g : Token} {ps qs : List Token}
    (hh : (chanOf s (chanKey s.focus (primaryPort cx) (primaryTrack cx))).slots = h :: ps)
    (hg : (chanOf s (chanKey s.focus q (portTrack cx q))).slots = g :: qs) (hout : outsFree s s.focus cx = true) (kh : h.kind = 0) (kg : g.kind = 0) :
    let keyP := chanKey s.focus (primaryPort cx) (primaryTrack cx)
    let keyQ := chanKey s.focus q (portTrack cx q)
    ∃ t w, exec (.viadd d 0 (BitVec.ofNat 5 (q + 4)) sat n) s = .next t ∧ arcOf t s.focus 1 = some w ∧
      (w.kind, w.seq, w.eos, w.valid) = (h.kind, h.seq, h.eos, h.valid) ∧
      (chanOf t keyP).slots = ps ∧ (chanOf t keyP).freed = (chanOf s keyP).freed + 1 ∧
      (chanOf t keyQ).slots = qs ∧ (chanOf t keyQ).freed = (chanOf s keyQ).freed + 1 ∧
      (∀ k, k ≠ keyP → k ≠ keyQ → chanOf t k = chanOf s k) ∧ t.mem = s.mem ∧ t.cores = s.cores ∧
      (sat = false → ∀ l, l < 16 → h.valid.getLsbD l = true →
        laneOf ((w.p[d.toNat]?).getD []) l = laneOf h.lanes l + laneOf g.lanes l) := by
  intro keyP keyQ
  have headP : headTok s s.focus (primaryPort cx) (primaryTrack cx) = some h := by rw [headTok_element hx, hh]; rfl
  have headQ : headTok s s.focus q (portTrack cx q) = some g := by rw [headTok_element hx, hg]; rfl
  have takes := takeFirst_two_takes hp hw hq hne headP headQ kh kg
  obtain ⟨body, run, writes⟩ := firesLanes_viadd d 0 (BitVec.ofNat 5 (q + 4)) sat n s hx
  have computing : computes (takenInv h s s.focus cx) := ⟨by simp [takenInv], by simp [takenInv]⟩
  obtain ⟨t, w, fires, stands, head, chans, mem, cores, lanes⟩ := lanes_first hok hc hf hk harc hout takes computing writes
  have trackP : primaryTrack cx < 8 := Nat.lt_of_lt_of_le (Nat.mod_lt _ (by decide)) (by decide)
  have trackQ : portTrack cx q < 8 := Nat.lt_of_lt_of_le (Nat.mod_lt _ (by decide)) (by decide)
  have apart : keyP ≠ keyQ := fun h => hne ((chanKey_inj trackP trackQ (by omega) (by omega)).1 h).2.1.symm
  have after : ∀ k, chanOf t k = if keyQ = k then (if keyP = k then (chanOf s k).consumed else chanOf s k).consumed
      else if keyP = k then (chanOf s k).consumed else chanOf s k := by
    have consumed : ∀ (u : State) p tr k, chanOf (consumeTok u s.focus p tr) k =
        if chanKey s.focus p tr = k then (chanOf u k).consumed else chanOf u k := fun u p tr k => by
      rw [consumeTok_eq, trackAt_element hx, chanOf_modChan u _ k (Chan.consumed_ne _)]
      split
      · subst_vars; rfl
      · rfl
    intro k
    rw [chanOf, chans, ← chanOf, consumed, consumed]
  refine ⟨t, w, run.trans fires, stands, head.trans ?_, ?_, ?_, ?_, ?_, fun k hkP hkQ => ?_, mem, cores, fun hsat l hl hv => ?_⟩
  · simp [takenInv, kh]
  · simp [after, apart.symm, Chan.consumed, keyP, hh]
  · simp [after, apart.symm, Chan.consumed]
  · simp [after, apart, Chan.consumed, keyQ, hg]
  · simp [after, apart, Chan.consumed]
  · simp [after, hkP.symm, hkQ.symm]
  · rw [lanes l hl hv, srcLane_primary hp hw headP kh, srcLane_port hq hne, hsat, laneInt_add]

end Viadd

/-- Stages compute alike: what a word makes of the lanes of its sources in one stage it makes of them in every other. -/
theorem alike_of_lanes {word : BitVec 2 → Src → Src → Src → Instr × List Src}
    {f : (Nat → W32) → (Nat → W32) → (Nat → W32) → Nat → W32}
    (cong : ∀ la lb lc ma mb mc, (∀ l, l < 16 → la l = ma l ∧ lb l = mb l ∧ lc l = mc l) → ∀ l, l < 16 → f la lb lc l = f ma mb mc l)
    {d : BitVec 2} {a' b' c' : Src}
    (fires : FiresLanes (word d a' b' c').1 d (word d a' b' c').2 fun s e l => f (srcLane s e a') (srcLane s e b') (srcLane s e c') l)
    {r : State} {cy : Ctx} {m : Nat} {y : Inv} (hr : AtStage r cy m y) (hm : m < 6) (hy : computes y) {la lb lc : Nat → W32}
    (same : ∀ l, l < 16 → la l = srcLane r (stageEnv r cy y) a' l ∧ lb l = srcLane r (stageEnv r cy y) b' l ∧
      lc l = srcLane r (stageEnv r cy y) c' l) {z : Lanes} (hz : ∀ l, l < 16 → y.valid.getLsbD l = true → laneOf z l = f la lb lc l) :
    ∃ t w, exec (word d a' b' c').1 r = .next t ∧ arcOf t r.focus m = some w ∧
      ∀ l, l < 16 → y.valid.getLsbD l = true → laneOf z l = laneOf ((w.p[d.toNat]?).getD []) l := by
  obtain ⟨body, run, writes⟩ := fires r hr.element
  obtain ⟨t, w, go, stands, lanes⟩ := lanes_between (srcs := (word d a' b' c').2) hr hm hy writes
  refine ⟨t, w, run.trans go, stands, fun l hl hv => ?_⟩
  have cleared := Computed.setArc r r.focus (m - 1) none
  rw [hz l hl hv, lanes l hl hv, cong _ _ _ _ _ _ same l hl]
  exact (cong _ _ _ _ _ _ (fun l _ => ⟨cleared.srcLane _ _ l, cleared.srcLane _ _ l, cleared.srcLane _ _ l⟩) l hl).symm

/-- Settles O33: each firing by what its word makes of the invocation, lane by lane. -/
theorem stagesFireTheirWord : Obligations.StagesFireTheirWord := by
  unfold Obligations.StagesFireTheirWord
  refine ⟨fun s x k cx i hok hc hi => firing_is_exec hok hc hi, ?_, ?_, ?_⟩
  · intro s cx d q sat n hok hx hc hf hk harc hp hw hq hne x i keyP keyQ
    exact ⟨viadd_waits hok hx hc hf hk harc hp hw hq hne d sat n, fun h g ps qs hh hg hout kh kg =>
      viadd_takes hok hx hc hf hk harc hp hw hq hne d sat n hh hg hout kh kg⟩
  · intro s r cx cy m y d a b c a' b' c' e f p n q word hword hr hm hy alike same i
    obtain ⟨F, cong, fires⟩ := lanewise_of_mem e f p n q hword
    refine ⟨fun u v ports hok hx hc hf hk harc hout ht hv hal => ?_, fun v o z x t hv harc hkind hsels hwidth hpreg hfork hsteer hcntl hcarry hcopies
      hdest hfree hal => ?_⟩
    · obtain ⟨body, run, writes⟩ := fires d a b c s hx
      obtain ⟨t, w, go, stands, head, chans, mem, cores, lanes⟩ := lanes_first hok hc hf hk harc hout ht hv writes
      obtain ⟨valid, lanesAlike⟩ := hal
      exact ⟨t, w, run.trans go, stands, head, chans, mem, cores,
        alike_of_lanes cong (fires d a' b' c') hr hm hy lanesAlike fun l hl hl' => lanes l hl (valid ▸ hl')⟩
    · obtain ⟨body, run, writes⟩ := fires d a b c s hv.element
      have computing : computes v := ⟨by rw [hkind]; decide, by rw [hkind]; decide⟩
      obtain ⟨w, out, wis, lanes, computed, arcs⟩ := writes (setArc s s.focus 5 none) (stageEnv s cx v) computing
      have cleared := Computed.setArc s s.focus 5 none
      have kind : w.kind = 0 := by rw [wis]; exact hkind
      obtain ⟨u, go, gone, chans, mem, cores⟩ := fireStage_emits (srcs := (word d a b c).2) hv
        ⟨hsels, hwidth, hfork, hsteer, hcntl, hcarry, hcopies⟩ harc hdest hfree out kind computed arcs
      obtain ⟨valid, lanesAlike⟩ := hal
      refine ⟨u, outToken o w, run.trans go, gone, ?_, fun j hj => ?_, ?_, mem, cores, ?_⟩
      · rw [chans, if_pos rfl]
        rfl
      · rw [chans, if_neg (Ne.symm hj)]
      · rw [wis]
        simp [outToken, invHead, stageEnv, hkind]
      · refine alike_of_lanes cong (fires d a' b' c') hr hm hy lanesAlike fun l hl hl' => ?_
        rw [outToken, hpreg, lanes l hl (valid ▸ hl')]
        exact cong _ _ _ _ _ _ (fun l _ => ⟨cleared.srcLane _ _ l, cleared.srcLane _ _ l, cleared.srcLane _ _ l⟩) l hl
  · intro s cx v o y p t d hv hkind hsels hwidth hfork hsteer hcntl hcarry hcopies hdest i key
    have one : OneOutput cx o := ⟨hsels, hwidth, hfork, hsteer, hcntl, hcarry, hcopies⟩
    have code : (d.zeroExtend 5 : Src).toNat = d.toNat := by
      have := d.isLt
      simp
      omega
    have run := (exec_vnop_element hv.element d (d.zeroExtend 5)).trans (if_pos code)
    refine ⟨fun hfull => ⟨fun harc => ?_, fun harc => run.trans (fireStage_stays hv one harc hfull)⟩, fun hfree harc => ?_⟩
    · obtain ⟨u, go, rest⟩ := fireStage_held (srcs := [d.zeroExtend 5]) hv one harc hfull
      exact ⟨u, run.trans go, rest⟩
    · obtain ⟨u, go, gone, chans, mem, cores⟩ := fireStage_emits (srcs := [d.zeroExtend 5]) (body := fun s e => (s, some e.inv)) (w := v) hv one harc
        hdest hfree rfl hkind (Computed.refl _) fun _ => rfl
      refine ⟨u, run.trans go, gone, ?_, ?_, fun k hk => ?_, mem, cores⟩
      · rw [chans, if_pos rfl, outToken, invHead, hkind]
        rfl
      · rw [chans, if_pos rfl]
        rfl
      · rw [chans, if_neg (Ne.symm hk)]

end Sys2Proof.Machine

namespace Sys2Proof.Machine

/-! ### What memory traffic leaves (R149 to R156, R180 to R193, R217, R223 to R226, R244) -/

/-- v is what requests, write-backs, snoops and translations, a write of a device register among them, may make of u: every slice and
every record of a conflict table stays, and of a core all but its L1, its TLB and its queue RAM. -/
structure Served (u v : State) : Prop where
  slices : v.slices = u.slices
  cur : v.cur = u.cur
  conflicts : ∀ d, (dieOf v d).conflicts = (dieOf u d).conflicts
  core : ∀ k, coreOf v k = { coreOf u k with l1 := (coreOf v k).l1, tlb := (coreOf v k).tlb, queues := (coreOf v k).queues }

namespace Served
variable {u v w : State}

theorem refl (u : State) : Served u u := ⟨rfl, rfl, fun _ => rfl, fun _ => rfl⟩

theorem trans (h : Served u v) (g : Served v w) : Served u w :=
  ⟨g.slices.trans h.slices, g.cur.trans h.cur, fun d => (g.conflicts d).trans (h.conflicts d), fun k => by rw [g.core, h.core]⟩

/-- A change that reaches no slice, no core and no die. -/
theorem of_parts (slices : v.slices = u.slices) (cur : v.cur = u.cur) (cores : v.cores = u.cores) (dies : v.dies = u.dies) : Served u v :=
  ⟨slices, cur, fun d => by rw [dieOf, dies, dieOf], fun k => by rw [coreOf, cores, coreOf]⟩

theorem foldl {α : Type} {g : State → α → State} (hg : ∀ u a, Served u (g u a)) (xs : List α) (u : State) : Served u (xs.foldl g u) := by
  induction xs generalizing u with
  | nil => exact refl u
  | cons a xs ih => exact (hg u a).trans (ih _)

theorem setCore {c : CoreId} {x : Core} (h : x = { coreOf u c with l1 := x.l1, tlb := x.tlb, queues := x.queues }) :
    Served u (setCore u c x) := by
  refine ⟨rfl, rfl, fun d => rfl, fun k => ?_⟩
  rw [coreOf_setCore]
  split
  · subst_vars
    exact h
  · rfl

theorem setDie {d : DieId} {x : Die} (h : x.conflicts = (dieOf u d).conflicts) : Served u (setDie u d x) := by
  refine ⟨rfl, rfl, fun e => ?_, fun k => rfl⟩
  rw [dieOf_setDie]
  split
  · subst_vars
    exact h
  · rfl

theorem modDie {d : DieId} {f : Die → Die} (h : ∀ x, (f x).conflicts = x.conflicts) : Served u (modDie u d f) := setDie (h _)

theorem supTraps (h : Served u v) (k : CoreId) : (coreOf v k).supTraps = (coreOf u k).supTraps := by rw [h.core]

theorem ite {p : Prop} [Decidable p] (h : Served u v) (g : Served u w) : Served u (if p then v else w) := by
  split
  · exact h
  · exact g

end Served

section Traffic
variable (s : State)

theorem served_holdLink (c : Option CoreId) (d h : DieId) : Served s (holdLink s c d h) := by
  unfold holdLink
  split
  · exact .refl s
  · exact .of_parts rfl rfl rfl rfl

theorem served_reach (d : DieId) (l : Nat) : Served s (reach s d l) := by
  unfold reach
  split
  · exact (served_holdLink s none d _).trans (.of_parts rfl rfl rfl rfl)
  · split
    · exact .modDie fun _ => rfl
    · exact .refl s

theorem served_coreRequest (c : CoreId) (l : Nat) : Served s (coreRequest s c l) := by
  unfold coreRequest
  extract_lets d h
  have held : Served s (if cutOff s d h = true then s else holdLink s (some c) d h) := .ite (.refl s) (served_holdLink ..)
  exact held.trans (.ite (.refl _) (.of_parts rfl rfl rfl rfl))

theorem served_putLine (d : DieId) (l : Nat) (data : List Byte) (dirty : BitVec 64) : Served s (putLine s d l data dirty) := by
  unfold putLine
  split
  · exact .refl s
  · exact (served_reach s d l).trans (.of_parts rfl rfl rfl rfl)

theorem served_yieldLine (c : Option CoreId) (l : Nat) : Served s (yieldLine s c l) := by
  refine Served.foldl (fun u e => ?_) _ s
  dsimp only
  split
  · exact .refl u
  · split
    · exact .refl u
    · exact ((served_holdLink ..).trans (served_putLine ..)).trans (.setCore rfl)

theorem served_flushForwards (d h : DieId) : Served s (flushForwards s d h) := by
  unfold flushForwards
  extract_lets v all mine s1
  have taken : Served s s1 := .modDie fun _ => rfl
  exact taken.trans (.foldl (fun u _ => (served_yieldLine u ..).trans (served_putLine ..)) _ _)

theorem served_arriveFirst (d : DieId) (l : Nat) : Served s (arriveFirst s d l) := by
  unfold arriveFirst exchange
  split
  · exact (served_flushForwards ..).trans (served_flushForwards ..)
  · exact .refl s

theorem served_recallLine (c : Option CoreId) (l : Nat) : Served s (recallLine s c l) :=
  (Served.foldl (fun u _ => served_arriveFirst u _ _) _ s).trans (served_yieldLine ..)

theorem served_atHome (d : DieId) (l : Nat) : Served s (atHome s d l) :=
  ((served_reach s d l).trans (served_arriveFirst ..)).trans (served_recallLine ..)

theorem served_linesAtHome (d : DieId) (pa n : Nat) : Served s (linesAtHome s d pa n) := .foldl (fun u l => served_atHome u d l) _ s

theorem served_homeAtomic (d : DieId) (pa n : Nat) (f : Nat → Nat) : Served s (homeAtomic s d pa n f).1 :=
  (served_atHome s d _).trans (.of_parts rfl rfl rfl rfl)

theorem served_storeLine (c : CoreId) (l : Nat) (data : List Byte) (dirty : BitVec 64) : Served s (storeLine s c l data dirty) :=
  (served_recallLine s ..).trans (served_putLine ..)

theorem served_writeBack (c : CoreId) (l : L1Line) : Served s (writeBack s c l) := by
  unfold writeBack
  split
  · exact .refl s
  · extract_lets d h u
    have sent : Served s u := served_coreRequest s c l.line
    split
    · exact (sent.trans (served_arriveFirst ..)).trans (served_storeLine ..)
    · split
      · exact sent.trans (.modDie fun _ => rfl)
      · exact sent.trans (served_storeLine ..)

theorem served_l1Drop (c : CoreId) (l : Nat) : Served s (l1Drop s c l) := by
  unfold l1Drop
  split
  · exact .refl s
  · exact (served_writeBack s c _).trans (.setCore rfl)

theorem served_dropRegions (c : CoreId) (root : Word) (rs : List Region) (ok : Region → Bool) : Served s (dropRegions s c root rs ok) :=
  .foldl (fun u l => served_l1Drop u c l) _ s

theorem served_dieFill (dom : BitVec 4) (l : Nat) : Served s (dieFill s dom l) := by
  unfold dieFill
  split
  · extract_lets m share here way kept
    split_ifs <;> exact .of_parts rfl rfl rfl rfl
  · exact .refl s

/-! #### Device registers -/

theorem served_modNotify (d : DieId) (n : Nat) (f : Notify → Notify) : Served s (modNotify s d n f) := .modDie fun _ => rfl

theorem served_docentPut (d : DieId) (o : Nat) (v w1 mask : Word) : Served s (docentPut s d o v w1 mask) := by
  unfold docentPut
  extract_lets setDoc
  have doc : ∀ f, Served s (setDoc f) := fun f => .modDie fun _ => rfl
  clear_value setDoc
  exact .ite (.ite (doc _) (.refl s)) (.ite (.ite (doc _) (.refl s)) (.ite (doc _) (.ite (doc _) (.ite (served_modNotify ..) (.refl s)))))

theorem served_targetPut (d : DieId) (t : BitVec 3) : Served s (targetPut s d t) := by
  unfold targetPut
  extract_lets k
  exact .ite (.refl s) (.ite (.setDie rfl) (.ite (.setDie rfl) (.ite (.setDie rfl) (.setDie rfl))))

theorem served_powerPut (d : DieId) (o : Nat) (v w1 mask : Word) : Served s (powerPut s d o v w1 mask) := by
  have ceil : Served s (ceilPut s v) := .ite (.of_parts rfl rfl rfl rfl) (.refl s)
  have unmet : Served s (if bitOf 24 w1.toNat then { s with power := { s.power with unmet := false } } else s) :=
    .ite (.of_parts rfl rfl rfl rfl) (.refl s)
  unfold powerPut
  refine .ite ceil (.ite unmet (.ite ?_ (.ite (.modDie fun _ => ?_) (.refl s))))
  · extract_lets i s1
    have refused : Served s s1 := .ite (.modDie fun _ => rfl) (.refl s)
    exact .ite refused (refused.trans (served_targetPut ..))
  · split <;> rfl

/-- The definition is opened under a name of its own: a match on the unit at an address, met beside `devWrite` itself, would send the
kernel into the subtraction of 0xD000000000000 that `devUnit` begins with. -/
theorem served_devWrite (pa n v : Nat) (may : BitVec 64) : Served s (devWrite s pa n v may) := by
  obtain ⟨write, hw⟩ : ∃ f, f = @devWrite := ⟨_, rfl⟩
  rw [← hw]
  delta devWrite at hw
  subst hw
  beta_reduce
  extract_lets a sh mask put new
  generalize devUnit a = unit
  cases unit with
  | docent d o => exact served_docentPut ..
  | notify d p o => exact .ite (served_modNotify ..) (.refl s)
  | errLog d o => exact .modDie fun _ => rfl
  | power d o => exact served_powerPut ..
  | none => exact .refl s

theorem served_devWriteOpen (pa : Nat) (bs : List Byte) : Served s (devWriteOpen s pa bs) := by
  unfold devWriteOpen
  exact .foldl (fun u _ => served_devWrite u ..) _ s

theorem served_homeWrite (d : DieId) (pa : Nat) (bs : List Byte) : Served s (homeWrite s d pa bs) := by
  unfold homeWrite
  split
  · split
    · exact .refl s
    · exact served_devWriteOpen ..
  · split
    · exact .refl s
    · exact (served_linesAtHome s d pa _).trans (.of_parts rfl rfl rfl rfl)

/-! #### Cohort records and queues -/

theorem served_setMember (d : DieId) (cohort : BitVec 16) (j : Nat) (on : Bool) : Served s (setMember s d cohort j on) := by
  unfold setMember
  split
  · exact .refl s
  · exact served_homeWrite ..

theorem served_syncEarliest (d : DieId) (cohort : BitVec 16) : Served s (syncEarliest s d cohort) := by
  unfold syncEarliest
  split
  · exact served_homeWrite ..
  · exact .refl s

theorem served_queuesIn (cohort : BitVec 16) : Served s (queuesIn s cohort) :=
  .foldl (fun _ _ => (Served.setCore rfl).trans (served_homeWrite ..)) _ s

theorem served_queuesFollow (d : DieId) (cohort : BitVec 16) : Served s (queuesFollow d s cohort) := by
  unfold queuesFollow
  split
  · exact served_queuesIn ..
  · exact .refl s

end Traffic
end Sys2Proof.Machine

namespace Sys2Proof.Machine

/-! ### Slices after a change -/

/-- Slices that stay are found as before. -/
theorem findSlice_congr {s t : State} (h : t.slices = s.slices) (i : BitVec 32) : findSlice t i = findSlice s i := by
  rw [findSlice, h, findSlice]

/-- A slice found after one has been put in its place. -/
theorem findSlice_setSlice (s : State) (l : Slice) (i : BitVec 32) :
    findSlice (setSlice s l) i = (findSlice s i).map fun k => if k.id = l.id then l else k := by
  have same : ∀ k : Slice, ((if k.id = l.id then l else k).id == i) = (k.id == i) := fun k => by
    split
    · rename_i h
      rw [h]
    · rfl
  simp only [findSlice, setSlice, List.find?_map, Function.comp_def, same]

/-- The slice that has been put is found by its identifier. -/
theorem findSlice_setSlice_self {s : State} {l k : Slice} (h : findSlice s l.id = some k) : findSlice (setSlice s l) l.id = some l := by
  rw [findSlice_setSlice, h, Option.map_some, if_pos (id_of_findSlice h)]

/-- The others are found as before. -/
theorem findSlice_setSlice_ne (s : State) {l : Slice} {i : BitVec 32} (h : i ≠ l.id) : findSlice (setSlice s l) i = findSlice s i := by
  rw [findSlice_setSlice]
  cases hk : findSlice s i with
  | none => rfl
  | some k => rw [Option.map_some, if_neg (id_of_findSlice hk ▸ h)]

/-! ### The conflict table (R204 to R207, Table 6.5) -/

/-- Table 6.5. -/
theorem modesMeet_iff (a b : BitVec 3) : modesMeet a b = true ↔
    (a = 1 ∨ a = 2) ∨ (b = 1 ∨ b = 2) ∨ (a = 3 ∧ b ≠ 3) ∨ (a ≠ 3 ∧ b = 3) ∨ (a = 4 ∧ b = 4) := by
  revert a b
  decide

theorem meetRegions_iff (a b : Region) : meetRegions a b = true ↔ a.base < b.base + b.extent ∧ b.base < a.base + a.extent := by
  simp [meetRegions]

/-- A region and a record conflict (R205, R206): the address space, an address of theirs, the core for the window, and the modes. -/
theorem conflicts_iff (l : Slice) (r : Region) (c : ConflictRec) : conflicts l r c = true ↔
    l.regs.asid.toNat % 2 ^ 16 = c.asid.toNat % 2 ^ 16 ∧ r.base < c.region.base + c.region.extent ∧
      c.region.base < r.base + r.extent ∧ (r.base / 2 ^ 48 = 0xF0 → c.core = l.core) ∧ modesMeet r.mode c.region.mode = true := by
  have asid : (l.regs.asid.truncate 16 == (c.asid.truncate 16 : BitVec 16)) = true ↔
      l.regs.asid.toNat % 2 ^ 16 = c.asid.toNat % 2 ^ 16 := by
    rw [beq_iff_eq, ← BitVec.toNat_inj, BitVec.truncate_eq_setWidth, BitVec.truncate_eq_setWidth, BitVec.toNat_setWidth, BitVec.toNat_setWidth]
  have window : (!(r.base / 2 ^ 48 == 0xF0) || c.core == l.core) = true ↔ (r.base / 2 ^ 48 = 0xF0 → c.core = l.core) := by
    rw [Bool.or_eq_true, Bool.not_eq_true', beq_eq_false_iff_ne, beq_iff_eq, imp_iff_not_or]
  simp only [conflicts, Bool.and_eq_true, asid, window, meetRegions_iff]
  tauto

/-! ### Admission (R206, R208, R244) -/

section Admit
variable {s : State} {l : Slice}

/-- Admission makes the slice resident. -/
theorem findSlice_admitSlice {k : Slice} (h : findSlice s l.id = some k) :
    findSlice (admitSlice s l) l.id = some { l with state := .resident } := by
  unfold admitSlice
  extract_lets s1
  have dropped : findSlice (dropRegions s1 l.core l.regs.ptBase l.regions readable) l.id = some k :=
    (findSlice_congr (served_dropRegions ..).slices l.id).trans h
  exact (findSlice_congr (served_queuesIn ..).slices l.id).trans (findSlice_setSlice_self (l := { l with state := .resident }) dropped)

/-- Its records join the table of its die. -/
theorem conflicts_admitSlice : (dieOf (admitSlice s l) (dieOfCore l.core)).conflicts = (dieOf s (dieOfCore l.core)).conflicts ++
    l.regions.map fun r => { slice := l.id, asid := l.regs.asid, core := l.core, region := r } := by
  unfold admitSlice
  extract_lets s1
  rw [(served_queuesIn ..).conflicts]
  change (dieOf (dropRegions s1 ..) _).conflicts = _
  rw [(served_dropRegions ..).conflicts]
  exact congrArg Die.conflicts (dieOf_setDie_self ..)

end Admit

/-! ### Refusal (R94, R271) -/

theorem supTraps_freeBanks (s : State) (l : Slice) (k : CoreId) : (coreOf (freeBanks s l) k).supTraps = (coreOf s k).supTraps := by
  unfold freeBanks
  extract_lets c c1
  rw [coreOf_setCore]
  split
  · subst_vars
    split <;> rfl
  · rfl

/-- What a slice's retirement writes to its cohort's record. -/
theorem served_retired (s : State) (d : DieId) (cohort : BitVec 16) (j : Nat) : Served s (syncEarliest (setMember s d cohort j false) d cohort) :=
  (served_setMember ..).trans (served_syncEarliest ..)

/-- A retired slice has no actors and no notices; the slices are as they were but for it. -/
theorem slices_retireSlice (s : State) (l : Slice) : (retireSlice s l).slices =
    (modSlice s l.id fun k => { k with state := .retired, actors := [], notices := [] }).slices := by
  rw [retireSlice, leaveTable_others]
  exact (served_retired ..).slices

/-- Retirement leaves the traps that wait at each core. -/
theorem supTraps_retireSlice (s : State) (l : Slice) (k : CoreId) : (coreOf (retireSlice s l) k).supTraps = (coreOf s k).supTraps := by
  rw [retireSlice, leaveTable_others]
  exact ((served_retired ..).supTraps k).trans (supTraps_freeBanks s l k)

theorem findSlice_retireSlice {s : State} {l k : Slice} (h : findSlice s l.id = some k) :
    findSlice (retireSlice s l) l.id = some { k with state := .retired, actors := [], notices := [] } := by
  rw [findSlice_congr (slices_retireSlice s l), findSlice_modSlice s l.id l.id
    (f := fun k => { k with state := .retired, actors := [], notices := [] }) fun _ => rfl, h, Option.map_some, if_pos (id_of_findSlice h)]

/-! ### Placement and admission (R94, R204 to R207, R244) -/

section Placement
variable {s u : State} {i : BitVec 32} {l : Slice} (hl : findSlice s i = some l) (hc : l.state = .created)
include hl hc

theorem created_found : (findSlice s i).filter (fun l => l.state == .created) = some l := by
  rw [hl, Option.filter_some, if_pos (beq_iff_eq.2 hc)]

theorem exec_slicePlacement_ok {rs : List Region} {acts : List Actor} (hr : readPlacement s l = .ok (u, rs, acts)) :
    exec (.slicePlacement i) s = .next (admitOrWait u { l with regions := rs, actors := acts, sent := none }) := by
  simp only [exec, execSlicePlacement, created_found hl hc, hr]

theorem exec_slicePlacement_error {r : Refused} (hr : readPlacement s l = .error r) :
    exec (.slicePlacement i) s = .next ((refuseSlice s l { cause := 0x01, addr := r.addr, slice := i, inner := r.inner }).getD s) := by
  simp only [exec, execSlicePlacement, created_found hl hc, hr]

end Placement

theorem exec_slicePlacement_other {s : State} {i : BitVec 32} (h : ∀ l, findSlice s i = some l → l.state ≠ .created) :
    exec (.slicePlacement i) s = .next s := by
  have none : (findSlice s i).filter (fun l => l.state == .created) = none := by
    rw [Option.filter_eq_none_iff]
    exact fun l hl => by simpa using h l hl
  simp only [exec, execSlicePlacement, none]

/-- A trap for a cohort supervisor waits for a place (R271). -/
theorem sendSuper_full {s : State} {cohort : BitVec 16} {d : DieId} (t : SupTrap)
    (h : 16 ≤ (coreOf s (superCore s cohort d)).supTraps.length) : sendSuper s cohort d t = none := if_pos h

theorem sendSuper_room {s : State} {cohort : BitVec 16} {d : DieId} (t : SupTrap)
    (h : (coreOf s (superCore s cohort d)).supTraps.length < 16) : sendSuper s cohort d t =
      some (setCore s (superCore s cohort d) { coreOf s (superCore s cohort d) with
        supTraps := (coreOf s (superCore s cohort d)).supTraps ++ [t] }) := if_neg (Nat.not_le.2 h)

/-- The one slice that waits on a die is admitted if it may come (R206); the queues of its cohort follow (R244). -/
theorem exec_sliceAdmission_one {s : State} {die : DieId} {l : Slice} (h : waitingOn s die = [l]) :
    ∃ t, exec (.sliceAdmission die) s = .next t ∧ Served (if mayAdmit s l then admitSlice s l else s) t := by
  refine ⟨_, rfl, ?_⟩
  rw [h]
  exact .foldl (fun u cohort => served_queuesFollow u die cohort) _ _

theorem waits_of_waitingOn {s : State} {die : DieId} {l : Slice} (h : waitingOn s die = [l]) : l.state = .waiting ∧ dieOfCore l.core = die := by
  have mem : l ∈ waitingOn s die := h ▸ List.mem_singleton_self l
  simpa using (List.mem_filter.1 (List.mem_mergeSort.1 mem)).2

/-- When a slice may be admitted (R206, R207, R244, Table 6.5). -/
theorem mayAdmit_iff (s : State) (l : Slice) : mayAdmit s l = true ↔
    cohortState s (dieOfCore l.core) l.cohort = 0 ∧ queuesFit s l.cohort = true ∧
      (dieOf s (dieOfCore l.core)).conflicts.length + l.regions.length ≤ 1024 ∧
      ∀ r ∈ l.regions, ∀ c ∈ (dieOf s (dieOfCore l.core)).conflicts, some c.slice ≠ l.spawner → ¬ conflicts l r c = true := by
  simp only [mayAdmit, Bool.and_eq_true, beq_iff_eq, decide_eq_true_eq, List.all_eq_true, Bool.or_eq_true, Bool.not_eq_true',
    Bool.not_eq_true, ne_eq, or_iff_not_imp_left, and_assoc]

/-- Settles O20: what admission, waiting and refusal leave, read off the model's own steps; requests to the memory on the way (R244, R249)
leave the slices, the conflict tables and the traps that wait. -/
theorem slicesArePlacedAndAdmitted : Obligations.SlicesArePlacedAndAdmitted := by
  unfold Obligations.SlicesArePlacedAndAdmitted
  refine ⟨fun s u i l rs acts hl hc hr hu => ?_, fun s l => ?_, fun s i l r hl hc hr => ?_, fun s i h => exec_slicePlacement_other h,
    fun s die l hw hl => ?_⟩
  · obtain rfl : l.id = i := id_of_findSlice hu
    refine ⟨_, exec_slicePlacement_ok hl hc hr, fun h => ?_, fun h => ?_⟩
    · rw [admitOrWait, if_pos h]
      exact ⟨⟨_, findSlice_admitSlice (l := { l with regions := rs, actors := acts, sent := none }) hu, rfl, rfl, rfl⟩, conflicts_admitSlice⟩
    · rw [admitOrWait, if_neg (Bool.not_eq_true _ ▸ h)]
      exact ⟨⟨_, findSlice_setSlice_self
        (l := { l with regions := rs, actors := acts, sent := none, state := .waiting, order := u.serial }) hu, rfl, rfl, rfl⟩, rfl⟩
  · rw [mayAdmit_iff]
    simp only [conflicts_iff, modesMeet_iff, or_assoc]
  · obtain rfl : l.id = i := id_of_findSlice hl
    rw [exec_slicePlacement_error hl hc hr]
    refine ⟨fun full => ?_, fun room => ?_⟩
    · rw [refuseSlice, sendSuper_full _ full]
      rfl
    · rw [refuseSlice, sendSuper_room _ room, Option.map_some, Option.getD_some]
      refine ⟨_, { cause := 0x01, addr := r.addr, slice := l.id, inner := r.inner }, rfl, ⟨_, findSlice_retireSlice hl, rfl, rfl⟩, ?_, rfl, rfl, rfl⟩
      rw [supTraps_retireSlice, coreOf_setCore_self]
  · obtain ⟨waits, rfl⟩ := waits_of_waitingOn hw
    obtain ⟨t, run, served⟩ := exec_sliceAdmission_one hw
    refine ⟨t, run, fun h => ?_, fun h => ?_⟩
    · rw [if_neg (Bool.not_eq_true _ ▸ h)] at served
      exact ⟨⟨l, (findSlice_congr served.slices _).trans hl, waits⟩, served.conflicts _⟩
    · rw [if_pos h] at served
      exact ⟨⟨_, (findSlice_congr served.slices _).trans (findSlice_admitSlice hl), rfl, rfl⟩,
        (served.conflicts _).trans conflicts_admitSlice⟩

end Sys2Proof.Machine

namespace Sys2Proof.Machine

/-! ### Pending tables after a change (R107) -/

/-- The entry of a key that has been put. -/
theorem pendFind_pendPut_some (s : State) {v : Nat} {e : PendEntry} (h : e.key = v) : pendFind (pendPut s v (some e)) v = some e := by
  have mine : (e.key == v) = true := beq_iff_eq.2 h
  simp only [pendFind, pendPut, modDie, dieOf_setDie_self]
  split
  · rename_i any
    obtain ⟨x, hx, hxk⟩ := List.any_eq_true.1 any
    have same : ∀ x : PendEntry, ((if x.key = v then e else x).key == v) = (x.key == v) := fun x => by
      split
      · rename_i hk
        rw [mine, hk, beq_self_eq_true]
      · rfl
    rw [List.find?_map]
    simp only [Function.comp_def, same]
    obtain ⟨y, hy⟩ := Option.isSome_iff_exists.1 (List.find?_isSome (p := fun x : PendEntry => x.key == v) |>.2 ⟨x, hx, hxk⟩)
    rw [hy, Option.map_some, if_pos (beq_iff_eq.1 (List.find?_some (p := fun x : PendEntry => x.key == v) hy))]
  · rename_i any
    have none : (dieOf s (keyDie v)).pending.find? (fun x => x.key == v) = none :=
      List.find?_eq_none.2 fun x hx hk => any (List.any_eq_true.2 ⟨x, hx, hk⟩)
    rw [List.find?_append, none, Option.none_or, List.find?_singleton, if_pos mine]

/-- A key whose entry has been taken away. -/
theorem pendFind_pendPut_none (s : State) (v : Nat) : pendFind (pendPut s v none) v = none := by
  simp only [pendFind, pendPut, modDie, dieOf_setDie_self]
  refine List.find?_eq_none.2 fun x hx hk => ?_
  have other := (List.mem_filter.1 hx).2
  rw [bne, hk] at other
  exact Bool.false_ne_true other

@[simp] theorem pendPut_slices (s : State) (v : Nat) (e : Option PendEntry) : (pendPut s v e).slices = s.slices := rfl

/-! ### Releases (R107, R468 to R470) -/

/-- What one release of a key does to its table (R107): it leaves an entry at −1, takes one from an entry's balance, or brings it to zero
and makes the slice. -/
structure Released (x y : State) (v : Nat) : Prop where
  new : pendFind x v = none → (dieOf x (keyDie v)).pending.length < 4096 → ∃ p, pendFind y v = some p ∧ p.balance = -1 ∧ p.record = none
  early : ∀ p, pendFind x v = some p → p.record = none → ∃ q, pendFind y v = some q ∧ q.balance = p.balance - 1 ∧ q.record = none
  counts : ∀ p, pendFind x v = some p → p.record.isSome → p.balance ≠ 1 →
    ∃ q, pendFind y v = some q ∧ q.balance = p.balance - 1 ∧ q.record = p.record
  last : ∀ p r u, pendFind x v = some p → p.record = some r → p.balance = 1 → p.notices.length ≤ 8 →
    tryCreate x (keyDie p.key) p.place p.spawnDie (entryBirth { p with balance := 0 } r) = .ok u →
    pendFind y v = none ∧ y.slices = u.slices

section Release
variable {s : State} {v : Nat} {e : PendEntry} {r : List Byte}

theorem release_new (h : pendFind s v = none) (room : (dieOf s (keyDie v)).pending.length < 4096) :
    release s v [] = some (pendPut s v (some { key := v, balance := -1 })) := by
  simp only [release, h]
  exact if_neg (Nat.not_le.2 room)

theorem release_full (h : pendFind s v = none) (full : 4096 ≤ (dieOf s (keyDie v)).pending.length) : release s v [] = none := by
  simp only [release, h]
  exact if_pos full

variable (h : pendFind s v = some e) (hn : e.notices.length ≤ 8)
include h hn

theorem release_early (hr : e.record = none) : release s v [] = some (pendPut s v (some { e with balance := e.balance - 1 })) := by
  simp only [release, h, List.length_nil, Nat.add_zero, List.append_nil, if_neg (Nat.not_lt.2 hn), hr]

theorem release_counts (hr : e.record = some r) (hb : e.balance ≠ 1) :
    release s v [] = some (pendPut s v (some { e with balance := e.balance - 1 })) := by
  simp only [release, h, List.length_nil, Nat.add_zero, List.append_nil, if_neg (Nat.not_lt.2 hn), hr]
  exact if_neg fun zero => hb (by omega)

theorem release_last (hr : e.record = some r) (hb : e.balance = 1) :
    release s v [] = some (createEntry s { e with balance := 0 } (entryBirth { e with balance := 0 } r)).1 := by
  simp only [release, h, List.length_nil, Nat.add_zero, List.append_nil, if_neg (Nat.not_lt.2 hn), hr, hb]
  rfl

end Release

theorem createEntry_ok {s u : State} {e : PendEntry} {b : Birth} (h : tryCreate s (keyDie e.key) e.place e.spawnDie b = .ok u) :
    createEntry s e b = (pendPut u e.key none, 0) := by
  simp only [createEntry, h]

/-- Of a key without an entry only the first clause says something. -/
theorem released_of_none {s y : State} {v : Nat} (h : pendFind s v = none)
    (new : (dieOf s (keyDie v)).pending.length < 4096 → ∃ p, pendFind y v = some p ∧ p.balance = -1 ∧ p.record = none) : Released s y v := by
  have absent : ∀ {p}, pendFind s v ≠ some p := by simp [h]
  exact ⟨fun _ => new, fun _ hp => absurd hp absent, fun _ hp => absurd hp absent, fun _ _ _ hp => absurd hp absent⟩

/-- A release that finds an entry takes one from its balance. -/
theorem released_of_some {s y : State} {v : Nat} {e : PendEntry} (h : pendFind s v = some e)
    (counted : (∀ r, e.record = some r → e.balance ≠ 1) → ∃ q, pendFind y v = some q ∧ q.balance = e.balance - 1 ∧ q.record = e.record)
    (last : ∀ r u, e.record = some r → e.balance = 1 →
      tryCreate s (keyDie e.key) e.place e.spawnDie (entryBirth { e with balance := 0 } r) = .ok u →
      pendFind y v = none ∧ y.slices = u.slices) : Released s y v where
  new none := by simp [h] at none
  early p hp hr := by
    obtain rfl : e = p := Option.some.inj (h.symm.trans hp)
    exact hr ▸ counted fun r hs => absurd (hr.symm.trans hs) (by simp)
  counts p hp _ hb := by
    obtain rfl : e = p := Option.some.inj (h.symm.trans hp)
    exact counted fun _ _ => hb
  last p r u hp hr hb _ hu := by
    obtain rfl : e = p := Option.some.inj (h.symm.trans hp)
    exact last r u hr hb hu

/-- A release that finds its entry, or room for a new one, is counted. -/
theorem exists_release {s : State} {v : Nat} (hk : ∀ p, pendFind s v = some p → p.key = v ∧ p.notices.length ≤ 8)
    (room : pendFind s v = none → (dieOf s (keyDie v)).pending.length < 4096) : ∃ y, release s v [] = some y ∧ Released s y v := by
  cases h : pendFind s v with
  | none => exact ⟨_, release_new h (room h), released_of_none h fun _ => ⟨_, pendFind_pendPut_some s rfl, rfl, rfl⟩⟩
  | some e =>
    obtain ⟨key, notices⟩ := hk e h
    have counted : pendFind (pendPut s v (some { e with balance := e.balance - 1 })) v = some { e with balance := e.balance - 1 } :=
      pendFind_pendPut_some s key
    cases hr : e.record with
    | none => exact ⟨_, release_early h notices hr, released_of_some h (fun _ => ⟨_, counted, rfl, rfl⟩) fun r u hs => by simp [hr] at hs⟩
    | some r =>
      by_cases hb : e.balance = 1
      · refine ⟨_, release_last h notices hr hb, released_of_some h (fun hne => absurd hb (hne r hr)) fun r' u hs _ hu => ?_⟩
        obtain rfl : r = r' := Option.some.inj (hr.symm.trans hs)
        rw [createEntry_ok (e := { e with balance := 0 }) hu, ← key]
        exact ⟨pendFind_pendPut_none u e.key, rfl⟩
      · exact ⟨_, release_counts h notices hr hb, released_of_some h (fun _ => ⟨_, counted, rfl, rfl⟩) fun _ _ _ h1 => absurd h1 hb⟩

theorem exec_release {s : State} {die : DieId} {key : Word} (hd : keyDie key.toNat = die) (hl : (dieOf s die).lost = false) :
    exec (.release die key) s = .next ((release s key.toNat []).getD s) := by
  have reached : (keyDie key.toNat != die || (dieOf s die).lost) = false := by rw [hd, hl, bne_self_eq_false, Bool.false_or]
  simp only [exec, execRelease, reached]
  rfl

/-! ### NOTIFY (R468 to R470) -/

section Notify
variable {s : State} {d a b : Reg}

theorem exec_notify_bad (h : 4 ≤ (readReg s b).toNat ∨ (readReg s b).toNat ≠ (keyDie (readReg s a).toNat).toNat) :
    exec (.notify d a b) s = finish s d 4 := by
  have bad : (decide (4 ≤ (readReg s b).toNat) || (readReg s b).truncate 2 != keyDie (readReg s a).toNat) = true := by
    rw [Bool.or_eq_true, decide_eq_true_eq, bne_iff_ne, ne_eq, ← BitVec.toNat_inj, BitVec.truncate_eq_setWidth, BitVec.toNat_setWidth]
    by_contra! none
    obtain ⟨low, same⟩ := none
    omega
  simp only [exec, execNotify]
  exact if_pos bad

variable (hk : (readReg s b).toNat = (keyDie (readReg s a).toNat).toNat)
include hk

theorem notify_die : (readReg s b).truncate 2 = keyDie (readReg s a).toNat := by
  have := (keyDie (readReg s a).toNat).isLt
  rw [← BitVec.toNat_inj, BitVec.truncate_eq_setWidth, BitVec.toNat_setWidth]
  omega

theorem notify_good : ¬ ((decide (4 ≤ (readReg s b).toNat) || (readReg s b).truncate 2 != keyDie (readReg s a).toNat) = true) := by
  have := (keyDie (readReg s a).toNat).isLt
  rw [notify_die hk, bne_self_eq_false, Bool.or_false, decide_eq_true_eq]
  omega

theorem exec_notify_misaligned (h : (readReg s a).toNat % 64 ≠ 0) : exec (.notify d a b) s = trapHere s 0x03 (readReg s a) := by
  simp only [exec, execNotify]
  exact (if_neg (notify_good hk)).trans (if_pos h)

variable (h : (readReg s a).toNat % 64 = 0)
include h

theorem exec_notify_gone (hg : dieGone s (keyDie (readReg s a).toNat) = true ∨ cutOff s (curDie s) (keyDie (readReg s a).toNat) = true) :
    exec (.notify d a b) s = finish s d 5 := by
  have gone : (dieGone s ((readReg s b).truncate 2) || cutOff s (curDie s) ((readReg s b).truncate 2)) = true := by
    rw [notify_die hk, Bool.or_eq_true]
    exact hg
  simp only [exec, execNotify]
  exact (if_neg (notify_good hk)).trans ((if_neg (not_not.2 h)).trans (if_pos gone))

theorem exec_notify_sends (hd : dieGone s (keyDie (readReg s a).toNat) = false)
    (hc : cutOff s (curDie s) (keyDie (readReg s a).toNat) = false) {x y : State}
    (hx : x = cleanRegions s s.cur (curRoot s) (curRegions s) fun r => writable r && (r.action == 1 || r.action == 2))
    (hf : fenceDone x 6 = true) (hy : release x (readReg s a).toNat [] = some y) : exec (.notify d a b) s = finish y d 0 := by
  have there : ¬ ((dieGone s ((readReg s b).truncate 2) || cutOff s (curDie s) ((readReg s b).truncate 2)) = true) := by
    rw [notify_die hk, hd, hc]
    decide
  have waits : ¬ ((!fenceDone x 6) = true) := by rw [hf]; decide
  subst hx
  simp only [exec, execNotify]
  rw [if_neg (notify_good hk), if_neg (not_not.2 h), if_neg there, if_neg waits, hy]

end Notify

/-! ### SPAWN (R99, R105 to R107, R499) -/

/-- A load that has been allowed and meets no poison hands its bytes on (R281, R282). -/
theorem seqLoad_reads {s u : State} {va : Word} {n : Nat} {g : Target} (k : State → List Byte → Out) (hg : seqAccess s va n .load = .ok (u, g))
    (hp : privDevice s g n = false) (hh : targetHeld s g .load = false) (hb : targetPoisoned (settle u g .load) g .load = false) :
    seqLoad s va n false k = k (seqRead (settle u g .load) g n).1 (seqRead (settle u g .load) g n).2 := by
  simp only [seqLoad, hg, withTarget, hp, hh, hb, Bool.false_eq_true, if_false]

/-- The number of n little-endian bytes is below 2^(8n). -/
theorem leNat_lt (bs : List Byte) : leNat bs < 2 ^ (8 * bs.length) := by
  induction bs with
  | nil => simp [leNat]
  | cons b bs ih =>
    have := b.isLt
    rw [leNat, List.length_cons, Nat.mul_add, Nat.pow_add]
    omega

theorem recWord_lt (r : List Byte) (i : Nat) : recWord r i < 2 ^ 64 := by
  refine (leNat_lt _).trans_le (Nat.pow_le_pow_right (by decide) ?_)
  have := List.length_take_le 8 (r.drop (8 * i))
  omega

/-- What SPAWN sends of a good record: its bytes, where they are, the spawner and its address space, and what it has read (R105, R108). -/
def spawnBirth (s v : State) (va : Word) (r m e : List Byte) : Birth :=
  { record := r, addr := va, asid := (curCore s).regs.asid, ptBase := (curCore s).regs.ptBase, spawner := (curSlice v).map (·.id)
    sent := some (m, e) }

section Spawn
variable {s u : State} {d a b : Reg} {g : Target} (ha : (readReg s a).toNat % 64 = 0) (hg : seqAccess s (readReg s a) 64 .load = .ok (u, g))
  (hp : privDevice s g 64 = false) (hh : targetHeld s g .load = false) (hb : targetPoisoned (settle u g .load) g .load = false)
  {v : State} {r : List Byte} (hv : v = (seqRead (settle u g .load) g 64).1) (hr : r = (seqRead (settle u g .load) g 64).2)
include ha hg hp hh hb hv hr

theorem exec_spawn_bad (hbad : recordOk r = false ∨ 128 ≤ (readReg s b).toNat) : exec (.spawn d a b) s = finish v d 4 := by
  subst hv hr
  simp only [exec, execSpawn]
  rw [if_neg (not_not.2 ha), seqLoad_reads _ hg hp hh hb]
  refine if_pos ?_
  rcases hbad with bad | bad
  · rw [bad]
    rfl
  · rw [decide_eq_true bad, Bool.or_true]
    rfl

theorem exec_spawn_sends (hmode : (curCore s).sup = true ∨ (bitsAt 0 48 (recWord r 1) ≠ 0 ∧
      bitsAt 48 3 (recWord r 0) ≤ ((curSlice v).map (·.cls.toNat)).getD 0)) (hok : recordOk r = true) (hplace : (readReg s b).toNat < 128)
    {w : State} {m e : List Byte} {rs : List Region} (hw : spawnReads v r = .ok (w, m, e)) (hm : parseManifest 8 (recordsOf m) 0 [] = .ok rs)
    {x : State} (hx : x = cleanRegions w w.cur (curCore s).regs.ptBase rs readable) (hdone : writesDone x x.cur = true) :
    exec (.spawn d a b) s = finish (spawnRecord x (curDie x) (spawnBirth s v (readReg s a) r m e) (readReg s b)).1 d
      (BitVec.ofNat 64 (spawnRecord x (curDie x) (spawnBirth s v (readReg s a) r m e) (readReg s b)).2) := by
  have allowed : ¬ ((!recordOk r || decide (128 ≤ (readReg s b).toNat) || (!(curCore s).sup && (bitsAt 0 48 (recWord r 1) == 0 ||
      decide (((curSlice v).map (·.cls.toNat)).getD 0 < bitsAt 48 3 (recWord r 0))))) = true) := by
    rw [hok, decide_eq_false (Nat.not_le.2 hplace), Bool.not_true, Bool.false_or, Bool.false_or, Bool.and_eq_true, Bool.or_eq_true,
      Bool.not_eq_true', beq_iff_eq, decide_eq_true_eq]
    rintro ⟨sup, some⟩
    obtain h | ⟨budget, cls⟩ := hmode
    · exact Bool.false_ne_true (sup.symm.trans h)
    · omega
  subst hv hr hx
  simp only [exec, execSpawn]
  rw [if_neg (not_not.2 ha), seqLoad_reads _ hg hp hh hb, if_neg allowed]
  simp only [hw, hm]
  exact if_pos hdone

end Spawn

section Record
variable {x : State} {die : DieId} {b : Birth} {place va : Word} (haddr : b.addr = va) (hc : cutOff x die (keyDie va.toNat) = false)
include haddr hc

theorem spawnRecord_again {p : PendEntry} (h : pendFind x va.toNat = some p) (hs : p.record.isSome) : spawnRecord x die b place = (x, 4) := by
  subst haddr
  simp only [spawnRecord, hc, h, Bool.false_eq_true, if_false]
  exact if_pos hs

variable {r : List Byte} (hrec : b.record = r)
include hrec

/-- A record with releases to come enters the table of its key (R107). -/
theorem spawnRecord_waits (h : pendFind x va.toNat = none) (hdep : 0 < bitsAt 16 8 (recWord r 2))
    (room : (dieOf x (keyDie va.toNat)).pending.length < 4096) :
    spawnRecord x die b place = (pendPut x va.toNat (some
      { key := va.toNat, balance := (bitsAt 16 8 (recWord r 2) : Nat), record := some r, place := place, spawnDie := die
        asid := b.asid, ptBase := b.ptBase, spawner := b.spawner }), 1) := by
  subst haddr hrec
  simp only [spawnRecord, hc, h, Bool.false_eq_true, if_false]
  rw [if_neg (by omega)]
  exact if_neg (Nat.not_le.2 room)

theorem spawnRecord_full (h : pendFind x va.toNat = none) (hdep : 0 < bitsAt 16 8 (recWord r 2))
    (full : 4096 ≤ (dieOf x (keyDie va.toNat)).pending.length) : spawnRecord x die b place = (x, 3) := by
  subst haddr hrec
  simp only [spawnRecord, hc, h, Bool.false_eq_true, if_false]
  rw [if_neg (by omega)]
  exact if_pos full

/-- A record whose releases have begun to come joins their entry. -/
theorem spawnRecord_joins {p : PendEntry} (h : pendFind x va.toNat = some p) (hn : p.record = none)
    (hleft : 0 < p.balance + (bitsAt 16 8 (recWord r 2) : Nat)) :
    spawnRecord x die b place = (pendPut x va.toNat (some
      { key := va.toNat, balance := p.balance + (bitsAt 16 8 (recWord r 2) : Nat), record := some r, place := place
        spawnDie := die, asid := b.asid, ptBase := b.ptBase, spawner := b.spawner, notices := p.notices }), 1) := by
  subst haddr hrec
  simp only [spawnRecord, hc, h, hn, Bool.false_eq_true, if_false, Option.isSome_none]
  exact if_pos hleft

theorem spawnRecord_creates {y : State} (h : pendFind x va.toNat = none) (hdep : bitsAt 16 8 (recWord r 2) = 0)
    (hy : tryCreate x die place die b = .ok y) : spawnRecord x die b place = (y, 0) := by
  subst haddr hrec
  simp only [spawnRecord, hc, h, hdep, hy, Bool.false_eq_true, if_false, Nat.cast_zero, if_true]

end Record

/-- A creation on a core that PLACE names, with room in its cohort and a free slot (R105). -/
theorem tryCreate_ok {x : State} {src die : DieId} {place : Word} {b : Birth} {slot : BitVec 5} (hplace : place.toNat < 64)
    (hgone : dieGone x (dieOfCore (BitVec.ofNat 6 place.toNat)) = false) (hcut : cutOff x src (dieOfCore (BitVec.ofNat 6 place.toNat)) = false)
    (room : (x.slices.filter (memberOf (BitVec.ofNat 16 (bitsAt 0 16 (recWord b.record 2))))).length < 64)
    (hslot : freeSlot x (BitVec.ofNat 6 place.toNat) = some slot) :
    tryCreate x src place die b = .ok (createIn x b (BitVec.ofNat 6 place.toNat) slot) := by
  have core : placeCore x place die = BitVec.ofNat 6 place.toNat := by
    have named : bitOf 6 place.toNat = false := by
      rw [bitOf, Nat.div_eq_of_lt (show place.toNat < 2 ^ 6 from hplace)]
      rfl
    rw [placeCore, named, if_neg (by decide), BitVec.truncate_eq_setWidth, ← BitVec.toNat_inj, BitVec.toNat_setWidth, BitVec.toNat_ofNat]
  have cohort : (fieldOf 16 0 (recWord b.record 2) : BitVec 16) = BitVec.ofNat 16 (bitsAt 0 16 (recWord b.record 2)) := by
    rw [← BitVec.toNat_inj, fieldOf, bitsAt, BitVec.toNat_ofNat, BitVec.toNat_ofNat, Nat.mod_mod]
  simp only [tryCreate, core, cohort, hgone, hcut, hslot, Bool.or_self, Bool.false_eq_true, if_false]
  exact if_neg (Nat.not_le.2 room)

/-- The slice that a creation makes is there. -/
theorem newSlice_mem_createIn (x : State) (b : Birth) (k : CoreId) (slot : BitVec 5) :
    ∃ inc j, newSlice b k slot inc j x.serial ∈ (createIn x b k slot).slices := by
  unfold createIn
  extract_lets die cohort c inc j l s1 s2
  refine ⟨inc, j, ?_⟩
  rw [((served_setMember s2 ..).trans (served_syncEarliest ..)).slices]
  exact List.mem_append_right _ (List.mem_singleton_self l)

/-- The low half of a slice's identifier names its slot (R101). -/
theorem newSlice_id (b : Birth) (k : CoreId) (slot : BitVec 5) (inc : BitVec 16) (j n : Nat) :
    (newSlice b k slot inc j n).id.toNat % 2 ^ 16 = k.toNat * 32 + slot.toNat := by
  have := k.isLt
  have := slot.isLt
  simp only [newSlice, BitVec.toNat_ofNat]
  omega

/-- X1 of a new slice holds the address of its record (R96). -/
theorem newSlice_x1 (b : Birth) (k : CoreId) (slot : BitVec 5) (inc : BitVec 16) (j n : Nat) : (newSlice b k slot inc j n).regs.x[1] = b.addr :=
  Vector.getElem_setIfInBounds_self ..

/-- A record with nothing to wait for makes its slice at once (R105, R107). -/
theorem spawnRecord_makes {x : State} {die : DieId} {b : Birth} {place va : Word} {r : List Byte} {slot : BitVec 5}
    (haddr : b.addr = va) (hrec : b.record = r) (hc : cutOff x die (keyDie va.toNat) = false) (h : pendFind x va.toNat = none) (hdep : bitsAt 16 8 (recWord r 2) = 0)
    (hplace : place.toNat < 64) (hgone : dieGone x (dieOfCore (BitVec.ofNat 6 place.toNat)) = false)
    (hcut : cutOff x die (dieOfCore (BitVec.ofNat 6 place.toNat)) = false)
    (room : (x.slices.filter (memberOf (BitVec.ofNat 16 (bitsAt 0 16 (recWord r 2))))).length < 64)
    (hslot : freeSlot x (BitVec.ofNat 6 place.toNat) = some slot) :
    ∃ y l, spawnRecord x die b place = (y, 0) ∧ l ∈ y.slices ∧ l.core = BitVec.ofNat 6 place.toNat ∧ l.slot = slot ∧ l.state = .created ∧
      l.record = va ∧ l.wid.toNat = recWord r 5 ∧ l.regs.x[1] = va ∧
      l.id.toNat % 2 ^ 16 = (BitVec.ofNat 6 place.toNat).toNat * 32 + slot.toNat := by
  subst haddr hrec
  obtain ⟨inc, j, hl⟩ := newSlice_mem_createIn x b (BitVec.ofNat 6 place.toNat) slot
  exact ⟨_, _, spawnRecord_creates rfl hc rfl h hdep (tryCreate_ok hplace hgone hcut room hslot), hl, rfl, rfl, rfl, rfl,
    (BitVec.toNat_ofNat ..).trans (Nat.mod_eq_of_lt (recWord_lt _ 5)), newSlice_x1 .., newSlice_id ..⟩

/-- Settles O19: each status of SPAWN and NOTIFY from the equation of its case, and each release from the table's own law `exists_release`. -/
theorem spawnsAndReleases : Obligations.SpawnsAndReleases := by
  unfold Obligations.SpawnsAndReleases
  refine ⟨fun s d a b => ⟨fun h => ?_, fun ha u g hg hp hh hb => ⟨fun bad => exec_spawn_bad ha hg hp hh hb rfl rfl bad, ?_⟩⟩, ?_⟩
  · refine ⟨_, ?_, trapped_takeTrap ..⟩
    simp only [exec, execSpawn]
    exact if_pos h
  · intro hmode hok hplace w m e rs hw hm x key hdone hc dep
    obtain ⟨born, addr, record, sends⟩ : ∃ born : Birth, born.addr = readReg s a ∧ born.record = (seqRead (settle u g .load) g 64).2 ∧
        exec (.spawn d a b) s = finish (spawnRecord x (curDie x) born (readReg s b)).1 d
          (BitVec.ofNat 64 (spawnRecord x (curDie x) born (readReg s b)).2) :=
      ⟨_, rfl, rfl, exec_spawn_sends ha hg hp hh hb rfl rfl hmode hok hplace hw hm rfl hdone⟩
    have runs : ∀ {y : State} {n : Nat}, spawnRecord x (curDie x) born (readReg s b) = (y, n) →
        exec (.spawn d a b) s = .next (advance (writeReg y d (BitVec.ofNat 64 n))) := fun h => sends.trans (by rw [h]; rfl)
    refine ⟨fun h hdep room => ⟨_, _, runs (spawnRecord_waits addr hc record h hdep room), pendFind_pendPut_some x rfl, rfl, rfl, rfl, rfl⟩,
      fun h full hdep => runs (spawnRecord_full addr hc record h hdep full), fun p h hs => runs (spawnRecord_again addr hc h hs),
      fun p h hn hleft => ⟨_, _, runs (spawnRecord_joins addr hc record h hn hleft), pendFind_pendPut_some x rfl, rfl, rfl⟩, ?_⟩
    rintro h hdep _ slot hk rfl hgone hcut room hslot
    obtain ⟨y, l, hy, hl⟩ := spawnRecord_makes addr record hc h hdep hk hgone hcut room hslot
    exact ⟨y, l, runs hy, hl⟩
  intro released
  have states : ∀ {x y v}, Released x y v → released x y v := fun h => ⟨h.new, h.early, h.counts, h.last⟩
  refine ⟨fun s die key hd hl hk => ?_, fun s d a b => ⟨exec_notify_bad, fun hk => ⟨fun h => ?_, exec_notify_gone hk, ?_⟩⟩, fun s die h => ?_,
    fun s u die e r h hr hu => ?_⟩
  · rw [exec_release hd hl]
    refine ⟨_, rfl, states ?_⟩
    by_cases full : pendFind s key.toNat = none ∧ 4096 ≤ (dieOf s (keyDie key.toNat)).pending.length
    · rw [release_full full.1 full.2]
      exact released_of_none full.1 fun room => absurd room (Nat.not_lt.2 full.2)
    · obtain ⟨y, hy, h⟩ := exists_release hk fun none => Nat.not_le.1 fun h => full ⟨none, h⟩
      rw [hy]
      exact h
  · exact ⟨_, exec_notify_misaligned hk h, trapped_takeTrap ..⟩
  · intro h hd hc x hf hp room
    obtain ⟨y, hy, hrel⟩ := exists_release hp room
    exact ⟨y, exec_notify_sends hk h hd hc rfl hf hy, states hrel⟩
  · simp only [exec, execPendingRetry, h, List.foldl_nil]
  · simp only [exec, execPendingRetry, h, List.foldl_cons, List.foldl_nil, retryEntry, hr, hu]

end Sys2Proof.Machine

namespace Sys2Proof.Machine

/-! ### Cycles charged (R85, R239) -/

/-- What is charged reaches no repeat of the core. -/
theorem rep_charge (s : State) (m : Nat) : (curCore (charge s m)).rep = (curCore s).rep := by
  have spent : (curCore (spendCycles s m)).rep = (curCore s).rep := by
    simp only [spendCycles, curCore_modCore]
    rfl
  unfold charge
  extract_lets s1 n
  split
  · exact spent
  · split
    · exact spent
    · extract_lets left s2
      split
      · exact (congrArg Core.rep (curCore_modCore s2 _)).trans spent
      · exact spent

theorem rep_chargeTurn (s : State) : (curCore (chargeTurn s)).rep = (curCore s).rep := rep_charge ..

/-! ### The word at the pc (R79, R89, R364) -/

/-- A repeat goes on with the word REP has read. -/
theorem nextWord_repeat {s : State} {p : RepRun} {w : Nat} (hp : (curCore s).rep = some p) (hw : p.ins = some w) :
    nextWord s = .ok (s, repeatWord w p) := by
  simp only [nextWord, hp, hw]

theorem runWord_waits {s : State} (h : fetchWaits s (pcOf s).toNat = true) (hr : ((curCore s).rep.bind (·.ins)) = none) :
    runWord s = .next (joinWalk s (whoSeq s) (pcOf s).toNat false) := by
  simp only [runWord, h, hr, Option.isNone_none, Bool.and_self, if_true]

section Word
variable {s : State} (h : fetchWaits s (pcOf s).toNat = false ∨ ((curCore s).rep.bind (·.ins)).isSome)
include h

theorem word_there : (fetchWaits s (pcOf s).toNat && ((curCore s).rep.bind (·.ins)).isNone) = false := by
  rcases h with h | h
  · rw [h, Bool.false_and]
  · rw [Option.isNone_eq_false_iff.2 h, Bool.and_false]

theorem runWord_faults {f : Flt} (hw : nextWord s = .error f) : runWord s = trapHere s f.cause f.addr f.detail := by
  simp only [runWord, word_there h, hw, Bool.false_eq_true, if_false]
  rfl

theorem runWord_runs {r : State} {w : Nat} (hw : nextWord s = .ok (r, w)) {i : Instr} (hi : decodeS w = .ok i) : runWord s = exec i r := by
  simp only [runWord, word_there h, hw, hi, Bool.false_eq_true, if_false]

theorem runWord_illegal {r : State} {w : Nat} (hw : nextWord s = .ok (r, w)) {e : DecodeError} (he : decodeS w = .error e) :
    runWord s = trapHere r 0x01 0 := by
  simp only [runWord, word_there h, hw, he, Bool.false_eq_true, if_false]

end Word

/-! ### Turns -/

/-- A core with something to run and no cause to take runs the word at its pc, charged with what has passed and with its own cycles. -/
theorem seqTurn_runs {s : State} {k : CoreId} (hd : dieGone s (dieOfCore k) = false) (hr : (curCore (onCore s k)).running = true)
    (hx : (curCore (charge (onCore s k) 0)).sx = none) (hl : leavingMember (charge (onCore s k) 0) = none)
    (hb : boundaryTrap (charge (onCore s k) 0) = none) (hi : (curCore (charge (onCore s k) 0)).idle = false) :
    seqTurn k s = runWord (chargeTurn (charge (onCore s k) 0)) := by
  have there : dieGone (onCore s k) (curDie (onCore s k)) = false := hd
  simp only [seqTurn, there, hr, runTurn, hx, hl, hb, hi, Option.isSome_none, Bool.false_eq_true, if_false, if_true]

theorem stageTurn_runs {s : State} {x : SiteId} {k : BitVec 3} {cx : Ctx} {i : Instr} (hc : activeCtx s x = some cx)
    (hw : decodeE ((cx.ewords[if siteKind x = 2 then k.toNat else k.toNat - 1]?).getD 0).toNat = .ok i) :
    stageTurn x k s = exec i { s with focus := x, focusStage := k.zeroExtend 5 } := by
  simp only [stageTurn, wordAt, hc, Option.bind_some, roleOp, hw]

theorem switchTurn_runs {s : State} {x : SiteId} {n : BitVec 5} {cx : Ctx} {i : Instr} (hc : activeCtx s x = some cx)
    (h0 : (cx.sw[n.toNat]?).getD 0 ≠ 0) (hw : decodeSw ((cx.sw[n.toNat]?).getD 0).toNat = .ok i) :
    switchTurn x n s = exec i { s with focus := x, focusStage := n } := by
  have word : switchAt s x n = some i := by
    simp only [switchAt, hc, Option.bind_some, hw, Except.toOption, Option.filter_some, bne_iff_ne.2 h0, if_true]
  simp only [switchTurn, word]

/-! ### A step (R71, R181, R193, R287) -/

/-- A step is what the turn at the head of the agenda does, and the time it takes; a turn that must wait leaves what it asks for, and the
free choice takes its place. -/
structure Does (s : State) (o : Out) : Prop where
  goes : ∀ t, o = .next t → t.stall = false → step s = .next (timePasses t)
  waits : ∀ t, o = .next t → t.stall = true → step s = Outcome.thenNext (freeTurn (putAsks s t.asks)) timePasses

theorem does_head {s : State} {t : Turn} {ts : List Turn} (h : s.agenda = t :: ts) {o : Out} (ho : perform t { s with agenda := ts } = o) :
    Does s o := by
  have head : step s = Outcome.thenNext (orWait o s freeTurn) timePasses := by simp only [step, h, ho]
  refine ⟨fun u hu hs => ?_, fun u hu hs => ?_⟩
  · simp only [head, hu, orWait, hs, Bool.false_eq_true, if_false, Outcome.thenNext]
  · simp only [head, hu, orWait, hs, if_true]

theorem step_free {s : State} (h : s.agenda = []) : step s = Outcome.thenNext (freeTurn s) timePasses := by simp only [step, h]

/-- Settles O54: each kind of turn runs the word or the step it names, and `does_head` says what the step makes of the turn. -/
theorem aStepRunsTheDecodedWord : Obligations.AStepRunsTheDecodedWord := by
  unfold Obligations.AStepRunsTheDecodedWord
  intro s ts does
  have states : ∀ {o}, Does s o → does o := fun h => ⟨h.goes, h.waits⟩
  refine ⟨step_free, ?_, fun x k cx i h hc hw => states (does_head h (stageTurn_runs hc hw)),
    fun x n cx i h hc h0 hw => states (does_head h (switchTurn_runs hc h0 hw)), fun i h => states (does_head h rfl)⟩
  intro k h u0 u v hd hr hx hl hb hi
  have runs : ∀ {o}, runWord v = o → does o := fun ho =>
    states (does_head h ((seqTurn_runs (s := { s with agenda := ts }) hd hr hx hl hb hi).trans ho))
  exact ⟨fun p w hp hw => nextWord_repeat ((rep_chargeTurn u).trans hp) hw,
    fun hf hn => runs (runWord_waits hf hn), fun there => ⟨fun f hw => runs (runWord_faults there hw),
      fun r w hw => ⟨fun i hi => runs (runWord_runs there hw hi), fun e he => runs (runWord_illegal there hw he)⟩⟩⟩

end Sys2Proof.Machine

namespace Sys2Proof.Machine

/-! ### Accesses of engines as memory traffic (R189 to R193, R218) -/

section Engine
variable (s : State)

theorem served_putNear (w : Who) (e : TlbEntry) : Served s (putNear s w e) := by
  unfold putNear
  extract_lets put
  split
  · exact .setCore rfl
  · exact .of_parts rfl rfl rfl rfl
  · exact .refl s

theorem served_walkReads (w : Who) (va : Nat) : Served s (walkReads s w va) :=
  .foldl (fun u _ => (served_reach u ..).trans (served_dieFill ..)) _ s

theorem served_useLeaf (w : Who) (va : Nat) (f : Found) (write : Bool) : Served s (useLeaf s w va f write).1 := by
  unfold useLeaf
  extract_lets set leaf l s0 s1 e s2
  have walked : Served s s1 := by
    simp only [s1, s0]
    split
    · exact .ite (served_walkReads ..) ((served_walkReads ..).trans (served_homeAtomic ..))
    · exact .refl s
  have near : Served s s2 := walked.trans (served_putNear ..)
  exact .ite (near.trans (.modDie fun _ => rfl)) near

theorem served_walkClaim (s1 : State) (w : Who) (va : Nat) (write : Bool) : Served s1 (walkClaim s s1 w va write) :=
  .ite (.of_parts rfl rfl rfl rfl) (.refl s1)

theorem served_engClaim (s1 : State) (w : Who) (va : Nat) (t : Target) (write : Bool) : Served s1 (engClaim s s1 w va t write) := by
  unfold engClaim
  split
  · exact .ite (.of_parts rfl rfl rfl rfl) (.refl s1)
  · extract_lets h s2 s3
    have link : Served s1 s2 := .ite (.refl s1) (served_holdLink ..)
    have walk : Served s1 s3 := link.trans (served_walkClaim ..)
    exact .ite walk (walk.trans (.of_parts rfl rfl rfl rfl))

theorem served_engRequest (s1 : State) (w : Who) (va n : Nat) (t : Target) (write : Bool) : Served s1 (engRequest s s1 w va n t write) := by
  have claim := served_engClaim s s1 w va t write
  unfold engRequest
  split
  · exact claim
  · exact .ite claim (claim.trans (served_linesAtHome ..))

theorem served_homeRead (d : DieId) (pa n : Nat) : Served s (homeRead s d pa n).1 := by
  unfold homeRead
  split
  · exact .refl s
  · exact served_linesAtHome s d pa n

theorem served_countUe (d : DieId) (pa : Nat) : Served s (countUe s d pa) := .modDie fun _ => rfl

end Engine

theorem served_checkAccess {s s1 : State} {w : Who} {va n : Nat} {a : Acc} {hidden setD : Bool} {page : Leaf → Nat → Bool} {t : Target}
    (h : checkAccess s w va n a hidden page setD = .ok (s1, t)) : Served s s1 := by
  unfold checkAccess at h
  extract_lets here window at h
  split at h
  · cases h
  · split at h
    · cases h
    · split at h
      · cases h
        exact .refl s
      · split at h
        · cases h
        · dsimp only at h
          split_ifs at h
          cases h
          exact served_useLeaf ..

theorem served_engReadPiece {s s1 : State} {w : Who} {r : EngRule} {va n : Nat} {count : Bool} {bs : List Byte} {bad : Bool}
    (h : engReadPiece s w r va n count = .ok (s1, bs, bad)) : Served s s1 := by
  unfold engReadPiece at h
  split at h
  · cases h
  · rename_i s0 t hc
    extract_lets u pa bad u2 at h
    have counted : Served s u2 :=
      ((served_checkAccess hc).trans (served_engRequest ..)).trans (.ite (served_countUe ..) (.refl _))
    clear_value u2 bad
    split at h
    · cases h
      exact counted
    · cases h
      exact counted.trans (served_homeRead ..)

/-- Accesses one after another, up to the first fault. -/
theorem served_foldl_ok {α β : Type} {F : Except Flt (State × β) → α → Except Flt (State × β)} (fault : ∀ f a, F (.error f) a = .error f)
    (next : ∀ u b a v c, F (.ok (u, b)) a = .ok (v, c) → Served u v) (xs : List α) {u v : State} {b c : β}
    (h : xs.foldl F (.ok (u, b)) = .ok (v, c)) : Served u v := by
  have faults : ∀ (xs : List α) f, xs.foldl F (.error f) = .error f := fun xs f => by
    induction xs with
    | nil => rfl
    | cons a xs ih => rw [List.foldl_cons, fault, ih]
  induction xs generalizing u b with
  | nil =>
    cases h
    exact .refl _
  | cons a xs ih =>
    rw [List.foldl_cons] at h
    cases hn : F (.ok (u, b)) a with
    | error f =>
      rw [hn, faults] at h
      cases h
    | ok q =>
      rw [hn] at h
      exact (next _ _ _ _ _ hn).trans (ih h)

theorem served_engRead {s s1 : State} {w : Who} {r : EngRule} {va n : Nat} {count : Nat → Bool} {bs : List Byte} {bad : List Bool}
    (h : engRead s w r va n count = .ok (s1, bs, bad)) : Served s s1 := by
  refine served_foldl_ok (fun _ _ => rfl) (fun u b p v c hn => ?_) _ h
  dsimp only at hn
  split at hn
  · cases hn
  · cases hn
    exact served_engReadPiece ‹_›

/-! ### What work behind the firings leaves (R242, R260, R433) -/

/-- v is what work of the fabric and the engines may make of u: a slice stays but for being woken and for the ranges of its faults, and
no core begins to run. -/
structure Behind (u v : State) : Prop where
  cur : v.cur = u.cur
  slice : ∀ {i l}, findSlice u i = some l → ∃ m, findSlice v i = some m ∧ m = { l with woken := m.woken, faulted := m.faulted }
  rests : ∀ k, (coreOf u k).running = false → (coreOf v k).running = false

namespace Behind
variable {u v w : State}

theorem refl (u : State) : Behind u u := ⟨rfl, fun h => ⟨_, h, rfl⟩, fun _ h => h⟩

theorem trans (h : Behind u v) (g : Behind v w) : Behind u w where
  cur := g.cur.trans h.cur
  slice hl := by
    obtain ⟨m, hm, same⟩ := h.slice hl
    obtain ⟨n, hn, again⟩ := g.slice hm
    exact ⟨n, hn, by rw [again, same]⟩
  rests k hk := g.rests k (h.rests k hk)

theorem of_served (h : Served u v) : Behind u v :=
  ⟨h.cur, fun hl => ⟨_, (findSlice_congr h.slices _).trans hl, rfl⟩, fun k hk => by rw [h.core, hk]⟩

/-- A change that reaches no slice and no core. -/
theorem of_parts (slices : v.slices = u.slices) (cur : v.cur = u.cur) (cores : v.cores = u.cores) : Behind u v :=
  ⟨cur, fun hl => ⟨_, (findSlice_congr slices _).trans hl, rfl⟩, fun k hk => by rw [coreOf, cores]; exact hk⟩

/-- Slices are woken, or have ranges of faults added. -/
theorem wakes {f : Slice → Slice} (hf : ∀ l, f l = { l with woken := (f l).woken, faulted := (f l).faulted }) :
    Behind u { u with slices := u.slices.map f } where
  cur := rfl
  slice {i l} hl := by
    have same : ∀ k : Slice, ((f k).id == i) = (k.id == i) := fun k => by rw [hf]
    refine ⟨f l, ?_, hf l⟩
    rw [findSlice] at hl
    simp only [findSlice, List.find?_map, Function.comp_def, same, hl, Option.map_some]
  rests _ hk := hk

theorem modSlice {i : BitVec 32} {f : Slice → Slice} (hf : ∀ l, f l = { l with woken := (f l).woken, faulted := (f l).faulted }) :
    Behind u (modSlice u i f) := wakes fun l => by
  split
  · exact hf l
  · rfl

theorem setCore {c : CoreId} {x : Core} (h : (coreOf u c).running = false → x.running = false) : Behind u (setCore u c x) := by
  refine ⟨rfl, fun hl => ⟨_, hl, rfl⟩, fun k hk => ?_⟩
  rw [coreOf_setCore]
  split
  · subst_vars
    exact h hk
  · exact hk

theorem ite {p : Prop} [Decidable p] (h : Behind u v) (g : Behind u w) : Behind u (if p then v else w) := by
  split
  · exact h
  · exact g

theorem foldl {α : Type} {g : State → α → State} (hg : ∀ u a, Behind u (g u a)) (xs : List α) (u : State) : Behind u (xs.foldl g u) := by
  induction xs generalizing u with
  | nil => exact refl u
  | cons a xs ih => exact (hg u a).trans (ih _)

theorem cur_rests (h : Behind u v) (hu : (curCore u).running = false) : (curCore v).running = false := by
  rw [curCore, h.cur]
  exact h.rests _ hu

end Behind

section Work
variable (s : State)

theorem behind_wakeSync (pa : Nat) : Behind s (wakeSync s pa) := Behind.wakes fun l => by
  split
  · split <;> rfl
  · rfl

theorem behind_wakeRange (pa n : Nat) : Behind s (wakeRange s pa n) := Behind.foldl (fun u _ => behind_wakeSync u _) _ s

theorem behind_queueArrival (sync : Option Nat) (n : Nat) : Behind s (queueArrival s sync n) := by
  unfold queueArrival
  split
  · exact .refl s
  · exact .of_parts rfl rfl rfl

theorem behind_arrives (pa n m : Nat) (sync : Option Nat) : Behind s (queueArrival (wakeRange s pa n) sync m) :=
  (behind_wakeRange s pa n).trans (behind_queueArrival ..)

theorem behind_wakeRegion (o : SiteId) : Behind s (wakeRegion s o) := Behind.wakes fun l => by split <;> rfl

theorem behind_modSite (x : SiteId) (f : Site → Site) : Behind s (modSite s x f) := .of_parts rfl rfl rfl

theorem behind_countAt (x : SiteId) (k i n : Nat) : Behind s (countAt s x k i n) := .ite (.refl s) (behind_modSite ..)

/-! #### Records and counts -/

theorem behind_sendSuper {s v : State} {cohort : BitVec 16} {d : DieId} {t : SupTrap} (h : sendSuper s cohort d t = some v) : Behind s v := by
  unfold sendSuper at h
  dsimp only at h
  split_ifs at h
  cases h
  exact .setCore fun h => h

theorem behind_sendRecord {s v : State} {r : DeferRec} (h : sendRecord s r = some v) : Behind s v := by
  unfold sendRecord at h
  split at h
  · rename_i l hl
    dsimp only at h
    split_ifs at h
    cases h
    have put : Behind s (setCore s l.core { coreOf s l.core with deferred := (coreOf s l.core).deferred ++ [r] }) := .setCore fun h => h
    exact put.trans (.modSlice fun _ => rfl)
  · dsimp only at h
    exact behind_sendSuper h

theorem behind_postRecord (e : EngineId) (r : DeferRec) : Behind s (postRecord s e r) := by
  unfold postRecord
  split
  · exact behind_sendRecord ‹_›
  · exact .of_parts rfl rfl rfl

theorem behind_reportStats (pl : Placement) (counts : List Nat) (seq : BitVec 12) : Behind s (reportStats s pl counts seq) := by
  rw [reportStats_others]
  exact .of_parts rfl rfl rfl

theorem behind_closeTile (x : SiteId) (k : Nat) : Behind s (closeTile s x k) := by
  unfold closeTile
  exact behind_modSite ..

theorem behind_sendTile (pl : Placement) (x : SiteId) : Behind s (sendTile s pl x) := by
  unfold sendTile
  split
  · exact .refl s
  · dsimp only
    split
    · exact (behind_modSite ..).trans (behind_modSite ..)
    · exact behind_modSite ..

theorem behind_sendSums (pl : Placement) (x : SiteId) : Behind s (sendSums s pl x) := by
  unfold sendSums
  split
  · exact .refl s
  · dsimp only
    split
    · exact .refl s
    · split
      · exact (behind_modSite ..).trans (behind_modSite ..)
      · exact behind_modSite ..

theorem behind_engAtomic {s s1 : State} {w : Who} {r : EngRule} {va n old : Nat} {f : Nat → Nat} {sync : Option Nat} {bad : Bool}
    (h : engAtomic s w r va n f sync = .ok (s1, old, bad)) : Behind s s1 := by
  unfold engAtomic at h
  split at h
  · cases h
  · rename_i s0 t hc
    extract_lets u pa at h
    have asked : Behind s u := .of_served ((served_checkAccess hc).trans (served_engRequest ..))
    clear_value u pa
    split at h
    · obtain ⟨rfl, -⟩ := Prod.mk.inj (Except.ok.inj h)
      exact asked.trans (.of_served (served_countUe ..))
    · split at h
      · obtain ⟨rfl, -⟩ := Prod.mk.inj (Except.ok.inj h)
        refine asked.trans (.trans ?_ (behind_arrives ..))
        exact .of_parts rfl rfl rfl
      · obtain ⟨rfl, -⟩ := Prod.mk.inj (Except.ok.inj h)
        have added := asked.trans (.of_served (served_homeAtomic u w.die pa n f))
        split
        · exact added.trans (behind_arrives ..)
        · exact added

theorem behind_rootRecord (x : SiteId) (cx : Option Ctx) : Behind s (rootRecord s x cx) := by
  unfold rootRecord
  split
  · exact .refl s
  · extract_lets k kk va dead
    have died : ∀ u f, Behind s u → Behind s (dead u f) := by
      intro u f hu
      simp only [dead]
      split
      · exact .refl s
      · exact (hu.trans (behind_sendRecord ‹_›)).trans (behind_modSite ..)
    clear_value dead
    split
    · exact .refl s
    · split
      · exact .refl s
      · extract_lets
        split
        · exact died _ _ (.refl s)
        · split
          · exact .refl s
          · split
            · exact died _ _ (.refl s)
            · exact died _ _ (behind_engAtomic ‹_›)
            · exact (behind_engAtomic ‹_›).trans (behind_modSite ..)

theorem behind_flushStats (pl : Placement) : Behind s (flushStats s pl) := by
  unfold flushStats
  extract_lets xs s1 s2 s3
  have closed : Behind s s1 := .foldl (fun u x => .foldl (fun v (e : Nat × TileCount) => behind_closeTile v x e.1) _ u) _ s
  have tiles : Behind s1 s2 := .foldl (fun u x => .foldl (fun v _ => behind_sendTile v pl x) _ u) _ s1
  have sums : Behind s2 s3 := .foldl (fun u k => .foldl (fun v x => .ite (behind_sendSums v pl x) (.refl v)) _ u) _ s2
  have all := (closed.trans tiles).trans sums
  split
  · exact all
  · exact (all.trans (behind_rootRecord ..)).trans (.of_parts rfl rfl rfl)

/-! #### Elements and streams finish what they have accepted (R260) -/

theorem behind_bankGrant {s t : State} {x : SiteId} {b : BitVec 4} (h : execBankGrant x b s = .next t) : Behind s t := by
  unfold execBankGrant at h
  split at h
  · cases h
    exact .refl s
  · split at h
    · extract_lets pa old reads bad s1 at h
      have read : Behind s s1 := by
        simp only [s1]
        split
        · exact (Behind.of_served (served_countUe ..)).trans (behind_countAt ..)
        · split
          · refine .trans ?_ (behind_wakeSync ..)
            exact .of_parts rfl rfl rfl
          · exact .refl s
      split at h
      · cases h
        exact .refl s
      · cases h
        exact read.trans (.of_parts rfl rfl rfl)
    · cases h
      exact .refl s

theorem behind_finishElement (x : SiteId) : Behind s (finishElement s x) := by
  unfold finishElement
  refine .ite (.refl s) (.foldl (fun u _ => ?_) _ s)
  split
  · exact .refl u
  · split
    · exact behind_bankGrant ‹_›
    · exact .refl u

theorem served_kvRead {s s1 : State} {w : Who} {strict : Bool} {a : Acc} {va n : Nat} {bs : List Byte}
    (h : kvRead s w strict a va n = .ok (s1, bs)) : Served s s1 := by
  unfold kvRead at h
  split at h
  · cases h
  · split_ifs at h
    cases h
    exact served_engRead ‹_›

theorem served_scoreStart {s s1 : State} {w : Who} {c : Cmd} {head last p va : Nat} (h : scoreStart s w c head last p = .ok (s1, va)) :
    Served s s1 := by
  unfold scoreStart at h
  split at h
  · cases h
    exact .refl s
  · split at h
    · cases h
    · cases h
      exact served_kvRead ‹_›

theorem served_seekPage {w : Who} {strict : Bool} {p : Nat} : ∀ (f : Nat) {s s1 : State} {va : Nat} {q : Option (Nat × KvPage)},
    seekPage w strict p f s va = .ok (s1, q) → Served s s1 := by
  intro f
  induction f with
  | zero =>
    intro s s1 va q h
    cases h
    exact .of_parts rfl rfl rfl rfl
  | succ f ih =>
    intro s s1 va q h
    unfold seekPage at h
    split at h
    · cases h
      exact .refl s
    · split at h
      · cases h
      · rename_i u bs hr
        have read : Served s u := served_kvRead hr
        dsimp only at h
        split at h
        · cases h
          exact read
        · split at h
          · exact read.trans (ih h)
          · cases h
            exact read

theorem behind_scoreLane {s s1 : State} {t t1 : Stream} {p : Nat} {wt : W32} (h : scoreLane s t p wt = .ok (s1, t1)) : Behind s s1 := by
  unfold scoreLane at h
  extract_lets c w drop at h
  split at h
  · cases h
  · rename_i u ds hr
    have read : Served s u := served_kvRead hr
    split at h
    · cases h
    · rename_i u2 va hs
      have start : Served u u2 := by
        split at hs
        · cases hs
          exact .refl u
        · exact served_scoreStart hs
      split at h
      · cases h
      · cases h
        exact .of_served ((read.trans start).trans (served_seekPage _ ‹_›))
      · rename_i u3 page hd hk
        have found : Served s u3 := (read.trans start).trans (served_seekPage _ hk)
        split at h
        · cases h
          exact .of_served found
        · extract_lets a u4 at h
          have held : Served s u4 := found.trans (.ite (.of_parts rfl rfl rfl rfl) (.refl u3))
          split at h
          · cases h
          · cases h
          · cases h
            exact (Behind.of_served held).trans (behind_engAtomic ‹_›)

theorem behind_stopStream (t : Stream) (f : Flt) (n : Nat) : Behind s (stopStream s t f n) := by
  unfold stopStream
  extract_lets r s1 s2
  have posted : Behind s s1 := by
    refine .trans ?_ (behind_postRecord ..)
    exact .of_parts rfl rfl rfl
  have reported : Behind s1 s2 := by
    simp only [s2]
    split
    · exact behind_reportStats ..
    · exact .refl s1
  exact (posted.trans reported).trans (.modSlice fun _ => rfl)

theorem behind_finishLanes (ls : List (W32 × W32)) : ∀ (s : State) (t : Stream), Behind s (finishLanes s t ls) := by
  induction ls with
  | nil => exact fun s t => .of_parts rfl rfl rfl
  | cons l ls ih =>
    intro s t
    obtain ⟨p, wt⟩ := l
    rw [finishLanes]
    split
    · exact behind_stopStream ..
    · exact (behind_scoreLane ‹_›).trans (ih ..)

theorem behind_finishStreams (pl : Placement) : Behind s (finishStreams s pl) := by
  unfold finishStreams
  exact .foldl (fun u t => behind_finishLanes _ u t) _ s

theorem behind_finishOwned (i : BitVec 32) : Behind s (finishOwned s i) :=
  .foldl (fun _ pl => (Behind.foldl (fun v x => behind_finishElement v x) _ _).trans (behind_finishStreams _ pl)) _ s

/-! #### Regions are discarded, and a slice is killed (R242, R433) -/

theorem behind_endBound (pl : Placement) : Behind s (endBound s pl) := by
  unfold endBound
  extract_lets mine s1
  have reported : Behind s s1 := .ite (.foldl (fun u (t : Stream) => behind_reportStats u pl t.stats t.seq) _ s) (.refl s)
  refine reported.trans ?_
  unfold dropCommands
  exact .ite (.of_parts rfl rfl rfl) (.of_parts rfl rfl rfl)

theorem behind_discardPlacement (pl : Placement) : Behind s (discardPlacement s pl) := by
  unfold discardPlacement
  extract_lets s0 s' xs s1 mine
  have flushed : Behind s s' := (behind_endBound s pl).trans (.ite (behind_flushStats ..) (.refl _))
  have cleared : Behind s' s1 := .foldl (fun u x => behind_modSite u x _) _ s'
  refine .trans ?_ (behind_wakeRegion ..)
  exact (flushed.trans cleared).trans (.of_parts rfl rfl rfl)

theorem behind_dropFiring (l : Slice) : Behind s (dropFiring s l) := by
  unfold dropFiring
  refine .ite (.setCore fun h => ?_) (.refl s)
  split
  · exact h
  · rfl

end Work

/-- A killed slice retires; no core begins to run. -/
theorem killSlice_retires {s : State} {i : BitVec 32} {l : Slice} (h : findSlice s i = some l) (hl : l.state ≠ .retired)
    (hr : (curCore s).running = false) : ∃ m, findSlice (killSlice s i) i = some m ∧ m.state = .retiring ∧ m.killed = true ∧
      (curCore (killSlice s i)).running = false := by
  have live : ¬ ((!liveSlice l) = true) := by simpa [liveSlice] using hl
  simp only [killSlice, h, if_neg live]
  generalize killSlice.sliceRegsOf s l = regs
  have dropped := behind_dropFiring s l
  obtain ⟨m, hm, -⟩ := dropped.slice h
  have marked : findSlice (modSlice (dropFiring s l) i fun k =>
      { k with state := .retiring, killed := true, suspended := false, watch := none, regs := regs }) i =
      some { m with state := .retiring, killed := true, suspended := false, watch := none, regs := regs } := by
    rw [findSlice_modSlice (dropFiring s l) i i (f := fun k =>
      { k with state := .retiring, killed := true, suspended := false, watch := none, regs := regs }) fun _ => rfl, hm, Option.map_some,
      if_pos (id_of_findSlice hm)]
  have gone := fun u => (behind_finishOwned u i).trans (Behind.foldl (fun v pl => behind_discardPlacement v pl) _ _ : Behind _ (discardOwned _ i))
  obtain ⟨n, hn, same⟩ := (gone _).slice marked
  refine ⟨n, hn, by rw [same], by rw [same], ?_⟩
  refine (gone _).cur_rests ?_
  exact dropped.cur_rests hr

end Sys2Proof.Machine

namespace Sys2Proof.Machine

/-! ### A firing leaves its core (R97, R432, R433, R554) -/

/-- A slice with the registers its firing leaves it (R92, R97). -/
def withRegs (s : State) (l : Slice) : Slice := { l with regs := { (curCore s).regs with repState := keepRepeat (curCore s) } }

/-- The firing of slice l has left the core of s, which is free, and in t the slice is m; memory and the other slices stay. -/
structure Left (s : State) (l : Slice) (t : State) (m : Slice) : Prop where
  idle : (curCore t).running = false
  free : (curCore t).slice = none
  mem : t.mem = s.mem
  others : ∀ k, k ≠ l.id → findSlice t k = findSlice s k
  found : findSlice t l.id = some m
  x : m.regs.x = (curCore s).regs.x
  q : m.regs.q = (curCore s).regs.q
  id : m.id = l.id

section Leaving
variable {s : State} {l : Slice}

/-- The running slice is found by its identifier. -/
theorem findSlice_of_curSlice (h : curSlice s = some l) : findSlice s l.id = some l := by
  obtain ⟨i, -, hi⟩ := Option.bind_eq_some_iff.mp h
  rw [id_of_findSlice hi, hi]

theorem leaveFiring_running {f : Slice → Slice} (h : curSlice s = some l) :
    leaveFiring s f = setSlice (modCore s idleCore) (f (withRegs s l)) := by
  simp only [leaveFiring, h, withRegs]

theorem left_leaveFiring {f : Slice → Slice} (h : curSlice s = some l) (hid : (f (withRegs s l)).id = l.id)
    (hregs : (f (withRegs s l)).regs = (withRegs s l).regs) : Left s l (leaveFiring s f) (f (withRegs s l)) := by
  have core : curCore (leaveFiring s f) = idleCore (curCore s) := by
    rw [leaveFiring_running h]
    exact curCore_modCore ..
  refine ⟨by rw [core, idleCore], by rw [core, idleCore], by rw [leaveFiring_running h]; rfl, fun k hk => ?_, ?_,
    by rw [hregs, withRegs], by rw [hregs, withRegs], hid⟩
  · rw [leaveFiring_running h]
    exact findSlice_setSlice_ne _ (hid ▸ hk)
  · rw [leaveFiring_running h, ← hid]
    refine findSlice_setSlice_self (s := modCore s idleCore) (k := l) ?_
    rw [hid]
    exact (findSlice_of_curSlice h : findSlice s l.id = some l)

/-- END leaves the slice able to start an actor. -/
theorem left_endFiring (h : curSlice s = some l) :
    Left s l (endFiring s) { withRegs s l with suspended := false, watch := none, woken := false } := left_leaveFiring h rfl rfl

/-- A slice that begins to retire. -/
def retiring (m : Slice) : Slice := { m with state := .retiring, suspended := false, watch := none }

theorem left_beginRetire {t : State} {m : Slice} (h : Left s l t m) : Left s l (beginRetire t l.id) (retiring m) where
  idle := h.idle
  free := h.free
  mem := h.mem
  x := h.x
  q := h.q
  id := h.id
  others k hk := by
    have stays : findSlice (modSlice t l.id retiring) k = findSlice t k := by
      rw [findSlice_modSlice t l.id k (f := retiring) fun _ => rfl]
      cases hf : findSlice t k with
      | none => rfl
      | some n => rw [Option.map_some, if_neg (id_of_findSlice hf ▸ hk)]
    exact stays.trans (h.others k hk)
  found := by
    have marked : findSlice (modSlice t l.id retiring) l.id = some (retiring m) := by
      rw [findSlice_modSlice t l.id l.id (f := retiring) fun _ => rfl, h.found, Option.map_some, if_pos h.id]
    exact marked

/-- A completed instruction leaves the registers of the files and the slice. -/
theorem advance_keeps (s : State) : (curCore (advance s)).regs.x = (curCore s).regs.x ∧ (curCore (advance s)).regs.q = (curCore s).regs.q ∧
    (curCore (advance s)).regs.y = (curCore s).regs.y ∧ (curCore (advance s)).slice = (curCore s).slice := by
  rw [advance, curCore_modCore, advanceCore]
  split
  · exact ⟨rfl, rfl, rfl, rfl⟩
  · split
    · exact ⟨rfl, rfl, rfl, rfl⟩
    · exact ⟨rfl, rfl, rfl, rfl⟩

/-- YIELD leaves the slice suspended at the next word. -/
theorem left_suspendFiring_advance (h : curSlice s = some l) :
    Left s l (suspendFiring (advance s)) { withRegs (advance s) l with suspended := true, watch := none, woken := false } := by
  obtain ⟨hx, hq, -, -⟩ := advance_keeps s
  have running : curSlice (advance s) = some l := (curSlice_modCore s _ (advanceCore_slice _)).trans h
  have left : Left (advance s) l (suspendFiring (advance s)) { withRegs (advance s) l with suspended := true, watch := none, woken := false } :=
    left_leaveFiring running rfl rfl
  exact ⟨left.idle, left.free, left.mem, left.others, left.found, left.x.trans hx, left.q.trans hq, left.id⟩

variable (hcoh : (curCore s).trap.info.getLsbD 63 = false)
include hcoh

theorem cohTrap_clear : cohTrap (curCore s) = false := by rw [cohTrap, bitOf_toNat, hcoh]

theorem exec_endFiring : exec .endFiring s = .next (endFiring s) := by
  change execEndFiring s = _
  rw [execEndFiring, cohTrap_clear hcoh, Bool.and_false, if_neg Bool.false_ne_true]

theorem exec_endDone (h : curSlice s = some l) : exec .endDone s = .next (beginRetire (endFiring s) l.id) := by
  change execEndDone s = _
  rw [execEndDone, cohTrap_clear hcoh, Bool.and_false, if_neg Bool.false_ne_true, h]

theorem exec_endKill (hsup : (curCore s).sup = true) (h : curSlice s = some l) :
    exec .endKill s = .next (killSlice (endFiring s) l.id) := by
  change execEndKill s = _
  simp only [execEndKill, hsup, cohTrap_clear hcoh, h, Bool.not_true, Bool.false_eq_true, if_false]

omit hcoh

theorem exec_endKill_slice (hsup : (curCore s).sup = false) : exec .endKill s = trapHere s 0x0D 0 := by
  change execEndKill s = _
  simp only [execEndKill, hsup, Bool.not_false, if_true, trapPriv]

theorem exec_yield (hsup : (curCore s).sup = false) : exec .yield s = .next (suspendFiring (advance s)) := by
  change execYield s = _
  rw [execYield, hsup, if_neg Bool.false_ne_true]

theorem exec_yield_super (hsup : (curCore s).sup = true) : exec .yield s = trapHere s 0x01 0 := by
  change execYield s = _
  rw [execYield, hsup, if_pos rfl]

end Leaving

/-! ### The scheduler's key (R236) -/

theorem signed48_neg (v : Nat) : signed48 v < 0 ↔ 2 ^ 47 ≤ v % 2 ^ 48 := by
  rw [signed48]
  split <;> omega

theorem signed48_eq_zero (v : Nat) : signed48 v = 0 ↔ v % 2 ^ 48 = 0 := by
  rw [signed48]
  split <;> omega

section Key
variable (a b : Slice)

/-- The key compares the deadlines modulo 2^48, then the classes, then the slots. -/
theorem schedulesBefore_eq : schedulesBefore a b = (decide (2 ^ 47 ≤ (a.deadline - b.deadline).toNat) ||
    (decide (a.deadline = b.deadline) && (decide (b.cls.toNat < a.cls.toNat) || (a.cls == b.cls && decide (a.slot.toNat < b.slot.toNat))))) := by
  have gap : (a.deadline.toNat + 2 ^ 48 - b.deadline.toNat) % 2 ^ 48 = (a.deadline - b.deadline).toNat := by
    rw [BitVec.toNat_sub]
    congr 1
    omega
  have zero : a.deadline = b.deadline ↔ (a.deadline - b.deadline).toNat = 0 := by bv_omega
  simp only [schedulesBefore, signed48_neg, signed48_eq_zero, gap, zero]

/-- The place of a slice among those whose deadlines lie within 2^47 after a base. -/
def placeFrom (base : BitVec 48) (m : Slice) : Nat := ((m.deadline - base).toNat * 8 + (7 - m.cls.toNat)) * 32 + m.slot.toNat

variable {a b}

theorem schedulesBefore_iff_placeFrom {base : BitVec 48} (ha : (a.deadline - base).toNat < 2 ^ 47) (hb : (b.deadline - base).toNat < 2 ^ 47) :
    schedulesBefore a b = true ↔ placeFrom base a < placeFrom base b := by
  have gap : 2 ^ 47 ≤ (a.deadline - b.deadline).toNat ↔ (a.deadline - base).toNat < (b.deadline - base).toNat := by bv_omega
  have same : a.deadline = b.deadline ↔ (a.deadline - base).toNat = (b.deadline - base).toNat := by bv_omega
  have cls : a.cls = b.cls ↔ a.cls.toNat = b.cls.toNat := BitVec.toNat_inj.symm
  simp only [schedulesBefore_eq, Bool.or_eq_true, Bool.and_eq_true, decide_eq_true_eq, beq_iff_eq, gap, same, cls, placeFrom]
  have := a.cls.isLt
  have := b.cls.isLt
  have := a.slot.isLt
  have := b.slot.isLt
  omega

theorem schedulesBefore_of_slot (hd : a.deadline = b.deadline) (hc : a.cls = b.cls) :
    schedulesBefore a b = true ↔ a.slot.toNat < b.slot.toNat := by
  simp [schedulesBefore_eq, hd, hc]

theorem schedulesBefore_of_cls (hd : a.deadline = b.deadline) (hc : a.cls ≠ b.cls) :
    schedulesBefore a b = true ↔ b.cls.toNat < a.cls.toNat := by
  simp [schedulesBefore_eq, hd, hc]

theorem schedulesBefore_of_deadline (hd : a.deadline ≠ b.deadline) :
    schedulesBefore a b = true ↔ 2 ^ 47 ≤ (a.deadline - b.deadline).toNat := by
  simp [schedulesBefore_eq, hd]

end Key

/-! ### The candidate (R235, R236) -/

theorem bestSlice_eq_none {before : Slice → Slice → Bool} {xs : List Slice} : bestSlice before xs = none ↔ xs = [] := by
  cases xs with
  | nil => simp only [bestSlice]
  | cons x xs =>
    rw [bestSlice]
    split
    · simp
    · split <;> simp

/-- The best slice is of the list, and none comes before it where the comparison is by a number. -/
theorem bestSlice_least {before : Slice → Slice → Bool} {xs : List Slice} {l : Slice} (h : bestSlice before xs = some l) :
    l ∈ xs ∧ ∀ place : Slice → Nat, (∀ a ∈ xs, ∀ b ∈ xs, before a b = true ↔ place a < place b) → ∀ m ∈ xs, place l ≤ place m := by
  induction xs generalizing l with
  | nil => cases h
  | cons x xs ih =>
    rw [bestSlice] at h
    cases hb : bestSlice before xs with
    | none =>
      obtain rfl := bestSlice_eq_none.mp hb
      rw [hb] at h
      cases h
      simp
    | some k =>
      obtain ⟨hk, least⟩ := ih hb
      simp only [hb] at h
      split at h
      · rename_i hx
        cases h
        refine ⟨.tail _ hk, fun place by_place m hm => ?_⟩
        rcases List.mem_cons.mp hm with rfl | hm
        · exact ((by_place _ (.tail _ hk) _ (.head _)).mp hx).le
        · exact least place (fun a ha b hb => by_place a (.tail _ ha) b (.tail _ hb)) m hm
      · rename_i hx
        cases h
        refine ⟨.head _, fun place by_place m hm => ?_⟩
        have first : place _ ≤ place k := Nat.le_of_not_lt fun lt => hx ((by_place _ (.tail _ hk) _ (.head _)).mpr lt)
        rcases List.mem_cons.mp hm with rfl | hm
        · exact le_rfl
        · exact first.trans (least place (fun a ha b hb => by_place a (.tail _ ha) b (.tail _ hb)) m hm)

section Candidate
variable {s : State} {k : CoreId}

/-- A slice the scheduler of a core may choose. -/
theorem mem_ready {m : Slice} : m ∈ s.slices.filter (fun l => l.core == k && sliceReady (coreOf s k) l) ↔
    m ∈ s.slices ∧ m.core = k ∧ sliceReady (coreOf s k) m = true := by
  simp only [List.mem_filter, Bool.and_eq_true, beq_iff_eq]

theorem candidate_eq_none : candidate s k = none ↔ ∀ m, ¬ (m ∈ s.slices ∧ m.core = k ∧ sliceReady (coreOf s k) m = true) := by
  rw [candidate, bestSlice_eq_none, List.eq_nil_iff_forall_not_mem]
  simp only [mem_ready]

theorem candidate_ready {l : Slice} (h : candidate s k = some l) : l ∈ s.slices ∧ l.core = k ∧ sliceReady (coreOf s k) l = true :=
  mem_ready.mp (bestSlice_least h).1

/-- No ready slice comes before the candidate. -/
theorem candidate_first {l : Slice} (h : candidate s k = some l) {base : BitVec 48}
    (near : ∀ m, m ∈ s.slices ∧ m.core = k ∧ sliceReady (coreOf s k) m = true → (m.deadline - base).toNat < 2 ^ 47)
    {m : Slice} (hm : m ∈ s.slices ∧ m.core = k ∧ sliceReady (coreOf s k) m = true) : schedulesBefore m l = false := by
  have least := (bestSlice_least h).2 (placeFrom base)
    (fun a ha b hb => schedulesBefore_iff_placeFrom (near a (mem_ready.mp ha)) (near b (mem_ready.mp hb))) m (mem_ready.mpr hm)
  rw [← Bool.not_eq_true, schedulesBefore_iff_placeFrom (near m hm) (near l (candidate_ready h))]
  exact Nat.not_lt.mpr least

end Candidate
end Sys2Proof.Machine

namespace Sys2Proof.Machine

/-! ### The scheduler's step (R96, R97, R236, R239) -/

section Choice
variable {s : State} {k : CoreId}

/-- Nothing is pending for a core: no cause of R269, no record of its firing, and no trap on its list. -/
structure Quiet (c : Core) : Prop where
  lost : c.pendLost = []
  link : c.pendLink = []
  node : c.pendNode = []
  record : dueRecord c = none
  budget : c.pendBudget = false ∨ c.sup = true
  list : c.supTraps = []

theorem boundaryTrap_quiet (h : Quiet (curCore s)) : boundaryTrap s = none := by
  have spent : ((curCore s).pendBudget && !(curCore s).sup) = false := by
    rcases h.budget with hb | hb
    · rw [hb, Bool.false_and]
    · rw [hb, Bool.not_true, Bool.and_false]
  have async : takeAsync s = none := by
    simp only [takeAsync, h.lost, h.link, h.node, h.record, spent, Bool.false_eq_true, if_false]
  have list : takeSuper s = none := by simp only [takeSuper, h.list]
  simp only [boundaryTrap, async, list, ite_self]

theorem exec_choice_running (h : (coreOf s k).running = true) : exec (.sliceSchedulerChoice k) s = .next s := by
  change execSliceSchedulerChoice k s = _
  rw [execSliceSchedulerChoice, if_pos h]

theorem exec_choice_pending {u : State} (h : (coreOf s k).running = false) (hu : boundaryTrap (onCore s k) = some u) :
    exec (.sliceSchedulerChoice k) s = .next u := by
  change execSliceSchedulerChoice k s = _
  rw [execSliceSchedulerChoice, h, if_neg Bool.false_ne_true, hu]

theorem exec_choice_none (h : (coreOf s k).running = false) (hq : Quiet (coreOf s k)) (hc : candidate s k = none) :
    exec (.sliceSchedulerChoice k) s = .next s := by
  have none_pending : boundaryTrap (onCore s k) = none := boundaryTrap_quiet hq
  change execSliceSchedulerChoice k s = _
  simp only [execSliceSchedulerChoice, h, Bool.false_eq_true, if_false, none_pending, hc]

theorem exec_choice_some {l : Slice} (h : (coreOf s k).running = false) (hq : Quiet (coreOf s k)) (hc : candidate s k = some l) :
    exec (.sliceSchedulerChoice k) s = .next (startFiring s l) := by
  have none_pending : boundaryTrap (onCore s k) = none := boundaryTrap_quiet hq
  change execSliceSchedulerChoice k s = _
  simp only [execSliceSchedulerChoice, h, Bool.false_eq_true, if_false, none_pending, hc]

/-! #### The firing that starts -/

/-- Core k runs slice l with registers g; the other cores, memory, the channels and the dies are as in s. -/
structure Runs (s : State) (k : CoreId) (l : Slice) (g : SeqRegs) (t : State) : Prop where
  running : (coreOf t k).running = true
  slice_mode : (coreOf t k).sup = false
  slice : (coreOf t k).slice = some l.id
  regs : (coreOf t k).regs = g
  others : ∀ j, j ≠ k → coreOf t j = coreOf s j
  mem : t.mem = s.mem
  chans : t.chans = s.chans
  dies : t.dies = s.dies

variable {l : Slice} {g : SeqRegs}

theorem coreOf_runSlice (s : State) (l : Slice) (g : SeqRegs) (resumed : Bool) : coreOf (runSlice s l g resumed) l.core =
    { coreOf s l.core with
      busy := max (coreOf s l.core).busy (dieOf s (dieOfCore l.core)).cyc
      regs := g, sup := false, running := true, idle := false, handling := false, slice := some l.id, wait := none
      rep := if resumed && bitOf 63 g.repState.toNat then some (repOfWord g.repState) else none
      pendBudget := l.budget == some 0 } := coreOf_setCore_self ..

theorem runs_runSlice (hk : l.core = k) (resumed : Bool) : Runs s k l g (runSlice s l g resumed) := by
  subst hk
  have core := coreOf_runSlice s l g resumed
  refine ⟨by rw [core], by rw [core], by rw [core], by rw [core], fun j hj => ?_, rfl, rfl, rfl⟩
  have other : coreOf (runSlice s l g resumed) j = if l.core = j then _ else coreOf s j := coreOf_setCore ..
  rw [other, if_neg (Ne.symm hj)]

/-- A suspended firing goes on, within its repeat. -/
theorem runs_startFiring_suspended (hk : l.core = k) (hl : l.suspended = true) : Runs s k l l.regs (startFiring s l) ∧
    ((coreOf (startFiring s l) k).rep.isSome ↔ l.regs.repState.getLsbD 63 = true) := by
  have start : startFiring s l = runSlice s l l.regs true := by rw [startFiring, if_pos hl]
  rw [start]
  refine ⟨runs_runSlice hk true, ?_⟩
  rw [← hk, coreOf_runSlice, Bool.true_and, bitOf_toNat]
  cases l.regs.repState.getLsbD 63 with
  | true => simp
  | false => simp

/-- An actor starts at its entry, outside a repeat, and the slice's entry has fired. -/
theorem runs_startFiring_actor {a : Actor} (hk : l.core = k) (hl : l.suspended = false) (ha : readyActor (coreOf s k) l = some a) :
    Runs s k l (entryRegs l.regs a.entry) (startFiring s l) ∧ (coreOf (startFiring s l) k).rep = none ∧
    ∀ m, findSlice (startFiring s l) l.id = some m → m.entryFired = true := by
  have start : startFiring s l = modSlice (runSlice s l (entryRegs l.regs a.entry) false) l.id fun k => { k with entryFired := true } := by
    rw [startFiring, hl, if_neg Bool.false_ne_true, hk, ha]
  have run : Runs s k l (entryRegs l.regs a.entry) (runSlice s l (entryRegs l.regs a.entry) false) := runs_runSlice hk false
  rw [start]
  refine ⟨⟨run.running, run.slice_mode, run.slice, run.regs, run.others, run.mem, run.chans, run.dies⟩, ?_, fun m hm => ?_⟩
  · change (coreOf (runSlice s l (entryRegs l.regs a.entry) false) k).rep = none
    rw [← hk, coreOf_runSlice, Bool.false_and, if_neg Bool.false_ne_true]
  · rw [findSlice_modSlice _ l.id l.id (f := fun k => { k with entryFired := true }) fun _ => rfl] at hm
    obtain ⟨n, hn, rfl⟩ := Option.map_eq_some_iff.mp hm
    rw [if_pos (id_of_findSlice hn)]

end Choice

/-- Settles O7: END, YIELD, END.DONE and END.KILL leave the core free (`Left`, `killSlice_retires`), the scheduler's key is the number
`placeFrom` among near deadlines, and the chosen slice runs (`Runs`). -/
theorem firingsStartAndEnd : Obligations.FiringsStartAndEnd := by
  unfold Obligations.FiringsStartAndEnd
  refine ⟨fun s l hl hcoh => ?_, fun s k => ?_, fun a b => ⟨schedulesBefore_of_slot, schedulesBefore_of_cls, schedulesBefore_of_deadline⟩,
    fun s k => ⟨exec_choice_running, fun u => exec_choice_pending, ?_⟩⟩
  · have ended := left_endFiring hl
    have retires := left_beginRetire ended
    have yielded := left_suspendFiring_advance hl
    obtain ⟨-, -, same_y, -⟩ := advance_keeps s
    refine ⟨⟨_, _, exec_endFiring hcoh, ⟨ended.idle, ended.free, ended.mem, ended.others⟩, ended.found, ⟨ended.x, ended.q, ended.id⟩, rfl, rfl⟩,
      fun hs => ⟨_, _, exec_yield hs, ⟨yielded.idle, yielded.free, yielded.mem, yielded.others⟩, yielded.found,
        ⟨yielded.x, yielded.q, yielded.id⟩, rfl, rfl, same_y⟩,
      ⟨_, _, exec_endDone hcoh hl, ⟨retires.idle, retires.free, retires.mem, retires.others⟩, retires.found,
        ⟨retires.x, retires.q, retires.id⟩, rfl, rfl⟩,
      fun hs hr => ?_, exec_endKill_slice, exec_yield_super⟩
    obtain ⟨m, hm, retiring, killed, idle⟩ := killSlice_retires ended.found hr ended.idle
    exact ⟨_, m, exec_endKill hcoh hs hl, hm, retiring, killed, idle⟩
  · exact ⟨candidate_eq_none, fun l hl => ⟨candidate_ready hl, fun base near m hm => candidate_first hl near hm⟩⟩
  · intro c nothing
    have quiet : nothing → Quiet (coreOf s k) := fun ⟨_, lost, link, node, record, budget, list⟩ => ⟨lost, link, node, record, budget, list⟩
    refine ⟨fun hn hc => ?_, fun l hn hc => ?_⟩
    · exact exec_choice_none hn.1 (quiet hn) hc
    · have starts := exec_choice_some hn.1 (quiet hn) hc
      obtain ⟨-, core, -⟩ := candidate_ready hc
      refine ⟨fun hs => ?_, fun a hs ha => ?_⟩
      · obtain ⟨run, rep⟩ := runs_startFiring_suspended (s := s) core hs
        exact ⟨_, ⟨starts, run.running, run.slice_mode, run.slice, run.others, run.mem, run.chans, run.dies⟩, run.regs, rep⟩
      · obtain ⟨run, rep, fired⟩ := runs_startFiring_actor core hs ha
        refine ⟨_, ⟨starts, run.running, run.slice_mode, run.slice, run.others, run.mem, run.chans, run.dies⟩, by rw [run.regs, entryRegs],
          by rw [run.regs, entryRegs], by rw [run.regs, entryRegs], fun i => ?_, rep, fired⟩
        rw [run.regs, entryRegs]
        exact Vector.getElem_replicate ..

end Sys2Proof.Machine

namespace Sys2Proof.Machine

/-! ### Counts (R145, R147, R507) -/

theorem getElem?_sumCounts {m d : List Nat} {i : Nat} (hi : i < 7) :
    (sumCounts m d)[i]? = some (min 0xFFFFFFFF ((m[i]?).getD 0 + (d[i]?).getD 0)) := by simp [sumCounts, hi]

theorem getElem?_tokenCounts (k : Token) {i : Nat} (hi : i < 7) : (tokenCounts k)[i]? = some (laneOf k.lanes i).toNat := by
  simp [tokenCounts, laneOf, hi]

/-- A count that is not zero. -/
theorem any_count {ns : List Nat} (h : ∃ n ∈ ns, n ≠ 0) : ns.any (· ≠ 0) = true := by simpa using h

/-- A digit of a number of n digits below b. -/
theorem sum_digits_div_mod {b : Nat} {f : Nat → Nat} (hf : ∀ i, f i < b) {n i : Nat} (hi : i < n) :
    ((List.range n).map fun j => f j * b ^ j).sum / b ^ i % b = f i := by
  have hb : 0 < b := Nat.zero_lt_of_lt (hf 0)
  have digits : ∀ (f : Nat → Nat) (n : Nat),
      ((List.range (n + 1)).map fun j => f j * b ^ j).sum = f 0 + b * ((List.range n).map fun j => f (j + 1) * b ^ j).sum := by
    intro f n
    rw [List.range_succ_eq_map, List.map_cons, List.sum_cons, List.map_map, ← List.sum_map_mul_left]
    simp only [pow_zero, Nat.mul_one, Function.comp_def, Nat.succ_eq_add_one, pow_succ, Nat.mul_comm, Nat.mul_assoc]
  obtain ⟨n, rfl⟩ := Nat.exists_eq_add_of_lt hi
  induction i generalizing f n with
  | zero => rw [Nat.zero_add, digits, pow_zero, Nat.div_one, Nat.add_mul_mod_self_left, Nat.mod_eq_of_lt (hf 0)]
  | succ i ih =>
    rw [show i + 1 + n + 1 = (i + n + 1) + 1 by omega, digits, pow_succ, Nat.mul_comm (b ^ i), ← Nat.div_div_eq_div_mul,
      Nat.add_mul_div_left _ _ hb, Nat.div_eq_of_lt (hf 0), Nat.zero_add]
    exact ih (fun j => hf (j + 1)) n (by omega)

/-- Each lane of the record takes its total, saturating. -/
theorem recordPlus_lane (counts : List Nat) (old : Nat) {i : Nat} (hi : i < 7) :
    recordPlus counts old / 2 ^ (32 * i) % 2 ^ 32 = min 0xFFFFFFFF (old / 2 ^ (32 * i) % 2 ^ 32 + (counts[i]?).getD 0) := by
  have fits : ∀ j, min 0xFFFFFFFF (bitsAt (32 * j) 32 old + (counts[j]?).getD 0) < 2 ^ 32 := fun j =>
    Nat.lt_of_le_of_lt (Nat.min_le_left ..) (by decide)
  simp only [recordPlus, pow_mul]
  have lane := sum_digits_div_mod fits hi
  simp only [bitsAt, pow_mul] at lane
  exact lane

/-! ### Tiles end (R145, R146) -/

/-- An ended tile is no longer counted. -/
theorem stats_closeTile {s : State} {x : SiteId} (k : Nat) (h : keysFrom 0 (siteOf s x).stats = true) :
    tblGet (siteOf (closeTile s x k) x).stats k = none := by
  simp [closeTile, tblGet_tblErase h]

/-- The tiles that wait to be sent, after one has ended. -/
theorem tiles_closeTile (s : State) (x : SiteId) (k : Nat) : (siteOf (closeTile s x k) x).tiles =
    if (tileAt s x k).counts.any (· ≠ 0) then (siteOf s x).tiles ++ [statToken (tileAt s x k).counts (tileAt s x k).seq]
    else (siteOf s x).tiles := by
  simp [closeTile]

/-! ### Counts go to an adder (R146, R147, R506) -/

section Arrive
variable (s : State) {x y : SiteId} (f : Site → Site) (counts : List Nat) (h : y ≠ x)
include h

/-- Counts that leave a site arrive at another, whose adder lives. -/
theorem adder_arrive {i : Nat} (alive : (siteOf s y).statDead = false) (hi : i < 7) :
    (siteOf (addStats (modSite s x f) y counts) y).adder[i]? = some (min 0xFFFFFFFF (((siteOf s y).adder[i]?).getD 0 + (counts[i]?).getD 0)) := by
  simp [addStats, siteOf_modSite_ne s f h, alive, getElem?_sumCounts hi]

/-- The site that they leave holds what it has been given instead. -/
theorem site_leave : siteOf (addStats (modSite s x f) y counts) x = f (siteOf s x) := by
  rw [addStats, siteOf_modSite_ne _ _ h.symm, siteOf_modSite_self]

end Arrive

/-- The oldest statistics token of a converter below an adder. -/
theorem sendTile_eq {s : State} {pl : Placement} {x y : SiteId} {k : Token} {rest : List Token} (ht : (siteOf s x).tiles = k :: rest)
    (hr : (statRoot s pl).isSome) (hy : statTarget s pl (((ctxAt s x pl.ctx).map (·.scope)).getD 0) 3 = some y) :
    sendTile s pl x = addStats (modSite s x fun q => { q with tiles := rest }) y (tokenCounts k) := by
  obtain ⟨r, hr⟩ := Option.isSome_iff_exists.mp hr
  simp only [sendTile, ht, hr, hy, Option.bind_some]

/-- The sums of an adder below another. -/
theorem sendSums_eq {s : State} {pl : Placement} {x y : SiteId} {cx : Ctx} (hc : ctxAt s x pl.ctx = some cx) (hs : statOf cx = some false)
    (hn : ∃ n ∈ (siteOf s x).adder, n ≠ 0) (hy : statTarget s pl cx.scope (innerLevel cx.scope - 1) = some y) :
    sendSums s pl x = addStats (modSite s x fun q => { q with adder := [] }) y (siteOf s x).adder := by
  simp only [sendSums, hc, hs, any_count hn, hy, ne_eq, not_true_eq_false, decide_false, Bool.not_true, Bool.or_self, Bool.false_eq_true, if_false]

theorem exec_stat {s : State} (hx : siteOk s.focus = true) (r : Bool) :
    exec (.stat r) s = .next (if r then statRootUpdate s s.focus else statAdderSend s s.focus) := by
  change execStat r s = _
  rw [execStat, hx]
  cases r <;> rfl

/-! ### The root's record (R147, R507) -/

section Root
variable {s : State} {x : SiteId} {cx : Ctx} {l : Slice} (hc : activeCtx s x = some cx) (hs : statOf cx = some true)
  (hn : ∃ n ∈ (siteOf s x).adder, n ≠ 0) (hd : (siteOf s x).statDead = false) (hl : findSlice s cx.owner = some l)
include hc hs hn hd hl

/-- The totals are in the record. -/
theorem statRootUpdate_writes {u : State} {old : Nat} (va : Nat)
    (hva : va = ((cx.ks[0]?).getD 0).toNat + ((cx.ks[1]?).getD 0).toNat % 2 ^ 24 * 2 ^ 32)
    (ha : va % 64 = 0) (hb : backingHeld s (whoSlice s l (siteDie x)) none va 64 = false)
    (hw : engAtomic s (whoSlice s l (siteDie x)) { acc := .engWrite, hidden := true, fmt := plainFmt } va 64
      (recordPlus (siteOf s x).adder) = .ok (u, old, false)) :
    statRootUpdate s x = modSite u x fun q => { q with adder := [] } := by
  simp only [statRootUpdate, rootRecord, hc, ← hva, hs, any_count hn, hd, hl, ha, hb, hw, ne_eq, not_true_eq_false, decide_false, Bool.not_true,
    Bool.or_self, Bool.false_eq_true, if_false]

/-- A misaligned record kills the root. -/
theorem statRootUpdate_dies {v : State} (va : Nat)
    (hva : va = ((cx.ks[0]?).getD 0).toNat + ((cx.ks[1]?).getD 0).toNat % 2 ^ 24 * 2 ^ 32) (ha : va % 64 ≠ 0)
    (hv : sendRecord s (nodeRecord 1 cx.owner [(cx.ks[0]?).getD 0, (cx.ks[1]?).getD 0] 0
      { cause := 0x03, addr := BitVec.ofNat 64 va }) = some v) :
    statRootUpdate s x = modSite v x fun q => { q with adder := [], statDead := true } := by
  simp only [statRootUpdate, rootRecord, hc, ← hva, hs, any_count hn, hd, hl, ha, hv, ne_eq, not_true_eq_false, not_false_eq_true, decide_false,
    Bool.not_true, Bool.or_self, Bool.false_eq_true, if_false, if_true]

end Root

/-! ### Statistics reach the record (R145 to R148, R506, R507) -/

theorem exec_statTokenSend {s : State} {x : SiteId} {pl : Placement} (ha : activeAt s x = some pl) :
    exec (.statTokenSend x) s = .next (if (siteOf s x).frozen || !statSlot s x then s else sendTile s pl x) := by
  change execStatTokenSend x s = _
  rw [execStatTokenSend, ha]

theorem exec_statAdderSend (s : State) (x : SiteId) : exec (.statAdderSend x) s = .next (statAdderSend s x) := rfl

theorem exec_statRootUpdate (s : State) (x : SiteId) : exec (.statRootUpdate x) s = .next (statRootUpdate s x) := rfl

/-- Settles O37: the state that each step of the network makes, and the digits of the record. -/
theorem statisticsFlowToTheRoot : Obligations.StatisticsFlowToTheRoot := by
  unfold Obligations.StatisticsFlowToTheRoot
  refine ⟨?_, ?_, ?_, ?_, fun counts old i hi => recordPlus_lane counts old hi⟩
  · intro s x k hk c t
    have tiles := tiles_closeTile s x k
    refine ⟨stats_closeTile k hk, fun zero => ?_, fun counted => ⟨statToken c.counts c.seq, ?_, rfl, rfl, rfl, rfl, fun l hl => ?_⟩⟩
    · exact tiles.trans (if_neg (by simpa [c] using zero))
    · exact tiles.trans (if_pos (any_count counted))
    · exact laneOf_laneList (f := fun l => BitVec.ofNat 32 ((c.counts[l]?).getD 0)) (by omega)
  · intro s x y pl k rest ht ha hr hy hne alive
    rw [exec_statTokenSend ha, sendTile_eq ht hr hy]
    refine ⟨fun thawed slot => ⟨_, by rw [thawed, slot, Bool.not_true, Bool.or_self, if_neg Bool.false_ne_true], ?_, fun i hi => ?_⟩,
      fun waits => ?_⟩
    · rw [site_leave s _ _ hne]
    · rw [adder_arrive s _ _ hne alive hi, getElem?_tokenCounts k hi]
      rfl
    · rw [if_pos (by simpa using waits)]
  · intro s x y pl cx hx ha hc hs hn slot hy hne alive
    have sends : statAdderSend s x = addStats (modSite s x fun q => { q with adder := [] }) y (siteOf s x).adder := by
      simp only [statAdderSend, ha, slot, if_true, sendSums_eq hc hs hn hy]
    refine ⟨_, exec_statAdderSend s x, ?_, fun focus => by subst focus; exact exec_stat hx false, fun i hi => ?_⟩
    · rw [sends, site_leave s _ _ hne]
    · rw [sends, adder_arrive s _ _ hne alive hi]
  · intro s x cx l hx hc hs hn hd hl va counts
    refine ⟨fun ha hb u old hw => ⟨_, exec_statRootUpdate s x, ?_, ?_, fun focus => by subst focus; exact exec_stat hx true⟩,
      fun ha v hv => ⟨_, exec_statRootUpdate s x, ?_⟩⟩
    · rw [statRootUpdate_writes hc hs hn hd hl va rfl ha hb hw, siteOf_modSite_self]
    · rw [statRootUpdate_writes hc hs hn hd hl va rfl ha hb hw]
      rfl
    · rw [statRootUpdate_dies hc hs hn hd hl va rfl ha hv, siteOf_modSite_self]

end Sys2Proof.Machine

namespace Sys2Proof.Machine

/-! ### Codes fit their formats (R109 to R111, R115 to R120) -/

/-- A sign above a number of n bits. -/
theorem sign_add_lt {n c : Nat} (neg : Bool) (hc : c < 2 ^ n) : b2n neg * 2 ^ n + c < 2 ^ (n + 1) := by
  cases neg <;> simp only [b2n, Bool.false_eq_true, if_true, if_false, pow_succ] <;> omega

/-- All ones in the exponent leave room for a mantissa. -/
theorem exponent_ones_add_lt {m e c : Nat} (hc : c < 2 ^ m) : (2 ^ e - 1) * 2 ^ m + c < 2 ^ (m + e) := by
  have one : 1 ≤ 2 ^ e := Nat.one_le_two_pow
  calc (2 ^ e - 1) * 2 ^ m + c < (2 ^ e - 1) * 2 ^ m + 2 ^ m := by omega
    _ = 2 ^ e * 2 ^ m := by rw [← Nat.succ_mul, Nat.succ_eq_add_one, Nat.sub_add_cancel one]
    _ = 2 ^ (m + e) := by rw [← pow_add, Nat.add_comm]

theorem code_roundIeee_lt (f : Fmt) (mode : Rnd) (neg : Bool) (m : Nat) (e : Int) :
    (roundIeee f mode neg m e).code < 2 ^ (f.mant + f.expo + 1) := by
  have top : (if f = f8 then 0x7F else (2 ^ f.expo - 1) * 2 ^ f.mant) < 2 ^ (f.mant + f.expo) := by
    split
    · subst_vars; decide
    · exact exponent_ones_add_lt (Nat.two_pow_pos _)
  unfold roundIeee
  generalize (if f = f8 then 0x7F else (2 ^ f.expo - 1) * 2 ^ f.mant) = big at top ⊢
  refine iteInduction (motive := fun r : Rounded => r.code < _) (fun _ => sign_add_lt neg (Nat.two_pow_pos _)) fun _ =>
    iteInduction (motive := fun r : Rounded => r.code < _) (fun _ => sign_add_lt neg ?_) fun fits => sign_add_lt neg (by omega)
  exact iteInduction (motive := fun c => c < _) (fun _ => top) fun _ => by omega

theorem code_roundF8_lt (mode : Rnd) (neg : Bool) (m : Nat) (e : Int) : (roundF8 mode neg m e).code < 2 ^ 8 := by
  exact iteInduction (motive := fun r : Rounded => r.code < _) (fun _ => sign_add_lt (n := 7) (c := 0x7E) neg (by decide)) fun _ =>
    code_roundIeee_lt f8 mode neg m e

/-- A rounded code has the bits of its format. -/
theorem code_roundNum_lt {f : Fmt} (hf : 0 < f.mant) (mode : Rnd) (v : Num) : (roundNum f mode v).1.code < 2 ^ (f.mant + f.expo + 1) := by
  by_cases h8 : f = f8
  · subst h8
    cases v with
    | nan _ => exact (by decide : 0x7F < 2 ^ 8)
    | inf neg => exact sign_add_lt (n := 7) (c := 0x7E) neg (by decide)
    | fin neg m e => exact code_roundF8_lt mode neg m e
  · cases v with
    | nan _ =>
      simp only [roundNum, nanCode, if_neg h8]
      exact (exponent_ones_add_lt (Nat.pow_lt_pow_right (by decide) (by omega))).trans (Nat.pow_lt_pow_right (by decide) (by omega))
    | inf neg =>
      simp only [roundNum, infCode, if_neg h8]
      exact sign_add_lt neg (exponent_ones_add_lt (Nat.two_pow_pos _))
    | fin neg m e =>
      simp only [roundNum, if_neg h8]
      exact code_roundIeee_lt f mode neg m e

@[simp] theorem toNat_round32 (mode : Rnd) (v : Num) : (round32 mode v).toNat = (roundNum fp32 mode v).1.code := by
  rw [round32, BitVec.toNat_ofNat]
  exact Nat.mod_eq_of_lt (code_roundNum_lt (f := fp32) (by decide) mode v)

@[simp] theorem toNat_rne32 (v : Num) : (rne32 v).toNat = (roundNum fp32 .rne v).1.code := toNat_round32 .rne v

/-! ### Elements of a narrower format (R115, R119, R120) -/

/-- The code of a number in a format, a subnormal one flushed under FZ. -/
def narrowCode (f : Fmt) (mode : Rnd) (fz : Bool) (v : Num) : Nat :=
  let code := (roundNum f mode v).1.code
  if fz && code / 2 ^ f.mant % 2 ^ f.expo == 0 then code / 2 ^ (f.mant + f.expo) * 2 ^ (f.mant + f.expo) else code

theorem flushCode_eq (f : Fmt) (code : Nat) : (flushCode f code).1 =
    if code / 2 ^ f.mant % 2 ^ f.expo == 0 then code / 2 ^ (f.mant + f.expo) * 2 ^ (f.mant + f.expo) else code := by
  have split : code % 2 ^ (f.mant + f.expo) = code % 2 ^ f.mant + 2 ^ f.mant * (code / 2 ^ f.mant % 2 ^ f.expo) := by
    rw [pow_add, Nat.mod_mul]
  have parts := Nat.div_add_mod' code (2 ^ (f.mant + f.expo))
  by_cases he : code / 2 ^ f.mant % 2 ^ f.expo = 0
  · by_cases hm : code % 2 ^ f.mant = 0
    · simp only [flushCode, he, hm] at split ⊢
      simp
      omega
    · simp [flushCode, he, hm]
  · simp [flushCode, he]

theorem cvtElem_code (f : Fmt) (mode : Rnd) (fz : Bool) (v : Num) : (cvtElem f mode fz v).1 = narrowCode f mode fz v := by
  cases fz with
  | false => rfl
  | true => exact (flushCode_eq f (roundNum f mode v).1.code).trans (by simp only [narrowCode, Bool.true_and])

theorem narrowCode_lt {f : Fmt} (hf : 0 < f.mant) (mode : Rnd) (fz : Bool) (v : Num) : narrowCode f mode fz v < 2 ^ (f.mant + f.expo + 1) := by
  have all := code_roundNum_lt hf mode v
  simp only [narrowCode]
  split
  · exact Nat.lt_of_le_of_lt (Nat.div_mul_le_self _ _) all
  · exact all

/-! ### VFCVT (R527, Table 16.14) -/

section Cvt
variable (mode : Rnd) (fz : Bool) (a b c : W32)

/-- Two elements of a format in one word. -/
theorem vcvtLane_bf16 : (vcvtLane 4 mode fz a b c).1.toNat = narrowCode bf16 mode fz (num32 b) * 2 ^ 16 + narrowCode bf16 mode fz (num32 a) := by
  have hx : narrowCode bf16 mode fz (num32 a) < 2 ^ 16 := narrowCode_lt (f := bf16) (by decide) mode fz _
  have hy : narrowCode bf16 mode fz (num32 b) < 2 ^ 16 := narrowCode_lt (f := bf16) (by decide) mode fz _
  simp only [vcvtLane, cvtElem_code, BitVec.toNat_ofNat]
  omega

theorem vcvtLane_fp16 : (vcvtLane 5 mode fz a b c).1.toNat = narrowCode fp16 mode fz (num32 b) * 2 ^ 16 + narrowCode fp16 mode fz (num32 a) := by
  have hx : narrowCode fp16 mode fz (num32 a) < 2 ^ 16 := narrowCode_lt (f := fp16) (by decide) mode fz _
  have hy : narrowCode fp16 mode fz (num32 b) < 2 ^ 16 := narrowCode_lt (f := fp16) (by decide) mode fz _
  simp only [vcvtLane, cvtElem_code, BitVec.toNat_ofNat]
  omega

/-- Two F8 elements take the low half or the high half of c. -/
theorem vcvtLane_f8 :
    (vcvtLane 6 mode fz a b c).1.toNat =
      c.toNat / 2 ^ 16 * 2 ^ 16 + narrowCode f8 mode fz (num32 b) * 2 ^ 8 + narrowCode f8 mode fz (num32 a) ∧
    (vcvtLane 7 mode fz a b c).1.toNat =
      narrowCode f8 mode fz (num32 b) * 2 ^ 24 + narrowCode f8 mode fz (num32 a) * 2 ^ 16 + c.toNat % 2 ^ 16 := by
  have hx : narrowCode f8 mode fz (num32 a) < 2 ^ 8 := narrowCode_lt (f := f8) (by decide) mode fz _
  have hy : narrowCode f8 mode fz (num32 b) < 2 ^ 8 := narrowCode_lt (f := f8) (by decide) mode fz _
  have hc := c.isLt
  simp only [vcvtLane, cvtElem_code, BitVec.toNat_ofNat]
  omega

end Cvt

/-! ### FP32 codes (R110) -/

theorem decodeIeee_fp32 (w : Nat) : decodeIeee fp32 w =
    if bitsAt 23 8 w = 255 then (if bitsAt 0 23 w = 0 then .inf (bitOf 31 w) else .nan (!bitOf 22 w))
    else if bitsAt 23 8 w = 0 then .fin (bitOf 31 w) (bitsAt 0 23 w) (-149)
    else .fin (bitOf 31 w) (bitsAt 0 23 w + 2 ^ 23) ((bitsAt 23 8 w : Int) - 127 - 23) := rfl

/-- A finite FP32 code: its mantissa and its exponent above the least. -/
theorem decode_fp32_fin {w : Nat} (h : w % 2 ^ 31 < 0x7F800000) : ∃ m j : Nat, decodeIeee fp32 w = .fin (bitOf 31 w) m ((j : Int) - 149) ∧
    w % 2 ^ 31 = j * 2 ^ 23 + m ∧ m < 2 ^ 24 ∧ (j = 0 ∨ 2 ^ 23 ≤ m) := by
  have fields : w % 2 ^ 31 = bitsAt 23 8 w * 2 ^ 23 + bitsAt 0 23 w ∧ bitsAt 0 23 w < 2 ^ 23 := by simp only [bitsAt]; omega
  rw [decodeIeee_fp32, if_neg (by omega)]
  split
  · exact ⟨bitsAt 0 23 w, 0, rfl, by omega, by omega, .inl rfl⟩
  · exact ⟨bitsAt 0 23 w + 2 ^ 23, bitsAt 23 8 w - 1, by congr 1; omega, by omega, by omega, .inr (by omega)⟩

theorem decode_fp32_inf {w : Nat} (h : w % 2 ^ 31 = 0x7F800000) : decodeIeee fp32 w = .inf (bitOf 31 w) := by
  rw [decodeIeee_fp32, if_pos (by simp only [bitsAt]; omega), if_pos (by simp only [bitsAt]; omega)]

theorem decode_fp32_nan {w : Nat} (h : 0x7F800000 < w % 2 ^ 31) : ∃ g, decodeIeee fp32 w = .nan g := by
  rw [decodeIeee_fp32, if_pos (by simp only [bitsAt]; omega), if_neg (by simp only [bitsAt]; omega)]
  exact ⟨_, rfl⟩

/-- The sign of a word. -/
theorem sign_add_mod (w : W32) : b2n (bitOf 31 w.toNat) * 2 ^ 31 + w.toNat % 2 ^ 31 = w.toNat := by
  have hw := w.isLt
  rcases (by omega : w.toNat / 2 ^ 31 = 0 ∨ w.toNat / 2 ^ 31 = 1) with h | h
  · rw [bitOf, h]
    change 0 * 2 ^ 31 + _ = _
    omega
  · rw [bitOf, h]
    change 1 * 2 ^ 31 + _ = _
    omega

theorem isNan_num32 (w : W32) : isNan (num32 w) = isNan32 w := by
  rw [num32, isNan32]
  rcases Nat.lt_trichotomy (w.toNat % 2 ^ 31) 0x7F800000 with h | h | h
  · obtain ⟨m, j, hd, -⟩ := decode_fp32_fin h
    rw [hd, decide_eq_false (by omega)]
    rfl
  · rw [decode_fp32_inf h, decide_eq_false (by omega)]
    rfl
  · obtain ⟨g, hd⟩ := decode_fp32_nan h
    rw [hd, decide_eq_true h]
    rfl

end Sys2Proof.Machine

namespace Sys2Proof.Machine

/-! ### The order of numbers -/

/-- The value of a finite number. -/
def finValue (neg : Bool) (m : Nat) (e : Int) : ℚ := (if neg then -1 else 1) * m * 2 ^ e

/-- Where a number that is no NaN stands among the others. -/
def orderKey : Num → WithBot (WithTop ℚ)
  | .nan _ => ⊥
  | .inf neg => if neg then ⊥ else ((⊤ : WithTop ℚ) : WithBot (WithTop ℚ))
  | .fin neg m e => ((finValue neg m e : ℚ) : WithTop ℚ)

/-- A finite number in units of a lower power of two. -/
theorem cast_unitsOf (neg : Bool) (m : Nat) {e q : Int} (h : q ≤ e) : (unitsOf neg m e q : ℚ) = finValue neg m e * 2 ^ (-q) := by
  obtain ⟨k, rfl⟩ := Int.le.dest h
  have power : (2 : ℚ) ^ (q + k) * 2 ^ (-q) = 2 ^ k := by
    rw [← zpow_add₀ two_ne_zero, show q + k + -q = (k : Int) by omega, zpow_natCast]
  rw [unitsOf, finValue, mul_assoc, power, show (q + k - q).toNat = k by omega]
  push_cast
  split <;> simp

/-- A sum of finite numbers is exact. -/
theorem addNum_fin (mode : Rnd) (x y : Bool) (m n : Nat) (e f : Int) :
    ∃ z k q, addNum mode (.fin x m e) (.fin y n f) = .fin z k q ∧ finValue z k q = finValue x m e + finValue y n f := by
  have power : (2 : ℚ) ^ (-min e f) * 2 ^ (min e f) = 1 := by rw [← zpow_add₀ two_ne_zero, neg_add_cancel, zpow_zero]
  have sum : ((unitsOf x m e (min e f) + unitsOf y n f (min e f) : Int) : ℚ) * 2 ^ (min e f) = finValue x m e + finValue y n f := by
    push_cast
    rw [cast_unitsOf x m (min_le_left ..), cast_unitsOf y n (min_le_right ..), ← add_mul, mul_assoc, power, mul_one]
  simp only [addNum]
  generalize unitsOf x m e (min e f) + unitsOf y n f (min e f) = u at sum ⊢
  have zero : ∀ z, finValue z 0 (min e f) = 0 := fun z => by simp [finValue]
  by_cases hu : u = 0
  · subst hu
    simp only [Int.cast_zero, zero_mul] at sum
    rw [if_pos rfl, ← sum]
    split
    · exact ⟨_, _, _, rfl, zero _⟩
    · split
      · exact ⟨_, _, _, rfl, zero _⟩
      · exact ⟨_, _, _, rfl, zero _⟩
  · refine ⟨_, _, _, if_neg hu, ?_⟩
    rw [← sum, finValue]
    rcases lt_or_ge u 0 with neg | pos
    · have abs : ((u.natAbs : Nat) : ℚ) = -(u : ℚ) := by
        rw [← Int.cast_natCast, Int.ofNat_natAbs_of_nonpos neg.le, Int.cast_neg]
      simp [neg, abs]
    · have abs : ((u.natAbs : Nat) : ℚ) = (u : ℚ) := by rw [← Int.cast_natCast, Int.natAbs_of_nonneg pos]
      simp [not_lt.2 pos, abs]

theorem ltNum_fin (x y : Bool) (m n : Nat) (e f : Int) :
    ltNum (.fin x m e) (.fin y n f) = true ↔ finValue x m e < finValue y n f := by
  have unit : (0 : ℚ) < 2 ^ (-min e f) := zpow_pos two_pos _
  rw [ltNum, decide_eq_true_iff, ← Int.cast_lt (R := ℚ), cast_unitsOf x m (min_le_left ..), cast_unitsOf y n (min_le_right ..),
    mul_lt_mul_iff_left₀ unit]

/-- Numbers that are no NaN compare as they stand. -/
theorem ltNum_iff {a b : Num} (ha : isNan a = false) (hb : isNan b = false) : ltNum a b = true ↔ orderKey a < orderKey b := by
  cases a with
  | nan _ => cases ha
  | inf x =>
    cases b with
    | nan _ => cases hb
    | inf y => cases x <;> cases y <;> simp [ltNum, orderKey]
    | fin y n f => cases x <;> simp [ltNum, orderKey]
  | fin x m e =>
    cases b with
    | nan _ => cases hb
    | inf y =>
      cases y with
      | false => exact iff_of_true rfl (WithBot.coe_lt_coe.2 (WithTop.coe_lt_top _))
      | true => simp [ltNum, orderKey]
    | fin y n f => simp [ltNum_fin, orderKey]

theorem ltNum_eq_false_iff {a b : Num} (ha : isNan a = false) (hb : isNan b = false) : ltNum a b = false ↔ orderKey b ≤ orderKey a := by
  rw [← not_lt, ← ltNum_iff ha hb, Bool.not_eq_true]

/-! ### The larger of two lanes (R441) -/

theorem pickMax_max {a b : W32} (ha : isNan32 a = false) (hb : isNan32 b = false) :
    isNan32 (pickMax true a b) = false ∧ orderKey (num32 a) ≤ orderKey (num32 (pickMax true a b)) ∧
      orderKey (num32 b) ≤ orderKey (num32 (pickMax true a b)) := by
  have na : isNan (num32 a) = false := (isNan_num32 a).trans ha
  have nb : isNan (num32 b) = false := (isNan_num32 b).trans hb
  simp only [pickMax, ha, hb, Bool.false_eq_true, if_false, if_true, Bool.and_self, beq_true]
  by_cases equal : eqNum (num32 a) (num32 b) = true
  · have both : orderKey (num32 b) ≤ orderKey (num32 a) ∧ orderKey (num32 a) ≤ orderKey (num32 b) := by
      simpa [eqNum, na, nb, ltNum_eq_false_iff, ltNum_eq_false_iff na nb, ltNum_eq_false_iff nb na] using equal
    rw [if_pos equal]
    split
    · exact ⟨hb, both.2, le_rfl⟩
    · exact ⟨ha, le_rfl, both.1⟩
  · rw [if_neg equal]
    split
    · exact ⟨hb, ((ltNum_iff na nb).1 ‹_›).le, le_rfl⟩
    · exact ⟨ha, le_rfl, (ltNum_eq_false_iff na nb).1 (Bool.not_eq_true _ ▸ ‹_›)⟩

/-- The largest of a row is exceeded by none. -/
theorem foldl_pickMax_max {ws : List W32} (hws : ∀ w ∈ ws, isNan32 w = false) {a : W32} (ha : isNan32 a = false) :
    isNan32 (ws.foldl (pickMax true) a) = false ∧
      ∀ w, w = a ∨ w ∈ ws → orderKey (num32 w) ≤ orderKey (num32 (ws.foldl (pickMax true) a)) := by
  induction ws generalizing a with
  | nil => exact ⟨ha, by simp⟩
  | cons b ws ih =>
    obtain ⟨hn, above, aboveb⟩ := pickMax_max ha (hws b List.mem_cons_self)
    obtain ⟨hr, rest⟩ := ih (fun w hw => hws w (List.mem_cons_of_mem _ hw)) hn
    refine ⟨hr, fun w hw => ?_⟩
    have first := rest _ (.inl rfl)
    rcases hw with rfl | hw
    · exact above.trans first
    · rcases List.mem_cons.1 hw with rfl | hw
      · exact aboveb.trans first
      · exact rest w (.inr hw)

/-! ### A value of FP32 rounds to itself (R116) -/

/-- Shifting out zeros rounds nothing. -/
theorem roundShift_exact (mode : Rnd) (neg : Bool) (m k : Nat) : roundShift mode neg (m * 2 ^ k) k = m := by
  have pos : 0 < 2 ^ k := Nat.two_pow_pos k
  have rem : m * 2 ^ k % 2 ^ k = 0 := Nat.mul_mod_left ..
  cases mode <;> simp [roundShift, rem, b2n, pos.ne]

/-- The code of a value that rounds to n units of 2^q within the format. -/
theorem code_roundIeee {f : Fmt} (h8 : f ≠ f8) {mode : Rnd} {neg : Bool} {m n : Nat} {e q : Int} (hm : m ≠ 0)
    (hq : max (e + Nat.log2 m - f.mant) (1 - (f.bias : Int) - f.mant) = q)
    (hn : (if e ≤ q then roundShift mode neg m (q - e).toNat else m * 2 ^ (e - q).toNat) = n)
    (fits : n + (q + f.mant + f.bias - 1).toNat * 2 ^ f.mant < (2 ^ f.expo - 1) * 2 ^ f.mant) :
    (roundIeee f mode neg m e).code = b2n neg * 2 ^ (f.mant + f.expo) + (n + (q + f.mant + f.bias - 1).toNat * 2 ^ f.mant) := by
  subst hq hn
  simp only [roundIeee, if_neg hm, if_neg h8, if_neg (Nat.not_le.2 fits)]

/-- The code of a value that FP32 holds, also when it is written in a lower unit. -/
theorem roundNum_fp32_exact {neg : Bool} {m j : Nat} (k : Nat) (hm : m ≠ 0) (hlt : m < 2 ^ 24) (hj : j = 0 ∨ 2 ^ 23 ≤ m)
    (hfin : j * 2 ^ 23 + m < 0x7F800000) :
    (roundNum fp32 .rne (.fin neg (m * 2 ^ k) ((j : Int) - 149 - k))).1.code = b2n neg * 2 ^ 31 + (j * 2 ^ 23 + m) := by
  have scaled : m * 2 ^ k ≠ 0 := Nat.mul_ne_zero hm (Nat.two_pow_pos k).ne'
  have log : Nat.log2 (m * 2 ^ k) = Nat.log2 m + k := by
    rw [Nat.log2_eq_iff scaled, pow_add, Nat.add_right_comm, pow_add]
    exact ⟨Nat.mul_le_mul_right _ (Nat.log2_self_le hm), Nat.mul_lt_mul_of_pos_right Nat.lt_log2_self (Nat.two_pow_pos k)⟩
  have high : Nat.log2 m < 24 := (Nat.log2_lt hm).2 hlt
  have low : j = 0 ∨ 23 ≤ Nat.log2 m := hj.imp_right (Nat.le_log2 hm).2
  have unit : max ((j : Int) - 149 - k + Nat.log2 (m * 2 ^ k) - 23) (1 - 127 - 23) = (j : Int) - 149 := by omega
  have place : ((j : Int) - 149 + 23 + 127 - 1).toNat = j := by omega
  have units : (if (j : Int) - 149 - k ≤ j - 149 then roundShift .rne neg (m * 2 ^ k) ((j : Int) - 149 - (j - 149 - k)).toNat
      else m * 2 ^ k * 2 ^ ((j : Int) - 149 - k - (j - 149)).toNat) = m := by
    rw [if_pos (by omega), show ((j : Int) - 149 - (j - 149 - k)).toNat = k by omega, roundShift_exact]
  have code := code_roundIeee (f := fp32) (by decide) (mode := .rne) (neg := neg) scaled unit units
    (show m + ((j : Int) - 149 + 23 + 127 - 1).toNat * 2 ^ 23 < (2 ^ 8 - 1) * 2 ^ 23 by omega)
  refine code.trans ?_
  change b2n neg * 2 ^ 31 + (m + ((j : Int) - 149 + 23 + 127 - 1).toNat * 2 ^ 23) = _
  rw [place]
  omega

/-! ### P6 codes (R114, R136 to R138) -/

/-- A byte of a word after one has been replaced. -/
theorem byte_putByte (w : W32) {q n : Nat} (hq : q < 4) (hn : n < 4) (v : Nat) :
    (putByte w q v).toNat / 2 ^ (8 * n) % 2 ^ 8 = if n = q then v % 256 else w.toNat / 2 ^ (8 * n) % 2 ^ 8 := by
  have hw := w.isLt
  simp only [putByte, BitVec.toNat_ofNat]
  interval_cases q <;> interval_cases n <;> simp only [Nat.reduceMul, Nat.reduceEqDiff, if_true, if_false] <;> omega

/-- The units of a P6 code, written out. -/
theorem p6Units_eq (c : Nat) : p6Units c = if c / 4 % 16 = 15 then 0 else (4 + c % 4) * 2 ^ (14 - c / 4 % 16) := rfl

theorem p6Units_eq_zero_iff (c : Nat) : p6Units c = 0 ↔ c / 4 % 16 = 15 := by
  rw [p6Units_eq]
  split <;> simp [*]

/-- The part of an octave at which VPQZ places what is left of a value, from the bounds it lies below: a quarter, or the next octave. -/
def p6Part (below : W32 → Bool) : Nat :=
  if below 0x3E2E00D2 then 0 else if below 0x3EEB3A9F then 1 else if below 0x3F335004 then 2 else if below 0x3F6829FB then 3 else 4

theorem apply_p6Part {α : Type} (below : W32 → Bool) (f : Nat → α) : f (p6Part below) =
    if below 0x3E2E00D2 then f 0 else if below 0x3EEB3A9F then f 1 else if below 0x3F335004 then f 2
    else if below 0x3F6829FB then f 3 else f 4 := by
  simp only [p6Part, apply_ite f]

/-- The code of octave n and a part of it. -/
def p6Code (n part : Nat) : Nat :=
  if part = 4 then (if n ≤ 15 then 4 * (n - 1) else 0x3C) else if n < 15 then 4 * n + part else 0x3C

theorem p6Code_deep {n : Nat} (h : 16 ≤ n) (part : Nat) : p6Code n part = 0x3C := by
  simp only [p6Code]
  split_ifs <;> omega

theorem p6Part_le (below : W32 → Bool) : p6Part below ≤ 4 := by
  unfold p6Part
  split_ifs <;> decide

theorem p6Code_lt (n : Nat) {part : Nat} (h : part ≤ 4) : p6Code n part < 256 := by
  simp only [p6Code]
  split_ifs <;> omega

/-- VPQZ of NaN and of -∞ is the least code (R136). -/
theorem p6Quant_least {x : W32} (h : isNan32 x = true ∨ x.toNat = 0xFF800000) : (p6Quant x).1 = 0x3C := by
  rcases h with h | h
  · obtain ⟨g, hd⟩ := decode_fp32_nan (w := x.toNat) (of_decide_eq_true h)
    rw [p6Quant, num32, hd]
  · rw [p6Quant, num32, h]
    rfl

/-- VPQZ of what is not below zero is 1 (R136). -/
theorem p6Quant_one {x : W32} (hn : isNan32 x = false) (h : x.toNat < 2 ^ 31 ∨ x.toNat = 2 ^ 31) : (p6Quant x).1 = 0 := by
  have finite := of_decide_eq_false hn
  rcases h with h | h
  · have sign : bitOf 31 x.toNat = false := by
      rw [bitOf, Nat.div_eq_of_lt h]
      rfl
    rcases Nat.lt_or_ge (x.toNat % 2 ^ 31) 0x7F800000 with small | large
    · obtain ⟨m, j, hd, -⟩ := decode_fp32_fin small
      rw [p6Quant, num32, hd, sign]
      by_cases hm : m = 0
      · exact congrArg Prod.fst (if_pos hm)
      · exact congrArg Prod.fst ((if_neg hm).trans (if_pos rfl))
    · rw [p6Quant, num32, decode_fp32_inf (by omega), sign]
      rfl
  · rw [p6Quant, num32, h]
    rfl

/-- VPQZ of a number at or below -64. -/
theorem p6Quant_deep {m : Nat} {e : Int} (hm : m ≠ 0) {x : W32} (hx : num32 x = .fin true m e) (h : 6 ≤ e + Nat.log2 m) :
    (p6Quant x).1 = 0x3C := by
  simp [p6Quant, hx, hm, h]

theorem p6Part_congr {below other : W32 → Bool} (h : ∀ w, isNan32 w = false → below w = other w) : p6Part below = p6Part other := by
  simp only [p6Part, h 0x3E2E00D2 (by decide), h 0x3EEB3A9F (by decide), h 0x3F335004 (by decide), h 0x3F6829FB (by decide)]

/-- VPQZ of -n + t, with t in units of 2^-149 and the bounds that t lies below. -/
theorem p6Quant_near {m : Nat} {e : Int} (hm : m ≠ 0) {x : W32} (hx : num32 x = .fin true m e) (h : ¬ 6 ≤ e + Nat.log2 m)
    {n t : Nat} (hn : 0 < n) (div : unitsOf true m e (-149) / 2 ^ 149 = -(n : Int))
    (mod : (unitsOf true m e (-149) % 2 ^ 149).toNat = t) {below : W32 → Bool}
    (hb : ∀ w, isNan32 w = false → ltNum (.fin false t (-149)) (num32 w) = below w) :
    p6Quant x = (p6Code n (p6Part below), false, false) := by
  unfold p6Quant
  rw [hx]
  refine (if_neg hm).trans ((if_neg Bool.false_ne_true).trans ((if_neg h).trans ?_))
  -- The least exponent stays a variable: with a number in its place the comparisons would be evaluated.
  revert div mod hb
  generalize (-149 : Int) = low
  intro div mod hb
  extract_lets units octave left lies
  have octave_eq : octave = -(n : Int) := div
  have lies_eq : p6Part lies = p6Part below := p6Part_congr fun w hw => (mod ▸ hb w hw :)
  have choose := apply_p6Part lies fun p => if p = 4 then ((-(n : Int) + 1, 0) : Int × Nat) else (-(n : Int), p)
  simp only [Nat.reduceEqDiff, OfNat.zero_ne_ofNat, OfNat.one_ne_ofNat, if_false, if_true] at choose
  rw [octave_eq, ← choose, lies_eq, p6Code]
  generalize p6Part below = part
  by_cases four : part = 4
  · rw [if_pos four, if_pos four]
    refine Prod.ext ?_ rfl
    dsimp only
    split <;> split <;> omega
  · rw [if_neg four, if_neg four]
    refine Prod.ext ?_ rfl
    dsimp only
    split <;> split <;> omega

end Sys2Proof.Machine

namespace Sys2Proof.Machine

theorem ltNum_congr {x y : Bool} {m n : Nat} {e f : Int} (h : finValue x m e = finValue y n f) {b : Num} (hb : isNan b = false) :
    ltNum (.fin x m e) b = ltNum (.fin y n f) b := by
  rw [Bool.eq_iff_iff, ltNum_iff rfl hb, ltNum_iff rfl hb, orderKey, orderKey, h]

theorem ofInt_natCast (n : Nat) : ofInt n = .fin false n 0 := by simp [ofInt]

/-- What is left of a finite number when n is added to it, between 0 and 1, in units of 2^-149. -/
theorem units_left {m j n : Nat} (h0 : ltNum (addNum .rne (.fin true m ((j : Int) - 149)) (ofInt n)) (ofInt 0) = false)
    (h1 : ltNum (addNum .rne (.fin true m ((j : Int) - 149)) (ofInt n)) (ofInt 1) = true) :
    ∃ t : Nat, t < 2 ^ 149 ∧ n * 2 ^ 149 = t + m * 2 ^ j ∧
      ∀ b, isNan b = false → ltNum (.fin false t (-149)) b = ltNum (addNum .rne (.fin true m ((j : Int) - 149)) (ofInt n)) b := by
  obtain ⟨z, k, q, sum, value⟩ := addNum_fin .rne true false m n ((j : Int) - 149) 0
  rw [ofInt_natCast, sum] at h0 h1 ⊢
  have scale : (2 : ℚ) ^ ((j : Int) - 149) = 2 ^ j / 2 ^ 149 := by
    rw [zpow_sub₀ two_ne_zero, zpow_natCast]
    rfl
  have left : finValue z k q = ((n * 2 ^ 149 : Nat) - (m * 2 ^ j : Nat) : ℚ) / 2 ^ 149 := by
    rw [value, finValue, finValue, scale]
    push_cast
    simp only [if_true]
    field_simp
    ring
  have unit : (0 : ℚ) < 2 ^ 149 := by positivity
  generalize n * 2 ^ 149 = whole at left ⊢
  generalize m * 2 ^ j = part at left ⊢
  have low : part ≤ whole := by
    have le := not_lt.1 (mt (ltNum_fin z false k 0 q 0).2 (ne_true_of_eq_false h0))
    rw [left, le_div_iff₀ unit] at le
    simpa [finValue] using le
  have high : whole < part + 2 ^ 149 := by
    have lt := (ltNum_fin z false k 1 q 0).1 h1
    rw [left, div_lt_iff₀ unit, sub_lt_iff_lt_add'] at lt
    simp only [finValue, Bool.false_eq_true, if_false, zpow_zero, Nat.cast_one, mul_one, one_mul] at lt
    exact_mod_cast lt
  refine ⟨whole - part, by omega, by omega, fun b hb => ltNum_congr ?_ hb⟩
  rw [left, finValue, Nat.cast_sub low, zpow_neg, div_eq_mul_inv]
  simp

/-- VPQZ of -n + t, t between 0 and 1: its octave is n, its part told by t (R136). -/
theorem p6Quant_negative {x : W32} (hneg : 2 ^ 31 < x.toNat) (hfin : x.toNat < 0xFF800000) {n : Nat} (hn : 0 < n)
    (h0 : ltNum (addNum .rne (num32 x) (ofInt n)) (ofInt 0) = false) (h1 : ltNum (addNum .rne (num32 x) (ofInt n)) (ofInt 1) = true) :
    (p6Quant x).1 = p6Code n (p6Part fun w => ltNum (addNum .rne (num32 x) (ofInt n)) (num32 w)) := by
  obtain ⟨m, j, decoded, code, -, least⟩ := decode_fp32_fin (w := x.toNat) (by omega)
  have sign : bitOf 31 x.toNat = true := by
    rw [bitOf, show x.toNat / 2 ^ 31 = 1 by omega]
    rfl
  have hm : m ≠ 0 := by omega
  have hx : num32 x = .fin true m ((j : Int) - 149) := by rw [num32, decoded, sign]
  rw [hx] at h0 h1 ⊢
  obtain ⟨t, ht, sum, alike⟩ := units_left h0 h1
  by_cases deep : 6 ≤ (j : Int) - 149 + Nat.log2 m
  · have big : 2 ^ (Nat.log2 m + j) ≤ m * 2 ^ j := by
      rw [pow_add]
      exact Nat.mul_le_mul_right _ (Nat.log2_self_le hm)
    have far : 2 ^ 155 ≤ 2 ^ (Nat.log2 m + j) := Nat.pow_le_pow_right (by decide) (by omega)
    have past : 16 ≤ n := by omega
    exact (p6Quant_deep hm hx deep).trans (p6Code_deep past _).symm
  · have units : unitsOf true m ((j : Int) - 149) (-149) = t + 2 ^ 149 * -(n : Int) := by
      rw [unitsOf, show ((j : Int) - 149 - -149).toNat = j by omega]
      simp only [if_true]
      omega
    have div : unitsOf true m ((j : Int) - 149) (-149) / 2 ^ 149 = -(n : Int) := by omega
    have mod : (unitsOf true m ((j : Int) - 149) (-149) % 2 ^ 149).toNat = t := by omega
    have near := p6Quant_near (below := fun w => ltNum (addNum .rne (.fin true m ((j : Int) - 149)) (ofInt n)) (num32 w)) hm hx deep hn div mod
      fun w hw => alike (num32 w) ((isNan_num32 w).trans hw)
    rw [near]

end Sys2Proof.Machine

namespace Sys2Proof.Machine

/-! ### Products and quotients of P6 codes (R137 to R140) -/

theorem p6Mul_nan {x : W32} (h : isNan32 x = true) (c : Nat) : p6Mul x c = nan32 := by
  obtain ⟨g, hd⟩ := decode_fp32_nan (w := x.toNat) (by simpa [isNan32] using h)
  rw [p6Mul, num32, hd]

theorem p6Mul_inf {x : W32} (h : x.toNat % 2 ^ 31 = 0x7F800000) (c : Nat) :
    (p6Mul x c).toNat = if c / 4 % 16 = 15 then 0x7FC00000 else x.toNat := by
  have sign := sign_add_mod x
  rw [p6Mul, num32, decode_fp32_inf h]
  change (if c / 4 % 16 = 15 then nan32 else _).toNat = _
  split
  · rfl
  · rw [← sign, h]
    cases bitOf 31 x.toNat <;> rfl

theorem p6Mul_fin {x : W32} (h : x.toNat % 2 ^ 31 < 0x7F800000) (c : Nat) : (p6Mul x c).toNat =
    if c / 4 % 16 = 15 then 0 else (roundNum fp32 .rne (mulNum (num32 x) (.fin false (p6Units c) (-16)))).1.code := by
  obtain ⟨m, j, hd, -⟩ := decode_fp32_fin h
  have hx : num32 x = .fin (bitOf 31 x.toNat) m ((j : Int) - 149) := hd
  rw [p6Mul, hx]
  change (if c / 4 % 16 = 15 then 0 else rne32 _).toNat = _
  split
  · rfl
  · rw [toNat_rne32, mulNum, Bool.bne_false]
    rfl

/-! ### The logarithm of a denominator of 1 (R139) -/

/-- 1 has no bits behind the point. -/
theorem log2Bits_one (k acc : Nat) : log2Bits k (2 ^ 200) acc = acc * 2 ^ k := by
  have square : 2 ^ 200 * 2 ^ 200 / 2 ^ 200 = 2 ^ 200 := Nat.mul_div_cancel _ (Nat.two_pow_pos _)
  have small : ¬ 2 ^ 201 ≤ 2 ^ 200 := Nat.not_le.2 (Nat.pow_lt_pow_right (by decide) (by decide))
  induction k generalizing acc with
  | zero => simp [log2Bits]
  | succ k ih => rw [log2Bits, square, if_neg small, ih, pow_succ]; ring

theorem log2Den_one : log2Den (2 ^ 16) = .fin false 0 (-130) := by
  simp only [log2Den, Nat.log2_two_pow, ← pow_add, log2Bits_one, Nat.reduceSub, Nat.reduceAdd]
  simp

/-- A zero added changes the unit of a number alone. -/
theorem addNum_zero (mode : Rnd) (x y : Bool) {m : Nat} (hm : m ≠ 0) (e f : Int) :
    addNum mode (.fin x m e) (.fin y 0 f) = .fin x (m * 2 ^ (e - min e f).toNat) (min e f) := by
  have pos : 0 < m * 2 ^ (e - min e f).toNat := Nat.mul_pos (Nat.pos_of_ne_zero hm) (Nat.two_pow_pos _)
  simp only [addNum, unitsOf, Nat.zero_mul, Int.natCast_zero, mul_zero, add_zero]
  generalize m * 2 ^ (e - min e f).toNat = n at pos
  cases x
  · rw [if_neg (by simp; omega)]
    simp
  · rw [if_neg (by simp; omega)]
    simp
    omega

/-- LSE of a row whose denominator is 1 gives its first argument (R139). -/
theorem lse_one {x : W32} (hn : isNan32 x = false) (h0 : x.toNat % 2 ^ 31 ≠ 0) :
    (rne32 (addNum .rne (num32 x) (log2Den (2 ^ 16)))).toNat = x.toNat := by
  have sign := sign_add_mod x
  rw [toNat_rne32, log2Den_one]
  rcases Nat.lt_or_ge (x.toNat % 2 ^ 31) 0x7F800000 with h | h
  · obtain ⟨m, j, hd, code, hlt, hj⟩ := decode_fp32_fin h
    have hx : num32 x = .fin (bitOf 31 x.toNat) m ((j : Int) - 149) := hd
    have hm : m ≠ 0 := by omega
    obtain ⟨k, hk⟩ : ∃ k : Nat, min ((j : Int) - 149) (-130) = (j : Int) - 149 - k :=
      ⟨((j : Int) - 149 - min ((j : Int) - 149) (-130)).toNat, by omega⟩
    rw [hx, addNum_zero _ _ _ hm, hk, show ((j : Int) - 149 - (j - 149 - k)).toNat = k by omega, roundNum_fp32_exact k hm hlt hj (by omega)]
    omega
  · have hi : x.toNat % 2 ^ 31 = 0x7F800000 := by
      have := of_decide_eq_false hn
      omega
    rw [num32, decode_fp32_inf hi]
    change b2n (bitOf 31 x.toNat) * 2 ^ 31 + 0x7F800000 = _
    omega

/-! ### The elementwise VRED (R139, R140, Table 16.20) -/

section Vred
variable {a b : W32}

/-- A denominator of zero: NORM and WEIGHT give zero, LSE -∞. -/
theorem vredLane_empty (a : W32) (hb : b = 0) : vredLane 4 a b = 0 ∧ vredLane 5 a b = 0xFF800000 ∧ vredLane 6 a b = 0 := by
  subst hb
  exact ⟨rfl, rfl, rfl⟩

theorem vredLane_nan (hb : b ≠ 0) (hn : isNan32 a = true) : vredLane 4 a b = nan32 ∧ vredLane 5 a b = nan32 := by
  simp only [vredLane, if_neg hb, hn, if_true, and_self]

theorem vredLane_norm (hb : b ≠ 0) (hn : isNan32 a = false) :
    (vredLane 4 a b).toNat = (roundNum fp32 .rne (divNum (num32 a) (denNum b))).1.code := by
  simp only [vredLane, if_neg hb, hn, Bool.false_eq_true, if_false, toNat_rne32]

theorem vredLane_lse_one (hb : b.toNat = 2 ^ 16) (hn : isNan32 a = false) (h0 : a.toNat % 2 ^ 31 ≠ 0) : (vredLane 5 a b).toNat = a.toNat := by
  have nonzero : b ≠ 0 := by
    rintro rfl
    exact absurd hb (by decide)
  simp only [vredLane, if_neg nonzero, hn, Bool.false_eq_true, if_false, hb, lse_one hn h0]

theorem vredLane_weight_zero (b : W32) (ha : a.toNat % 2 ^ 8 / 4 % 16 = 15) : vredLane 6 a b = 0 := by
  have units : p6Units (a.toNat % 256) = 0 := (p6Units_eq_zero_iff _).2 ha
  simp only [vredLane, units, decide_true, Bool.or_true, if_true]

theorem vredLane_weight (hb : b ≠ 0) (ha : a.toNat % 2 ^ 8 / 4 % 16 ≠ 15) :
    (vredLane 6 a b).toNat = (roundNum fp32 .rne (divNum (p6Num (a.toNat % 2 ^ 8)) (denNum b))).1.code := by
  have units : p6Units (a.toNat % 256) ≠ 0 := mt (p6Units_eq_zero_iff _).1 ha
  simp only [vredLane, hb, units, decide_false, Bool.or_self, Bool.false_eq_true, if_false, toNat_rne32, Nat.reducePow]

end Vred

end Sys2Proof.Machine

namespace Sys2Proof.Machine

/-! ### What a stage leaves of the rest (R33) -/

/-- v is u but for the site x, which stays in its domain, and for values drawn. -/
structure OnlySite (x : SiteId) (u v : State) : Prop where
  rest : v = { u with sites := v.sites, draws := v.draws }
  others : ∀ y, y ≠ x → siteOf v y = siteOf u y
  home : domainOf v x = domainOf u x

namespace OnlySite
variable {x : SiteId} {u v w : State}

theorem refl (u : State) : OnlySite x u u := ⟨rfl, fun _ _ => rfl, rfl⟩
theorem trans (h : OnlySite x u v) (g : OnlySite x v w) : OnlySite x u w :=
  ⟨by rw [g.rest, h.rest], fun y hy => (g.others y hy).trans (h.others y hy), g.home.trans h.home⟩
theorem draws (u : State) (n : Nat) : OnlySite x u { u with draws := n } := ⟨rfl, fun _ _ => rfl, rfl⟩

theorem modSite {f : Site → Site} (hf : ∀ k, (f k).domain = k.domain) : OnlySite x u (modSite u x f) :=
  ⟨rfl, fun _ hy => siteOf_modSite_ne _ _ hy, by rw [domainOf, siteOf_modSite_self, hf, domainOf]⟩

theorem mem (h : OnlySite x u v) : v.mem = u.mem := by rw [h.rest]
theorem chans (h : OnlySite x u v) : v.chans = u.chans := by rw [h.rest]
theorem dies (h : OnlySite x u v) : v.dies = u.dies := by rw [h.rest]
theorem slices (h : OnlySite x u v) : v.slices = u.slices := by rw [h.rest]
theorem cores (h : OnlySite x u v) : v.cores = u.cores := by rw [h.rest]
theorem chanOf (h : OnlySite x u v) (k : Nat) : chanOf v k = chanOf u k := by rw [Machine.chanOf, h.chans, Machine.chanOf]

theorem domain (h : OnlySite x u v) (y : SiteId) : domainOf v y = domainOf u y := by
  by_cases hy : y = x
  · rw [hy, h.home]
  · rw [domainOf, h.others y hy, domainOf]

theorem outDest (h : OnlySite x u v) (y : SiteId) (p t : Nat) (gate : Bool) : outDest v y p t gate = outDest u y p t gate := by
  have comes : ∀ z, comesThrough v y p t z gate = comesThrough u y p t z gate := fun z => by
    rw [comesThrough, h.domain, h.domain, h.rest, comesThrough]
  have placed : v.placements = u.placements := by rw [h.rest]
  simp only [Machine.outDest, comes, portAt_congr placed]

theorem outFree (h : OnlySite x u v) (y : SiteId) (p t : Nat) : outFree v y p t = outFree u y p t := by
  rw [Machine.outFree, h.outDest, Machine.outFree]
  split
  · rfl
  · simp only [h.chanOf]

theorem countAt (s : State) (x : SiteId) (k i n : Nat) : OnlySite x s (countAt s x k i n) := by
  unfold Machine.countAt
  split
  · exact refl s
  · exact modSite fun _ => rfl

theorem counts (x : SiteId) (k : Nat) (cs : List Nat) (s : State) : OnlySite x s (cs.foldl (fun u i => Machine.countAt u x k i 1) s) := by
  induction cs generalizing s with
  | nil => exact refl s
  | cons c cs ih => exact (countAt s x k c 1).trans (ih _)

theorem closeTile (s : State) (x : SiteId) (k : Nat) : OnlySite x s (closeTile s x k) := by
  unfold Machine.closeTile
  exact modSite fun _ => rfl

theorem endTile (s : State) (x : SiteId) (k : Nat) (eos : Bool) (seq : BitVec 12) : OnlySite x s (endTile s x k eos seq) := by
  unfold Machine.endTile
  split
  · exact refl s
  · split_ifs
    · refine trans ?_ (closeTile ..)
      exact modSite fun _ => rfl
    · exact modSite fun _ => rfl

theorem setArc (s : State) (x : SiteId) (k : Nat) (v : Option Inv) : OnlySite x s (setArc s x k v) := modSite fun _ => rfl

end OnlySite

/-! ### Converters in a stage between (R33, R119 to R122, R527 to R532) -/

theorem LanesWritten.mono {s t : State} {k : Nat} {d : BitVec 2} {v : Inv} {P Q : Nat → W32 → Prop} (h : LanesWritten s t k d v P)
    (hPQ : ∀ l w, l < 16 → v.valid.getLsbD l = true → P l w → Q l w) : LanesWritten s t k d v Q := by
  obtain ⟨⟨w, passed, same, others, lanes⟩, cores⟩ := h
  exact ⟨⟨w, passed, same, others, fun l hl hv => hPQ l _ hl hv (lanes l hl hv)⟩, cores⟩

section Conv
variable {s : State} {cx : Ctx} {k : Nat} {v : Inv} (h : AtStage s cx k v) (hc : computes v) (hk : k < 6)
include h hc hk

/-- A converter writes each valid lane of its register and passes on. -/
theorem convStage_writes (d : BitVec 2) (srcs : List Src) (f : State → StageEnv → Nat → Counted) (whole : State → StageEnv → List Nat) :
    ∃ t, convStage s d srcs f whole = .next t ∧
      LanesWritten s t k d v fun l w => w = (f (setArc s s.focus (k - 1) none) (stageEnv s cx v) l).1 := by
  have later := h.later
  set u := setArc s s.focus (k - 1) none with hu
  set e := stageEnv s cx v with he
  set cs := ((validLanes v.valid).flatMap fun l => (f u e l).2) ++ whole u e
  set counted := cs.foldl (fun t i => countAt t s.focus s.focusStage.toNat i 1) u with hcounted
  set w := putP v d (laneList fun l => if bitOf l v.valid.toNat then (f u e l).1 else Config.freeLane u.draws l) with hw
  set b : State := { counted with draws := counted.draws + 1 } with hb
  have tallied : Tallied u counted := tallied_counts s.focus s.focusStage.toNat cs u
  have arcs : ∀ j, arcOf b s.focus j = arcOf u s.focus j := fun j => (arcOf_draws ..).trans (arcOf_of_tallied tallied _ _)
  have tile := tallied_endTile b s.focus k w.eos w.seq
  have free : arcOf b s.focus k = none := by
    rw [arcs, hu, arcOf_setArc_ne s s.focus (by omega) (by omega) (by omega), h.free hk]
  have only : OnlySite s.focus s (setArc (endTile b s.focus k w.eos w.seq) s.focus k (some w)) :=
    (OnlySite.setArc ..).trans ((OnlySite.counts ..).trans ((OnlySite.draws ..).trans ((OnlySite.endTile ..).trans (OnlySite.setArc ..))))
  have run : convStage s d srcs f whole = .next (noteMove (setArc (endTile b s.focus k w.eos w.seq) s.focus k (some w)) s.focus) := by
    refine fireStage_goes h (fun h6 => absurd h6 (by omega)) ?_
    simp only [← hu, ← he, show e.inv = v from rfl, passes_of_computes hc, Bool.false_eq_true, if_false]
    exact passOn_arc hk free
  refine ⟨_, run, ⟨w, ⟨?_, ?_, ?_, ?_, ?_, ?_, fun y hy => ?_⟩, rfl, fun j hj hd => ?_, fun l hl hv => ?_⟩, ?_⟩
  · rw [arcOf_noteMove, arcOf_setArc_self _ _ (by omega)]
  · rw [arcOf_noteMove, arcOf_setArc_ne _ _ (by omega) (by omega) (by omega), arcOf_of_tallied tile, arcs, hu,
      arcOf_setArc_self s s.focus (by omega)]
  · rw [noteMove_chans, only.chans]
  · rw [noteMove_mem, only.mem]
  · rw [noteMove_dies, only.dies]
  · rw [noteMove_slices, only.slices]
  · rw [siteOf_noteMove_ne _ hy, only.others y hy]
  · rw [hw, getElem?_putP v d _ hj, if_neg hd]
    rfl
  · rw [hw, getElem?_putP_self, laneOf_laneList hl, bitOf_toNat, if_pos hv]
  · rw [noteMove_cores, only.cores]

/-- A converter whose lanes are g of the lanes of its sources. -/
theorem converts {i : Instr} {d : BitVec 2} {a b c : Src} {srcs : List Src} (g : W32 → W32 → W32 → Counted)
    (whole : State → StageEnv → List Nat)
    (run : exec i s = convStage s d srcs (fun u e l => g (srcLane u e a l) (srcLane u e b l) (srcLane u e c l)) whole) {P : Nat → W32 → Prop}
    (hP : ∀ l, P l (g (srcLane s (stageEnv s cx v) a l) (srcLane s (stageEnv s cx v) b l) (srcLane s (stageEnv s cx v) c l)).1) :
    ∃ t, exec i s = .next t ∧ LanesWritten s t k d v P := by
  obtain ⟨t, goes, writes⟩ := convStage_writes h hc hk d srcs (fun u e l => g (srcLane u e a l) (srcLane u e b l) (srcLane u e c l)) whole
  refine ⟨t, run.trans goes, writes.mono fun l w _ _ hw => ?_⟩
  have cleared := Computed.setArc s s.focus (k - 1) none
  rw [hw, cleared.srcLane, cleared.srcLane, cleared.srcLane]
  exact hP l

variable {P : Nat → W32 → Prop} (d : BitVec 2) (a b c : Src)

theorem vfcvt_writes (n : BitVec 4) (fz : Bool) (r : BitVec 3) (hP : ∀ l, P l (vcvtLane n.toNat (rndOf r.toNat) fz
      (srcLane s (stageEnv s cx v) a l) (srcLane s (stageEnv s cx v) b l) (srcLane s (stageEnv s cx v) c l)).1) :
    ∃ t, exec (.vfcvt d a b c n fz r) s = .next t ∧ LanesWritten s t k d v P :=
  converts h hc hk (vcvtLane n.toNat (rndOf r.toNat) fz) (fun _ _ => []) rfl hP

theorem vpqz_writes (q : BitVec 2)
    (hP : ∀ l, P l (putByte (srcLane s (stageEnv s cx v) c l) q.toNat (p6Quant (srcLane s (stageEnv s cx v) a l)).1)) :
    ∃ t, exec (.vpqz d a c q) s = .next t ∧ LanesWritten s t k d v P :=
  converts h hc hk (b := a) (fun x _ z => (putByte z q.toNat (p6Quant x).1, (if (p6Quant x).2.1 then [2] else []) ++
    (if (p6Quant x).2.2 then [0] else []))) (fun _ _ => []) rfl hP

theorem vpmul_writes (q : BitVec 2) (hP : ∀ l, P l (p6Mul (srcLane s (stageEnv s cx v) a l)
      ((srcLane s (stageEnv s cx v) b l).toNat / 2 ^ (8 * q.toNat) % 256))) :
    ∃ t, exec (.vpmul d a b q) s = .next t ∧ LanesWritten s t k d v P :=
  converts h hc hk (c := a) (fun x y _ => (p6Mul x (y.toNat / 2 ^ (8 * q.toNat) % 256), (if isNan32 x then [2] else []) ++
    (if isNan32 (p6Mul x (y.toNat / 2 ^ (8 * q.toNat) % 256)) then [3] else []))) (fun _ _ => []) rfl hP

theorem vred_writes {m : BitVec 3} (fz : Bool) (r : BitVec 3) (hm : 4 ≤ m.toNat)
    (hP : ∀ l, P l (vredLane m.toNat (srcLane s (stageEnv s cx v) a l) (srcLane s (stageEnv s cx v) b l))) :
    ∃ t, exec (.vred d a b m fz r) s = .next t ∧ LanesWritten s t k d v P := by
  have run : exec (.vred d a b m fz r) s = convStage s d [a, b] (fun u e l =>
      (vredLane m.toNat (srcLane u e a l) (srcLane u e b l), (if m.toNat < 6 && isNan32 (srcLane u e a l) then [2] else []) ++
        (if isNan32 (vredLane m.toNat (srcLane u e a l) (srcLane u e b l)) then [3] else [])))
      fun u e => if m = 4 && e.inv.eos && srcLane u e b 0 == 0 then [6] else [] := if_neg (Nat.not_lt.2 hm)
  exact converts h hc hk (c := a) (fun x y _ => (vredLane m.toNat x y, (if m.toNat < 6 && isNan32 x then [2] else []) ++
    (if isNan32 (vredLane m.toNat x y) then [3] else []))) _ run hP

end Conv

end Sys2Proof.Machine

namespace Sys2Proof.Machine

/-! ### A row in the accumulator (R138, R532, R533, Table 16.20) -/

/-- An open row goes on as it is; another begins empty. -/
theorem vredStart_eq (m : Nat) (n : Node) : vredStart m n = { n with
    rowOpen := true
    absorbed := if n.rowOpen then n.absorbed else 0
    sum := if n.rowOpen then n.sum else 0
    dsat := n.rowOpen && n.dsat
    nan := n.rowOpen && n.nan
    count := if n.rowOpen then n.count else 0
    acc := if n.rowOpen then n.acc else laneList fun _ => if m = 0 then 0xFF800000 else if m = 1 then 0x7F800000 else 0 } := by
  unfold vredStart
  split
  · next h =>
    cases n
    subst h
    rfl
  · next h => simp [h]

theorem laneOf_vredPick (m : Nat) (n : Node) (v : W32) {j : Nat} (hj : j < 16) :
    laneOf (vredPick m n v).acc j = pickMax (m == 0) (laneOf n.acc 0) v :=
  laneOf_laneList (f := fun _ => pickMax (m == 0) (laneOf n.acc 0) v) hj

/-- The node after the picks of a MAX or MIN row differs in its accumulator and its NaN. -/
theorem foldl_vredPick (m : Nat) (a : Lanes) (ls : List Nat) (n : Node) :
    let after := ls.foldl (fun k l => vredPick m k (laneOf a l)) n
    after = { n with acc := after.acc, nan := n.nan || ls.any fun l => isNan32 (laneOf a l) } ∧
      laneOf after.acc 0 = (ls.map (laneOf a)).foldl (pickMax (m == 0)) (laneOf n.acc 0) ∧
      (ls ≠ [] → ∀ j, j < 16 → laneOf after.acc j = laneOf after.acc 0) := by
  induction ls generalizing n with
  | nil => simp
  | cons l ls ih =>
    obtain ⟨rest, lane, alike⟩ := ih (vredPick m n (laneOf a l))
    refine ⟨?_, ?_, fun _ j hj => ?_⟩
    · rw [List.foldl_cons, rest]
      simp [vredPick, Bool.or_assoc]
    · rw [List.foldl_cons, lane, laneOf_vredPick m n _ (by decide), List.map_cons, List.foldl_cons]
    · rw [List.foldl_cons]
      by_cases hls : ls = []
      · subst hls
        exact (laneOf_vredPick m n _ hj).trans (laneOf_vredPick m n _ (by decide)).symm
      · exact alike hls j hj

/-- Absorbing changes no more of the node than what the row holds. -/
theorem vredAbsorb_eq (m : Nat) (mode : Rnd) (fz : Bool) (valid : BitVec 16) (a : Lanes) (n : Node) :
    let after := (vredAbsorb m mode fz valid a n).1
    after = { n with acc := after.acc, sum := after.sum, dsat := after.dsat, nan := after.nan, count := after.count } := by
  simp only [vredAbsorb]
  split
  · dsimp only
    rw [(foldl_vredPick m a _ n).1]
  · split <;> rfl

/-- The node of a row that has absorbed an invocation. -/
def rowAfter (m : Nat) (mode : Rnd) (fz : Bool) (n : Node) (valid : BitVec 16) (a : Lanes) : Node :=
  { (vredAbsorb m mode fz valid a (vredStart m n)).1 with absorbed := (vredAbsorb m mode fz valid a (vredStart m n)).1.absorbed + 1 }

section Row
variable (m : Nat) (mode : Rnd) (fz : Bool) (n : Node) (valid : BitVec 16) (a : Lanes)

theorem rowAfter_rest : (rowAfter m mode fz n valid a).rowOpen = true ∧ (rowAfter m mode fz n valid a).side2 = n.side2 ∧
    (rowAfter m mode fz n valid a).absorbed = (if n.rowOpen then n.absorbed else 0) + 1 := by
  rw [rowAfter, vredAbsorb_eq, vredStart_eq]
  exact ⟨rfl, rfl, rfl⟩

/-- SUMP: the exact sum of the P6 values and the number of lanes (R138). -/
theorem rowAfter_sump : (rowAfter 3 mode fz n valid a).count = (if n.rowOpen then n.count else 0) + (validLanes valid).length ∧
    (rowAfter 3 mode fz n valid a).sum = min 0xFFFFFFFF ((if n.rowOpen then n.sum else 0) +
      ((validLanes valid).map fun l => p6Units ((laneOf a l).toNat % 256)).sum) := by
  rw [rowAfter, vredStart_eq]
  exact ⟨rfl, rfl⟩

/-- SUM: each valid lane is added to its own (R532). -/
theorem rowAfter_sum {l : Nat} (hl : l < 16) : laneOf (rowAfter 2 mode false n valid a).acc l =
    if valid.getLsbD l then (fpAdd mode (num32 (if n.rowOpen then laneOf n.acc l else 0)) (num32 (laneOf a l))).1
    else if n.rowOpen then laneOf n.acc l else 0 := by
  have begun : laneOf (vredStart 2 n).acc l = if n.rowOpen then laneOf n.acc l else 0 := by
    rw [vredStart_eq]
    dsimp only
    split
    · rfl
    · exact laneOf_laneList hl
  simp only [rowAfter, vredAbsorb, Nat.reduceLeDiff, if_false, if_true, flush32, Bool.false_eq_true, laneOf_laneList hl,
    bitOf_toNat, begun]

end Row

/-! ### A reducing VRED (R532, R533) -/

/-- What the firing of a reducing VRED makes of the state u, the invocation of e and the row n: it is absorbed, and with EOS the row
ends in one invocation. -/
structure RowMoved (d : BitVec 2) (m : Nat) (n : Node) (u : State) (e : StageEnv) (b : State) (out : Option Inv) : Prop where
  only : OnlySite e.site u b
  arcs : ∀ j, arcOf b e.site j = arcOf u e.site j
  absorbed : e.inv.eos = false → (siteOf b e.site).node = n ∧ out = none
  ended : e.inv.eos = true → (siteOf b e.site).node = { n with rowOpen := false, absorbed := 0, acc := [] } ∧ ∃ draw,
    out = some (putP { e.inv with kind := 0, eos := true, valid := (vredResult m n).2 } d (freeInvalid draw 0 (vredResult m n).2 (vredResult m n).1))

/-- The row of a site, changed after counts. -/
theorem rowMoved_node {x : SiteId} {u c : State} (only : OnlySite x u c) (tallied : Tallied u c) (n : Node) :
    OnlySite x u (modSite c x fun k => { k with node := n }) ∧
      (∀ j, arcOf (modSite c x fun k => { k with node := n }) x j = arcOf u x j) ∧
      (siteOf (modSite c x fun k => { k with node := n }) x).node = n := by
  refine ⟨only.trans (OnlySite.modSite fun _ => rfl), fun j => ?_, by rw [siteOf_modSite_self]⟩
  rw [arcOf, siteOf_modSite_self, ← arcOf_of_tallied tallied, arcOf]

theorem exec_vred {s : State} (d : BitVec 2) (a b : Src) {m : BitVec 3} (fz : Bool) (r : BitVec 3) (hm : m.toNat < 4) {v : Inv}
    (hv : arcOf s s.focus 5 = some v) (hc : computes v) : ∃ body, exec (.vred d a b m fz r) s = fireStage s [a] false body ∧
      ∀ u e, computes e.inv → RowMoved d m.toNat
        (rowAfter m.toNat (rndOf r.toNat) fz (siteOf u e.site).node e.inv.valid (srcWord u e a)) u e (body u e).1 (body u e).2 := by
  have guard : ¬ ((siteOf s s.focus).node.rowOpen && (arcOf s s.focus 5).any fun v => v.kind == 2) = true := by
    simpa [hv] using fun _ => hc.2
  refine ⟨_, (if_pos hm).trans (if_neg guard), fun u e he => ?_⟩
  rcases absorb : vredAbsorb m.toNat (rndOf r.toNat) fz e.inv.valid (srcWord u e a) (vredStart m.toNat (siteOf u e.site).node) with ⟨n, cs⟩
  simp only [if_neg he.1, if_neg he.2, rowAfter, absorb]
  have counted := OnlySite.counts e.site 6 cs u
  have tallied := tallied_counts e.site 6 cs u
  cases eos : e.inv.eos with
  | false =>
    simp only [Bool.false_eq_true, if_false]
    obtain ⟨only, arcs, node⟩ := rowMoved_node counted tallied { n with absorbed := n.absorbed + 1 }
    exact ⟨only, arcs, fun _ => ⟨node, rfl⟩, fun h => absurd (eos.symm.trans h) (by decide)⟩
  | true =>
    simp only [if_true]
    have more : ∀ (outs : List Nat) (t : State), outs.foldl (fun t _ => countAt t e.site 6 3 1) t =
        (outs.map fun _ => 3).foldl (fun t i => countAt t e.site 6 i 1) t := fun outs t => by rw [List.foldl_map]
    rw [more]
    obtain ⟨only, arcs, node⟩ := rowMoved_node (counted.trans (OnlySite.counts e.site 6 _ _)) (tallied.trans (tallied_counts e.site 6 _ _))
      { n with rowOpen := false, absorbed := 0, acc := [] }
    exact ⟨only.trans (OnlySite.draws ..), arcs, fun h => absurd (eos.symm.trans h) (by decide), fun _ => ⟨node, u.draws, rfl⟩⟩

/-! ### Stage 6 after a row has taken an invocation (R33) -/

section Six
variable {s : State} {cx : Ctx} {srcs : List Src} {body : State → StageEnv → State × Option Inv} {v : Inv} {o : OutSel} (h : AtStage s cx 6 v)
  (one : OneOutput cx o) (harc : arcOf s s.focus 6 = none) {b : State}
include h one harc

/-- Nothing goes on where the output has a slot. -/
theorem fireStage_absorbs (hb : body (setArc s s.focus 5 none) (stageEnv s cx v) = (b, none)) (only : OnlySite s.focus s b)
    (arc : arcOf b s.focus 6 = none) (side : (siteOf b s.focus).node.side2 = none) (hfree : outFree s s.focus o.port o.track = true) :
    fireStage s srcs false body = .next (noteMove b s.focus) := by
  have free : outFree b s.focus o.port o.track = true := (only.outFree ..).trans hfree
  have leaves : leaveSix b s.focus cx none = some b := by
    simp [leaveSix, one.leaveTracks, nodeOutFree, trackAt_element h.element, free, side, arc]
  refine fireStage_goes h (fun _ => flushSix_nothing h.side2 harc) ?_
  rw [show setArc s s.focus (6 - 1) none = setArc s s.focus 5 none from rfl, hb]
  simp only [passOn, takeSix, leaves, Nat.lt_irrefl, if_false]

/-- An invocation that is absorbed waits for the output's slot all the same. -/
theorem fireStage_absorb_waits (hb : body (setArc s s.focus 5 none) (stageEnv s cx v) = (b, none)) (only : OnlySite s.focus s b)
    (hfull : outFree s s.focus o.port o.track = false) : fireStage s srcs false body = .next s := by
  have waits := one.leaveSix_waits h.element ((only.outFree ..).trans hfull) none
  refine fireStage_holds h (fun _ => flushSix_nothing h.side2 harc) ?_
  rw [show setArc s s.focus (6 - 1) none = setArc s s.focus 5 none from rfl, hb]
  simp only [passOn, takeSix, waits, Nat.lt_irrefl, if_false, Option.isSome_none, Bool.false_and, Bool.false_eq_true]

variable {w : Inv} (hb : body (setArc s s.focus 5 none) (stageEnv s cx v) = (b, some w)) (only : OnlySite s.focus s b)
  (arc : arcOf b s.focus 6 = none) (side : (siteOf b s.focus).node.side2 = none)
include hb only arc side

/-- The end of a row is held while the output has no slot. -/
theorem fireStage_row_held (hfull : outFree s s.focus o.port o.track = false) : fireStage s srcs false body =
    .next (noteMove (setArc (endTile b s.focus 6 w.eos w.seq) s.focus 6 (some w)) s.focus) := by
  have tile := tallied_endTile b s.focus 6 w.eos w.seq
  have waits := one.leaveSix_waits h.element (((OnlySite.endTile b s.focus 6 w.eos w.seq).outFree ..).trans ((only.outFree ..).trans hfull)) (some w)
  refine fireStage_goes h (fun _ => flushSix_nothing h.side2 harc) ?_
  rw [show setArc s s.focus (6 - 1) none = setArc s s.focus 5 none from rfl, hb]
  simp only [passOn, takeSix, waits, tile.node, side, arcOf_of_tallied tile, arc, Nat.lt_irrefl, if_false, Option.isSome_some, Option.isNone_none,
    Bool.and_self, if_true]

/-- The end of a row leaves as one token. -/
theorem fireStage_row_leaves (hw : w.kind = 0) (hfree : outFree s s.focus o.port o.track = true) : fireStage s srcs false body =
    .next (noteMove (emitTok (endTile b s.focus 6 w.eos w.seq) s.focus o.port o.track (outToken o w) false) s.focus) := by
  have tile := tallied_endTile b s.focus 6 w.eos w.seq
  have goes := one.leaveSix_leaves h.element (((OnlySite.endTile b s.focus 6 w.eos w.seq).outFree ..).trans ((only.outFree ..).trans hfree))
    (by rw [tile.node, side]) ((arcOf_of_tallied tile ..).trans arc) hw
  refine fireStage_goes h (fun _ => flushSix_nothing h.side2 harc) ?_
  rw [show setArc s s.focus (6 - 1) none = setArc s s.focus 5 none from rfl, hb]
  simp only [passOn, takeSix, goes, Nat.lt_irrefl, if_false]

end Six

/-! ### What a row gives (R532, Table 16.20) -/

theorem vredResult_sump (n : Node) : (vredResult 3 n).2 = 7 ∧ laneOf (vredResult 3 n).1 0 = BitVec.ofNat 32 n.sum ∧
    laneOf (vredResult 3 n).1 2 = BitVec.ofNat 32 n.count := ⟨rfl, rfl, rfl⟩

theorem vredResult_valid {m : Nat} (hm : m ≠ 3) (n : Node) : (vredResult m n).2 = 0xFFFF := by
  simp only [vredResult, if_neg hm]
  split <;> rfl

/-- MAX and MIN give the canonical NaN of a row with a NaN, and else what they hold. -/
theorem vredResult_pick {m : Nat} (hm : m ≤ 1) (n : Node) : (vredResult m n).1 = if n.nan then laneList fun _ => nan32 else n.acc := by
  have other : m ≠ 3 := by omega
  simp only [vredResult, if_neg other, decide_eq_true hm, Bool.true_and]
  split <;> rfl

theorem vredResult_sum (n : Node) : (vredResult 2 n).1 = n.acc := rfl

/-- MAX: the canonical NaN, or a value that no valid lane exceeds (R532). -/
theorem vredResult_max (mode : Rnd) (fz : Bool) (n : Node) (valid : BitVec 16) (a : Lanes) :
    let result := (vredResult 0 (rowAfter 0 mode fz n valid a)).1
    ((∃ l ∈ validLanes valid, isNan32 (laneOf a l) = true) → ∀ j, j < 16 → laneOf result j = nan32) ∧
    (n.rowOpen = false → (∀ l ∈ validLanes valid, isNan32 (laneOf a l) = false) → ∀ j, j < 16 → ∀ l ∈ validLanes valid,
      ltNum (num32 (laneOf result j)) (num32 (laneOf a l)) = false) := by
  obtain ⟨rest, lane, alike⟩ := foldl_vredPick 0 a (validLanes valid) (vredStart 0 n)
  have nan : (rowAfter 0 mode fz n valid a).nan = ((vredStart 0 n).nan || (validLanes valid).any fun l => isNan32 (laneOf a l)) :=
    congrArg Node.nan rest
  intro result
  refine ⟨fun seenNan j hj => ?_, fun closed noNan j hj l hl => ?_⟩
  · have seen : (rowAfter 0 mode fz n valid a).nan = true := by rw [nan, List.any_eq_true.2 seenNan, Bool.or_true]
    rw [show result = _ from vredResult_pick (by decide) _, if_pos seen, laneOf_laneList hj]
  · have unseen : (rowAfter 0 mode fz n valid a).nan = false := by
      rw [nan, List.any_eq_false.2 fun l hl => by rw [noNan l hl]; decide, vredStart_eq, closed]
      rfl
    have all : result = (rowAfter 0 mode fz n valid a).acc :=
      (vredResult_pick (by decide) _).trans (if_neg (by rw [unseen]; decide))
    have begun : laneOf (vredStart 0 n).acc 0 = 0xFF800000 := by
      rw [vredStart_eq, closed]
      rfl
    have largest := foldl_pickMax_max (ws := (validLanes valid).map (laneOf a)) (by simpa using noNan) (a := 0xFF800000) (by decide)
    have held : laneOf result j = ((validLanes valid).map (laneOf a)).foldl (pickMax true) 0xFF800000 :=
      (congrArg (laneOf · j) all).trans ((alike (List.ne_nil_of_mem hl) j hj).trans (lane.trans (by rw [begun]; rfl)))
    rw [held, ltNum_eq_false_iff ((isNan_num32 _).trans largest.1) ((isNan_num32 _).trans (noNan l hl))]
    exact largest.2 _ (.inr (List.mem_map_of_mem hl))

end Sys2Proof.Machine

namespace Sys2Proof.Machine

/-! ### A row in stage 6 (R33, R138, R532, R533) -/

theorem validLanes_eq (v : BitVec 16) : validLanes v = (List.range 16).filter fun l => v.getLsbD l := by simp only [validLanes, bitOf_toNat]

theorem laneOf_srcWord (s : State) (e : StageEnv) (c : Src) {l : Nat} (hl : l < 16) : laneOf (srcWord s e c) l = srcLane s e c l :=
  laneOf_laneList hl

/-- The row of a reducing VRED after the invocation before it. -/
def rowAt (s : State) (cx : Ctx) (v : Inv) (a : Src) (m : BitVec 3) (r : BitVec 3) : Node :=
  rowAfter m.toNat (rndOf r.toNat) false (siteOf s s.focus).node v.valid (srcWord s (stageEnv s cx v) a)

/-- The invocation with which a row ends. -/
def rowEnd (v : Inv) (d : BitVec 2) (m : BitVec 3) (n : Node) (draw : Nat) : Inv :=
  putP { v with kind := 0, eos := true, valid := (vredResult m.toNat n).2 } d
    (freeInvalid draw 0 (vredResult m.toNat n).2 (vredResult m.toNat n).1)

section Stage
variable {s : State} {cx : Ctx} {v : Inv} (h : AtStage s cx 6 v) (hc : computes v) (harc : arcOf s s.focus 6 = none)
  (d : BitVec 2) (a b : Src) {m : BitVec 3} (r : BitVec 3) (hm : m.toNat < 4)
include h hc harc hm

/-- The firing of a reducing VRED before its invocation leaves: what the state holds, and what goes on. -/
theorem vred_fires : ∃ body u out, exec (.vred d a b m false r) s = fireStage s [a] false body ∧
    body (setArc s s.focus 5 none) (stageEnv s cx v) = (u, out) ∧ OnlySite s.focus s u ∧ arcOf u s.focus 5 = none ∧ arcOf u s.focus 6 = none ∧
    (siteOf u s.focus).node.side2 = none ∧
    (v.eos = false → (siteOf u s.focus).node = rowAt s cx v a m r ∧ out = none) ∧
    (v.eos = true → (siteOf u s.focus).node.rowOpen = false ∧ ∃ draw, out = some (rowEnd v d m (rowAt s cx v a m r) draw)) := by
  obtain ⟨body, run, moves⟩ := exec_vred d a b false r hm h.stands hc
  have moved := moves (setArc s s.focus 5 none) (stageEnv s cx v) hc
  have cleared := Computed.setArc s s.focus 5 none
  have word : srcWord (setArc s s.focus 5 none) (stageEnv s cx v) a = srcWord s (stageEnv s cx v) a := by
    have lanes : srcLane (setArc s s.focus 5 none) (stageEnv s cx v) a = srcLane s (stageEnv s cx v) a := funext (cleared.srcLane _ _)
    rw [srcWord, lanes, srcWord]
  have row : rowAfter m.toNat (rndOf r.toNat) false (siteOf (setArc s s.focus 5 none) (stageEnv s cx v).site).node (stageEnv s cx v).inv.valid
      (srcWord (setArc s s.focus 5 none) (stageEnv s cx v) a) = rowAt s cx v a m r := by rw [word, cleared.node]; rfl
  rw [row] at moved
  obtain ⟨only, arcs, absorbed, ended⟩ := moved
  have side : (rowAt s cx v a m r).side2 = none := (rowAfter_rest ..).2.1.trans h.side2
  refine ⟨body, _, _, run, rfl, (OnlySite.setArc ..).trans only, (arcs 5).trans (arcOf_setArc_self _ _ (by decide) _),
    (arcs 6).trans ((arcOf_setArc_ne _ _ (by decide) (by decide) (by decide) _).trans harc), ?_, absorbed, fun he => ?_⟩
  · cases he : v.eos with
    | false => exact (congrArg Node.side2 (absorbed he).1).trans side
    | true => exact (congrArg Node.side2 (ended he).1).trans side
  · obtain ⟨node, draw, out⟩ := ended he
    exact ⟨congrArg Node.rowOpen node, draw, out⟩

variable {o : OutSel} (one : OneOutput cx o)
include one

/-- Without EOS the invocation is absorbed, when the output has a slot. -/
theorem vred_absorbs (he : v.eos = false) (hfree : outFree s s.focus o.port o.track = true) : ∃ t, exec (.vred d a b m false r) s = .next t ∧
    arcOf t s.focus 5 = none ∧ t.chans = s.chans ∧ t.mem = s.mem ∧ (siteOf t s.focus).node = rowAt s cx v a m r := by
  obtain ⟨body, u, out, run, hb, only, arc5, arc6, side, absorbed, -⟩ := vred_fires h hc harc d a b r hm
  obtain ⟨node, rfl⟩ := absorbed he
  refine ⟨_, run.trans (fireStage_absorbs h one harc hb only arc6 side hfree), ?_, ?_, ?_, ?_⟩
  · rw [arcOf_noteMove, arc5]
  · rw [noteMove_chans, only.chans]
  · rw [noteMove_mem, only.mem]
  · rw [node_noteMove, node]

/-- It waits for the output all the same. -/
theorem vred_waits (he : v.eos = false) (hfull : outFree s s.focus o.port o.track = false) : exec (.vred d a b m false r) s = .next s := by
  obtain ⟨body, u, out, run, hb, only, -, -, -, absorbed, -⟩ := vred_fires h hc harc d a b r hm
  obtain ⟨-, rfl⟩ := absorbed he
  exact run.trans (fireStage_absorb_waits h one harc hb only hfull)

/-- With EOS the row ends, and its invocation is held while the output has no slot. -/
theorem vred_held (he : v.eos = true) (hfull : outFree s s.focus o.port o.track = false) : ∃ t draw, exec (.vred d a b m false r) s = .next t ∧
    arcOf t s.focus 5 = none ∧ arcOf t s.focus 6 = some (rowEnd v d m (rowAt s cx v a m r) draw) ∧
    (siteOf t s.focus).node.rowOpen = false ∧ t.chans = s.chans := by
  obtain ⟨body, u, out, run, hb, only, arc5, arc6, side, -, ended⟩ := vred_fires h hc harc d a b r hm
  obtain ⟨closed, draw, rfl⟩ := ended he
  generalize hw : rowEnd v d m (rowAt s cx v a m r) draw = w at hb
  have tile := tallied_endTile u s.focus 6 w.eos w.seq
  have all := only.trans (OnlySite.endTile u s.focus 6 w.eos w.seq)
  refine ⟨_, draw, run.trans (fireStage_row_held h one harc hb only arc6 side hfull), ?_, ?_, ?_, ?_⟩
  · rw [arcOf_noteMove, arcOf_setArc_ne _ _ (by decide) (by decide) (by decide), arcOf_of_tallied tile, arc5]
  · rw [arcOf_noteMove, arcOf_setArc_self _ _ (by decide), hw]
  · rw [node_noteMove, (Computed.setArc ..).node, tile.node, closed]
  · rw [noteMove_chans, ← all.chans]
    rfl

/-- And leaves as one token when it has one. -/
theorem vred_leaves (he : v.eos = true) (hfree : outFree s s.focus o.port o.track = true) {y : SiteId} {q z : Nat}
    (hdest : outDest s s.focus o.port o.track false = some (y, q, z)) : ∃ t draw, exec (.vred d a b m false r) s = .next t ∧
    arcOf t s.focus 5 = none ∧ (siteOf t s.focus).node.rowOpen = false ∧ t.mem = s.mem ∧
    ∀ j, chanOf t j = if chanKey y q z = j then (chanOf s j).sent (outToken o (rowEnd v d m (rowAt s cx v a m r) draw), s.focus, false)
      else chanOf s j := by
  obtain ⟨body, u, out, run, hb, only, arc5, arc6, side, -, ended⟩ := vred_fires h hc harc d a b r hm
  obtain ⟨closed, draw, rfl⟩ := ended he
  have data : (rowEnd v d m (rowAt s cx v a m r) draw).kind = 0 := rfl
  generalize hw : rowEnd v d m (rowAt s cx v a m r) draw = w at hb data
  have tile := tallied_endTile u s.focus 6 w.eos w.seq
  have all := only.trans (OnlySite.endTile u s.focus 6 w.eos w.seq)
  have sends := sends_emitTok (endTile u s.focus 6 w.eos w.seq) s.focus o.port o.track (outToken o w) false
  refine ⟨_, draw, run.trans (fireStage_row_leaves h one harc hb only arc6 side data hfree), ?_, ?_, ?_, fun j => ?_⟩
  · rw [arcOf_noteMove, arcOf, sends.siteOf, ← arcOf, arcOf_of_tallied tile, arc5]
  · rw [node_noteMove, sends.siteOf, tile.node, closed]
  · rw [noteMove_mem, sends.mem, all.mem]
  · rw [chanOf_noteMove, chanOf_emitTok ((all.outDest ..).trans hdest), all.chanOf, hw]

end Stage

/-! ### What the token of a row holds (R532, Table 16.20) -/

section Token
variable {s : State} {cx : Ctx} {v : Inv} {a : Src} {m r : BitVec 3} {d : BitVec 2} {o : OutSel} (draw : Nat)

theorem outToken_rowEnd (n : Node) (hpreg : o.preg = d.toNat) {l : Nat} (hl : l < 16) (hv : (vredResult m.toNat n).2.getLsbD l = true) :
    laneOf (outToken o (rowEnd v d m n draw)).lanes l = laneOf (vredResult m.toNat n).1 l := by
  rw [outToken, hpreg, rowEnd, getElem?_putP_self, laneOf_freeInvalid _ _ _ _ hl hv]

/-- SUMP. -/
theorem rowAt_sump (s : State) (cx : Ctx) (v : Inv) (a : Src) (r : BitVec 3) :
    (rowAt s cx v a 3 r).count = (if (siteOf s s.focus).node.rowOpen then (siteOf s s.focus).node.count else 0) + (validLanes v.valid).length ∧
    (rowAt s cx v a 3 r).sum = min 0xFFFFFFFF ((if (siteOf s s.focus).node.rowOpen then (siteOf s s.focus).node.sum else 0) +
      ((validLanes v.valid).map fun l => p6Units ((srcLane s (stageEnv s cx v) a l).toNat % 256)).sum) := by
  obtain ⟨count, sum⟩ := rowAfter_sump (rndOf r.toNat) false (siteOf s s.focus).node v.valid (srcWord s (stageEnv s cx v) a)
  refine ⟨count, sum.trans ?_⟩
  rw [List.map_congr_left fun l hl => by rw [laneOf_srcWord _ _ _ (mem_validLanes.1 hl).1]]

variable (hpreg : o.preg = d.toNat)
include hpreg

/-- SUMP: the sum in lane 0, the count of lanes in lane 2. -/
theorem rowEnd_sump (n : Node) : laneOf (outToken o (rowEnd v d 3 n draw)).lanes 0 = BitVec.ofNat 32 n.sum ∧
    laneOf (outToken o (rowEnd v d 3 n draw)).lanes 2 = BitVec.ofNat 32 n.count :=
  ⟨outToken_rowEnd (m := 3) draw n hpreg (by decide) (show (7 : BitVec 16).getLsbD 0 = true by decide),
    outToken_rowEnd (m := 3) draw n hpreg (by decide) (show (7 : BitVec 16).getLsbD 2 = true by decide)⟩

/-- SUM: each valid lane added to what its lane held. -/
theorem rowEnd_sum {l : Nat} (hl : l < 16) : laneOf (outToken o (rowEnd v d 2 (rowAt s cx v a 2 r) draw)).lanes l =
    if v.valid.getLsbD l then (fpAdd (rndOf r.toNat)
      (num32 (if (siteOf s s.focus).node.rowOpen then laneOf (siteOf s s.focus).node.acc l else 0)) (num32 (srcLane s (stageEnv s cx v) a l))).1
    else if (siteOf s s.focus).node.rowOpen then laneOf (siteOf s s.focus).node.acc l else 0 := by
  have whole : (vredResult (2 : BitVec 3).toNat (rowAt s cx v a 2 r)).2.getLsbD l = true := by
    rw [vredResult_valid (by decide)]
    interval_cases l <;> rfl
  rw [outToken_rowEnd draw _ hpreg hl whole, ← laneOf_srcWord _ _ _ hl]
  exact rowAfter_sum (rndOf r.toNat) (siteOf s s.focus).node v.valid (srcWord s (stageEnv s cx v) a) hl

/-- MAX: the lanes of its result. -/
theorem rowEnd_max (n : Node) {l : Nat} (hl : l < 16) : laneOf (outToken o (rowEnd v d 0 n draw)).lanes l = laneOf (vredResult 0 n).1 l := by
  refine outToken_rowEnd (m := 0) draw n hpreg hl ?_
  rw [vredResult_valid (by decide)]
  interval_cases l <;> rfl

end Token

/-- Settles O31: the converters by what each makes of a lane (`converts`), a row by what stage 6 does with it (`vred_fires`) and what it
then holds. -/
theorem convertersAndReductions : Obligations.ConvertersAndReductions := by
  unfold Obligations.ConvertersAndReductions
  refine ⟨?_, ?_⟩
  · intro s cx k v h hc hk d a b c fz r m q kind lane x y z mode fp narrow widen nan p6 byteOf gives
    refine ⟨vfcvt_writes h hc hk d a b c kind fz r fun l => ?_, vpqz_writes h hc hk d a c q fun l => ?_,
      vpmul_writes h hc hk d a b q fun l => ?_, fun hm => vred_writes h hc hk d a b fz r hm fun l => ?_⟩
    · refine ⟨?_, ?_, ?_, ?_, ?_, ?_, ?_, ?_, ?_, ?_, ?_, ?_, ?_, ?_⟩
      · rintro rfl; rfl
      · rintro rfl; exact toNat_round32 ..
      · rintro rfl; rfl
      · rintro rfl; exact toNat_round32 ..
      · rintro rfl; exact vcvtLane_bf16 ..
      · rintro rfl; exact vcvtLane_fp16 ..
      · rintro rfl; exact (vcvtLane_f8 ..).1
      · rintro rfl; exact (vcvtLane_f8 ..).2
      · rintro rfl; exact toNat_rne32 _
      · rintro rfl; exact toNat_rne32 _
      · rintro rfl; exact toNat_rne32 _
      · rintro rfl; exact toNat_rne32 _
      · rintro rfl; exact toNat_rne32 _
      · rintro rfl; exact toNat_rne32 _
    · have bytes : ∀ n, n < 4 → byteOf (putByte (lane c l) q.toNat (p6Quant (lane a l)).1).toNat n =
          if n = q.toNat then (p6Quant (lane a l)).1 % 256 else byteOf (z l) n := fun n hn => byte_putByte (lane c l) q.isLt hn _
      have here := (bytes q.toNat q.isLt).trans (if_pos rfl)
      refine ⟨fun n hn hq => (bytes n hn).trans (if_neg hq), fun hx => ?_, fun hn hx => ?_, ?_⟩
      · exact here.trans (congrArg (· % 256) (p6Quant_least (hx.imp_left decide_eq_true)))
      · exact here.trans (congrArg (· % 256) (p6Quant_one (decide_eq_false hn) hx))
      · intro hneg hfin n hn _ t h0 h1 part
        have code := p6Quant_negative hneg hfin hn h0 h1
        refine here.trans ?_
        rw [code, Nat.mod_eq_of_lt (p6Code_lt n (p6Part_le _))]
        rfl
    · exact ⟨fun hn => p6Mul_nan (decide_eq_true hn) _, fun hx => p6Mul_inf hx _, fun hx => p6Mul_fin hx _⟩
    · have zero : y l = 0 → lane b l = 0 := fun hy => BitVec.eq_of_toNat_eq hy
      have pos : y l ≠ 0 → lane b l ≠ 0 := fun hy hb => hy (congrArg BitVec.toNat hb)
      refine ⟨?_, ?_, ?_, ?_, ?_, ?_, ?_, ?_⟩
      · rintro rfl hy
        exact (vredLane_empty _ (zero hy)).1
      · rintro rfl hy hn
        exact (vredLane_nan (pos hy) (decide_eq_true hn)).1
      · rintro rfl hy hn
        exact vredLane_norm (pos hy) (decide_eq_false hn)
      · rintro rfl hy
        exact (vredLane_empty _ (zero hy)).2.1
      · rintro rfl hy hn
        exact (vredLane_nan (pos hy) (decide_eq_true hn)).2
      · rintro rfl hy hn h0
        exact vredLane_lse_one hy (decide_eq_false hn) h0
      · rintro rfl (hy | hx)
        · exact (vredLane_empty _ (zero hy)).2.2
        · exact vredLane_weight_zero _ hx
      · rintro rfl hy hx
        exact vredLane_weight (pos hy) hx
  · intro s cx v o y q z h hc hsels hwidth hfork hsteer hcntl hcarry hcopies hdest harc d a b r m hm x i key lane n lanes p6 total counted acc
    have one : OneOutput cx o := ⟨hsels, hwidth, hfork, hsteer, hcntl, hcarry, hcopies⟩
    have same : validLanes v.valid = lanes := validLanes_eq v.valid
    have sump : (rowAt s cx v a 3 r).count = counted ∧ (rowAt s cx v a 3 r).sum = min 0xFFFFFFFF total := by
      obtain ⟨count, sum⟩ := rowAt_sump s cx v a r
      rw [same] at count sum
      exact ⟨count, sum⟩
    refine ⟨fun he hfree => ?_, fun hfull he => vred_waits h hc harc d a b r hm one he hfull, fun hfull he => ?_, fun he hfree => ?_⟩
    · obtain ⟨t, run, gone, chans, mem, node⟩ := vred_absorbs h hc harc d a b r hm one he hfree
      obtain ⟨opened, -, absorbed⟩ := rowAfter_rest m.toNat (rndOf r.toNat) false n v.valid (srcWord s (stageEnv s cx v) a)
      refine ⟨t, run, gone, chans, mem, (congrArg Node.rowOpen node).trans opened, (congrArg Node.absorbed node).trans absorbed, ?_⟩
      rintro rfl
      exact ⟨(congrArg Node.sum node).trans sump.2, (congrArg Node.count node).trans sump.1⟩
    · obtain ⟨t, draw, run, gone, held, closed, chans⟩ := vred_held h hc harc d a b r hm one he hfull
      exact ⟨t, _, run, gone, held, rfl, rfl, rfl, closed, chans⟩
    · obtain ⟨t, draw, run, gone, closed, mem, sent⟩ := vred_leaves h hc harc d a b r hm one he hfree hdest
      refine ⟨t, _, run, gone, closed, mem, by rw [sent, if_pos rfl]; rfl, fun j hj => by rw [sent, if_neg (Ne.symm hj)],
        rfl, rfl, rfl, ?_, ?_, fun hpreg => ⟨?_, ?_, ?_⟩⟩
      · rintro rfl
        rfl
      · intro h3
        exact vredResult_valid (fun h => h3 (BitVec.eq_of_toNat_eq h)) _
      · rintro rfl
        obtain ⟨sum, count⟩ := rowEnd_sump (v := v) draw hpreg (rowAt s cx v a 3 r)
        rw [sum, count, sump.1, sump.2, BitVec.toNat_ofNat, BitVec.toNat_ofNat]
        exact ⟨Nat.mod_eq_of_lt (Nat.lt_of_le_of_lt (Nat.min_le_left ..) (by decide)), rfl⟩
      · rintro rfl l hl
        exact rowEnd_sum draw hpreg hl
      · rintro rfl
        have lanesOf : ∀ l ∈ lanes, laneOf (srcWord s (stageEnv s cx v) a) l = lane l := fun l hl =>
          laneOf_srcWord _ _ _ (List.mem_range.1 (List.mem_filter.1 hl).1)
        obtain ⟨nan, largest⟩ := vredResult_max (rndOf r.toNat) false n v.valid (srcWord s (stageEnv s cx v) a)
        rw [same] at nan largest
        refine ⟨fun ⟨l, hl, hn⟩ j hj => ?_, fun closed noNan j hj l hl => ?_⟩
        · exact (rowEnd_max draw hpreg _ hj).trans (nan ⟨l, hl, by rw [lanesOf l hl, hn]⟩ j hj)
        · have least := largest closed (fun l hl => by rw [lanesOf l hl, noNan l hl]) j hj l hl
          rw [lanesOf l hl] at least
          rw [rowEnd_max draw hpreg _ hj]
          exact least

end Sys2Proof.Machine

namespace Sys2Proof.Machine

/-! ### Pseudo-channels and sites asleep (R180, R181, R283, R284) -/

section Channels
variable (s : State) (d : DieId) (p : BitVec 7)

/-- A die that has been changed. -/
theorem dieOf_modDie (f : Die → Die) (e : DieId) : dieOf (modDie s d f) e = if d = e then f (dieOf s d) else dieOf s e :=
  dieOf_setDie s d e (f (dieOf s d))

/-- The state of each pseudo-channel after one has been put into a state. -/
theorem channelState_putPc (v : PcState) (q : BitVec 7) :
    channelState (putPc s d p v) d q.toNat = if p = q then v else channelState s d q.toNat := by
  simp only [channelState, putPc, dieOf_modDie, if_pos, tblGet_tblSet, BitVec.toNat_inj]
  split <;> rfl

/-- Putting a pseudo-channel into a state leaves the idle timers. -/
theorem lastRequest_putPc (v : PcState) (q : BitVec 7) : lastRequest (putPc s d p v) d q = lastRequest s d q := by
  simp only [lastRequest, putPc, dieOf_modDie, if_pos]

/-- A request leaves the state of each pseudo-channel. -/
theorem channelState_touchChannel (q : BitVec 7) : channelState (touchChannel s d p.toNat) d q.toNat = channelState s d q.toNat := by
  simp only [channelState, touchChannel, dieOf_modDie, if_pos]

/-- A request starts the idle timer of its pseudo-channel again. -/
theorem lastRequest_touchChannel (q : BitVec 7) :
    lastRequest (touchChannel s d p.toNat) d q = if p = q then s.ticks else lastRequest s d q := by
  simp only [lastRequest, touchChannel, dieOf_modDie, if_pos, tblGet_tblSet, BitVec.toNat_inj]
  split <;> rfl

/-- Other dies keep what they have when a pseudo-channel changes its state. -/
theorem dieOf_putPc_ne (v : PcState) {e : DieId} (h : e ≠ d) : dieOf (putPc s d p v) e = dieOf s e := by
  rw [putPc, dieOf_modDie, if_neg (Ne.symm h)]

/-- Other dies keep what they have when a pseudo-channel has a request. -/
theorem dieOf_touchChannel_ne {e : DieId} (h : e ≠ d) : dieOf (touchChannel s d p.toNat) e = dieOf s e := by
  rw [touchChannel, dieOf_modDie, if_neg (Ne.symm h)]

end Channels

section Sleep
variable {s : State} {x : SiteId}

/-- A site does not grow drowsy before its time, and one that is none never does. -/
theorem execDrowsy_early (h : ¬ (siteOk x = true ∧ (siteOf s x).lastFire + 2048 ≤ (dieOf s (siteDie x)).cyc)) :
    execDrowsy x s = .next s :=
  if_neg (by simpa using h)

/-- A site that has not fired for 2,048 cycles grows drowsy. -/
theorem execDrowsy_idle (h : siteOk x = true ∧ (siteOf s x).lastFire + 2048 ≤ (dieOf s (siteDie x)).cyc) :
    execDrowsy x s = .next (modSite s x fun k => { k with drowsy := true }) :=
  if_pos (by simpa using h)

/-- A site may be gated exactly if it is one of the fabric, is no memory element, and holds no context, no token and no rows. -/
theorem mayGate_iff :
    mayGate s x = true ↔ siteKind x ≠ 1 ∧ siteOk x = true ∧ siteBusy s x = false ∧ (siteOf s x).tile.rows = [] := by
  simp only [mayGate, siteEmpty, Bool.and_eq_true, bne_iff_ne, Bool.not_eq_true', List.isEmpty_iff, and_assoc]

/-- A site with a loaded context is busy. -/
theorem siteBusy_of_ctx {i : Fin 4} (h : (siteOf s x).ctxs[i].isSome) : siteBusy s x = true := by
  have any : (siteOf s x).ctxs.toList.any (·.isSome) = true :=
    List.any_eq_true.2 ⟨_, Vector.mem_toList_iff.2 (Vector.getElem_mem i.isLt), h⟩
  simp only [siteBusy, any, Bool.true_or]

/-- A change of one site leaves every part of the state but the sites, and the other sites. -/
theorem modSite_only (f : Site → Site) :
    modSite s x f = { s with sites := (modSite s x f).sites } ∧ ∀ y, y ≠ x → siteOf (modSite s x f) y = siteOf s y :=
  ⟨rfl, fun _ h => siteOf_modSite_ne s f h⟩

end Sleep

/-- Settles O45: each step by its test; what a pseudo-channel keeps by `putPc` and `touchChannel`, what a site keeps by `modSite`. -/
theorem unitsSleepAndWake : Obligations.UnitsSleepAndWake := by
  unfold Obligations.UnitsSleepAndWake
  refine ⟨fun s d p => ?_, fun s x => ?_⟩
  · intro state since changes
    have put (v : PcState) (i : Instr) (run : exec i s = .next (putPc s d p v)) : changes i v since :=
      ⟨_, run, (channelState_putPc s d p v p).trans (if_pos rfl), lastRequest_putPc s d p v p,
        fun q hq => ⟨(channelState_putPc s d p v q).trans (if_neg (Ne.symm hq)), lastRequest_putPc s d p v q⟩,
        rfl, fun e he => dieOf_putPc_ne s d p v he⟩
    refine ⟨fun h => congrArg Host.Outcome.next (if_neg ?_), fun h t => put _ _ (congrArg Host.Outcome.next (if_pos ?_)),
      fun h => congrArg Host.Outcome.next (if_neg ?_), fun h t => put _ _ (congrArg Host.Outcome.next (if_pos ?_)),
      fun h => congrArg Host.Outcome.next (if_pos h), fun h => ⟨_, congrArg Host.Outcome.next (if_neg h), ?_, ?_, fun q hq => ⟨?_, ?_⟩, rfl, fun e he => ?_⟩⟩
    · simpa [Classical.or_iff_not_imp_left, state, since] using h
    · simpa [state, since] using And.intro h t
    · simpa [Classical.or_iff_not_imp_left, state, since] using h
    · simpa [state, since] using And.intro h t
    · exact (channelState_touchChannel _ d p p).trans ((channelState_putPc s d p .active p).trans (if_pos rfl))
    · exact (lastRequest_touchChannel _ d p p).trans (if_pos rfl)
    · exact (channelState_touchChannel _ d p q).trans ((channelState_putPc s d p .active q).trans (if_neg (Ne.symm hq)))
    · exact (lastRequest_touchChannel _ d p q).trans ((if_neg (Ne.symm hq)).trans (lastRequest_putPc s d p .active q))
    · exact (dieOf_touchChannel_ne _ d p he).trans (dieOf_putPc_ne s d p .active he)
  · intro k idle only
    refine ⟨execDrowsy_early, fun h => ⟨_, execDrowsy_idle h, siteOf_modSite_self s x _, modSite_only _⟩,
      ⟨_, rfl, siteOf_modSite_self s x _, modSite_only _⟩, fun h => congrArg Host.Outcome.next (if_neg fun gate => ?_), fun hok hkind hrows hbusy => ?_⟩
    · obtain ⟨hkind, hok, hbusy, hrows⟩ := mayGate_iff.1 gate
      rcases h with ⟨i, hi⟩ | h | h | h | h
      · exact absurd (siteBusy_of_ctx hi) (by simp [hbusy])
      · exact hkind h
      · simp [hok] at h
      · exact h hrows
      · simp [hbusy] at h
    · refine ⟨_, congrArg Host.Outcome.next (if_pos (mayGate_iff.2 ⟨hkind, hok, hbusy, hrows⟩)), ?_, ?_, ?_, modSite_only _⟩ <;>
        rw [siteOf_modSite_self] <;> rfl

end Sys2Proof.Machine

namespace Sys2Proof.Machine

/-! ### SX words at issue (R536, R539 to R553): the checks that hold let the command go -/

/-- A field of one bit is that bit. -/
theorem opField_bit (v : Word) (n : Nat) : (opField v n 1 == 1) = v.getLsbD n := by
  rw [opField, bitsAt, BitVec.getLsbD, Nat.testBit_eq_decide_div_mod_eq]
  rfl

/-- A field from bit 0 on. -/
theorem opField_zero (v : Word) (n : Nat) : opField v 0 n = v.toNat % 2 ^ n := by
  rw [opField, bitsAt, pow_zero, Nat.div_one]

/-- A check that holds leaves the others. -/
@[simp] theorem issueChecks_none (gs : List (Option Out)) (go : Out) : issueChecks (none :: gs) go = issueChecks gs go := rfl

/-- Without a check the word issues. -/
@[simp] theorem issueChecks_nil (go : Out) : issueChecks [] go = go := rfl

/-- An aligned operand passes. -/
theorem alignGate_aligned {s : State} {va n : Nat} (h : va % n = 0) : alignGate s va n = none := if_pos h

/-- A range passes the check for its form and against the manifest when it is empty or both find nothing. -/
theorem manifestGate_free {s : State} {va n : Nat} {a : Acc}
    (h : n = 0 ∨ formFault va n = none ∧ checkManifest (whoSeq s) va n a = none) : manifestGate s va n a = none := by
  unfold manifestGate
  split
  · rfl
  · obtain ⟨form, regions⟩ := h.resolve_left ‹_›
    rw [form, Option.orElse_none, regions]
    rfl

/-- An index array passes when it is aligned and empty or allowed. -/
theorem indexGate_free {s : State} {c : Cmd} (ha : opVa c.opB % 4 = 0) (h : opField c.opC 0 32 = 0 ∨
    formFault (opVa c.opB) (4 * opField c.opC 0 32) = none ∧ checkManifest (whoSeq s) (opVa c.opB) (4 * opField c.opC 0 32) .engRead = none) :
    indexGate s c = none := by
  rw [indexGate, alignGate_aligned ha]
  exact manifestGate_free (h.imp_left (congrArg (4 * ·)))

/-- Bytes that can be read at issue, and are not refused for poison, come with the state after the read. -/
theorem issueRead_reads {s u : State} {die : DieId} {va n : Nat} {bs : List Byte} {bad : List Bool} (go : State → List Byte → Out)
    (hr : engRead s (whoNow s die) { acc := .engRead } va n = .ok (u, bs, bad)) (hb : (strictSlice s && bad.any id) = false) :
    issueRead s die va n go = go u bs := by
  simp only [issueRead, hr, hb, Bool.false_eq_true, if_false]

/-- A table record that is read and well formed goes on with the word. -/
theorem withTable_reads {s u : State} {c : Cmd} {die : DieId} {bs : List Byte} {bad : List Bool} (go : State → Cmd → TableRec → Out)
    (ha : opVa c.opA % 64 = 0) (hr : engRead s (whoNow s die) { acc := .engRead } (opVa c.opA) 64 = .ok (u, bs, bad))
    (hb : (strictSlice s && bad.any id) = false) (ht : tableOk bs = true) :
    withTable s c die go = go u { c with payload := bs } (tableOf bs) := by
  simp only [withTable, alignGate_aligned ha, issueRead_reads _ hr hb, ht, Bool.not_true, Bool.false_eq_true, if_false]

/-- A descriptor that may be accessed gives the engine of its home. -/
theorem withDesc_found {s u : State} {c : Cmd} {a : Acc} {t : Target} (go : EngineId → Out) (ha : opVa c.opA % 64 = 0)
    (ht : engCheck s (whoNow s (curDie s)) { acc := a } (opVa c.opA) 64 = .ok (u, t)) :
    withDesc s c a go = go (engineId (memoryDie (curDie s) (t.pa s.cur)) 18) := by
  simp only [withDesc, alignGate_aligned ha, ht]

/-- A stream's record that may be read, need not wait and is not poisoned goes on with the word. -/
theorem readStreamRecord_reads {s u : State} {va : Nat} {t : Target} (go : State → List Byte → Out)
    (ht : checkAccess s (whoSeq s) va 64 .engRead false (fun l pa => seqPage l pa .load false) = .ok (u, t))
    (hp : privDevice s t 64 = false) (hh : targetHeld s t .load = false) (hb : targetPoisoned (settle u t .load) t .load = false) :
    readStreamRecord s va go = go (seqRead (settle u t .load) t 64).1 (seqRead (settle u t .load) t 64).2 := by
  simp only [readStreamRecord, ht, withTarget, hp, hh, hb, Bool.false_eq_true, if_false]

/-- What a word that issues sends: its command, with the operands from X[b] on, goes from a state with a record to an engine. -/
def SendsCommand (s : State) (e : BitVec 4) (b r : Reg) (o : Out) (u : State) (op : EngOp) (code : Nat) (target : EngineId)
    (record : List Byte) : Prop :=
  ∃ t x, o = .next t ∧ t = modCore u (fun k => { k with msgSeq := k.msgSeq + 1, sx := some x }) ∧ x.reply = r ∧
    x.target = target ∧ x.cmd.op = op ∧ x.cmd.cmd6.toNat = code ∧ x.cmd.eng4 = e ∧
    (x.cmd.opA, x.cmd.opB, x.cmd.opC, x.cmd.opD) = (readReg s b, readReg s (b + 1), readReg s (b + 2), readReg s (b + 3)) ∧
    x.cmd.core = s.cur ∧ x.cmd.slice = curSliceId s ∧ x.cmd.pc = pcOf s ∧ x.cmd.msgSeq = (curCore u).msgSeq ∧ x.cmd.payload = record ∧
    (x.cmd.asid, x.cmd.ptBase) = ((curCore s).regs.asid, (curCore s).regs.ptBase)

/-- The first operand of an SX word is X[b]. -/
theorem sxOperand_zero (s : State) (b : Reg) : sxOperand s b 0 = readReg s b := congrArg (readReg s) (BitVec.add_zero b)

section Words
variable {s : State} {e : BitVec 4} {b r : Reg} {op : EngOp} {code : Nat}

@[simp] theorem sxCmd_opA : (sxCmd s op code e b).opA = readReg s b := sxOperand_zero s b
@[simp] theorem sxCmd_opB : (sxCmd s op code e b).opB = readReg s (b + 1) := rfl
@[simp] theorem sxCmd_opC : (sxCmd s op code e b).opC = readReg s (b + 2) := rfl
@[simp] theorem sxCmd_opD : (sxCmd s op code e b).opD = readReg s (b + 3) := rfl

/-- The command sent is the word's own, with the record read and the element size found at issue. -/
theorem sendSx_sends (u : State) (target : EngineId) (record : List Byte) (size : Nat) (hcode : code < 64) :
    SendsCommand s e b r (sendSx u { sxCmd s op code e b with payload := record, esize := size } r target) u op code target record :=
  ⟨_, _, rfl, rfl, rfl, rfl, rfl, Nat.mod_eq_of_lt hcode, rfl, congrArg (·, _) (sxOperand_zero s b), rfl, rfl, rfl, rfl, rfl, rfl⟩

variable (hsx : (curCore s).sx = none)
include hsx

/-- A word without an answer outstanding issues. -/
theorem sxWord_issues (go : Out) : sxWord s go = go := if_neg (by simp [hsx])

section Free
variable (hcode : code < 64)
include hcode

/-- XCOPY sends when its sync tag and its completion address pass. -/
theorem copyWord_sends (sync : syncGate s (opField (readReg s (b + 3)) 56 1 == 1) (opField (readReg s (b + 2)) 40 24) = none)
    (cword : cwordGate s (readReg s (b + 3)) = none) :
    SendsCommand s e b r (copyWord op code e b r s) s op code (engineId (dieOf4 e) 17) [] := by
  simp only [copyWord, sxWord_issues hsx, sxCmd_opC, sxCmd_opD, sync, cword, issueChecks_none, issueChecks_nil]
  exact sendSx_sends s _ [] 1 hcode

/-- XPREF sends when its sync tag passes. -/
theorem prefWord_sends (sync : syncGate s (opField (readReg s (b + 2)) 56 1 == 1) (opField (readReg s (b + 2)) 32 24) = none) :
    SendsCommand s e b r (prefWord op code e b r s) s op code (engineId (dieOf4 e) 21) [] := by
  simp only [prefWord, sxWord_issues hsx, sxCmd_opC, sync, issueChecks_none, issueChecks_nil]
  exact sendSx_sends s _ [] 1 hcode

/-- XLOG sends in supervisor mode when its completion address passes. -/
theorem logWord_sends (hsup : (curCore s).sup = true) (cword : cwordGate s (readReg s (b + 3)) = none) :
    SendsCommand s e b r (logWord op code e b r s) s op code (engineId (dieOf4 e) 20) [] := by
  simp only [logWord, hsup, Bool.not_true, Bool.false_eq_true, if_false, sxWord_issues hsx, sxCmd_opD, cword, issueChecks_none,
    issueChecks_nil]
  exact sendSx_sends s _ [] 1 hcode

/-- XREDUCE sends the list of its sources when it can be read and the completion address passes. -/
theorem reduceWord_sends {u : State} {bs : List Byte} {bad : List Bool} (ha : opVa (readReg s (b + 1)) % 8 = 0)
    (hr : engRead s (whoNow s (dieOf4 e)) { acc := .engRead } (opVa (readReg s (b + 1))) (8 * (opField (readReg s (b + 2)) 32 4 + 1)) =
      .ok (u, bs, bad)) (hb : (strictSlice s && bad.any id) = false) (cword : cwordGate s (readReg s (b + 3)) = none) :
    SendsCommand s e b r (reduceWord op code e b r s) u op code (engineId (dieOf4 e) 19) bs := by
  simp only [reduceWord, sxWord_issues hsx, sxCmd_opB, sxCmd_opC, sxCmd_opD, alignGate_aligned ha, issueRead_reads _ hr hb, cword,
    issueChecks_none, issueChecks_nil]
  exact sendSx_sends u _ bs 1 hcode

end Free

section Table
variable {u : State} {bs : List Byte} {bad : List Bool} (ha : opVa (readReg s b) % 64 = 0)
  (hr : engRead s (whoNow s (dieOf4 e)) { acc := .engRead } (opVa (readReg s b)) 64 = .ok (u, bs, bad))
  (hb : (strictSlice s && bad.any id) = false) (ht : tableOk bs = true)
include ha hr hb ht

/-- A gallery word goes on with its table record. -/
theorem tableWord_issues (go : State → Cmd → TableRec → Out) :
    sxWord s (withTable s (sxCmd s op code e b) (dieOf4 e) go) = go u { sxCmd s op code e b with payload := bs } (tableOf bs) := by
  rw [sxWord_issues hsx]
  exact withTable_reads go (by rwa [sxCmd_opA]) (by rwa [sxCmd_opA]) hb ht

/-- XMIGRATE sends its table record when its completion address passes. -/
theorem migrate_sends (cword : cwordGate s (readReg s (b + 3)) = none) :
    SendsCommand s e b r (execXmigrate e b r s) u .migrate 0 (engineId (dieOf4 e) 16) bs := by
  simp only [execXmigrate, tableWord_issues hsx ha hr hb ht, sxCmd_opD, cword, issueChecks_none, issueChecks_nil]
  exact sendSx_sends u _ bs 1 (by decide)

section Indexed
variable (hcode : code < 64) (index : indexGate s { sxCmd s op code e b with payload := bs } = none)
include hcode index

/-- XGATHER sends its table record when its indices, the mode of its rows, if it is one to a port, and its sync tag pass. -/
theorem gatherWord_sends (mode : op = .gatherPort → decodable (tableOf bs).fmt (opField (readReg s (b + 3)) 20 4) = true)
    (sync : syncGate s (opField (readReg s (b + 2)) 56 1 == 1) (opField (readReg s (b + 2)) 32 24) = none) :
    SendsCommand s e b r (gatherWord op code e b r s) u op code (engineId (dieOf4 e) 16) bs := by
  have pass : (decide (op = .gatherPort) && !decodable (tableOf bs).fmt (opField (readReg s (b + 3)) 20 4)) = false := by
    simpa using mode
  simp only [gatherWord, tableWord_issues hsx ha hr hb ht, index, issueChecks_none]
  simp only [sxCmd_opC, sxCmd_opD, pass, Bool.false_eq_true, if_false, sync, issueChecks_none, issueChecks_nil]
  exact sendSx_sends (op := op) u _ bs 1 hcode

/-- XSCATTER and XROWUPD send their table record when their indices pass, the mode of the rows, if they compute on them, and, if they
update them, an optimizer is named. -/
theorem rowWord_sends (mode : op ≠ .scatterWrite → decodable (tableOf bs).fmt 1 = true) (opt : op = .rowUpd → (tableOf bs).opt ≠ 0) :
    SendsCommand s e b r (rowWord op code e b r s) u op code (engineId (dieOf4 e) 16) bs := by
  have pass : (decide (op ≠ .scatterWrite) && !decodable (tableOf bs).fmt 1) = false := by simpa using mode
  have named : (decide (op = .rowUpd) && decide ((tableOf bs).opt = 0)) = false := by simpa using opt
  simp only [rowWord, tableWord_issues hsx ha hr hb ht, index, pass, named, Bool.false_eq_true, if_false, issueChecks_none,
    issueChecks_nil]
  exact sendSx_sends u _ bs 1 hcode

end Indexed
end Table

section Descriptor
variable {u : State} {t : Target} (ha : opVa (readReg s b) % 64 = 0)
include ha

/-- A KV word goes on with the engine of its descriptor's home. -/
theorem descWord_issues {a : Acc} (ht : engCheck s (whoNow s (curDie s)) { acc := a } (opVa (readReg s b)) 64 = .ok (u, t))
    (go : EngineId → Out) :
    sxWord s (withDesc s (sxCmd s op code e b) a go) = go (engineId (memoryDie (curDie s) (t.pa s.cur)) 18) := by
  rw [sxWord_issues hsx]
  exact withDesc_found go (by rwa [sxCmd_opA]) (by rwa [sxCmd_opA])

/-- XKVSEND sends when its list is aligned and its completion address passes. -/
theorem kvsend_sends (ht : engCheck s (whoNow s (curDie s)) { acc := .engRead } (opVa (readReg s b)) 64 = .ok (u, t))
    (list : opVa (readReg s (b + 1)) % 64 = 0) (cword : cwordGate s (readReg s (b + 3)) = none) :
    SendsCommand s e b r (execXkvsend e b r s) s .kvSend 0 (engineId (memoryDie (curDie s) (t.pa s.cur)) 18) [] := by
  simp only [execXkvsend, descWord_issues hsx ha ht, sxCmd_opB, sxCmd_opD, alignGate_aligned list, cword, issueChecks_none, issueChecks_nil]
  exact sendSx_sends s _ [] 1 (by decide)

variable (ht : engCheck s (whoNow s (curDie s)) { acc := .engWrite } (opVa (readReg s b)) 64 = .ok (u, t))
include ht

/-- XKVAPP.APPEND sends when its source and its completion address pass. -/
theorem kvappAppend_sends (source : appendGate s (sxCmd s .kvAppend 0 e b) = none) (cword : cwordGate s (readReg s (b + 3)) = none) :
    SendsCommand s e b r (execXkvappAppend e b r s) s .kvAppend 0 (engineId (memoryDie (curDie s) (t.pa s.cur)) 18) [] := by
  simp only [execXkvappAppend, descWord_issues hsx ha ht, source, sxCmd_opD, cword, issueChecks_none, issueChecks_nil]
  exact sendSx_sends s _ [] 1 (by decide)

/-- XKVAPP.EVICT sends when its list is aligned and allowed and its completion address passes. -/
theorem kvappEvict_sends (list : opVa (readReg s (b + 1)) % 8 = 0)
    (free : manifestGate s (opVa (readReg s (b + 1))) (16 + 8 * opField (readReg s (b + 2)) 0 32) .engRead = none)
    (cword : cwordGate s (readReg s (b + 3)) = none) :
    SendsCommand s e b r (execXkvappEvict e b r s) s .kvEvict 1 (engineId (memoryDie (curDie s) (t.pa s.cur)) 18) [] := by
  simp only [execXkvappEvict, descWord_issues hsx ha ht, sxCmd_opB, sxCmd_opC, sxCmd_opD, alignGate_aligned list, free, cword,
    issueChecks_none, issueChecks_nil]
  exact sendSx_sends s _ [] 1 (by decide)

/-- XKVAPP.FREE sends when its completion address passes. -/
theorem kvappFree_sends (cword : cwordGate s (readReg s (b + 3)) = none) :
    SendsCommand s e b r (execXkvappFree e b r s) s .kvFree 2 (engineId (memoryDie (curDie s) (t.pa s.cur)) 18) [] := by
  simp only [execXkvappFree, descWord_issues hsx ha ht, sxCmd_opD, cword, issueChecks_none, issueChecks_nil]
  exact sendSx_sends s _ [] 1 (by decide)

end Descriptor

section Stream
variable {u : State} {t : Target} (ha : opVa (readReg s b) % 64 = 0)
  (ht : checkAccess s (whoSeq s) (opVa (readReg s b)) 64 .engRead false (fun l pa => seqPage l pa .load false) = .ok (u, t))
  (hp : privDevice s t 64 = false) (hh : targetHeld s t .load = false) (hb : targetPoisoned (settle u t .load) t .load = false)
include ha ht hp hh hb

/-- XSTREAM goes on with the checks of the record it has read. -/
theorem streamWord_reads :
    execXstream e b r s =
      streamChecks (seqRead (settle u t .load) t 64).1 { sxCmd s .stream 0 e b with payload := (seqRead (settle u t .load) t 64).2 }
        fun c => sendSx (seqRead (settle u t .load) t 64).1 c r (engineId (curDie s) e.toNat) := by
  simp only [execXstream, sxWord_issues hsx, sxCmd_opA, alignGate_aligned ha, issueChecks_none, issueChecks_nil,
    readStreamRecord_reads _ ht hp hh hb]

end Stream
end Words

section Checks
variable {v : State} {c : Cmd} (go : Cmd → Out) (hok : streamOk c = true)
  (sync : syncGate v (c.field 4 28 1 == 1) (c.field 4 32 24) = none)
include hok sync

/-- A chase of the KV path issues when its base is aligned and may be read. -/
theorem streamChecks_kv (hk : c.kind = 4) (base : c.base % 64 = 0)
    (range : engCheckRange v (whoNow v (curDie v)) { acc := .engRead } c.base 64 = none) : streamChecks v c go = go c := by
  have gate : rangeGate v (curDie v) { acc := .engRead } c.base 64 = none := by rw [rangeGate, range]; rfl
  simp only [streamChecks, hok, Bool.not_true, Bool.false_eq_true, if_false, hk, if_true, alignGate_aligned base, gate, sync,
    issueChecks_none, issueChecks_nil]

/-- Another stream issues when its first page takes the record, its indices are aligned, and its range and its first byte pass. -/
theorem streamChecks_page {f k : Nat} (hk : c.kind ≠ 4) (index : c.kind = 2 → c.index % 4 = 0) (page : firstPage v c = .ok (f, k))
    (range : streamRange v { c with esize := pageElem f c.form } (if f = 5 then some k else none) = none) (first : firstGate v c = none) :
    streamChecks v c go = go { c with esize := pageElem f c.form } := by
  have aligned : (if c.kind = 2 then alignGate v c.index 4 else none) = none := by
    split
    · exact alignGate_aligned (index ‹_›)
    · rfl
  simp only [streamChecks, hok, Bool.not_true, Bool.false_eq_true, if_false, hk, page, aligned, range, first, sync, issueChecks_none,
    issueChecks_nil]

end Checks

/-- A sync tag is named by fields of two operands: the bit that enables it, and its number. -/
theorem syncGate_field {s : State} (v : Word) (en : Nat) (w : Word) (lo : Nat)
    (h : syncGate s (v.getLsbD en) (w.toNat / 2 ^ lo % 2 ^ 24) = none) : syncGate s (opField v en 1 == 1) (opField w lo 24) = none := by
  rw [opField_bit]
  exact h

/-- Settles O27: each word by its checks, which all pass, and the command `sendSx` makes of it. -/
theorem engineWordsIssueTheirCommand : Obligations.EngineWordsIssueTheirCommand := by
  unfold Obligations.EngineWordsIssueTheirCommand
  intro s e b r A B C D va die sent sync cword table free index home all
  have word {i : Instr} {o : Out} {u : State} {op : EngOp} {code : Nat} {target : EngineId} {record : List Byte}
      (h : SendsCommand s e b r o u op code target record) (run : exec i s = o) : sent i u op code target record := by
    rw [← run] at h
    exact h
  have address : va = opVa := funext fun v => (opField_zero v 56).symm
  clear_value va
  subst address
  refine ⟨fun h i hi => ?_, fun h i hi => ?_, fun hsx => ?_⟩
  · have waits (go : Out) : sxWord s go = .next s := if_pos h
    simp only [all, List.mem_cons, List.not_mem_nil, or_false] at hi
    rcases hi with rfl | rfl | rfl | rfl | rfl | rfl | rfl | rfl | rfl | rfl | rfl | rfl | rfl | rfl | rfl | rfl | rfl | rfl | rfl <;>
      exact waits _
  · have priv (op : EngOp) (code : Nat) : ∃ t, logWord op code e b r s = .next t ∧ Trapped s t 0x0D (pcOf s) 0 0 := by
      rw [logWord, h]
      exact trapPriv_trapped s
    simp only [List.mem_cons, List.not_mem_nil, or_false] at hi
    rcases hi with rfl | rfl | rfl
    all_goals exact priv _ _
  · have indexed {c : Cmd} (hb : c.opB = B) (hc : c.opC = C) (h : index) : indexGate s c = none := by
      obtain ⟨aligned, allowed⟩ := h
      refine indexGate_free (by rwa [hb]) ?_
      rw [hb, hc, opField_zero]
      exact allowed
    refine ⟨fun t c => ⟨word (copyWord_sends hsx (by decide) (syncGate_field D 56 C 40 t) c) rfl,
        word (copyWord_sends hsx (by decide) (syncGate_field D 56 C 40 t) c) rfl⟩,
      fun t => ⟨word (prefWord_sends hsx (by decide) (syncGate_field C 56 C 32 t)) rfl,
        word (prefWord_sends hsx (by decide) (syncGate_field C 56 C 32 t)) rfl⟩,
      fun hsup c => ⟨word (logWord_sends hsx (by decide) hsup c) rfl, word (logWord_sends hsx (by decide) hsup c) rfl,
        word (logWord_sends hsx (by decide) hsup c) rfl⟩,
      fun ha u tg ht source c => word (kvappAppend_sends hsx ha ht source c) rfl,
      fun ha u tg ht list allowed c => word (kvappEvict_sends hsx ha ht list ?_ c) rfl,
      fun ha u tg ht c => word (kvappFree_sends hsx ha ht c) rfl,
      fun ha u tg ht list c => word (kvsend_sends hsx ha ht list c) rfl,
      fun ha u bs bad hr hb ht i t => ⟨fun mode => ?_, ?_⟩, fun ha u bs bad hr hb ht i => ⟨?_, fun mode => ?_, fun mode opt => ?_⟩,
      fun ha u bs bad hr hb ht c => word (migrate_sends hsx ha hr hb ht c) rfl,
      fun ha u bs bad hr hb c => ⟨?_, ?_, ?_, ?_⟩,
      fun ha u g ht hp hh hb => ?_⟩
    · rw [opField_zero]
      exact manifestGate_free (.inr allowed)
    · exact word (gatherWord_sends hsx ha hr hb ht (by decide) (indexed rfl rfl i) (fun _ => mode) (syncGate_field C 56 C 32 t)) rfl
    · exact word (gatherWord_sends hsx ha hr hb ht (by decide) (indexed rfl rfl i) (fun h => nomatch h) (syncGate_field C 56 C 32 t)) rfl
    · exact word (rowWord_sends hsx ha hr hb ht (by decide) (indexed rfl rfl i) (fun h => absurd rfl h) fun h => nomatch h) rfl
    · exact word (rowWord_sends hsx ha hr hb ht (by decide) (indexed rfl rfl i) (fun _ => mode) fun h => nomatch h) rfl
    · exact word (rowWord_sends hsx ha hr hb ht (by decide) (indexed rfl rfl i) (fun _ => mode) fun _ => opt) rfl
    iterate 4 exact word (reduceWord_sends hsx (by decide) ha hr hb c) rfl
    · intro v c hok sync
      have run := streamWord_reads hsx ha ht hp hh hb (e := e) (r := r)
      refine ⟨fun hk base range => ?_, fun hk index f k page range first => ?_⟩
      · exact word ((streamChecks_kv _ hok sync hk base range).symm ▸ sendSx_sends v _ _ _ (by decide)) run
      · exact word ((streamChecks_page _ hok sync hk index page range first).symm ▸ sendSx_sends v _ _ _ (by decide)) run

end Sys2Proof.Machine

namespace Sys2Proof.Machine

/-! ### A CAS that finds what it compares with, and the lines a host holds (R219, R350, R412) -/

/-- A supervisor's core that owns line 0, whose page its TLB maps as writable, and the lines a host is listed to hold. -/
def heldBy (lines : List Nat) : State :=
  { State.reset with
    hostLines := lines
    cores := [(0, {
      l1 := [{ line := 0, data := List.replicate 64 0, own := true }]
      tlb := [{ asid := 0, va := 0, span := 0x1000, pte := 0x6F }] })] }

/-- The leaf that maps address 0 there. -/
def heldLeaf : Leaf := { pte := 0x6F, va := 0, span := 0x1000 }

/-- Address 0 by its leaf. -/
def heldTarget : Target := .phys 0 heldLeaf

section Held
variable (lines : List Nat)

/-- The core's TLB maps address 0. -/
theorem findLeaf_heldBy : findLeaf (heldBy lines) (whoSeq (heldBy lines)) 0 true = .ok { leaf := heldLeaf, entry := none } := rfl

/-- Its one entry is used and put back. -/
theorem useLeaf_heldBy (setD : Bool) :
    useLeaf (heldBy lines) (whoSeq (heldBy lines)) 0 { leaf := heldLeaf, entry := none } setD = (heldBy lines, heldLeaf) :=
  rfl

/-- An atomic at address 0 is allowed and changes nothing before it is made. -/
theorem seqAccess_heldBy (setD : Bool) : seqAccess (heldBy lines) 0 8 .atomic false setD = .ok (heldBy lines, heldTarget) := by
  unfold seqAccess checkAccess
  rw [show BitVec.toNat (0 : Word) = 0 from rfl, show accWrites .atomic = true from rfl, findLeaf_heldBy]
  dsimp only
  rw [useLeaf_heldBy, show heldLeaf.pa 0 false = 0 from rfl]
  rfl

/-- The core owns the line: its atomic goes to no home and meets no poison. -/
theorem goes_heldBy : privDevice (heldBy lines) heldTarget 8 = false ∧ targetHeld (heldBy lines) heldTarget .atomic = false ∧
    settle (heldBy lines) heldTarget .atomic = heldBy lines ∧ targetPoisoned (heldBy lines) heldTarget .atomic = false :=
  ⟨rfl, rfl, rfl, rfl⟩

/-- A compare that writes nothing finds 0 and takes the line from the host. -/
theorem seqAtomic_heldBy_compare : seqAtomic (heldBy lines) heldTarget 8 (fun _ => none) = (heldBy (lines.erase 0), 0) := rfl

/-- A write takes the line from the host, once. -/
theorem seqAtomic_heldBy_write (v : Nat) : (seqAtomic (heldBy lines) heldTarget 8 fun _ => some v).1.hostLines = lines.erase 0 := rfl

/-- CAS makes its write from the state it began in, not from the one its compare left: the line goes from the host's list once. -/
theorem exec_cas_heldBy : ∃ t, exec (.cas 0 0 0) (heldBy lines) = .next t ∧ t.hostLines = lines.erase 0 := by
  obtain ⟨hp, hh, hs, hb⟩ := goes_heldBy lines
  have rmw (f : Nat → Option Nat) (setD : Bool) (k : State → Nat → Out) : seqRmw (heldBy lines) 0 8 f setD k =
      k (seqAtomic (heldBy lines) heldTarget 8 f).1 (seqAtomic (heldBy lines) heldTarget 8 f).2 := by
    simp only [seqRmw, seqAccess_heldBy, withTarget, hp, hh, hs, hb, Bool.false_eq_true, if_false]
  refine ⟨advance (writeReg (seqAtomic (heldBy lines) heldTarget 8 fun _ => some 0).1 0 0), ?_, ?_⟩
  · have zero : readReg (heldBy lines) 0 = 0 := rfl
    have aligned : ¬ (BitVec.toNat (0 : Word) % 8 ≠ 0) := by decide
    show casAt 8 0 0 0 (heldBy lines) = _
    rw [casAt, zero, if_neg aligned, rmw, seqAtomic_heldBy_compare]
    exact (if_pos rfl).trans (rmw _ _ _)
  · exact seqAtomic_heldBy_write lines 0

end Held

/-- Refutes O13: the last clause on CAS lets its write begin where its compare ends (`q.1`), and is said of every state. The model makes
the write from the state the CAS began in. Each of the two takes one entry of the line from the list of the lines a host holds, so
where that list names the line twice, the clause leaves none there and the instruction one. -/
theorem not_windowAccessesAndAtomics : ¬ Obligations.WindowAccessesAndAtomics := by
  unfold Obligations.WindowAccessesAndAtomics
  rintro ⟨-, other⟩
  obtain ⟨-, -, -, cas⟩ := other (heldBy [0, 0]) 0 0 0 0 true
  obtain ⟨hp, hh, hs, hb⟩ := goes_heldBy [0, 0]
  obtain ⟨hp', hh', hs', hb'⟩ := goes_heldBy [0]
  have same := (cas rfl _ _ (seqAccess_heldBy [0, 0] false) hp hh).2 hb
  have clause := same.2 rfl (heldBy [0]) heldTarget (seqAccess_heldBy [0] true) hp' hh' hb'
  obtain ⟨t, run, once⟩ := exec_cas_heldBy [0, 0]
  have none : t.hostLines = [] := congrArg State.hostLines (Host.Outcome.next.inj (run.symm.trans clause))
  exact absurd (once.symm.trans none) (by decide)

end Sys2Proof.Machine

namespace Sys2Proof.Machine

/-! ### Canonical states (R36, R37, R149) -/

/-- Home memory is in its canonical form and the tracks are listed in rising order: what of the invariant holds at every moment of a
turn, also of one that will be given up. -/
def Canon (s : State) : Prop := Memory.wf s.mem = true ∧ keysFrom 0 s.chans = true

/-- What a computation that can fail gives has the property. -/
def IfOk {ε α : Type} (P : α → Prop) : Except ε α → Prop
  | .ok a => P a
  | .error _ => True

/-- The value, where there is one, has the property. -/
def IfSome {α : Type} (P : α → Prop) : Option α → Prop
  | some a => P a
  | none => True

/-- The next state, where there is one, has the property. -/
def IfNext (P : State → Prop) : Out → Prop
  | .next s => P s
  | _ => True

/-- The state in which a first stage has taken its inputs, where it has, has the property. -/
def IfTaken (P : State → Prop) : First → Prop
  | .take s _ _ => P s
  | _ => True

theorem IfTaken.of_eq {P : State → Prop} {o : First} {s : State} {v : Inv} {ps : List (Nat × Token)} (h : IfTaken P o)
    (he : o = .take s v ps) : P s := by
  subst he
  exact h

theorem IfTaken.ite {P : State → Prop} {o o' : First} {p : Prop} [Decidable p] (h : IfTaken P o) (g : IfTaken P o') :
    IfTaken P (if p then o else o') := by
  split
  · exact h
  · exact g

namespace Canon
variable {s t : State}

theorem ite {p : Prop} [Decidable p] (h : Canon s) (g : Canon t) : Canon (if p then s else t) := by
  split
  · exact h
  · exact g

theorem fst_of_eq {β : Type} {p : State × β} {b : β} (h : Canon p.1) (e : p = (t, b)) : Canon t := by
  subst e
  exact h

theorem foldl {α : Type} {g : State → α → State} {xs : List α} (hg : ∀ u a, Canon u → Canon (g u a)) (h : Canon s) :
    Canon (xs.foldl g s) := by
  induction xs generalizing s with
  | nil => exact h
  | cons a xs ih => exact ih (hg s a h)

theorem foldl_fst {α β : Type} {g : State × β → α → State × β} {xs : List α} {q : State × β}
    (hg : ∀ p a, Canon p.1 → Canon (g p a).1) (h : Canon q.1) : Canon (xs.foldl g q).1 := by
  induction xs generalizing q with
  | nil => exact h
  | cons a xs ih => exact ih (hg q a h)

end Canon

namespace IfOk
variable {ε α β : Type} {P : α → Prop} {Q : β → Prop} {e f : Except ε α}

theorem of_eq {a : α} (h : IfOk P e) (he : e = .ok a) : P a := by
  subst he
  exact h

theorem ite {p : Prop} [Decidable p] (h : IfOk P e) (g : IfOk P f) : IfOk P (if p then e else f) := by
  split
  · exact h
  · exact g

theorem bind {k : α → Except ε β} (h : IfOk P e) (hk : ∀ a, P a → IfOk Q (k a)) : IfOk Q (e >>= k) := by
  cases e with
  | error x => exact trivial
  | ok a => exact hk a h

theorem map {k : α → β} (h : IfOk P e) (hk : ∀ a, P a → Q (k a)) : IfOk Q (e.map k) := by
  cases e with
  | error x => exact trivial
  | ok a => exact hk a h

theorem foldl {g : Except ε α → β → Except ε α} {xs : List β} (hg : ∀ a b, IfOk P a → IfOk P (g a b)) (h : IfOk P e) :
    IfOk P (xs.foldl g e) := by
  induction xs generalizing e with
  | nil => exact h
  | cons a xs ih => exact ih (hg e a h)

end IfOk

namespace IfSome
variable {α β : Type} {P : α → Prop} {Q : β → Prop} {e f : Option α}

theorem of_eq {a : α} (h : IfSome P e) (he : e = some a) : P a := by
  subst he
  exact h

theorem ite {p : Prop} [Decidable p] (h : IfSome P e) (g : IfSome P f) : IfSome P (if p then e else f) := by
  split
  · exact h
  · exact g

theorem bind {k : α → Option β} (h : IfSome P e) (hk : ∀ a, P a → IfSome Q (k a)) : IfSome Q (e.bind k) := by
  cases e with
  | none => exact trivial
  | some a => exact hk a h

theorem getD {a : α} (h : IfSome P e) (ha : P a) : P (e.getD a) := by
  cases e with
  | none => exact ha
  | some b => exact h

theorem filter {p : α → Bool} (h : IfSome P e) : IfSome P (e.filter p) := by
  cases e with
  | none => exact trivial
  | some a =>
    rw [Option.filter]
    exact .ite h trivial

theorem orElse {k : Unit → Option α} (h : IfSome P e) (hk : ∀ x, IfSome P (k x)) : IfSome P (e.orElse k) := by
  cases e with
  | none => exact hk ()
  | some a => exact h

theorem findSome {g : β → Option α} {xs : List β} (hg : ∀ b, IfSome P (g b)) : IfSome P (xs.findSome? g) := by
  induction xs with
  | nil => exact trivial
  | cons b xs ih =>
    rw [List.findSome?_cons]
    split
    · exact (hg b).of_eq ‹_›
    · exact ih

/-- A step whose value says nothing of the state comes before. -/
theorem map_any {k : α → β} (hk : ∀ a, Q (k a)) : IfSome Q (e.map k) := by
  cases e with
  | none => exact trivial
  | some a => exact hk a

/-- A step whose value says nothing of the state comes before. -/
theorem after {k : α → Option β} (hk : ∀ a, IfSome Q (k a)) : IfSome Q (e.bind k) := by
  cases e with
  | none => exact trivial
  | some a => exact hk a

theorem map {k : α → β} (h : IfSome P e) (hk : ∀ a, P a → Q (k a)) : IfSome Q (e.map k) := by
  cases e with
  | none => exact trivial
  | some a => exact hk a h

theorem foldl {g : Option α → β → Option α} {xs : List β} (hg : ∀ a b, IfSome P a → IfSome P (g a b)) (h : IfSome P e) :
    IfSome P (xs.foldl g e) := by
  induction xs generalizing e with
  | nil => exact h
  | cons a xs ih => exact ih (hg e a h)

end IfSome

namespace IfNext
variable {P : State → Prop} {o o' : Out}

theorem of_eq {s : State} (h : IfNext P o) (he : o = .next s) : P s := by
  subst he
  exact h

theorem ite {p : Prop} [Decidable p] (h : IfNext P o) (g : IfNext P o') : IfNext P (if p then o else o') := by
  split
  · exact h
  · exact g

end IfNext

/-! ### What the operations of the model keep

The lemma named after an operation says that it keeps the state canonical, and its proof follows the operation's branches. Only
a write of memory and the entry of a token on a track have to argue; all else leaves both alone or is made of such operations. -/

section Keep

variable {a b : Reg} {bs : List Byte} {c : Cmd} {c6 dst dva geom i n n1 p pa src va : Nat} {cohort : BitVec 16} {core : CoreId}
  {counts xs : List Nat} {cx : Ctx} {d die : DieId} {e eng : EngineId} {k : KvJob} {l : Slice} {m : Made}
  {o origin site x : SiteId} {op : EngOp} {pl : Placement} {q : Port} {r : EngRule} {root v : Word} {s s0 s1 st : State}
  {sid : BitVec 32} {srcs : List Src} {strict write : Bool} {sync : Option Nat} {t : Stream} {track : BitVec 3} {ts : List Token}
  {value : BitVec 64} {w : Who}

/-! #### Cores, slices and sites (R82 to R84) -/

theorem canon_setCore {c : CoreId} {k : Core} (h : Canon s) : Canon (setCore s c k) := h

theorem canon_modCore {f : Core → Core} (h : Canon s) : Canon (modCore s f) := h

theorem canon_modDie {f : Die → Die} (h : Canon s) : Canon (modDie s d f) := h

theorem canon_setSlice (h : Canon s) : Canon (setSlice s l) := h

theorem canon_modSlice {i : BitVec 32} {f : Slice → Slice} (h : Canon s) : Canon (modSlice s i f) := h

theorem canon_modSite {i : SiteId} {f : Site → Site} (h : Canon s) : Canon (modSite s i f) := h

theorem canon_writeReg {d : Reg} (h : Canon s) : Canon (writeReg s d v) := h

theorem canon_advance (h : Canon s) : Canon (advance s) := h

theorem canon_spendCycles (h : Canon s) : Canon (spendCycles s n) := h

theorem canon_charge {m : Nat} (h : Canon s) : Canon (charge s m) := by
  unfold charge
  extract_lets s1
  have hs1 : Canon s1 := canon_spendCycles h
  split
  · exact hs1
  · split
    · exact hs1
    · exact Canon.ite hs1 hs1

theorem canon_passTime (h : Canon s) : Canon (passTime s) := h

theorem canon_sendSuper {t : SupTrap} (h : Canon s) : IfSome Canon (sendSuper s cohort die t) := IfSome.ite trivial h

theorem canon_takeAsync (h : Canon s) : IfSome Canon (takeAsync s) := by
  unfold takeAsync
  extract_lets
  split
  · exact h
  · split
    · exact h
    · split
      · exact h
      · split
        · exact h
        · exact IfSome.ite h trivial

/-! #### Channels of the grid (R36 to R41) -/

theorem canon_setChan {k : Nat} {c : Chan} (h : Canon s) : Canon (setChan s k c) := by
  refine ⟨h.1, ?_⟩
  unfold setChan
  dsimp only
  split
  · exact keysFrom_tblErase h.2
  · exact keysFrom_tblSet h.2 (Nat.zero_le _)

theorem canon_modChan {k : Nat} {f : Chan → Chan} (h : Canon s) : Canon (modChan s k f) := canon_setChan h

theorem canon_emitTok {t : Nat} {k : Token} {gate : Bool} (h : Canon s) : Canon (emitTok s x p t k gate) := by
  unfold emitTok
  split
  · exact h
  · exact canon_modChan h

theorem canon_consumeTok {t : Nat} (h : Canon s) : Canon (consumeTok s x p t) := canon_modChan h

theorem canon_consumeBundle {t w : Nat} (h : Canon s) : Canon (consumeBundle s x p t w) :=
  Canon.foldl (fun _ _ h1 => canon_consumeTok h1) h

theorem canon_noteMove (h : Canon s) : Canon (noteMove s x) := h

/-! #### The device range (Tables 7.3 to 7.6) -/

theorem canon_modNotify {f : Notify → Notify} (h : Canon s) : Canon (modNotify s d n f) := h

theorem canon_docentPut {o : Nat} {w1 mask : Word} (h : Canon s) : Canon (docentPut s d o v w1 mask) :=
  Canon.ite (Canon.ite h h) (Canon.ite (Canon.ite h h) (Canon.ite h (Canon.ite h (Canon.ite h h))))

theorem canon_ceilPut (h : Canon s) : Canon (ceilPut s v) := Canon.ite h h

theorem canon_targetPut {t : BitVec 3} (h : Canon s) : Canon (targetPut s d t) := Canon.ite h (Canon.ite h (Canon.ite h (Canon.ite h h)))

theorem canon_powerPut {o : Nat} {w1 mask : Word} (h : Canon s) : Canon (powerPut s d o v w1 mask) := by
  unfold powerPut
  split
  · exact canon_ceilPut h
  · split
    · exact Canon.ite h h
    · split
      · extract_lets _ s1
        have hs1 : Canon s1 := Canon.ite h h
        exact Canon.ite hs1 (canon_targetPut hs1)
      · exact Canon.ite h h

/-- The definition is opened under a name of its own, as in `served_devWrite`. -/
theorem canon_devWrite {v : Nat} {may : BitVec 64} (h : Canon s) : Canon (devWrite s pa n v may) := by
  obtain ⟨write, hw⟩ : ∃ f, f = @devWrite := ⟨_, rfl⟩
  rw [← hw]
  delta devWrite at hw
  subst hw
  beta_reduce
  extract_lets a sh mask put new
  generalize devUnit a = unit
  cases unit with
  | docent d o => exact canon_docentPut h
  | notify d p o => exact Canon.ite h h
  | errLog d o => exact h
  | power d o => exact canon_powerPut h
  | none => exact h

theorem canon_devWriteOpen (h : Canon s) : Canon (devWriteOpen s pa bs) := Canon.foldl (fun _ _ h1 => canon_devWrite h1) h

/-! #### Home memory and the caches (R149 to R156) -/

theorem canon_countUe (h : Canon s) : Canon (countUe s d pa) := h

theorem canon_putAsk {q : Ask} (h : Canon s) : Canon (putAsk s q) := by
  unfold putAsk
  split <;> exact h

theorem canon_putAsks {l : List Ask} (h : Canon s) : Canon (putAsks s l) := Canon.foldl (fun _ _ h1 => canon_putAsk h1) h

theorem canon_holdLink {core : Option CoreId} {h : DieId} (h1 : Canon s) : Canon (holdLink s core d h) := by
  unfold holdLink
  split <;> exact h1

theorem canon_reach {l : Nat} (h : Canon s) : Canon (reach s d l) := by
  unfold reach
  split
  · exact (canon_holdLink h)
  · split
    · exact h
    · exact h

theorem canon_claimPort {c : CoreId} {l : Nat} (h : Canon s) : Canon (claimPort s c l) := Canon.ite h h

theorem canon_coreRequest {c : CoreId} {l : Nat} (h : Canon s) : Canon (coreRequest s c l) :=
  canon_claimPort (Canon.ite h (canon_holdLink h))

theorem canon_dieFill {dom : BitVec 4} {l : Nat} (h : Canon s) : Canon (dieFill s dom l) := by
  unfold dieFill
  split
  · exact Canon.ite h (Canon.ite h h)
  · exact h

theorem canon_putLine {asker : DieId} {l : Nat} {data : List Byte} {dirty : BitVec 64} (h : Canon s0) :
    Canon (putLine s0 asker l data dirty) := by
  unfold putLine
  split
  · exact h
  · extract_lets s
    have hs : Canon s := canon_reach h
    exact ⟨memMerge_wf hs.1 _ _ _, hs.2⟩

theorem canon_yieldLine {c : Option CoreId} {l : Nat} (h : Canon s) : Canon (yieldLine s c l) := by
  unfold yieldLine
  refine Canon.foldl (fun _ _ h1 => ?_) h
  extract_lets
  split
  · exact h1
  · split
    · exact h1
    · exact canon_setCore (canon_putLine (canon_holdLink h1))

theorem canon_flushForwards {src home : DieId} (h : Canon s) : Canon (flushForwards s src home) :=
  Canon.foldl (fun _ _ h1 => canon_putLine (canon_yieldLine h1)) h

theorem canon_exchange {h : DieId} (h1 : Canon s) : Canon (exchange s d h) := Canon.ite (canon_flushForwards (canon_flushForwards h1)) h1

theorem canon_arriveFirst {l : Nat} (h : Canon s) : Canon (arriveFirst s d l) := canon_exchange h

theorem canon_recallLine {c : Option CoreId} {l : Nat} (h : Canon s) : Canon (recallLine s c l) :=
  canon_yieldLine (Canon.foldl (fun _ _ h1 => canon_arriveFirst h1) h)

theorem canon_storeLine {c : CoreId} {l : Nat} {data : List Byte} {dirty : BitVec 64} (h : Canon s) : Canon
    (storeLine s c l data dirty) :=
  canon_putLine (canon_recallLine h)

theorem canon_writeBack {c : CoreId} {l : L1Line} (h : Canon s0) : Canon (writeBack s0 c l) := by
  unfold writeBack
  split
  · exact h
  · extract_lets _ _ s
    have hs : Canon s := canon_coreRequest h
    exact Canon.ite (canon_storeLine (canon_arriveFirst hs)) (Canon.ite hs (canon_storeLine hs))

theorem canon_atHome {l : Nat} (h : Canon s) : Canon (atHome s d l) := canon_recallLine (canon_arriveFirst (canon_reach h))

theorem canon_l1Put {c : CoreId} {x : L1Line} (h : Canon s) : Canon (l1Put s c x) := h

theorem canon_l1Drop {c : CoreId} {l : Nat} (h : Canon s) : Canon (l1Drop s c l) := by
  unfold l1Drop
  split
  · exact h
  · exact (canon_writeBack h)

theorem canon_l1Clean {c : CoreId} {l : Nat} (h : Canon s) : Canon (l1Clean s c l) := by
  unfold l1Clean
  split
  · exact h
  · exact canon_l1Put (canon_writeBack h)

theorem canon_l1Fill {c : CoreId} {l : Nat} (h : Canon s) : Canon (l1Fill s c l) := by
  unfold l1Fill
  split
  · exact h
  · extract_lets s1 _ s2
    have hs1 : Canon s1 := canon_dieFill (canon_atHome (canon_coreRequest h))
    have hs2 : Canon s2 := by
      unfold s2
      split
      · split
        · exact canon_l1Drop hs1
        · exact hs1
      · exact hs1
    exact hs2

theorem canon_cachedRead {c : CoreId} (h : Canon s) : Canon (cachedRead s c pa n).1 := (canon_l1Fill h)

theorem canon_cachedWrite {c : CoreId} (h : Canon s) : Canon (cachedWrite s c pa bs) := by
  unfold cachedWrite
  extract_lets s1
  have hs1 : Canon s1 := canon_l1Fill h
  split
  · exact hs1
  · exact Canon.ite hs1 hs1

theorem canon_l1Own {c : CoreId} {l : Nat} (h : Canon s0) : Canon (l1Own s0 c l) := by
  unfold l1Own
  extract_lets s afresh filled
  have start : Canon s := h
  have homed : Canon afresh := canon_l1Fill (canon_atHome (canon_l1Drop start))
  have taken : Canon filled := canon_l1Fill start
  clear_value afresh filled
  split
  · split
    · exact start
    · split <;> exact homed
  · split <;> exact taken

theorem canon_linesAtHome (h : Canon s) : Canon (linesAtHome s d pa n) := Canon.foldl (fun _ _ h1 => canon_atHome h1) h

theorem canon_homeRead (h : Canon s) : Canon (homeRead s d pa n).1 := by
  unfold homeRead
  split
  · exact h
  · exact (canon_linesAtHome h)

theorem canon_homeWrite (h : Canon s) : Canon (homeWrite s d pa bs) := by
  unfold homeWrite
  split
  · exact Canon.ite h (canon_devWriteOpen h)
  · split
    · exact h
    · extract_lets s1
      have hs1 : Canon s1 := canon_linesAtHome h
      exact ⟨memWrite_wf hs1.1 _ _, hs1.2⟩

theorem canon_homeAtomic {f : Nat → Nat} (h : Canon s) : Canon (homeAtomic s d pa n f).1 := by
  unfold homeAtomic
  extract_lets s1
  have hs1 : Canon s1 := canon_atHome h
  exact ⟨memWrite_wf hs1.1 _ _, hs1.2⟩

theorem canon_syncArrive (h : Canon s) : Canon (syncArrive s pa n) := by
  unfold syncArrive
  extract_lets
  split
  split
  exact ⟨memWrite_wf (memWrite_wf h.1 _ _) _ _, h.2⟩

theorem canon_wakeSync (h : Canon s) : Canon (wakeSync s pa) := h

theorem canon_wakeRange (h : Canon s) : Canon (wakeRange s pa n) := Canon.foldl (fun _ _ h1 => h1) h

/-! #### Translation and checked accesses (R184 to R202) -/

theorem canon_putNear {e : TlbEntry} (h : Canon s) : Canon (putNear s w e) := by
  unfold putNear
  extract_lets
  split
  · exact h
  · exact h
  · exact h

theorem canon_walkReads (h : Canon s) : Canon (walkReads s w va) := Canon.foldl (fun _ _ h1 => canon_dieFill (canon_reach h1)) h

theorem canon_useLeaf {f : Found} (h : Canon s) : Canon (useLeaf s w va f write).1 := by
  unfold useLeaf
  extract_lets _ _ _ s0 s1 _ s2
  have hs0 : Canon s0 := canon_walkReads h
  have hs1 : Canon s1 := by
    unfold s1
    split
    · exact Canon.ite hs0 (canon_homeAtomic hs0)
    · exact h
  have hs2 : Canon s2 := canon_putNear hs1
  exact Canon.ite hs2 hs2

theorem canon_joinWalk (h : Canon s) : Canon (joinWalk s w va write) := canon_putAsk h

theorem canon_walkClaim (hs1 : Canon s1) : Canon (walkClaim s s1 w va write) := Canon.ite hs1 hs1

theorem canon_checkAccess {a : Acc} {hidden : Bool} {page : Leaf → Nat → Bool} {setD : Bool} (h : Canon s) :
    IfOk (Canon ·.1) (checkAccess s w va n a hidden page setD) := by
  unfold checkAccess
  extract_lets
  split
  · exact trivial
  · split
    · exact trivial
    · split
      · exact h
      · split
        · exact trivial
        · extract_lets
          split
          · exact trivial
          · split
            · exact trivial
            · split
              · exact trivial
              · split
                · exact trivial
                · split
                  · rename_i s1 _ e2
                    have h1 : Canon s1 := (canon_useLeaf h).fst_of_eq e2
                    exact h1

theorem canon_holdRequest {t : Target} {a : Acc} (h : Canon s) : Canon (holdRequest s t a) := by
  unfold holdRequest
  split
  · exact h
  · exact canon_putAsks h

theorem canon_countSq (h : Canon s) : Canon (countSq s) := h

theorem canon_seqRead {t : Target} (h : Canon s) : Canon (seqRead s t n).1 := by
  unfold seqRead
  split
  · exact h
  · split
    · exact h
    · exact canon_cachedRead h

theorem canon_seqWrite {t : Target} (h : Canon s) : Canon (seqWrite s t bs) := by
  unfold seqWrite
  split
  · exact canon_wakeRange ⟨memWrite_wf h.1 _ _, h.2⟩
  · split
    · exact Canon.ite h (canon_devWrite h)
    · exact canon_cachedWrite h

theorem canon_seqAtomic {t : Target} {f : Nat → Option Nat} (h : Canon s) : Canon (seqAtomic s t n f).1 := by
  unfold seqAtomic
  split
  · extract_lets
    split
    · exact canon_wakeRange ⟨memWrite_wf h.1 _ _, h.2⟩
    · exact h
  · split
    · exact canon_homeAtomic (canon_l1Drop h)
    · extract_lets
      split
      · rename_i s2 _ e
        have h1 : Canon s2 := (canon_cachedRead (canon_l1Own h)).fst_of_eq e
        split
        · exact canon_cachedWrite h1
        · exact h1

theorem canon_settle {t : Target} {a : Acc} (h : Canon s) : Canon (settle s t a) := by
  unfold settle
  split
  · exact h
  · exact Canon.ite (canon_recallLine h) h

theorem canon_withTarget {t : Target} {a : Acc} {poison go : State → Out} (h : Canon s) (hs1 : Canon s1)
    (hg : ∀ u, Canon u → IfNext Canon (poison u)) (hgo : ∀ u, Canon u → IfNext Canon (go u)) :
    IfNext Canon (withTarget s s1 t n a poison go) := by
  unfold withTarget
  split
  · exact h
  · split
    · exact canon_holdRequest h
    · extract_lets s2
      have hs2 : Canon s2 := canon_settle hs1
      exact IfNext.ite (hg _ hs2) (hgo _ hs2)

theorem canon_seqLoad {va : Word} {element : Bool} {k : State → List Byte → Out}
    (h : Canon s) (hk : ∀ (u : State), Canon u → ∀ (bs : List Byte), IfNext Canon (k u bs)) : 
    IfNext Canon (seqLoad s va n element k) := by
  unfold seqLoad
  split
  · exact h
  · rename_i s1 _ e
    have h1 : Canon s1 := (canon_checkAccess h).of_eq e
    refine canon_withTarget h h1 (fun _ h2 => ?_) (fun _ h2 => hk _ (canon_seqRead h2) _)
    split
    · exact h2
    · exact hk _ (canon_countSq h2) _

theorem canon_seqStore {va : Word} {element : Bool} {k : State → Out} (h : Canon s) (hk : ∀ u, Canon u → IfNext Canon (k u)) :
    IfNext Canon (seqStore s va bs element k) := by
  unfold seqStore
  split
  · exact h
  · rename_i s1 _ e
    have h1 : Canon s1 := (canon_checkAccess h).of_eq e
    exact canon_withTarget h h1 (fun _ h2 => hk _ (canon_seqWrite h2)) (fun _ h2 => hk _ (canon_seqWrite h2))

theorem canon_seqRmw {va : Word} {f : Nat → Option Nat} {setD : Bool} {k : State → Nat → Out} (h : Canon s)
    (hk : ∀ u, Canon u → ∀ y, IfNext Canon (k u y)) :
    IfNext Canon (seqRmw s va n f setD k) := by
  unfold seqRmw
  split
  · exact h
  · rename_i e
    exact canon_withTarget h ((canon_checkAccess h).of_eq e) (fun _ h2 => h2) (fun _ h2 => hk _ (canon_seqAtomic h2) _)

theorem canon_cleanRegions {c : CoreId} {rs : List Region} {ok : Region → Bool} (h : Canon s) : Canon (cleanRegions s c root rs ok) :=
  Canon.foldl (fun _ _ h1 => canon_l1Clean h1) h

theorem canon_dropRegions {c : CoreId} {rs : List Region} {ok : Region → Bool} (h : Canon s) : Canon (dropRegions s c root rs ok) :=
  Canon.foldl (fun _ _ h1 => canon_l1Drop h1) h

/-! #### Accesses of engines (R156, R166) -/

theorem canon_engClaim {t : Target} (hs1 : Canon s1) : Canon (engClaim s s1 w va t write) := by
  unfold engClaim
  split
  · exact Canon.ite hs1 hs1
  · extract_lets _ _ s3
    have hs3 : Canon s3 := canon_walkClaim (Canon.ite hs1 (canon_holdLink hs1))
    exact Canon.ite hs3 hs3

theorem canon_engRequest {t : Target} (hs1 : Canon s1) : Canon (engRequest s s1 w va n t write) := by
  unfold engRequest
  extract_lets s2
  have hs2 : Canon s2 := canon_engClaim hs1
  split
  · exact hs2
  · exact Canon.ite hs2 (canon_linesAtHome hs2)

theorem canon_engReadPiece {count : Bool} (h : Canon s) : IfOk (Canon ·.1) (engReadPiece s w r va n count) := by
  unfold engReadPiece
  split
  · exact trivial
  · rename_i e
    extract_lets u _ bad s2
    have hu : Canon u := canon_engRequest ((canon_checkAccess h).of_eq e)
    have hs2 : Canon s2 := Canon.ite hu hu
    clear_value s2 bad
    split
    · exact hs2
    · exact canon_homeRead hs2

theorem canon_engRead {count : Nat → Bool} (h : Canon s) : IfOk (Canon ·.1) (engRead s w r va n count) := by
  unfold engRead
  refine IfOk.foldl (fun _ _ h1 => ?_) h
  split
  · exact h1
  · split
    · exact trivial
    · rename_i u11 _ _ e
      have h2 : Canon u11 := (canon_engReadPiece h1).of_eq e
      exact h2

theorem canon_engReadNat (h : Canon s) : IfOk (Canon ·.1) (engReadNat s w r va n) := by
  unfold engReadNat
  split
  · exact trivial
  · rename_i u _ _ e
    have h1 : Canon u := (canon_engRead h).of_eq e
    exact h1

theorem canon_queueArrival (h : Canon s) : Canon (queueArrival s sync n) := by
  unfold queueArrival
  split <;> exact h

theorem canon_engWritePiece {taint : Bool} (h : Canon s) : IfOk Canon (engWritePiece s w r sync va bs taint) := by
  unfold engWritePiece
  split
  · exact trivial
  · rename_i e
    extract_lets u pa mark _ s2
    have hu : Canon u := canon_engClaim ((canon_checkAccess h).of_eq e)
    have hMark : ∀ v, Canon v → Canon (mark v) := fun _ hv => Canon.ite hv hv
    have hs2 : Canon s2 := hMark _ (canon_homeWrite hu)
    clear_value s2 mark u pa
    split
    · exact canon_queueArrival (canon_wakeRange (hMark _ ⟨memWrite_wf hu.1 _ _, hu.2⟩))
    · split
      · exact canon_queueArrival (canon_wakeRange hs2)
      · exact hs2

theorem canon_engWrite {taint : List Bool} (h : Canon s) : IfOk Canon (engWrite s w r sync va bs taint) := by
  unfold engWrite
  refine IfOk.foldl (fun _ _ h1 => ?_) h
  split
  · exact h1
  · exact canon_engWritePiece h1

theorem canon_engAtomic {f : Nat → Nat} (h : Canon s) : IfOk (Canon ·.1) (engAtomic s w r va n f sync) := by
  unfold engAtomic
  split
  · exact trivial
  · rename_i e
    extract_lets u pa
    have hu : Canon u := canon_engRequest ((canon_checkAccess h).of_eq e)
    clear_value u pa
    split
    · exact canon_countUe hu
    · split
      · exact canon_queueArrival (canon_wakeRange ⟨memWrite_wf hu.1 _ _, hu.2⟩)
      · have added : Canon (homeAtomic u w.die pa n f).1 := canon_homeAtomic hu
        dsimp only [IfOk]
        split
        · exact canon_queueArrival (canon_wakeRange added)
        · exact added

theorem canon_sendRecord {r : DeferRec} (h : Canon s) : IfSome Canon (sendRecord s r) := by
  unfold sendRecord
  split
  · exact IfSome.ite trivial h
  · split
    exact canon_sendSuper h

theorem canon_f8cReadCodes {head : List Byte} (h : Canon s) : IfOk (Canon ·.1) (f8cReadCodes s w r va head n n1) := by
  induction n generalizing n1 with
  | zero => exact h
  | succ f ih =>
    rw [f8cReadCodes]
    split
    · exact trivial
    · rename_i s1 _ _ e
      have h1 : Canon s1 := (canon_engRead h).of_eq e
      exact IfOk.ite h1 ih

theorem canon_f8cReadBlock (h : Canon s) : IfOk (Canon ·.1) (f8cReadBlock s w r va) := by
  unfold f8cReadBlock
  split
  · exact trivial
  · rename_i e
    split
    · exact trivial
    · rename_i s2 _ e1
      have h2 : Canon s2 := (canon_f8cReadCodes ((canon_engRead h).of_eq e)).of_eq e1
      exact h2

theorem canon_f8cSeek (h : Canon s) : IfOk (Canon ·.1) (f8cSeek s w r n n1) := by
  induction n generalizing s n1 with
  | zero => exact canon_f8cReadBlock h
  | succ j ih =>
    rw [f8cSeek]
    split
    · exact trivial
    · rename_i s1 _ e
      have h1 : Canon s1 := (canon_f8cReadBlock h).of_eq e
      exact (ih h1).map fun _ hq => hq

theorem canon_f8cElement {k : Nat} (h : Canon s) : IfOk (Canon ·.1) (f8cElement s w r va geom k) := by
  unfold f8cElement
  extract_lets
  split
  · exact trivial
  · rename_i s1 _ _ e
    have h1 : Canon s1 := (canon_engReadNat h).of_eq e
    split
    · exact h1
    · split
      · exact trivial
      · rename_i s2 _ e1
        have h2 : Canon s2 := (canon_f8cSeek h1).of_eq e1
        exact h2

/-! #### The firing of a stage (R26 to R35) -/

theorem canon_emitAll {ts : List (Nat × Nat × Token)} (h : Canon s) : Canon (emitAll s x ts) := Canon.foldl (fun _ _ h1 =>
    canon_emitTok h1) h

theorem canon_nodeFault {kind stage : Nat} {port track seq : Nat} (h : Canon s) :
    Canon (nodeFault s x kind stage port track seq) :=
  h

theorem canon_countAt {k : Nat} (h : Canon s) : Canon (countAt s x k i n) := Canon.ite h h

theorem canon_closeTile {k : Nat} (h : Canon s) : Canon (closeTile s x k) := h

theorem canon_endTile {k : Nat} {eos : Bool} {seq : BitVec 12} (h : Canon s) : Canon (endTile s x k eos seq) := by
  unfold endTile
  split
  · exact h
  · exact Canon.ite (canon_closeTile h) h

theorem canon_takeFirst {cin : Bool} (h : Canon s) : IfTaken Canon (takeFirst s x cx srcs cin) := by
  unfold takeFirst
  extract_lets _ _ _ s1
  have hs1 : Canon s1 := Canon.foldl (fun _ _ h1 => canon_consumeTok h1) h
  split
  · exact trivial
  · split
    · exact trivial
    · split
      · exact trivial
      · exact IfTaken.ite trivial (IfTaken.ite hs1 (IfTaken.ite trivial hs1))

theorem canon_flushSide2 (h : Canon s) : Canon (flushSide2 s x cx) := by
  unfold flushSide2
  split
  · exact h
  · exact Canon.ite (canon_modSite (canon_emitAll h)) h

theorem canon_leaveSix {v : Option Inv} (h : Canon s) : IfSome Canon (leaveSix s x cx v) := by
  unfold leaveSix
  split
  · exact trivial
  · split
    · exact h
    · extract_lets s1
      have hs1 : Canon s1 := canon_emitAll h
      exact Canon.ite hs1 hs1

theorem canon_takeSix {v : Option Inv} (h : Canon s) : IfSome Canon (takeSix s x cx v) := by
  unfold takeSix
  split
  · rename_i s1 e
    have h1 : Canon s1 := (canon_leaveSix h).of_eq e
    exact h1
  · exact IfSome.ite h trivial

theorem canon_flushSix (h : Canon s) : Canon (flushSix s x cx) := by
  unfold flushSix
  extract_lets s1
  have hs1 : Canon s1 := canon_flushSide2 h
  split
  · exact hs1
  · exact IfSome.getD (canon_leaveSix hs1) hs1

theorem canon_passOn {k : Nat} {v : Option Inv} (h : Canon s) : IfSome Canon (passOn s x cx k v) := by
  unfold passOn
  extract_lets s1
  have hs1 : Canon s1 := by
    unfold s1
    split
    · exact canon_endTile h
    · exact h
  split
  · split
    · exact hs1
    · exact IfSome.ite hs1 trivial
  · exact canon_takeSix hs1

theorem canon_fireStage {cin : Bool} {f : State → StageEnv → State × Option Inv} {bad : State → StageEnv → Bool}
    (h : Canon st) (hf : ∀ (u : State), Canon u → ∀ (e : StageEnv), Canon (f u e).1) : IfNext Canon (fireStage st srcs cin f bad) := by
  unfold fireStage
  extract_lets
  split
  · exact trivial
  · split
    · exact h
    · split
      · exact h
      · split
        · split
          · exact h
          · split
            · exact h
            · exact h
            · rename_i s1 _ _ e
              have h1 : Canon s1 := (canon_takeFirst h).of_eq e
              extract_lets
              split
              · exact h
              · exact canon_noteMove ((canon_passOn (hf _ h1 _)).getD h)
        · extract_lets s0 s1
          have hs0 : Canon s0 := Canon.ite (canon_flushSix h) h
          have hs1 : Canon s1 := hs0
          clear_value s1
          split
          · exact hs0
          · extract_lets e
            split
            · exact hs0
            · split
              · exact hs0
              · rename_i s2 e3
                have h2 : Canon s2 := (canon_passOn (hf s1 hs1 e)).of_eq e3
                exact canon_noteMove h2

theorem canon_laneStage {d : BitVec 2} {f : State → StageEnv → Nat → W32} (h : Canon st) : IfNext Canon (laneStage st d srcs f) := by
  unfold laneStage
  refine canon_fireStage h (fun _ h1 _ => ?_)
  split <;> exact h1

/-! #### Provenance trees (R322) -/

theorem canon_execTtclr {d : Reg} {t : BitVec 2} (h : Canon st) : IfNext Canon (execTtclr d a t st) := IfNext.ite h h

theorem canon_execTtpar {d : Reg} {t : BitVec 2} (h : Canon st) : IfNext Canon (execTtpar d a b t st) := IfNext.ite h h

/-! #### Lane words (R519 to R534) -/

theorem canon_passThrough (h : Canon st) : IfNext Canon (passThrough st) := by
  unfold passThrough
  extract_lets
  split
  · exact h
  · split
    · exact h
    · split
      · exact h
      · exact canon_noteMove (canon_nodeFault h)
      · rename_i e1
        exact canon_noteMove (IfSome.getD (canon_leaveSix ((canon_takeFirst h).of_eq e1)) h)

theorem canon_execVnop {d : BitVec 2} {a : Src} (h : Canon st) : IfNext Canon (execVnop d a st) :=
  IfNext.ite (canon_passThrough h) (IfNext.ite h (IfNext.ite (canon_fireStage h (fun _ h1 _ => h1)) (canon_laneStage h)))

theorem canon_carryStage {d : BitVec 2} {cin : Bool} {f : State → StageEnv → Nat → W32 → W32 × W32} (h : Canon st) :
    IfNext Canon (carryStage st d srcs cin f) := by
  unfold carryStage
  refine canon_fireStage h (fun _ h1 _ => ?_)
  split <;> exact h1

theorem canon_convStage {d : BitVec 2} {f : State → StageEnv → Nat → Counted} {whole : State → StageEnv → List Nat} (h : Canon st) :
    IfNext Canon (convStage st d srcs f whole) := by
  unfold convStage
  refine canon_fireStage h (fun _ h1 _ => ?_)
  split
  · exact h1
  · exact (Canon.foldl (fun _ _ h2 => canon_countAt h2) h1)

theorem canon_vredReduce {d : BitVec 2} {a : Src} {m : Nat} {fz : Bool} {mode : Rnd} (h : Canon st) :
    IfNext Canon (vredReduce st d a m fz mode) := by
  unfold vredReduce
  extract_lets
  split
  · exact h
  · refine canon_fireStage h (fun _ h1 _ => ?_)
    split
    · exact h1
    · extract_lets
      split
      · extract_lets _ s1
        have hs1 : Canon s1 := Canon.foldl (fun _ _ h2 => canon_countAt h2) h1
        split
        · split
          exact Canon.foldl (fun _ _ h2 => canon_countAt h2) hs1
        · exact hs1

theorem canon_execVred {d : BitVec 2} {a b : Src} {m : BitVec 3} {f : Bool} {r : BitVec 3} (h : Canon st) :
    IfNext Canon (execVred d a b m f r st) :=
  IfNext.ite (canon_vredReduce h) (canon_convStage h)

/-! #### Flow words (R42 to R54) -/

theorem canon_moveWord {e : StageEnv} {d : BitVec 2} {a : Src} (h : Canon s) : Canon (moveWord s e d a).1 := h

theorem canon_headStage {d : BitVec 2} {a b : Src} {f : State → StageEnv → Inv → Inv} (h : Canon st) :
    IfNext Canon (headStage st d a b f) := by
  unfold headStage
  refine canon_fireStage h (fun u hu e => ?_)
  split
  · exact hu
  · exact canon_moveWord (s := u) (e := e) (d := d) (a := a) hu

theorem canon_execPerm {d : BitVec 2} {a b : Src} {k : BitVec 4} {p : Bool} {m : BitVec 2} (h : Canon st) :
    IfNext Canon (execPerm d a b k p m st) := by
  unfold execPerm
  refine canon_fireStage h (fun _ h1 _ => ?_)
  split <;> exact h1

theorem canon_execSplat {d : BitVec 2} {a : Src} {n : BitVec 4} (h : Canon st) : IfNext Canon (execSplat d a n st) := by
  unfold execSplat
  refine canon_fireStage h (fun _ h1 _ => ?_)
  split <;> exact h1

theorem canon_execTagseq {d : BitVec 2} {a : Src} (h : Canon st) : IfNext Canon (execTagseq d a st) := by
  unfold execTagseq
  refine canon_fireStage h (fun _ h1 _ => ?_)
  split
  · exact h1
  · extract_lets _ r
    have hr : Canon r.1 := by
      unfold r
      split
      · exact h1
      · exact canon_moveWord h1
    exact hr

theorem canon_execEcount {d : BitVec 2} {a : Src} (h : Canon st) : IfNext Canon (execEcount d a st) := by
  unfold execEcount
  refine canon_fireStage h (fun u hu e => ?_)
  split
  · exact hu
  · extract_lets k w keep c s1 dropped q
    have counted : Canon (countAt s1 e.site u.focusStage.toNat 5 dropped) := canon_countAt hu
    exact canon_moveWord (e := e) (d := d) (a := a) counted

theorem canon_enterArc {v : Inv} (h : Canon s) : Canon (enterArc s x v) := canon_noteMove h

theorem canon_execBarn {l w s e n : Bool} (h : Canon st) : IfNext Canon (execBarn l w s e n st) := by
  unfold execBarn
  extract_lets x
  split
  · exact trivial
  · split
    · exact h
    · extract_lets heads bad hs took
      have taken : Canon took := Canon.foldl (fun _ _ h1 => canon_consumeTok h1) h
      clear_value bad
      split
      · exact h
      · exact IfNext.ite h (IfNext.ite h (IfNext.ite h (IfNext.ite (canon_enterArc taken) (canon_enterArc taken))))

theorem canon_mergeTake {t w : Nat} {f : Node → Node} (h : Canon s) : IfNext Canon (mergeTake s x p t w ts f) :=
  canon_enterArc (canon_modSite (canon_consumeBundle h))

theorem canon_mergePlain {ta pb : Nat} {tb w : Nat} (h : Canon s) : IfNext Canon (mergePlain s x pa ta pb tb w) := by
  unfold mergePlain
  extract_lets takeA takeB
  have hTakeA : ∀ (ts : List Token), IfNext Canon (takeA ts) := fun _ => canon_mergeTake h
  have hTakeB : ∀ (ts : List Token), IfNext Canon (takeB ts) := fun _ => canon_mergeTake h
  split
  · exact IfNext.ite (hTakeB _) (hTakeA _)
  · exact hTakeA _
  · exact hTakeB _
  · exact IfNext.ite (canon_enterArc (canon_consumeBundle (canon_consumeBundle h))) h

theorem canon_mergeLoop {ta pb : Nat} {tb w : Nat} (h : Canon s) : IfNext Canon (mergeLoop s x pa ta pb tb w) := by
  unfold mergeLoop
  extract_lets
  split
  · exact canon_noteMove (canon_consumeBundle h)
  · split
    · exact canon_mergeTake h
    · split
      · exact IfNext.ite h (canon_mergeTake h)
      · exact IfNext.ite (canon_enterArc (canon_consumeBundle h)) h

theorem canon_execMerge {a b : Src} {w : BitVec 2} {l : Bool} (h : Canon st) : IfNext Canon (execMerge a b w l st) := by
  unfold execMerge
  extract_lets
  split
  · exact trivial
  · split
    · exact h
    · exact IfNext.ite (canon_mergeLoop h) (canon_mergePlain h)

theorem canon_execCreditTaken (h : Canon st) : IfNext Canon (execCreditTaken site st) := by
  unfold execCreditTaken
  split
  · exact h
  · exact IfNext.ite h (IfNext.ite (canon_noteMove h) (IfNext.ite (IfNext.ite (canon_noteMove (canon_nodeFault h)) (canon_noteMove
      (canon_modSite (canon_consumeBundle h)))) h))

theorem canon_ordEmit (h : Canon s) : IfSome Canon (ordEmit s x) := by
  unfold ordEmit
  extract_lets
  split
  · exact trivial
  · exact canon_enterArc h

theorem canon_execOrdr (h : Canon st) : IfNext Canon (execOrdr st) := by
  unfold execOrdr
  extract_lets
  split
  · exact trivial
  · split
    · exact h
    · extract_lets
      split
      · exact h
      · exact canon_noteMove (canon_nodeFault h)
      · rename_i a _ _ e1
        have h1 : Canon a := (canon_takeFirst h).of_eq e1
        exact IfNext.ite (IfNext.ite (canon_enterArc h1) h) (IfNext.ite (canon_enterArc h1) (IfNext.ite (canon_noteMove
            (canon_nodeFault h)) (IfNext.ite h (Canon.ite (IfSome.getD (canon_ordEmit h1) (canon_noteMove h1)) (canon_noteMove h1)))))

theorem canon_execOrdrInternalFiring (h : Canon st) : IfNext Canon (execOrdrInternalFiring site st) := by
  unfold execOrdrInternalFiring
  split
  · exact h
  · exact IfNext.ite (IfSome.getD (canon_ordEmit h) h) h

theorem canon_packEmit (h : Canon s) : Canon (packEmit s x) := canon_enterArc h

theorem canon_execPack (h : Canon st) : IfNext Canon (execPack st) := by
  unfold execPack
  extract_lets
  split
  · exact trivial
  · split
    · exact h
    · split
      · exact h
      · exact canon_noteMove (canon_nodeFault h)
      · rename_i a _ _ e1
        have h1 : Canon a := (canon_takeFirst h).of_eq e1
        exact IfNext.ite (canon_packEmit h) (IfNext.ite (canon_enterArc h1) (Canon.ite (canon_packEmit h1) (canon_noteMove h1)))

theorem canon_execPackTimeout (h : Canon st) : IfNext Canon (execPackTimeout site st) := by
  unfold execPackTimeout
  split
  · exact h
  · exact IfNext.ite (canon_packEmit h) h

theorem canon_genFirst {d : BitVec 2} {slice hi : Bool} (h : Canon st) : IfNext Canon (genFirst st d slice hi) := by
  unfold genFirst
  extract_lets
  split
  · exact h
  · exact IfNext.ite (IfNext.ite h (canon_enterArc h)) (IfNext.ite h (canon_enterArc h))

theorem canon_execGen {d : BitVec 2} {s h : Bool} {x : BitVec 3} (h1 : Canon st) : IfNext Canon (execGen d s h x st) := by
  unfold execGen
  split
  · exact trivial
  · split
    · exact canon_genFirst h1
    · refine canon_fireStage h1 (fun _ h2 _ => ?_)
      split <;> exact h2

theorem canon_execTopk {d : BitVec 2} {a b : Src} {s : Bool} (h : Canon st) : IfNext Canon (execTopk d a b s st) := by
  unfold execTopk
  extract_lets
  split
  · exact trivial
  · split
    · exact h
    · extract_lets
      split
      · exact h
      · split
        · exact h
        · exact canon_noteMove (canon_nodeFault h)
        · rename_i a1 _ _ e1
          have h1 : Canon a1 := (canon_takeFirst h).of_eq e1
          exact IfNext.ite (IfNext.ite h (canon_enterArc h1)) (IfNext.ite (canon_enterArc h1) (canon_noteMove h1))

theorem canon_execTopkEmit (h : Canon st) : IfNext Canon (execTopkEmit site st) := by
  unfold execTopkEmit
  split
  · exact h
  · split
    · exact h
    · exact canon_enterArc h

/-! #### Regions (R55 to R65) -/

theorem canon_modPlacement {k : BitVec 2} {f : Placement → Placement} (h : Canon s) : Canon (modPlacement s o k f) := h

theorem canon_reportStats {seq : BitVec 12} (h : Canon s) : Canon (reportStats s pl counts seq) := by
  unfold reportStats
  split
  · exact Canon.ite h h
  · exact h

theorem canon_reportStream (h : Canon s) : Canon (reportStream s t pl) := canon_reportStats h

theorem canon_sendTile (h : Canon s) : Canon (sendTile s pl x) := by
  unfold sendTile
  split
  · exact h
  · extract_lets
    split <;> exact h

theorem canon_sendSums (h : Canon s) : Canon (sendSums s pl x) := by
  unfold sendSums
  split
  · exact h
  · extract_lets
    split
    · exact h
    · split <;> exact h

theorem canon_rootRecord {cx? : Option Ctx} (h : Canon st) : Canon (rootRecord st x cx?) := by
  unfold rootRecord
  split
  · exact h
  · extract_lets _ _ _ dead
    have hDead : ∀ (u : State), Canon u → ∀ (f : Flt), Canon (dead u f) := by
      refine fun _ h1 _ => ?_
      unfold dead
      split
      · exact h
      · rename_i s2 e
        have h2 : Canon s2 := (canon_sendRecord h1).of_eq e
        exact h2
    split
    · exact h
    · split
      · exact h
      · extract_lets
        split
        · exact hDead _ h _
        · split
          · exact h
          · split
            · exact hDead _ h _
            · rename_i e1
              exact hDead _ ((canon_engAtomic h).of_eq e1) _
            · rename_i s1 _ e1
              have h1 : Canon s1 := (canon_engAtomic h).of_eq e1
              exact h1

theorem canon_flushStats (h : Canon s) : Canon (flushStats s pl) := by
  unfold flushStats
  extract_lets _ s1 s2 s3
  have hs1 : Canon s1 := Canon.foldl (fun _ _ h1 => Canon.foldl (fun _ _ h2 => canon_closeTile h2) h1) h
  have hs2 : Canon s2 := Canon.foldl (fun _ _ h1 => Canon.foldl (fun _ _ h2 => canon_sendTile h2) h1) hs1
  have hs3 : Canon s3 := Canon.foldl (fun _ _ h1 => Canon.foldl (fun _ _ h2 => Canon.ite (canon_sendSums h2) h2) h1) hs2
  split
  · exact hs3
  · exact (canon_rootRecord hs3)

theorem canon_execQuietReport (h : Canon st) : IfNext Canon (execQuietReport origin st) := by
  unfold execQuietReport
  split
  · exact h
  · exact IfNext.ite h h

theorem canon_closeExits (h : Canon s) : Canon (closeExits s pl) := Canon.foldl (fun _ _ h1 => Canon.foldl (fun _ _ h2 => h2) h1) h

theorem canon_execRegionCompletion (h : Canon st) : IfNext Canon (execRegionCompletion origin st) := by
  unfold execRegionCompletion
  split
  · exact h
  · exact IfNext.ite h (canon_closeExits h)

theorem canon_freezeRegion (h : Canon s) : Canon (freezeRegion s pl) := (Canon.foldl (fun _ _ h1 => h1) h)

theorem canon_raiseNode (h : Canon s) : Canon (raiseNode s pl x) := by
  unfold raiseNode
  extract_lets
  split
  · exact h
  · exact Canon.ite h h

theorem canon_execNodeFault {kind : BitVec 8} {stage port : BitVec 3} {seq : BitVec 12} (h : Canon st) :
    IfNext Canon (execNodeFault site kind stage port track seq st) :=
  IfNext.ite h (canon_nodeFault h)

theorem canon_execNodeRaise (h : Canon st) : IfNext Canon (execNodeRaise origin st) := by
  unfold execNodeRaise
  split
  · exact h
  · split
    · exact h
    · exact IfNext.ite h (canon_modPlacement (canon_raiseNode (canon_freezeRegion h)))

theorem canon_countsPass (h : Canon s) : Canon (countsPass s) := h

theorem canon_execDeadlockDetected (h : Canon st) : IfNext Canon (execDeadlockDetected origin st) := by
  unfold execDeadlockDetected
  split
  · exact h
  · exact IfNext.ite h (canon_modPlacement (canon_raiseNode (canon_freezeRegion h)))

theorem canon_enterSite (h : Canon s) : Canon (enterSite s pl x) := h

theorem canon_clearInputs (h : Canon s) : Canon (clearInputs s x) := Canon.foldl (fun _ _ h1 => Canon.ite (canon_modChan h1) h1) h

theorem canon_putPrimes {ps : List (SiteId × Nat × Nat × Nat)} (h : Canon s) : Canon (putPrimes s ps) :=
  Canon.foldl (fun _ _ h1 => canon_modChan h1) h

theorem canon_deactivate (h : Canon s) : Canon (deactivate s pl) := h

theorem canon_flushOver (h : Canon s) : Canon (flushOver s pl) := Canon.foldl (fun _ _ h1 => canon_flushStats h1) h

theorem canon_freezeLost (h : Canon s) : Canon (freezeLost s pl) := by
  unfold freezeLost
  split
  · exact canon_freezeRegion (canon_nodeFault h)
  · exact h

theorem canon_activate (h : Canon s) : Canon (activate s pl) := by
  unfold activate
  extract_lets s1 s2
  have hs1 : Canon s1 := canon_modPlacement (canon_deactivate (canon_flushOver h))
  have hs2 : Canon s2 := Canon.foldl (fun _ _ h1 => canon_clearInputs h1) hs1
  exact canon_freezeLost (canon_putPrimes (Canon.foldl (fun _ _ h1 => canon_enterSite h1) hs2))

theorem canon_dropCommands {orders : List Nat} (h : Canon s) : Canon (dropCommands s orders) := Canon.ite h h

theorem canon_endBound (h : Canon s) : Canon (endBound s pl) :=
  canon_dropCommands (Canon.ite (Canon.foldl (fun _ _ h1 => canon_reportStream h1) h) h)

theorem canon_discardPlacement (h : Canon st) : Canon (discardPlacement st pl) := by
  unfold discardPlacement
  extract_lets s0 _ _ s1
  have hs0 : Canon s0 := canon_endBound h
  have hs1 : Canon s1 := Canon.foldl (fun _ _ h1 => h1) (Canon.ite (canon_flushStats hs0) hs0)
  exact ⟨hs1.1, keysFrom_filter _ hs1.2⟩

theorem canon_injectPort {k : Token} (h : Canon s) : Canon (injectPort s q k) := Canon.foldl (fun _ _ h1 => canon_modChan h1) h

theorem canon_startDrain {own : Bool} (h : Canon s) : Canon (startDrain s pl own) :=
  Canon.ite h (Canon.foldl (fun _ _ h1 => canon_injectPort h1) h)

theorem canon_resumeAdmission (h : Canon s) : Canon (resumeAdmission s pl) := Canon.foldl (fun _ _ h1 => h1) h

theorem canon_execLayerBoundaryDrain (h : Canon st) : IfNext Canon (execLayerBoundaryDrain origin st) := by
  unfold execLayerBoundaryDrain
  split
  · exact h
  · exact IfNext.ite h (canon_startDrain h)

theorem canon_execBlockSchedulerChoice (h : Canon st) : IfNext Canon (execBlockSchedulerChoice origin st) := by
  unfold execBlockSchedulerChoice
  split
  · exact h
  · exact IfNext.ite h (IfNext.ite (IfNext.ite (canon_modPlacement (canon_resumeAdmission h)) h) (IfNext.ite h h))

theorem canon_execQuantumExpiry (h : Canon st) : IfNext Canon (execQuantumExpiry origin st) := by
  unfold execQuantumExpiry
  split
  · exact h
  · exact IfNext.ite h h

theorem canon_execWavefrontInject {port : BitVec 8} (h : Canon st) : IfNext Canon (execWavefrontInject origin port st) := by
  unfold execWavefrontInject
  split
  · exact h
  · split
    · exact IfNext.ite h (canon_modPlacement (canon_injectPort h))
    · exact h

theorem canon_finishWave {k : BitVec 2} (h : Canon s) : Canon (finishWave s pl k) := Canon.ite h h

theorem canon_waveSite {t : Placement} (h : Canon s) : Canon (waveSite s pl t x) := by
  unfold waveSite
  extract_lets s0
  have hs0 : Canon s0 := canon_enterSite (canon_flushStats h)
  exact canon_finishWave (canon_noteMove (canon_putPrimes (Canon.ite (canon_enterSite hs0) hs0)))

theorem canon_execWavefrontSiteSwitch (h : Canon st) : IfNext Canon (execWavefrontSiteSwitch site st) := by
  unfold execWavefrontSiteSwitch
  split
  · exact h
  · extract_lets
    split
    · exact h
    · split
      · exact canon_noteMove (canon_consumeTok h)
      · split
        · exact IfNext.ite (canon_waveSite h) h
        · extract_lets
          split
          · exact canon_noteMove (canon_nodeFault h)
          · exact IfNext.ite h (canon_waveSite (canon_emitAll (Canon.foldl (fun _ _ h1 => canon_consumeTok h1) h)))
      · exact h

/-! #### Stream records and score adds (R168 to R183) -/

theorem canon_gatherIndex {idx : Nat} (h : Canon s) : IfOk (Canon ·.1) (gatherIndex s w c idx) := by
  unfold gatherIndex
  extract_lets
  split
  · exact trivial
  · rename_i s1 _ _ e
    have h1 : Canon s1 := (canon_engReadNat h).of_eq e
    exact IfOk.ite trivial h1

theorem canon_kvRead {a : Acc} (h : Canon s) : IfOk (Canon ·.1) (kvRead s w strict a va n) := by
  unfold kvRead
  split
  · exact trivial
  · rename_i u _ _ e
    have h1 : Canon u := (canon_engRead h).of_eq e
    exact IfOk.ite trivial h1

theorem canon_seekPage (h : Canon s) : IfOk (Canon ·.1) (seekPage w strict p n s n1) := by
  induction n generalizing s n1 with
  | zero => exact h
  | succ f ih =>
    rw [seekPage]
    split
    · exact h
    · split
      · exact trivial
      · rename_i s1 _ e
        have h1 : Canon s1 := (canon_kvRead h).of_eq e
        exact IfOk.ite h1 (IfOk.ite (ih h1) h1)

theorem canon_scoreStart {head last : Nat} (h : Canon s) : IfOk (Canon ·.1) (scoreStart s w c head last p) := by
  unfold scoreStart
  split
  · exact h
  · split
    · exact trivial
    · rename_i s1 _ e
      have h1 : Canon s1 := (canon_kvRead h).of_eq e
      exact h1

theorem canon_scoreLane {wt : W32} (h : Canon s) : IfOk (Canon ·.1) (scoreLane s t p wt) := by
  unfold scoreLane
  extract_lets _ _ drop
  have hDrop : ∀ u page, Canon u → IfOk (Canon ·.1) (drop u page) := fun _ _ hu => hu
  clear_value drop
  split
  · exact trivial
  · rename_i s1 _ e
    have h1 : Canon s1 := (canon_kvRead h).of_eq e
    split
    · exact trivial
    · rename_i s2 va e1
      have h2 : Canon s2 := by
        split at e1
        · cases e1
          exact h1
        · exact (canon_scoreStart h1).of_eq e1
      split
      · exact trivial
      · rename_i s3 e2
        have h3 : Canon s3 := (canon_seekPage h2).of_eq e2
        exact hDrop _ _ h3
      · rename_i s3 page k e2
        have h3 : Canon s3 := (canon_seekPage h2).of_eq e2
        split
        · exact hDrop _ _ h3
        · extract_lets a s4
          have h4 : Canon s4 := Canon.ite h3 h3
          clear_value s4
          split
          · exact trivial
          · exact trivial
          · rename_i s5 _ e3
            have h5 : Canon s5 := (canon_engAtomic h4).of_eq e3
            exact h5

theorem canon_postRecord {r : DeferRec} (h : Canon s) : Canon (postRecord s e r) := by
  unfold postRecord
  split
  · rename_i e1
    exact (canon_sendRecord h).of_eq e1
  · exact h

theorem canon_stopStream {f : Flt} {progress : Nat} (h : Canon s) : Canon (stopStream s t f progress) := by
  unfold stopStream
  extract_lets _ s1 s2
  have hs1 : Canon s1 := canon_postRecord h
  have hs2 : Canon s2 := by
    unfold s2
    split
    · exact canon_reportStream hs1
    · exact hs1
  exact hs2

theorem canon_finishLanes {xs : List (W32 × W32)} (h : Canon s) : Canon (finishLanes s t xs) := by
  induction xs generalizing s t with
  | nil => exact h
  | cons q ls ih =>
    rw [finishLanes]
    split
    · exact canon_stopStream h
    · rename_i s1 _ e
      have h1 : Canon s1 := (canon_scoreLane h).of_eq e
      exact ih h1

theorem canon_finishStreams (h : Canon s) : Canon (finishStreams s pl) := Canon.foldl (fun _ _ h1 => canon_finishLanes h1) h

/-! #### Memory elements (R154, R157 to R164) -/

theorem canon_passMarker {v : Inv} (h : Canon st) (hs1 : Canon s1) : IfNext Canon (passMarker st s1 x cx v) :=
  IfNext.ite (canon_noteMove (canon_emitAll hs1)) h

theorem canon_meAccept {acc : Bool} {a b : Src} (h : Canon st) : IfNext Canon (meAccept st srcs acc a b) := by
  unfold meAccept
  extract_lets
  split
  · exact trivial
  · split
    · exact h
    · split
      · exact h
      · split
        · exact h
        · exact canon_noteMove (canon_nodeFault h)
        · rename_i a1 _ _ e1
          have h1 : Canon a1 := (canon_takeFirst h).of_eq e1
          refine IfNext.ite (canon_passMarker h h1) (IfNext.ite h (IfNext.ite h ?_))
          have sent : ∀ u, Canon u → ∀ n serial f,
              Canon (noteMove { modSite (countAt u st.focus 1 5 n) st.focus f with serial := serial } st.focus) :=
            fun u hu n _ _ => canon_noteMove (canon_countAt hu)
          exact sent _ (canon_emitAll h1) _ _ _

theorem canon_execSpfifo (h : Canon st) : IfNext Canon (execSpfifo st) := by
  unfold execSpfifo
  extract_lets
  split
  · exact trivial
  · split
    · exact h
    · extract_lets _ s1
      have hs1 : Canon s1 := canon_consumeBundle h
      split
      · exact h
      · exact IfNext.ite h (canon_noteMove (Canon.foldl (fun _ _ h1 => ⟨memWrite_wf h1.1 _ _, h1.2⟩) hs1))

theorem canon_fifoLeave (h : Canon st) : Canon (fifoLeave st x cx) := by
  unfold fifoLeave
  extract_lets
  split
  · exact h
  · extract_lets _ _ _ _ _ s1
    have hs1 : Canon s1 := Canon.foldl (fun _ _ h1 => h1) h
    exact Canon.ite (canon_noteMove (canon_endTile (canon_modSite (canon_emitAll (Canon.ite hs1 (canon_countAt hs1)))))) h

theorem canon_execBankGrant {bank : BitVec 4} (h : Canon st) : IfNext Canon (execBankGrant site bank st) := by
  unfold execBankGrant
  split
  · exact h
  · split
    · split
      · exact h
      · extract_lets _ _ _ _ s1
        have hs1 : Canon s1 := by
          unfold s1
          split
          · exact canon_countAt h
          · split
            · exact ⟨memWrite_wf h.1 _ _, h.2⟩
            · exact h
        exact canon_noteMove hs1
    · exact h

theorem canon_finishElement (h : Canon s) : Canon (finishElement s x) := by
  unfold finishElement
  split
  · exact h
  · refine Canon.foldl (fun _ _ h1 => ?_) h
    split
    · exact h1
    · split
      · rename_i e1
        exact (canon_execBankGrant h1).of_eq e1
      · exact h1

theorem canon_execMeResponse (h : Canon st) : IfNext Canon (execMeResponse site st) := by
  unfold execMeResponse
  split
  · exact h
  · split
    · exact h
    · split
      · exact h
      · split
        · exact canon_fifoLeave h
        · split
          · exact h
          · exact IfNext.ite h (canon_noteMove (canon_endTile (canon_modSite (canon_emitAll h))))

theorem canon_lockNode {d : BitVec 2} {a : Src} {f : State → SiteId → Inv → List (Nat × BitVec 4 × BitVec 6) → Option (List Lock)}
    {bad : State → SiteId → Inv → List (Nat × BitVec 4 × BitVec 6) → Bool} (h : Canon st) :
    IfNext Canon (lockNode st d a f bad) := by
  unfold lockNode
  extract_lets
  split
  · exact trivial
  · split
    · exact h
    · split
      · exact h
      · split
        · exact h
        · exact canon_noteMove (canon_nodeFault h)
        · rename_i a1 _ _ e1
          have h1 : Canon a1 := (canon_takeFirst h).of_eq e1
          split
          · exact canon_passMarker h h1
          · extract_lets
            split
            · extract_lets
              split
              · exact canon_noteMove (canon_nodeFault h)
              · split
                · exact h
                · exact IfNext.ite h (canon_noteMove (canon_endTile (canon_countAt (canon_emitAll h1))))

theorem canon_execLockTimeout (h : Canon st) : IfNext Canon (execLockTimeout site st) := by
  unfold execLockTimeout
  extract_lets late
  clear_value late
  split
  · exact IfNext.ite h h
  · exact h

theorem canon_execMeTokenAccept {st0 : State} (h : Canon st0) : IfNext Canon (execMeTokenAccept site st0) := by
  unfold execMeTokenAccept
  extract_lets st
  have hs : Canon st := h
  clear_value st
  generalize activeCtx st site = ctx
  cases ctx with
  | none => exact h
  | some cx =>
    refine IfNext.ite h ?_
    generalize (stageOps cx).head? = op
    cases op with
    | none => exact h
    | some i =>
      cases i with
      | spld | spst | spamo | spsync => exact canon_meAccept hs
      | ltake | lgive => exact canon_lockNode hs
      | spfifo => exact canon_execSpfifo hs
      | vnop => exact canon_execVnop hs
      | _ => exact h

/-! #### Firings (R95 to R97) -/

theorem canon_leaveFiring {f : Slice → Slice} (h : Canon s) : Canon (leaveFiring s f) := by
  unfold leaveFiring
  extract_lets
  split <;> exact h

theorem canon_endFiring (h : Canon s) : Canon (endFiring s) := canon_leaveFiring h

theorem canon_suspendFiring (h : Canon s) : Canon (suspendFiring s) := canon_leaveFiring h

theorem canon_pollWait {w : Watch} (h : Canon s) : IfNext Canon (pollWait s w) := IfNext.ite h (canon_leaveFiring h)

theorem canon_takeFiring (h : Canon s) : Canon (takeFiring s) := Canon.ite (canon_leaveFiring h) (canon_suspendFiring h)

theorem canon_runSlice {g : SeqRegs} {resumed : Bool} (h : Canon s) : Canon (runSlice s l g resumed) := h

theorem canon_startFiring (h : Canon s) : Canon (startFiring s l) := by
  have runs : ∀ g resumed, Canon (runSlice s l g resumed) := fun _ _ => canon_runSlice h
  unfold startFiring
  split
  · exact runs _ _
  · split
    · exact canon_modSlice (runs _ _)
    · extract_lets pc s1
      have h1 : Canon s1 := runs _ _
      split <;> exact h1

theorem canon_beginRetire {i : BitVec 32} (h : Canon s) : Canon (beginRetire s i) := h

theorem canon_discardOwned {i : BitVec 32} (h : Canon s) : Canon (discardOwned s i) :=
  Canon.foldl (fun _ _ h1 => canon_discardPlacement h1) h

theorem canon_dropFiring (h : Canon s) : Canon (dropFiring s l) := Canon.ite h h

theorem canon_finishOwned {i : BitVec 32} (h : Canon s) : Canon (finishOwned s i) :=
  Canon.foldl (fun _ _ h1 => canon_finishStreams (Canon.foldl (fun _ _ h2 => canon_finishElement h2) h1)) h

theorem canon_killSlice {i : BitVec 32} (h : Canon s) : Canon (killSlice s i) := by
  unfold killSlice
  split
  · exact h
  · exact Canon.ite h (canon_discardOwned (canon_finishOwned (canon_dropFiring h)))

theorem canon_closeFaulted (h : Canon s) : Canon (closeFaulted s) := by
  unfold closeFaulted
  extract_lets
  refine Canon.foldl (fun _ _ h1 => ?_) h
  split <;> exact h1

theorem canon_eretState (h : Canon s) : Canon (eretState s) := by
  unfold eretState
  extract_lets _ _ s1
  have hs1 : Canon s1 := Canon.ite (canon_closeFaulted h) h
  exact Canon.ite (canon_endFiring hs1) hs1

theorem canon_doEret (h : Canon s) : IfNext Canon (doEret s) := IfNext.ite h (canon_eretState h)

/-! #### The configuration loader (R373 to R378) -/

theorem canon_curatorPiece (h : Canon s) : IfSome (Canon ·.1) (curatorPiece s w va n) := by
  unfold curatorPiece
  split
  · rename_i e
    exact IfSome.ite trivial (canon_cachedRead ((canon_checkAccess h).of_eq e))
  · exact trivial

theorem canon_curatorRead (h : Canon s) : IfSome (Canon ·.1) (curatorRead s w va n) := by
  unfold curatorRead
  refine IfSome.foldl (fun _ _ h1 => ?_) h
  split
  · exact h1
  · exact (canon_curatorPiece h1).map fun ⟨u2, _⟩ h2 => h2

theorem canon_findEntry {catid : Nat} (h : Canon s) : IfSome (Canon ·.1) (findEntry w catid n n1 s) := by
  induction n generalizing s n1 with
  | zero => exact trivial
  | succ f ih =>
    rw [findEntry]
    split
    · exact trivial
    · rename_i s1 _ e
      have h1 : Canon s1 := (canon_curatorRead h).of_eq e
      exact IfSome.ite (ih h1) (IfSome.ite trivial h1)

theorem canon_readImage {catid : Nat} (h : Canon s) : IfSome (Canon ·.1) (readImage s w catid) :=
  (canon_curatorRead h).bind fun ⟨_, _⟩ h1 => IfSome.ite trivial ((canon_findEntry h1).bind fun ⟨_, _, _, _⟩ h2 =>
      (canon_curatorRead h2).bind fun ⟨_, _⟩ h3 => IfSome.ite trivial ((canon_curatorRead h3).bind fun ⟨_, _⟩ h4 =>
      (canon_curatorRead h4).bind fun ⟨_, _⟩ h5 => (canon_curatorRead h5).bind fun ⟨_, _⟩ h6 =>
      (canon_curatorRead h6).bind fun ⟨_, _⟩ h7 => h7))

theorem canon_writeImage {im : Image} {k : BitVec 2} {owner : BitVec 32} (h : Canon s) : Canon (writeImage s im o k owner) :=
  (Canon.foldl (fun _ _ h1 => h1) (Canon.foldl (fun _ _ h1 => canon_discardPlacement h1) h))

theorem canon_withImage {d : Reg} {k : BitVec 2} {go : State → Slice → Image → SiteId → Out} (h : Canon st)
    (hgo : ∀ u, Canon u → ∀ k i o, IfNext Canon (go u k i o)) :
    IfNext Canon (withImage st d a b k go) := by
  unfold withImage
  split
  · exact h
  · split
    · exact h
    · split
      · exact h
      · rename_i s1 _ e1
        have h1 : Canon s1 := (canon_readImage h).of_eq e1
        split
        · exact h1
        · split
          · exact h1
          · exact IfNext.ite (hgo _ h1 _ _ _) h

theorem canon_execCfld {d : Reg} {c : BitVec 2} (h : Canon st) : IfNext Canon (execCfld d a b c st) :=
  canon_withImage h (fun _ h1 _ _ _ => canon_advance (canon_writeReg (canon_writeImage h1)))

/-! #### Switch words and tracks (R36 to R41, R511) -/

theorem canon_switchMove {o t : Nat} {k : Token} {gate : Bool} (h : Canon s) : Canon (switchMove s i o t k gate) :=
  canon_noteMove (Canon.foldl (fun _ _ h1 => canon_emitTok h1) (canon_modChan h))

theorem canon_switchWord {i : BitVec 3} {o : BitVec 5} {t : BitVec 3} {gate : Bool} (h : Canon st) :
    IfNext Canon (switchWord i o t gate st) := by
  unfold switchWord
  split
  · exact trivial
  · split
    · exact h
    · exact IfNext.ite (canon_switchMove h) h

theorem canon_execSwg {i : BitVec 3} {o : BitVec 5} {t m : BitVec 3} (h : Canon st) : IfNext Canon (execSwg i o t m st) := by
  unfold execSwg
  split
  · exact trivial
  · extract_lets
    split
    · exact IfNext.ite (canon_modSite (canon_switchMove h)) h
    · exact h

theorem canon_present {t : Nat} {k : Token} (h : Canon s) : Canon (present s x p t k) := by
  unfold present
  extract_lets s1
  have hs1 : Canon s1 := canon_noteMove (canon_modChan h)
  exact Canon.ite (canon_nodeFault hs1) hs1

theorem canon_admitBundle (h : Canon s) : Canon (admitBundle s pl i q) := by
  unfold admitBundle
  extract_lets s1
  have hs1 : Canon s1 := by
    refine Canon.foldl (fun _ _ h1 => ?_) h
    extract_lets
    split
    · exact h1
    · exact canon_present (canon_modChan h1)
  exact hs1

theorem canon_dropFlight {k : Nat} (h : Canon s) : Canon (dropFlight s k) := canon_modChan h

theorem canon_noteMarker {y : SiteId} {t : Nat} {k : Token} (h : Canon s) : Canon (noteMarker s y p t k) := by
  unfold noteMarker
  split
  · exact Canon.ite h h
  · exact h

theorem canon_land {t : Nat} {k : Token} {src : SiteId} (h : Canon s) : Canon (land s x p t k src) := by
  unfold land
  extract_lets _ _ put
  have hPut : Canon put := canon_present (canon_dropFlight h)
  split
  · exact Canon.ite (canon_noteMove (canon_noteMarker (canon_dropFlight h))) (Canon.ite h (Canon.ite hPut hPut))
  · split
    · exact Canon.ite (Canon.ite hPut h) (Canon.ite (canon_noteMove (canon_noteMarker (canon_dropFlight h))) (Canon.ite h hPut))
    · exact Canon.ite hPut h

theorem canon_execTokenTransfer {port : BitVec 4} (h : Canon st) : IfNext Canon (execTokenTransfer site port track st) := by
  unfold execTokenTransfer
  extract_lets
  split
  · exact h
  · split
    · exact IfNext.ite h (canon_land h)
    · split
      · exact IfNext.ite (canon_noteMove (canon_admitBundle h)) h
      · exact h

theorem canon_execBoundaryTrackTransfer {port : BitVec 4} (h : Canon st) : IfNext Canon
    (execBoundaryTrackTransfer site port track st) := by
  unfold execBoundaryTrackTransfer
  extract_lets
  split
  · exact h
  · split
    · extract_lets _ s1
      have hs1 : Canon s1 := canon_land h
      exact IfNext.ite h (Canon.ite (canon_modChan hs1) hs1)
    · exact h

theorem canon_execSelvageDrop {port : BitVec 4} (h : Canon st) : IfNext Canon (execSelvageDrop site port track st) := by
  unfold execSelvageDrop
  extract_lets
  split
  · exact h
  · split
    · extract_lets _ _ s1
      have hs1 : Canon s1 := canon_modDie (canon_dropFlight h)
      split
      · exact h
      · split
        · exact IfNext.ite (canon_noteMove hs1) (canon_modPlacement (canon_nodeFault (canon_noteMove hs1)))
        · exact hs1
    · exact h

/-! #### Configuration words (R413 to R429) -/

theorem canon_execCfsw {d : Reg} {c : BitVec 2} (h : Canon st) : IfNext Canon (execCfsw d a c st) := by
  unfold execCfsw
  split
  · exact h
  · split
    · split
      · exact canon_advance (canon_writeReg (canon_resumeAdmission h))
      · split
        · exact h
        · exact IfNext.ite (canon_advance (canon_writeReg (canon_activate h))) h
    · exact h

theorem canon_execCfwv {d : Reg} {c : BitVec 2} (h : Canon st) : IfNext Canon (execCfwv d a b c st) := by
  unfold execCfwv
  split
  · exact h
  · exact h
  · split
    · exact h
    · extract_lets _ size
      clear_value size
      split
      · exact h
      · refine IfNext.ite h (IfNext.ite h (canon_withImage h fun _ hu _ _ _ => ?_))
        have written : ∀ im o k w, Canon (writeImage _ im o k w) := fun _ _ _ _ => canon_writeImage hu
        exact written _ _ _ _

theorem canon_execDrain {d : Reg} (h : Canon st) : IfNext Canon (execDrain d a st) := by
  unfold execDrain
  split
  · exact h
  · exact IfNext.ite h (IfNext.ite h (canon_startDrain h))

theorem canon_execQwait {d : Reg} (h : Canon st) : IfNext Canon (execQwait d a b st) := by
  unfold execQwait
  split
  · exact h
  · exact IfNext.ite h (IfNext.ite h (canon_pollWait h))

theorem canon_injPut {t : Nat} {k : Token} (h : Canon s) : Canon (injPut t k s x) := by
  unfold injPut
  split
  · exact canon_modChan h
  · exact Canon.ite (canon_present h) (canon_modChan h)

theorem canon_injClose {t : Nat} (h : Canon s) : Canon (injClose t s x) := by
  unfold injClose
  split <;> exact h

theorem canon_execInj {d : Reg} {r c : Bool} (h : Canon st) : IfNext Canon (execInj d a b r c st) := by
  unfold execInj
  extract_lets _ _ _ _ _ close ts
  have hClose : ∀ (s : State), Canon s → ∀ (ts : List SiteId), Canon (close s ts) :=
    fun _ h1 _ => Canon.ite (Canon.foldl (fun _ _ h2 => canon_injClose h2) h1) h1
  refine IfNext.ite h (IfNext.ite h (IfNext.ite h (IfNext.ite h (IfNext.ite ?_ (IfNext.ite h (canon_seqLoad h fun u h1 _ => ?_))))))
  · exact canon_advance (canon_writeReg (hClose _ h _))
  · exact IfNext.ite (canon_advance (canon_writeReg (hClose _ (Canon.foldl (fun _ _ h2 => canon_injPut h2) h1) _))) h

theorem canon_raiseGated {t : Nat} (h : Canon s) : Canon (raiseGated s x t) := by
  unfold raiseGated
  extract_lets
  split <;> exact h

theorem canon_execDraw {d : Reg} (h : Canon st) : IfNext Canon (execDraw d a b st) := by
  unfold execDraw
  extract_lets _ _ _ _ _ took
  have hTook : ∀ (s : State), Canon s → Canon (took s) := fun _ h1 => canon_modChan h1
  split
  · exact h
  · split
    · exact h
    · split
      · exact canon_advance (canon_writeReg (canon_raiseGated h))
      · split
        · exact h
        · split
          · exact h
          · split
            · exact IfNext.ite (canon_advance (canon_writeReg (hTook _ h))) (canon_seqStore h (fun _ h1 =>
                canon_advance (canon_writeReg (hTook _ h1))))
            · exact IfNext.ite h (canon_pollWait h)

theorem canon_assignDomain {xs : List SiteId} {m : BitVec 4} (h : Canon s) : Canon (assignDomain s xs m) :=
  (Canon.foldl (fun _ _ h1 => h1) h)

theorem canon_execSelvAssign {d : Reg} (h : Canon st) : IfNext Canon (execSelvAssign d a b st) :=
  IfNext.ite h (IfNext.ite h (IfNext.ite h (IfNext.ite h (canon_advance (canon_writeReg (canon_assignDomain h))))))

theorem canon_selvGate {d : Reg} {f : Nat → State} (h : Canon st) (hf : ∀ y, Canon (f y)) : IfNext Canon (selvGate st d a b f) :=
  IfNext.ite h (IfNext.ite h (IfNext.ite h (canon_advance (canon_writeReg (hf _)))))

theorem canon_execSelvOpen {d : Reg} (h : Canon st) : IfNext Canon (execSelvOpen d a b st) := canon_selvGate h (fun _ => h)

theorem canon_execSelvClose {d : Reg} (h : Canon st) : IfNext Canon (execSelvClose d a b st) := canon_selvGate h (fun _ => h)

theorem canon_execCurd {d : Reg} (h : Canon st) : IfNext Canon (execCurd d a b st) := IfNext.ite h (IfNext.ite h (IfNext.ite h h))

/-! #### Atomics and sync words (R217 to R222) -/

theorem canon_amoAt {d : Reg} {p : BitVec 3} (h : Canon st) : IfNext Canon (amoAt n d a b p st) :=
  IfNext.ite h (canon_seqRmw h (fun _ h1 _ => h1))

theorem canon_casAt {d : Reg} (h : Canon st) : IfNext Canon (casAt n d a b st) :=
  IfNext.ite h (canon_seqRmw h (fun _ h1 _ => IfNext.ite (canon_seqRmw h (fun _ h2 _ => h2)) h1))

theorem canon_armWord {t : Nat} (h : Canon s) : Canon (armWord s pa t) :=
  Canon.ite ⟨memWrite_wf h.1 _ _, h.2⟩ ⟨memWrite_wf h.1 _ _, h.2⟩

theorem canon_atSyncWord {va : Word} {go : Nat → Out} (h : Canon st) (hgo : ∀ y, IfNext Canon (go y)) :
    IfNext Canon (atSyncWord st va go) := by
  unfold atSyncWord
  split
  · exact h
  · split
    · split
      · exact h
      · exact IfNext.ite h (hgo _)
      · exact h
    · split
      · exact h
      · split <;> exact h

theorem canon_execSarm {d : Reg} (h : Canon st) : IfNext Canon (execSarm d a b st) :=
  canon_atSyncWord h (fun _ => canon_advance (canon_writeReg (canon_wakeSync (canon_armWord h))))

theorem canon_execSwait {d : Reg} (h : Canon st) : IfNext Canon (execSwait d a b st) :=
  canon_atSyncWord h (fun _ => IfNext.ite h (canon_pollWait h))

theorem canon_fenceWb (h : Canon s) : Canon (fenceWb s) := canon_cleanRegions h

theorem canon_fenceInv (h : Canon s) : Canon (fenceInv s) := canon_dropRegions h

theorem canon_execFence {w i b : Bool} {sc : BitVec 3} (h : Canon st) : IfNext Canon (execFence w i b sc st) := by
  unfold execFence
  extract_lets s1
  have hs1 : Canon s1 := Canon.ite (canon_fenceWb h) h
  exact IfNext.ite hs1 (canon_advance (Canon.ite (canon_fenceInv hs1) hs1))

theorem canon_barrDone {d : Reg} {r : Word} (h : Canon s) : IfNext Canon (barrDone s d r) :=
  canon_advance (canon_writeReg (canon_fenceInv h))

theorem canon_barrPoll {d : Reg} {va : Word} {w : WaitSt} (h : Canon st) : IfNext Canon (barrPoll st d va w) := by
  unfold barrPoll
  split
  · exact h
  · rename_i e
    split
    · exact canon_holdRequest h
    · split
      · exact h
      · split
        · rename_i s2 _ e1
          have h2 : Canon s2 := (canon_seqAtomic ((canon_checkAccess h).of_eq e)).fst_of_eq e1
          exact IfNext.ite (canon_barrDone h2) (canon_l1Drop h2)

theorem canon_barrMemory {d : Reg} {va : Word} (h : Canon st) : IfNext Canon (barrMemory st d va n) := by
  unfold barrMemory
  split
  · exact h
  · split
    · exact h
    · split
      · exact h
      · extract_lets s11
        have hS11 : Canon s11 := canon_fenceWb h
        exact IfNext.ite hS11 (canon_seqRmw hS11 (fun _ h2 _ => IfNext.ite (canon_barrDone h2) h2))

theorem canon_barrRelease {d : Reg} {w : WaitSt} (h : Canon st) : IfNext Canon (barrRelease st d x w) := by
  unfold barrRelease
  split
  · exact h
  · exact canon_barrDone (canon_modChan h)

theorem canon_barrFabric {d : Reg} (h : Canon st) : IfNext Canon (barrFabric st d v) := by
  unfold barrFabric
  extract_lets _ _ s1
  have hs1 : Canon s1 := canon_fenceWb h
  exact IfNext.ite h (IfNext.ite hs1 (IfNext.ite (canon_barrDone hs1) (IfNext.ite hs1 (canon_modCore (canon_injPut hs1)))))

theorem canon_execBarr {d : Reg} (h : Canon st) : IfNext Canon (execBarr d a b st) := by
  unfold execBarr
  extract_lets
  split
  · exact IfNext.ite (canon_barrRelease h) (canon_barrPoll h)
  · exact IfNext.ite (canon_barrFabric h) (canon_barrMemory h)

theorem canon_lineBar {a : Word} (h : Canon st) : IfSome (IfNext Canon) (lineBar st a) := by
  unfold lineBar
  split
  · exact h
  · exact IfSome.ite (canon_holdRequest h) (IfSome.ite h trivial)

theorem canon_linesBar {va : Word} (h : Canon st) : IfSome (IfNext Canon) (linesBar st va n) := by
  unfold linesBar
  split
  · exact h
  · exact IfSome.findSome (fun _ => canon_lineBar h)

theorem canon_atomicLines {va : Word} (h : Canon s) : Canon (atomicLines s va bs n) := by
  induction n with
  | zero => exact h
  | succ n ih =>
    rw [atomicLines]
    split
    · exact ih
    · rename_i u _ e
      have hu : Canon u := (canon_checkAccess ih).of_eq e
      exact canon_seqAtomic hu

theorem canon_execRcsnap {d : Reg} (h : Canon st) : IfNext Canon (execRcsnap d a st) := by
  unfold execRcsnap
  extract_lets
  split
  · exact h
  · split
    · rename_i e
      exact (canon_linesBar h).of_eq e
    · exact IfNext.ite h (canon_modCore (canon_atomicLines h))

/-! #### Queue rings (R243 to R248) -/

theorem canon_queueBit {q : QueueDesc} {on : Bool} (h : Canon s) : Canon (queueBit s d q i on) := canon_homeWrite h

theorem canon_queueEnds {q : QueueDesc} {head tail : BitVec 32} (h : Canon s) : Canon (queueEnds s d q head tail) :=
  canon_homeWrite h

theorem canon_modQueue {k : CoreId} {q : BitVec 24} {f : QueueRam → QueueRam} (h : Canon s) : Canon (modQueue s k q f) := h

theorem canon_ringOut {r : QueueRam} (h : Canon s) : Canon (ringOut s r) := by
  unfold ringOut
  split
  · exact h
  · exact canon_queueBit (canon_queueEnds (Canon.foldl (fun _ _ h1 => canon_homeWrite h1) h))

theorem canon_queuesOut (h : Canon s) : Canon (queuesOut s cohort) :=
  Canon.foldl (fun _ _ h1 => (Canon.foldl (fun _ _ h2 => canon_ringOut h2) h1)) h

theorem canon_ringIn {e : BitVec 24 × QueueDesc} (h : Canon s) : Canon (ringIn s e) := canon_queueBit h

theorem canon_queuesIn (h : Canon s) : Canon (queuesIn s cohort) := Canon.foldl (fun _ _ h1 => canon_ringIn h1) h

/-! #### The life of a slice (R94 to R108) -/

theorem canon_syncEarliest (h : Canon s) : Canon (syncEarliest s die cohort) := by
  unfold syncEarliest
  split
  · exact canon_homeWrite h
  · exact h

theorem canon_setMember {j : Nat} {on : Bool} (h : Canon s) : Canon (setMember s die cohort j on) := by
  unfold setMember
  split
  · exact h
  · exact canon_homeWrite h

theorem canon_setCohortState {v : Nat} (h : Canon s) : Canon (setCohortState s die cohort v) := by
  unfold setCohortState
  split
  · exact h
  · exact canon_homeWrite h

theorem canon_createIn {b : Birth} {k : CoreId} {slot : BitVec 5} (h : Canon s) : Canon (createIn s b k slot) :=
  canon_syncEarliest (canon_setMember h)

theorem canon_tryCreate {src : DieId} {place : Word} {spawnDie : DieId} {b : Birth} (h : Canon s) :
    IfOk Canon (tryCreate s src place spawnDie b) := by
  unfold tryCreate
  extract_lets
  split
  · exact trivial
  · split
    · exact trivial
    · split
      · exact trivial
      · exact canon_createIn h

theorem canon_createEntry {e : PendEntry} {b : Birth} (h : Canon s) : Canon (createEntry s e b).1 := by
  unfold createEntry
  split
  · rename_i s1 e1
    have h1 : Canon s1 := (canon_tryCreate h).of_eq e1
    exact h1
  · exact h
  · exact h

theorem canon_release {v : Nat} {notices : List Notice} (h : Canon s) : IfSome Canon (release s v notices) := by
  unfold release
  split
  · exact IfSome.ite trivial h
  · split
    · exact trivial
    · extract_lets
      split
      · exact h
      · exact IfSome.ite (canon_createEntry h) h

theorem canon_execRelease {key : Word} (h : Canon st) : IfNext Canon (execRelease die key st) :=
  IfNext.ite h (IfSome.getD (canon_release h) h)

theorem canon_retryEntry {e : PendEntry} (h : Canon s) : Canon (retryEntry s e) := by
  unfold retryEntry
  split
  · exact h
  · split
    · rename_i s1 e2
      have h1 : Canon s1 := (canon_tryCreate h).of_eq e2
      exact h1
    · exact h
    · exact h

theorem canon_execPendingRetry (h : Canon st) : IfNext Canon (execPendingRetry die st) :=
  Canon.foldl (fun _ _ h1 => canon_retryEntry h1) h

theorem canon_readerTarget {sup : Bool} (h : Canon s) : IfOk (Canon ·.1) (readerTarget w sup s va n) := by
  unfold readerTarget
  split
  · exact trivial
  · rename_i e
    exact IfOk.ite trivial (canon_walkClaim ((canon_checkAccess h).of_eq e))

theorem canon_l1Reader {k : CoreId} {sup : Bool} {asid : Word} (h : Canon s) : IfOk (Canon ·.1) (l1Reader k sup asid root s n n1) := by
  unfold l1Reader
  extract_lets
  split
  · exact trivial
  · rename_i s1 _ e
    have h1 : Canon s1 := (canon_readerTarget h).of_eq e
    extract_lets
    split
    · exact trivial
    · split
      · exact h1
      · split
        · exact h1
        · exact canon_cachedRead h1

theorem canon_homeReader {k : CoreId} {asid : Word} (h : Canon s) : IfOk (Canon ·.1) (homeReader k asid root s n n1) := by
  unfold homeReader
  extract_lets
  split
  · exact trivial
  · rename_i s1 _ e
    have h1 : Canon s1 := (canon_readerTarget h).of_eq e
    extract_lets
    split
    · exact trivial
    · split
      · exact h1
      · exact canon_homeRead (canon_coreRequest h1)

theorem canon_manifestBytes {rd : Reader} (h : ∀ (u : State), Canon u → ∀ (va n : Nat), IfOk (Canon ·.1) (rd u va n)) (hs : Canon s) :
    IfOk (Canon ·.1) (manifestBytes rd n s n1) := by
  induction n generalizing s n1 with
  | zero => exact hs
  | succ n ih =>
    rw [manifestBytes]
    split
    · exact trivial
    · rename_i s1 _ e
      have h1 : Canon s1 := (h s hs _ _).of_eq e
      split
      · exact h1
      · split
        · exact trivial
        · rename_i s2 _ e2
          have h2 : Canon s2 := (ih h1).of_eq e2
          exact h2

theorem canon_readChain {rd : Reader} {n2 : Nat} {x : Option (List Byte)}
    (h : ∀ (u : State), Canon u → ∀ (va n : Nat), IfOk (Canon ·.1) (rd u va n)) (hs : Canon s) :
    IfOk (Canon ·.1) (readChain rd n n1 s n2 x) := by
  induction n generalizing n1 s n2 x with
  | zero => exact trivial
  | succ n ih =>
    rw [readChain.eq_def]
    dsimp only
    split
    · exact trivial
    · rename_i s1 _ e
      have h1 : Canon s1 := by
        split at e
        · cases e
          exact hs
        · exact (h s hs _ _).of_eq e
      split
      · exact trivial
      · split
        · exact h1
        · split
          · exact trivial
          · rename_i s2 _ e2
            have h2 : Canon s2 := (ih h1).of_eq e2
            exact h2

theorem canon_readPlacement (h : Canon s) : IfOk (Canon ·.1) (readPlacement s l) := by
  unfold readPlacement
  extract_lets rd man
  have reads : ∀ (u : State), Canon u → ∀ (va n : Nat), IfOk (Canon ·.1) (rd u va n) := fun _ hu _ _ => canon_homeReader hu
  have hMan : IfOk (Canon ·.1) man := by
    unfold man
    split
    · exact h
    · exact IfOk.ite h (canon_manifestBytes reads h)
  clear_value man
  split
  · exact trivial
  · have h1 := hMan.of_eq rfl
    split
    · exact trivial
    · split
      · exact trivial
      · rename_i s2 _ e2
        have h2 : Canon s2 := (canon_readChain reads h1).of_eq e2
        exact h2

theorem canon_admitSlice (h : Canon s) : Canon (admitSlice s l) := canon_queuesIn (canon_setSlice (canon_dropRegions h))

theorem canon_admitOrWait (h : Canon s) : Canon (admitOrWait s l) := Canon.ite (canon_admitSlice h) h

theorem canon_queuesFollow (h : Canon s) : Canon (queuesFollow die s cohort) := Canon.ite (canon_queuesIn h) h

theorem canon_execSliceAdmission (h : Canon st) : IfNext Canon (execSliceAdmission die st) := by
  unfold execSliceAdmission
  extract_lets s1
  have hs1 : Canon s1 := Canon.foldl (fun _ _ h1 => Canon.ite (canon_admitSlice h1) h1) h
  exact Canon.foldl (fun _ _ h1 => canon_queuesFollow h1) hs1

theorem canon_leaveTable {i : BitVec 32} (h : Canon s) : Canon (leaveTable s i) := Canon.ite h h

theorem canon_freeBanks (h : Canon s) : Canon (freeBanks s l) := h

theorem canon_retireSlice (h : Canon s) : Canon (retireSlice s l) := by
  have freed : Canon (freeBanks s l) := canon_freeBanks h
  exact canon_leaveTable (canon_syncEarliest (canon_setMember (canon_modSlice freed)))

theorem canon_refuseSlice {t : SupTrap} (h : Canon s) : IfSome Canon (refuseSlice s l t) :=
  (canon_sendSuper h).map fun _ h1 => canon_retireSlice h1

theorem canon_execSlicePlacement (h : Canon st) : IfNext Canon (execSlicePlacement sid st) := by
  unfold execSlicePlacement
  split
  · exact h
  · split
    · exact IfSome.getD (canon_refuseSlice h) h
    · rename_i e1
      exact canon_admitOrWait ((canon_readPlacement h).of_eq e1)

theorem canon_passRecords {xs : List DeferRec} (h : Canon s) : Canon (passRecords s l xs).1 := by
  induction xs generalizing s with
  | nil => exact h
  | cons r t ih =>
    rw [passRecords]
    split
    · exact h
    · rename_i s1 e
      have h1 : Canon s1 := (canon_sendSuper h).of_eq e
      exact ih (canon_setCore h1)

theorem canon_sendReleases (h : Canon s) : Canon (sendReleases l n s n1).1 := by
  induction n generalizing s n1 with
  | zero => exact h
  | succ n ih =>
    rw [sendReleases]
    split
    · split
      · exact h
      · rename_i s1 e1
        have h1 : Canon s1 := (canon_sendSuper h).of_eq e1
        exact h1
    · rename_i s1 _ e
      have h1 : Canon s1 := (canon_l1Reader h).of_eq e
      extract_lets v
      split
      · exact ih h1
      · split
        · exact h1
        · rename_i s2 e2
          have h2 : Canon s2 := (canon_release h1).of_eq e2
          exact ih h2

theorem canon_execSliceRetirement (h : Canon st) : IfNext Canon (execSliceRetirement sid st) := by
  unfold execSliceRetirement
  split
  · exact h
  · extract_lets _ s1 q s3 z
    have hs1 : Canon s1 := canon_freeBanks (canon_discardOwned h)
    have hq : Canon q.1 := canon_passRecords hs1
    have hs3 : Canon s3 := canon_cleanRegions hq
    have hz : Canon z.1 := canon_sendReleases hs3
    exact IfNext.ite h (IfNext.ite hq (IfNext.ite (canon_retireSlice (canon_cleanRegions hq)) (Canon.ite hs3 (Canon.ite
        (canon_retireSlice hz) hz))))

theorem canon_prefetchRegion {n : Notice} (h : Canon s) : Canon (prefetchRegion s l n) := by
  unfold prefetchRegion
  extract_lets take
  have hTake : ∀ (t : State), Canon t → ∀ (i : Nat), Canon (take t i) := by
    refine fun _ h1 _ => ?_
    unfold take
    split
    · exact Canon.ite h1 (canon_l1Fill h1)
    · exact Canon.ite h1 (canon_l1Fill h1)
    · exact h1
  exact Canon.foldl (fun _ _ h1 => Canon.foldl (fun _ _ h2 => hTake _ h2 _) h1) h

theorem canon_copyRegion {n : Notice} (h : Canon s) : IfOk Canon (copyRegion s l n) := by
  unfold copyRegion
  extract_lets
  split
  · exact trivial
  · rename_i u _ _ e
    have h1 : Canon u := (canon_engRead h).of_eq e
    split
    · exact trivial
    · exact ⟨memWrite_wf h1.1 _ _, h1.2⟩

theorem canon_execForwardNotice (h : Canon st) : IfNext Canon (execForwardNotice sid st) := by
  unfold execForwardNotice
  split
  · exact h
  · split
    · exact h
    · extract_lets took
      have hTook : ∀ (s : State), Canon s → Canon (took s) := fun _ h1 => h1
      split
      · split
        · rename_i e3
          exact hTook _ ((canon_copyRegion h).of_eq e3)
        · exact IfSome.getD (canon_refuseSlice h) h
      · exact hTook _ (canon_prefetchRegion h)

theorem canon_spawnReads {r : List Byte} (h : Canon s) : IfOk (Canon ·.1) (spawnReads s r) := by
  unfold spawnReads
  extract_lets c rd man got
  have reads : ∀ (u : State), Canon u → ∀ (va n : Nat), IfOk (Canon ·.1) (rd u va n) := fun _ hu _ _ => canon_l1Reader hu
  have hGot : IfOk (Canon ·.1) got := IfOk.ite h (canon_manifestBytes reads h)
  clear_value got
  split
  · exact trivial
  · have h1 := hGot.of_eq rfl
    split
    · exact trivial
    · rename_i s2 _ e2
      have h2 : Canon s2 := (reads _ h1 _ _).of_eq e2
      exact h2

theorem canon_spawnRecord {b : Birth} {place : Word} (h : Canon s) : Canon (spawnRecord s die b place).1 := by
  unfold spawnRecord
  extract_lets
  split
  · exact h
  · split
    · split
      · split
        · rename_i s1 e3
          have h1 : Canon s1 := (canon_tryCreate h).of_eq e3
          exact h1
        · exact h
      · split <;> exact h
    · split
      · exact h
      · extract_lets
        split
        · exact h
        · exact canon_createEntry h

theorem canon_execSpawn {d : Reg} (h : Canon st) : IfNext Canon (execSpawn d a b st) := by
  unfold execSpawn
  extract_lets _ _ _ send
  have hSend : ∀ (u : State), Canon u → ∀ (x : Birth) (rs : List Region), IfNext Canon (send u x rs) := by
    refine fun _ h1 _ _ => ?_
    unfold send
    extract_lets u11
    have hU11 : Canon u11 := canon_cleanRegions h1
    exact IfNext.ite (canon_spawnRecord hU11) hU11
  split
  · exact h
  · refine canon_seqLoad h (fun _ h1 _ => ?_)
    extract_lets
    split
    · exact h1
    · split
      · exact IfNext.ite (hSend _ h1 _ _) h1
      · rename_i e1
        exact hSend _ ((canon_spawnReads h1).of_eq e1) _ _

theorem canon_execNotify {d : Reg} (h : Canon st) : IfNext Canon (execNotify d a b st) := by
  unfold execNotify
  extract_lets _ _ _ s1
  have hs1 : Canon s1 := canon_cleanRegions h
  split
  · exact h
  · split
    · exact h
    · split
      · exact h
      · split
        · exact hs1
        · split
          · exact hs1
          · rename_i s2 e
            have h1 : Canon s2 := (canon_release hs1).of_eq e
            exact h1

/-! #### Instruction fetch (R79) -/

theorem canon_fetchBlock (h : Canon s) : Canon (fetchBlock s d pa).1 := by
  unfold fetchBlock
  split
  · exact h
  · exact canon_homeRead h

theorem canon_fetchWord {pc : Nat} (h : Canon s) : IfOk (Canon ·.1) (fetchWord s pc) := by
  unfold fetchWord
  extract_lets
  split
  · exact h
  · split
    · exact trivial
    · rename_i s1 _ e1
      have h1 : Canon s1 := (canon_checkAccess h).of_eq e1
      extract_lets
      split
      · exact trivial
      · split
        · exact trivial
        · split
          · rename_i e2
            exact (canon_modCore (canon_dieFill ((canon_fetchBlock (canon_coreRequest h1)).fst_of_eq e2)))

/-! #### Control words (R80, R88 to R92) -/

theorem canon_jumpTo {t : Word} (h : Canon s) : Canon (jumpTo s t) := h

theorem canon_branchIf {c : Bool} {o : BitVec 10} (h : Canon s) : IfNext Canon (branchIf s c o) := Canon.ite h h

theorem canon_execJr {l : Bool} (h : Canon st) : IfNext Canon (execJr a l st) := IfNext.ite h (canon_jumpTo (Canon.ite h h))

theorem canon_execRep {c : BitVec 6} {d a b : BitVec 5} (h : Canon st) : IfNext Canon (execRep c d a b st) := by
  unfold execRep
  extract_lets
  split
  · exact canon_joinWalk h
  · split
    · exact h
    · rename_i s2 _ e
      have h1 : Canon s2 := (canon_fetchWord h).of_eq e
      exact IfNext.ite h1 h1

theorem canon_execEndFiring (h : Canon st) : IfNext Canon (execEndFiring st) := IfNext.ite h (canon_endFiring h)

theorem canon_execEndDone (h : Canon st) : IfNext Canon (execEndDone st) := by
  unfold execEndDone
  split
  · exact h
  · split
    · exact canon_endFiring h
    · exact canon_beginRetire (canon_endFiring h)

theorem canon_execEndKill (h : Canon st) : IfNext Canon (execEndKill st) := by
  unfold execEndKill
  extract_lets
  split
  · exact h
  · split
    · exact canon_doEret (canon_killSlice h)
    · split
      · exact canon_endFiring h
      · exact canon_killSlice (canon_endFiring h)

theorem canon_execYield (h : Canon st) : IfNext Canon (execYield st) := IfNext.ite h (canon_suspendFiring h)

/-! #### System words (R86, R238) -/

theorem canon_slotTable (h : Canon s) : IfSome (Canon ·.1) (slotTable s d pa) := by
  unfold slotTable
  split
  · exact trivial
  · split
    · rename_i s2 _ e
      have h1 : Canon s2 := (canon_homeRead h).fst_of_eq e
      exact IfSome.ite h1 trivial

theorem canon_putSlots {t : Vector (List Byte) 5} (h : Canon s) : Canon (putSlots s d t) := h

theorem canon_loadSlotMap {c : CoreId} (h : Canon s) : Canon (loadSlotMap s c) := by
  unfold loadSlotMap
  extract_lets d v answer
  have hAnswer : ∀ u w, Canon u → Canon (answer u w) := fun _ _ hu => hu
  clear_value answer
  split
  · exact hAnswer _ _ (canon_putSlots h)
  · split
    · exact hAnswer _ _ h
    · rename_i s1 _ e
      have h1 : Canon s1 := (canon_slotTable h).of_eq e
      exact hAnswer _ _ (canon_putSlots h1)

theorem canon_execSlotMapTakeEffect (h : Canon st) : IfNext Canon (execSlotMapTakeEffect die st) := Canon.ite h h

theorem canon_putSlice {f : Slice → Slice} (h : Canon s) : Canon (putSlice s f) := by
  unfold putSlice
  split <;> exact h

theorem canon_putDeadline {v : BitVec 48} (h : Canon s) : Canon (putDeadline s v) := by
  unfold putDeadline
  split
  · exact h
  · exact canon_syncEarliest h

theorem canon_sysWrite (h : Canon s) : Canon (sysWrite s i v) := by
  unfold sysWrite
  split
  · exact canon_putSlice h
  · exact canon_putSlice h
  · exact canon_putDeadline h
  · exact canon_putSlice h
  · exact canon_putSlice h
  · exact h
  · exact h
  · exact h
  · exact h
  · exact h
  · exact h
  · exact h
  · exact h
  · exact h
  · exact h
  · exact h
  · exact h
  · exact h
  · exact h
  · exact h
  · exact h
  · exact h
  · exact canon_loadSlotMap h
  · exact h
  · exact h

theorem canon_execGets {d : Reg} {i : BitVec 10} (h : Canon st) : IfNext Canon (execGets d i st) := IfNext.ite h (IfNext.ite h h)

theorem canon_execPuts {i : BitVec 10} (h : Canon st) : IfNext Canon (execPuts a i st) :=
  IfNext.ite h (IfNext.ite h (IfNext.ite h (canon_advance (canon_sysWrite h))))

theorem canon_execEret (h : Canon st) : IfNext Canon (execEret st) := IfNext.ite (canon_doEret h) h

theorem canon_execIdle (h : Canon st) : IfNext Canon (execIdle st) := IfNext.ite h (IfNext.ite h h)

theorem canon_dropPage {asid : BitVec 16} (h : Canon s) : Canon (dropPage s asid va) := h

theorem canon_tlbiRetire {waits : Bool} (h : Canon s) : IfNext Canon (tlbiRetire s waits) := IfNext.ite h h

theorem canon_execTlbiAll (h : Canon st) : IfNext Canon (execTlbiAll st) := IfNext.ite (canon_tlbiRetire h) h

theorem canon_execTlbiAsid (h : Canon st) : IfNext Canon (execTlbiAsid a st) := IfNext.ite (canon_tlbiRetire h) h

theorem canon_execTlbiPage (h : Canon st) : IfNext Canon (execTlbiPage a b st) :=
  IfNext.ite h (IfNext.ite h (canon_tlbiRetire (canon_dropPage h)))

/-! #### Instruction boundaries (R95, R235) -/

theorem canon_takeSuper (h : Canon s) : IfSome Canon (takeSuper s) := by
  unfold takeSuper
  extract_lets
  split
  · exact trivial
  · exact h

theorem canon_boundaryTrap (h : Canon s) : IfSome Canon (boundaryTrap s) := by
  unfold boundaryTrap
  split
  · exact trivial
  · split
    · rename_i s1 e
      have h1 : Canon s1 := (canon_takeAsync h).of_eq e
      exact h1
    · exact canon_takeSuper h

theorem canon_execSliceSchedulerChoice (h : Canon st) : IfNext Canon (execSliceSchedulerChoice core st) := by
  unfold execSliceSchedulerChoice
  split
  · exact h
  · split
    · rename_i s1 e
      have h1 : Canon s1 := (canon_boundaryTrap (s := onCore st core) h).of_eq e
      exact h1
    · split
      · exact h
      · exact canon_startFiring h

theorem canon_execAsyncCauseTaken (h : Canon st) : IfNext Canon (execAsyncCauseTaken core st) :=
  Canon.ite (IfSome.getD (canon_takeAsync h) h) h

theorem canon_execBudgetExpiry (h : Canon st) : IfNext Canon (execBudgetExpiry core st) := by
  unfold execBudgetExpiry
  extract_lets s c
  have hs : Canon s := h
  exact IfNext.ite ((canon_takeAsync hs).getD h) h

theorem canon_execSupervisorTrapDelivery (h : Canon st) : IfNext Canon (execSupervisorTrapDelivery core st) :=
  Canon.ite (IfSome.getD (canon_takeSuper h) h) h

theorem canon_execDeferredRecord (h : Canon st) : IfNext Canon (execDeferredRecord eng st) := by
  unfold execDeferredRecord
  split
  · exact h
  · split
    · exact h
    · rename_i s2 e1
      have h1 : Canon s2 := (canon_sendRecord h).of_eq e1
      exact h1

theorem canon_execPreemptMark (h : Canon st) : IfNext Canon (execPreemptMark origin sid st) := by
  unfold execPreemptMark
  split
  · exact IfNext.ite h h
  · exact h

/-! #### Matrix tiles (R290 to R308) -/

theorem canon_roleTake {r : Nat} (h : Canon s) : Canon (roleTake s x cx r) := canon_consumeBundle h

theorem canon_modTile {f : Tile → Tile} (h : Canon s) : Canon (modTile s x f) := h

theorem canon_roleFault {r seq : Nat} (h : Canon s) : Canon (roleFault s x cx r seq) := canon_noteMove (canon_nodeFault h)

theorem canon_execMload (h : Canon st) : IfNext Canon (execMload st) := by
  unfold execMload
  extract_lets
  split
  · exact trivial
  · split
    · exact h
    · split
      · exact h
      · exact IfNext.ite h (IfNext.ite (canon_noteMove (canon_roleTake h)) (IfNext.ite (canon_roleFault h) (canon_noteMove
          (canon_modTile (canon_roleTake h)))))

theorem canon_f8cColumn (h : Canon s) : IfOk (Canon ·.1) (f8cColumn s w r va n1 n) := by
  induction n with
  | zero => exact h
  | succ n ih =>
    rw [f8cColumn]
    split
    · exact trivial
    · rename_i s1 _ _ e
      have h1 : Canon s1 := ih.of_eq e
      split
      · exact trivial
      · rename_i s2 _ _ e2
        have h2 : Canon s2 := (canon_f8cElement h1).of_eq e2
        exact h2

theorem canon_readColumn {form : Nat} (h : Canon s) : IfOk (Canon ·.1) (readColumn s w form va) := by
  unfold readColumn
  extract_lets
  split
  · split
    · exact trivial
    · exact h
  · extract_lets
    split
    · split
      · exact trivial
      · rename_i s1 _ _ e3
        have h1 : Canon s1 := (canon_f8cColumn h).of_eq e3
        exact h1
    · split
      · exact trivial
      · rename_i u _ _ e2
        have h1 : Canon u := (canon_engRead h).of_eq e2
        exact h1

/-- What the load of a plane leaves, up to its end or to the column that fails, has the property. -/
def IfLoaded (P : State → Prop) : Except (State × Nat × Flt) State → Prop
  | .ok s => P s
  | .error q => P q.1
theorem IfLoaded.of_ok {P : State → Prop} {o : Except (State × Nat × Flt) State} (h : IfLoaded P o) (he : o = .ok s) : P s := by
  subst he
  exact h
theorem IfLoaded.of_error {P : State → Prop} {o : Except (State × Nat × Flt) State} {q : Nat × Flt} (h : IfLoaded P o)
    (he : o = .error (s, q)) : P s := by
  subst he
  exact h
/-- The address of a column is taken as it is: the kernel would else compute with it when it opens the recursion. -/
theorem canon_readPlane (h : Canon s) : IfLoaded Canon (readPlane s w strict x n) := by
  obtain ⟨address, hva⟩ : ∃ f, f = columnVa := ⟨_, rfl⟩
  delta readPlane readPlane._f
  rw [← hva]
  clear hva
  induction n generalizing s with
  | zero => exact h
  | succ n ih =>
    dsimp only
    split
    · exact h
    · rename_i s1 k e
      have h1 : Canon s1 := (canon_readColumn h).of_eq e
      split
      · exact h
      · exact ih (canon_modTile (Canon.foldl (fun _ _ hu => canon_countAt hu) (canon_countAt h1)))

theorem canon_runLoad (h : Canon s) : IfLoaded Canon (runLoad s x) := by
  unfold runLoad
  split
  · exact h
  · exact canon_readPlane h

theorem canon_pendingSwap (h : Canon s) : Canon (pendingSwap s x) := by
  unfold pendingSwap
  extract_lets
  split
  · exact h
  · split
    · exact h
    · exact canon_nodeFault h
    · exact h

theorem canon_execPlaneReady (h : Canon st) : IfNext Canon (execPlaneReady site st) := by
  unfold execPlaneReady
  split
  · exact h
  · split
    · exact canon_pendingSwap h
    · split
      · exact h
      · rename_i s1 e
        have h1 : Canon s1 := (canon_runLoad h).of_ok e
        exact canon_noteMove (canon_pendingSwap (canon_endTile h1))

theorem canon_execMloadColumnFault (h : Canon st) : IfNext Canon (execMloadColumnFault site st) := by
  unfold execMloadColumnFault
  split
  · exact h
  · split
    · rename_i s1 _ _ _ e _
      have h1 : Canon s1 := (canon_runLoad h).of_error e
      split
      · exact h
      · rename_i s2 e2
        have h2 : Canon s2 := (canon_sendRecord h1).of_eq e2
        exact canon_noteMove (canon_endTile h2)
    · exact h

theorem canon_execMswap {p : Bool} (h : Canon st) : IfNext Canon (execMswap p st) := by
  unfold execMswap
  extract_lets
  split
  · exact trivial
  · split
    · exact h
    · extract_lets
      split
      · exact h
      · split
        · exact canon_noteMove (Canon.ite h (canon_roleTake h))
        · exact canon_roleFault h
        · exact h

theorem canon_addRow {p : Plane} {r : Nat} (h : Canon s) : Canon (addRow s x p r ts) := (canon_countAt (canon_countAt (canon_countAt h)))

theorem canon_stepRow (h : Canon s) : Canon (stepRow s x cx) := by
  unfold stepRow
  extract_lets _ put
  have hPut : ∀ u i v, Canon u → Canon (put u i v) := fun _ _ _ hu => hu
  clear_value put
  exact Canon.ite (hPut _ _ _ h) (canon_modTile (hPut _ _ _ (hPut _ _ _ h)))

theorem canon_execMrow {p : BitVec 2} (h : Canon st) : IfNext Canon (execMrow p st) := by
  unfold execMrow
  extract_lets
  split
  · exact trivial
  · split
    · exact h
    · split
      · exact h
      · split
        · exact h
        · extract_lets _ s1
          have hs1 : Canon s1 := canon_emitAll (canon_roleTake h)
          split
          · exact canon_noteMove (canon_endTile hs1)
          · split
            · exact canon_roleFault h
            · exact IfNext.ite (canon_roleFault h) (canon_noteMove (canon_endTile (canon_stepRow (Canon.ite hs1 (canon_addRow hs1)))))

theorem canon_beginDrain {auto : Bool} (h : Canon s) : Canon (beginDrain s x cx auto) := Canon.ite h h

theorem canon_execMdrain {x : Bool} {x1 : BitVec 2} (h : Canon st) : IfNext Canon (execMdrain x x1 st) := by
  unfold execMdrain
  extract_lets
  split
  · exact trivial
  · split
    · exact h
    · exact IfNext.ite (canon_noteMove (canon_beginDrain (canon_roleTake h))) h

theorem canon_execMclr (h : Canon st) : IfNext Canon (execMclr st) := by
  unfold execMclr
  extract_lets
  split
  · exact trivial
  · split
    · exact h
    · exact IfNext.ite (canon_noteMove (canon_modTile (canon_roleTake h))) h

theorem canon_execAutoDrain (h : Canon st) : IfNext Canon (execAutoDrain site st) := by
  unfold execAutoDrain
  split
  · exact h
  · exact IfNext.ite h (canon_noteMove (canon_beginDrain (Canon.ite (canon_roleTake h) h)))

theorem canon_execDrainStep (h : Canon st) : IfNext Canon (execDrainStep site st) := by
  unfold execDrainStep
  split
  · exact h
  · split
    · exact IfNext.ite h (canon_noteMove (canon_endTile (Canon.foldl (fun _ _ h2 => canon_countAt h2) (canon_emitAll h))))
    · exact h

theorem canon_finishTile (h : Canon s) : Canon (finishTile s x) := by
  unfold finishTile
  refine Canon.foldl (fun _ _ h1 => ?_) h
  split
  · rename_i e
    exact (canon_execDrainStep h1).of_eq e
  · exact h1

theorem canon_execAccumulatorRefresh (h : Canon st) : IfNext Canon (execAccumulatorRefresh site st) := IfNext.ite h h

/-! #### Queues and notify pages (R245 to R254) -/

theorem canon_pushEntry {q : BitVec 24} {close : Bool} (h : Canon s) : Canon (pushEntry s q v close).1 := by
  unfold pushEntry
  split
  · exact h
  · extract_lets _ shut
    have hShut : ∀ (u : State), Canon u → Canon (shut u) := fun _ h1 => Canon.ite (canon_queueBit h1) h1
    split
    · exact h
    · split
      · split
        · exact h
        · exact hShut _ (canon_modQueue h)
      · split
        · exact h
        · exact hShut _ (canon_queueEnds (canon_homeWrite h))

theorem canon_execPushq {d : Reg} {c : Bool} (h : Canon st) : IfNext Canon (execPushq d a b c st) := by
  unfold execPushq
  extract_lets
  split
  · exact IfNext.ite h h
  · split
    · exact h
    · split
      · exact h
      · exact IfNext.ite (canon_pushEntry h) h

theorem canon_execDocentPush (h : Canon st) : IfNext Canon (execDocentPush die st) := by
  unfold execDocentPush
  split
  · exact h
  · exact (canon_pushEntry h)

theorem canon_popEntry {v : Nat} (h : Canon s) : Canon (popEntry s v).1 := by
  unfold popEntry
  extract_lets
  split
  · exact h
  · split
    · exact h
    · split
      · exact h
      · split
        · exact h
        · split
          · exact canon_modQueue h
          · exact h

theorem canon_execEntryPortClose {port : BitVec 8} (h : Canon st) : IfNext Canon (execEntryPortClose origin port st) := by
  unfold execEntryPortClose
  split
  · exact h
  · split
    · exact h
    · exact IfNext.ite h (IfNext.ite h h)

theorem canon_ringRecord {b : Notify} {i : BitVec 32} (h : Canon s) : Canon (ringRecord s die b i).1 := by
  unfold ringRecord
  extract_lets
  split
  · exact h
  · exact canon_homeRead h

theorem canon_admitRecord {b : Notify} {i : BitVec 32} (h : Canon s) : Canon (admitRecord s die b i).1 := by
  have rung : Canon (ringRecord s die b i).1 := canon_ringRecord h
  unfold admitRecord
  generalize ringRecord s die b i = q at rung ⊢
  obtain ⟨s1, r⟩ := q
  dsimp only
  split
  · exact rung
  · exact canon_spawnRecord rung

theorem canon_admitUpTo {page : Nat} {v : BitVec 32} (h : Canon s) : Canon (admitUpTo die page v n s).1 := by
  delta admitUpTo admitUpTo._f
  induction n generalizing s with
  | zero => exact h
  | succ n ih =>
    have admitted : Canon (admitRecord s die (notifyOf s die page) (notifyOf s die page).last).1 := canon_admitRecord h
    dsimp only
    split
    · exact h
    · generalize admitRecord s die (notifyOf s die page) (notifyOf s die page).last = q at admitted ⊢
      obtain ⟨s1, r⟩ := q
      dsimp only
      split
      · exact admitted
      · exact ih (canon_modNotify admitted)

theorem canon_handleDoorbell {page : Nat} (h : Canon s) : Canon (handleDoorbell s die page) := by
  unfold handleDoorbell
  extract_lets
  split
  · exact h
  · extract_lets drop _ q
    have hDrop : ∀ (u : State), Canon u → Canon (drop u) := fun _ h1 => h1
    have hq : Canon q.1 := canon_admitUpTo h
    exact Canon.ite (hDrop _ h) (Canon.ite (hDrop _ h) (Canon.ite (hDrop _ hq) hq))

theorem canon_execDoorbell {page : BitVec 8} {value : BitVec 32} (h : Canon st) : IfNext Canon (execDoorbell die page value st) := by
  unfold execDoorbell
  extract_lets _ s1
  have hs1 : Canon s1 := Canon.ite h h
  exact IfNext.ite hs1 (canon_handleDoorbell hs1)

/-! #### Saving and restoring (R259 to R264) -/

theorem canon_saveBytes (h : Canon s) : Canon (saveBytes s die pa bs) := Canon.foldl (fun _ _ h1 => canon_homeWrite h1) h

theorem canon_loadBytes (h : Canon s) : Canon (loadBytes s die pa n).1 := by
  unfold loadBytes
  refine Canon.foldl_fst (fun p q h1 => ?_) h
  have read : Canon (homeRead p.1 die q.1 q.2).1 := canon_homeRead h1
  exact read

theorem canon_restoreSlice (h : Canon s) : Canon (restoreSlice s l bs) := canon_dropRegions h

theorem canon_landInside (h : Canon s) : Canon (landInside s pl) := Canon.foldl (fun _ _ h1 => Canon.ite h1 (canon_modChan h1)) h

theorem canon_moveExits {aside : Bool} (h : Canon s) : Canon (moveExits s pl aside) :=
  Canon.foldl (fun _ _ h1 => Canon.foldl (fun _ _ h2 => Canon.foldl (fun _ _ h3 => Canon.ite (canon_setChan (canon_setChan h3))
      (canon_setChan (canon_setChan h3))) h2) h1) h

theorem canon_finishRegion (h : Canon s) : Canon (finishRegion s pl) :=
  canon_landInside (canon_finishStreams (Canon.foldl (fun _ _ h1 => canon_finishTile h1) (Canon.foldl (fun _ _ h1 =>
      canon_finishElement h1) h)))

theorem canon_saveRegion {freeze : Bool} (h : Canon s) : Canon (saveRegion s pl freeze) := by
  unfold saveRegion
  extract_lets s0
  have hs0 : Canon s0 := canon_flushStats (Canon.ite (canon_finishRegion h) h)
  split
  · exact hs0
  · extract_lets _ s1
    have hs1 : Canon s1 := by
      unfold s1
      split
      · exact canon_saveBytes (canon_saveBytes hs0)
      · exact hs0
    exact (Canon.foldl (fun _ _ h1 => canon_modSite (canon_clearInputs h1)) (canon_moveExits hs1))

theorem canon_execFreezeSave (h : Canon st) : IfNext Canon (execFreezeSave origin st) := by
  unfold execFreezeSave
  split
  · exact h
  · split
    · exact h
    · exact Canon.ite (canon_saveRegion h) h

theorem canon_loadSite {recs maps : List Byte} (h : Canon s) : Canon (loadSite s pl recs maps i x bs).1 := by
  unfold loadSite
  extract_lets _ _ _ _ _ _ _ s2
  have hs2 : Canon s2 := by
    refine Canon.foldl (fun _ _ h1 => ?_) h
    split
    · exact h1
    · exact canon_modChan h1
  exact hs2

theorem canon_reloadPlane {ops : List W32} (h : Canon s) : IfSome Canon (reloadPlane s x ops) := by
  unfold reloadPlane
  extract_lets s1 faulted
  have h1 : Canon s1 := h
  have hFaulted : ∀ u, Canon u → Canon (faulted u) := fun _ hu => hu
  clear_value s1 faulted
  split
  · rename_i s2 e
    have h2 : Canon s2 := (canon_runLoad h1).of_ok e
    exact h2
  · rename_i s2 _ _ e
    have h2 : Canon s2 := (canon_runLoad h1).of_error e
    split
    · exact hFaulted _ h2
    · exact (canon_sendRecord h2).map fun _ hu => hFaulted _ hu

theorem canon_reloadActive {ops : List W32} {pending : Bool} (h : Canon s) : IfSome Canon (reloadActive s x ops pending) :=
  (canon_reloadPlane h).map fun _ h1 => h1

theorem canon_reloadShadow {ops : List W32} {state : Nat} (h : Canon s) : IfSome Canon (reloadShadow s x ops state) :=
  IfSome.ite (canon_reloadPlane h) (IfSome.ite h h)

theorem canon_loadTile (h : Canon s) : IfSome (Canon ·.1) (loadTile s x bs) := by
  unfold loadTile
  extract_lets n rows pending s1 s2
  have h1 : Canon s1 := h
  clear_value s1
  have h2 : IfSome Canon s2 := IfSome.ite h1 (canon_reloadActive h1)
  clear_value s2
  exact (h2.bind fun _ hu => canon_reloadShadow hu).map fun _ hu => hu

theorem canon_loadTiles {xs : List SiteId} {xs1 : List Byte} (h : Canon s) : IfSome Canon (loadTiles xs s xs1) := by
  induction xs generalizing s xs1 with
  | nil => exact h
  | cons x t ih =>
    rw [loadTiles]
    split
    · exact trivial
    · rename_i q e
      have hq : Canon q.1 := (canon_loadTile h).of_eq e
      exact ih hq

theorem canon_loadFifo (h : Canon s) : Canon (loadFifo s x cx ts) := by
  unfold loadFifo
  extract_lets
  refine Canon.foldl (fun _ _ h1 => Canon.foldl (fun _ _ h2 => ?_) h1) h
  split
  · exact h2
  · exact Canon.ite ⟨memWrite_wf h2.1 _ _, h2.2⟩ h2

theorem canon_loadNodes {xs : List Byte} (h : Canon s) : Canon (loadNodes pl n s xs) := by
  induction n generalizing s xs with
  | zero => exact h
  | succ n ih =>
    rw [loadNodes]
    split
    · exact h
    · refine ih ?_
      split
      · exact h
      · exact Canon.ite (canon_loadFifo h) h

theorem canon_loadRegion (h : Canon s) : IfSome Canon (loadRegion s pl bs) := by
  unfold loadRegion
  extract_lets _ _ _ _ _ q
  have hq : Canon q.1 := by
    refine Canon.foldl_fst (fun _ _ h1 => ?_) (canon_modPlacement (canon_deactivate (canon_flushOver h)))
    split
    · exact h1
    · exact canon_loadSite h1
  clear_value q
  refine (canon_loadTiles hq).map fun u h1 => ?_
  have loaded : ∀ m bs, Canon (loadNodes pl m u bs) := fun _ _ => canon_loadNodes h1
  have moved : ∀ v, Canon v → Canon (moveExits v pl false) := fun _ hv => canon_moveExits hv
  dsimp only
  split
  · split
    · refine canon_resumeAdmission (moved _ (Canon.ite h1 (loaded _ _)))
    · exact moved _ (Canon.ite h1 (loaded _ _))
  · exact moved _ (Canon.ite h1 (loaded _ _))

theorem canon_reloadImage {k : BitVec 2} {catid : Nat} {fits : Image → Bool} (h : Canon s) :
    IfSome Canon (reloadImage s l o k catid fits) := by
  unfold reloadImage
  extract_lets
  split
  · exact trivial
  · rename_i e
    exact IfSome.ite trivial (canon_writeImage ((canon_readImage h).of_eq e))

theorem canon_reloadContext {k : BitVec 2} (h : Canon s) : IfSome (Canon ·.1) (reloadContext s l o k bs) := by
  unfold reloadContext
  extract_lets
  split
  · exact h
  · split
    · exact trivial
    · rename_i s2 e1
      have h1 : Canon s2 := (canon_reloadImage h).of_eq e1
      exact IfSome.map_any (fun _ => h1)

theorem canon_reloadOther {xs : List SiteId} {j : BitVec 2} (h : Canon s) : Canon (reloadOther s l xs bs i x j) :=
  Canon.ite h (IfSome.getD (canon_reloadImage h) h)

theorem canon_reloadOthers {p : Placement} (h : Canon s) : Canon (reloadOthers s l p bs) := by
  unfold reloadOthers
  extract_lets
  refine Canon.foldl (fun _ _ h1 => ?_) h
  split
  · exact h1
  · exact Canon.foldl (fun _ _ h2 => canon_reloadOther h2) h1

theorem canon_dropSection {e : SiteId × BitVec 2 × Nat × Nat} (h : Canon s) : Canon (dropSection s sid e) := by
  unfold dropSection
  split
  · exact h
  · extract_lets
    split
    · exact h
    · exact canon_modSlice (canon_saveBytes (Canon.foldl_fst (fun _ _ h1 => canon_saveBytes (canon_loadBytes h1)) h))

theorem canon_restoreAt {e : SiteId × BitVec 2 × Nat × Nat} (h : Canon s) : IfSome Canon (restoreAt s l e) := by
  unfold restoreAt
  extract_lets
  split
  · rename_i s2 _ e1
    have h1 : Canon s2 := (canon_loadBytes h).fst_of_eq e1
    split
    · exact trivial
    · rename_i s21 _ e2
      have h2 : Canon s21 := (canon_reloadContext h1).of_eq e2
      exact IfSome.ite trivial ((canon_loadRegion (canon_reloadOthers h2)).map fun u h3 => canon_dropSection (canon_dropRegions h3))

theorem canon_execRegionRestore (h : Canon st) : IfNext Canon (execRegionRestore sid st) := by
  unfold execRegionRestore
  split
  · exact h
  · exact IfSome.getD (IfSome.findSome (fun _ => canon_restoreAt h)) h

theorem canon_takeOver {t : Placement} (h : Canon s) : Canon (takeOver s t) :=
  Canon.ite (canon_activate h) (IfSome.getD (IfSome.after (fun _ => IfSome.after (fun _ => canon_restoreAt h))) h)

theorem canon_execDrainSave (h : Canon st) : IfNext Canon (execDrainSave origin st) := by
  unfold execDrainSave
  split
  · exact h
  · split
    · exact h
    · split
      · exact canon_takeOver (canon_saveRegion (canon_cleanRegions h))
      · exact canon_modPlacement (canon_resumeAdmission h)

/-- Listing the tracks anew, under other keys, keeps them in rising order. -/
theorem keysFrom_foldl_tblSet {α : Type} {key : Nat → Nat} {xs m : Tbl α} (h : keysFrom 0 m = true) :
    keysFrom 0 (xs.foldl (fun m e => tblSet m (key e.1) e.2) m) = true := by
  induction xs generalizing m with
  | nil => exact h
  | cons e xs ih => exact ih (keysFrom_tblSet h (Nat.zero_le _))
theorem canon_renumber {t : Placement} {k : BitVec 2} (h : Canon s) : Canon (renumber s t k) := by
  unfold renumber
  extract_lets key
  exact ⟨h.1, keysFrom_foldl_tblSet (key := key) (m := []) rfl⟩

theorem canon_bringPattern {t : Placement} (h : Canon s) : Canon (bringPattern s t) := by
  unfold bringPattern
  split
  · exact canon_activate h
  · refine IfSome.getD (IfSome.after fun l => IfSome.after fun k => IfSome.map (canon_reloadImage ?_) fun _ h1 => ?_) h
    · exact h
    · exact canon_activate (canon_renumber h1)

theorem canon_execContextSwitch {ctx : BitVec 2} (h : Canon st) : IfNext Canon (execContextSwitch origin ctx st) := by
  unfold execContextSwitch
  split
  · exact h
  · extract_lets chosen
    split <;> exact IfNext.ite (canon_bringPattern h) h

/-! #### Swapping cohorts (R248 to R252) -/

theorem canon_endCommand (h : Canon s) : Canon (endCommand s die) := h

theorem canon_takeMember (h : Canon s) : Canon (takeMember s l) := (Canon.ite (canon_takeFiring h) h)

theorem canon_saveMember (h : Canon s) : Canon (saveMember s l) := by
  unfold saveMember
  extract_lets s1 s2
  have hs1 : Canon s1 := canon_cleanRegions h
  have hs2 : Canon s2 := by
    unfold s2
    split
    · exact canon_saveBytes hs1
    · exact hs1
  exact canon_freeBanks hs2

theorem canon_swapOutOn (h : Canon s) : Canon (swapOutOn s die cohort) :=
  Canon.ite (Canon.foldl (fun _ _ h1 => canon_takeMember h1) h) (Canon.ite h (canon_endCommand (canon_setCohortState (canon_queuesOut
      (Canon.foldl (fun _ _ h1 => canon_saveMember h1) h)))))

theorem canon_execCohortSwapOut (h : Canon st) : IfNext Canon (execCohortSwapOut die st) :=
  IfNext.ite h (IfNext.ite h (IfNext.ite (canon_swapOutOn h) (canon_setCohortState h)))

theorem canon_returnMember (h : Canon s) : Canon (returnMember s l) := by
  unfold returnMember
  split
  · exact canon_dropRegions h
  · split
    · rename_i e1
      exact canon_restoreSlice ((canon_loadBytes h).fst_of_eq e1)

theorem canon_swapIn (h : Canon s) : Canon (swapIn s die cohort) :=
  canon_setCohortState (canon_queuesIn (Canon.foldl (fun _ _ h1 => canon_returnMember h1) h))

theorem canon_execCohortSwapIn (h : Canon st) : IfNext Canon (execCohortSwapIn die st) := by
  unfold execCohortSwapIn
  extract_lets
  split
  · exact h
  · split
    · exact h
    · exact Canon.ite (canon_endCommand (canon_swapIn h)) (canon_swapIn h)

theorem canon_wakeImage (h : Canon s) : Canon (wakeImage s l) := by
  unfold wakeImage
  extract_lets s1
  have hs1 : Canon s1 := by
    unfold s1
    split
    · exact h
    · exact canon_saveBytes h
  exact hs1

/-! #### SX words (R536 to R553) -/

theorem canon_issueGo {go : Out} (h : IfNext Canon go) : IfNext Canon (issueChecks [] go) := h
/-- Of the checks at issue each that fails is a trap. -/
theorem canon_issueChecks {g : Option Out} {gs : List (Option Out)} {go : Out} (hg : IfSome (IfNext Canon) g)
    (h : IfNext Canon (issueChecks gs go)) : IfNext Canon (issueChecks (g :: gs) go) := by
  cases g with
  | none => exact h
  | some o => exact hg

theorem canon_sxWord {go : Out} (h : Canon s) (hgo : IfNext Canon go) : IfNext Canon (sxWord s go) := IfNext.ite h hgo

theorem canon_alignGate (h : Canon s) : IfSome (IfNext Canon) (alignGate s va n) := IfSome.ite trivial h

theorem canon_syncGate {en : Bool} {tag : Nat} (h : Canon s) : IfSome (IfNext Canon) (syncGate s en tag) := by
  unfold syncGate
  extract_lets
  split
  · exact trivial
  · split
    · split
      · exact h
      · exact trivial
    · exact IfSome.ite trivial h

theorem canon_cwordGate (h : Canon s) : IfSome (IfNext Canon) (cwordGate s v) := by
  unfold cwordGate
  extract_lets
  split
  · exact trivial
  · split
    · exact h
    · split
      · exact h
      · exact IfSome.ite h trivial

theorem canon_rangeGate (h : Canon s) : IfSome (IfNext Canon) (rangeGate s die r va n) := IfSome.map_any (fun _ => h)

theorem canon_manifestGate {a : Acc} (h : Canon s) : IfSome (IfNext Canon) (manifestGate s va n a) :=
  IfSome.ite trivial (IfSome.map_any (fun _ => h))

theorem canon_issueRead {go : State → List Byte → Out} (h : Canon s) (hgo : ∀ u, Canon u → ∀ y, IfNext Canon (go u y)) :
    IfNext Canon (issueRead s die va n go) := by
  unfold issueRead
  split
  · exact h
  · rename_i e
    exact IfNext.ite h (hgo _ ((canon_engRead h).of_eq e) _)

theorem canon_withTable {go : State → Cmd → TableRec → Out} (h : Canon s) (hgo : ∀ u, Canon u → ∀ c r, IfNext Canon (go u c r)) :
    IfNext Canon (withTable s c die go) := by
  unfold withTable
  split
  · rename_i e
    exact (canon_alignGate h).of_eq e
  · exact canon_issueRead h (fun _ h1 _ => IfNext.ite h (hgo _ h1 _ _))

theorem canon_indexGate (h : Canon s) : IfSome (IfNext Canon) (indexGate s c) := by
  unfold indexGate
  split
  · rename_i o e
    have h1 : IfNext Canon o := (canon_alignGate h).of_eq e
    exact h1
  · exact canon_manifestGate h

theorem canon_firstGate (h : Canon s) : IfSome (IfNext Canon) (firstGate s c) := IfSome.ite trivial (canon_rangeGate h)

theorem canon_streamRange {geom : Option Nat} (h : Canon s) : IfSome (IfNext Canon) (streamRange s c geom) := by
  unfold streamRange
  extract_lets check
  have hCheck : ∀ a rs, IfSome (IfNext Canon) (check a rs) := fun _ _ => IfSome.findSome fun _ => canon_manifestGate h
  clear_value check
  split
  · exact canon_manifestGate h
  · exact canon_manifestGate h
  · exact hCheck _ _

theorem canon_streamChecks {go : Cmd → Out} (h : Canon s) (hgo : ∀ c, IfNext Canon (go c)) : IfNext Canon (streamChecks s c go) := by
  have sync := @canon_syncGate s (c.field 4 28 1 == 1) (c.field 4 32 24) h
  unfold streamChecks
  split
  · exact h
  · split
    · exact canon_issueChecks (canon_alignGate h) (canon_issueChecks (canon_rangeGate h) (canon_issueChecks sync (hgo _)))
    · split
      · exact h
      · exact canon_issueChecks (IfSome.ite (canon_alignGate h) trivial)
          (canon_issueChecks (canon_streamRange h) (canon_issueChecks (canon_firstGate h) (canon_issueChecks sync (hgo _))))

theorem canon_readStreamRecord {go : State → List Byte → Out} (h : Canon s) (hgo : ∀ u, Canon u → ∀ bs, IfNext Canon (go u bs)) :
    IfNext Canon (readStreamRecord s va go) := by
  unfold readStreamRecord
  split
  · exact h
  · rename_i s1 _ e
    have h1 : Canon s1 := (canon_checkAccess h).of_eq e
    refine canon_withTarget h h1 (fun _ h2 => ?_) (fun _ h2 => hgo _ (canon_seqRead h2) _)
    split
    · exact h2
    · exact hgo _ (canon_countSq h2) _

theorem canon_withDesc {a : Acc} {go : EngineId → Out} (h : Canon s) (hgo : ∀ y, IfNext Canon (go y)) :
    IfNext Canon (withDesc s c a go) := by
  unfold withDesc
  extract_lets
  split
  · rename_i e
    exact (canon_alignGate h).of_eq e
  · exact h
  · exact hgo _

theorem canon_appendGate (h : Canon s) : IfSome (IfNext Canon) (appendGate s c) := by
  unfold appendGate
  split
  · exact h
  · exact IfSome.ite trivial (canon_rangeGate h)

theorem canon_copyWord {e : BitVec 4} {r : Reg} (h : Canon st) : IfNext Canon (copyWord op c6 e b r st) :=
  canon_sxWord h (canon_issueChecks (canon_syncGate h) (canon_issueChecks (canon_cwordGate h) h))

theorem canon_gatherWord {e : BitVec 4} {r : Reg} (h : Canon st) : IfNext Canon (gatherWord op c6 e b r st) :=
  canon_sxWord h (canon_withTable h fun _ h1 _ _ =>
    canon_issueChecks (canon_indexGate h) (canon_issueChecks (IfSome.ite h trivial) (canon_issueChecks (canon_syncGate h) h1)))

theorem canon_rowWord {e : BitVec 4} {r : Reg} (h : Canon st) : IfNext Canon (rowWord op c6 e b r st) :=
  canon_sxWord h (canon_withTable h fun _ h1 _ _ =>
    canon_issueChecks (IfSome.ite h trivial) (canon_issueChecks (canon_indexGate h) (canon_issueChecks (IfSome.ite h trivial) h1)))

theorem canon_execXmigrate {e : BitVec 4} {r : Reg} (h : Canon st) : IfNext Canon (execXmigrate e b r st) :=
  canon_sxWord h (canon_withTable h fun _ h1 _ _ => canon_issueChecks (canon_cwordGate h) h1)

theorem canon_execXstream {e : BitVec 4} {r : Reg} (h : Canon st) : IfNext Canon (execXstream e b r st) := by
  refine canon_sxWord h (canon_issueChecks (canon_alignGate h)
    (canon_issueGo (canon_readStreamRecord h fun _ h1 _ => canon_streamChecks h1 fun _ => ?_)))
  exact h1

theorem canon_execXkvappAppend {e : BitVec 4} {r : Reg} (h : Canon st) : IfNext Canon (execXkvappAppend e b r st) :=
  canon_sxWord h (canon_withDesc h fun _ => canon_issueChecks (canon_appendGate h) (canon_issueChecks (canon_cwordGate h) h))

theorem canon_execXkvappEvict {e : BitVec 4} {r : Reg} (h : Canon st) : IfNext Canon (execXkvappEvict e b r st) :=
  canon_sxWord h (canon_withDesc h fun _ =>
    canon_issueChecks (canon_alignGate h) (canon_issueChecks (canon_manifestGate h) (canon_issueChecks (canon_cwordGate h) h)))

theorem canon_execXkvappFree {e : BitVec 4} {r : Reg} (h : Canon st) : IfNext Canon (execXkvappFree e b r st) :=
  canon_sxWord h (canon_withDesc h fun _ => canon_issueChecks (canon_cwordGate h) h)

theorem canon_execXkvsend {e : BitVec 4} {r : Reg} (h : Canon st) : IfNext Canon (execXkvsend e b r st) :=
  canon_sxWord h (canon_withDesc h fun _ => canon_issueChecks (canon_alignGate h) (canon_issueChecks (canon_cwordGate h) h))

theorem canon_logWord {e : BitVec 4} {r : Reg} (h : Canon st) : IfNext Canon (logWord op c6 e b r st) :=
  IfNext.ite h (canon_sxWord h (canon_issueChecks (canon_cwordGate h) h))

theorem canon_reduceWord {e : BitVec 4} {r : Reg} (h : Canon st) : IfNext Canon (reduceWord op c6 e b r st) :=
  canon_sxWord h (canon_issueChecks (canon_alignGate h)
    (canon_issueGo (canon_issueRead h fun _ h1 _ => canon_issueChecks (canon_cwordGate h) h1)))

theorem canon_prefWord {e : BitVec 4} {r : Reg} (h : Canon st) : IfNext Canon (prefWord op c6 e b r st) :=
  canon_sxWord h (canon_issueChecks (canon_syncGate h) h)

theorem canon_enqueue (h : Canon s) : Canon (enqueue s e c) := h

theorem canon_bindStream (h : Canon s) : Canon (bindStream s pl t) := by
  unfold bindStream
  extract_lets s0
  have hs0 : Canon s0 := by
    unfold s0
    split
    · split
      · exact canon_nodeFault h
      · exact h
    · exact h
  exact hs0

theorem canon_acceptCmd {c0 : Cmd} (h : Canon s) : Canon (acceptCmd s e c0).1 := by
  unfold acceptCmd
  extract_lets
  split
  · exact h
  · split
    · exact h
    · split
      · exact h
      · split
        · split
          · exact h
          · exact canon_bindStream h
        · split
          · exact h
          · exact canon_enqueue (canon_bindStream h)
        · split <;> exact h
        · exact h
        · exact h

theorem canon_execEngineReply (h : Canon st) : IfNext Canon (execEngineReply core st) := by
  unfold execEngineReply
  extract_lets
  split
  · exact h
  · exact (canon_acceptCmd h)

/-! #### The statistics network (R145 to R148) -/

theorem canon_execStatTokenSend (h : Canon st) : IfNext Canon (execStatTokenSend site st) := by
  unfold execStatTokenSend
  split
  · exact Canon.ite h (canon_sendTile h)
  · exact h

theorem canon_statAdderSend (h : Canon st) : Canon (statAdderSend st x) := by
  unfold statAdderSend
  split
  · exact Canon.ite (canon_sendSums h) h
  · exact h

theorem canon_statRootUpdate (h : Canon st) : Canon (statRootUpdate st x) := canon_rootRecord h

theorem canon_execStat {r : Bool} (h : Canon st) : IfNext Canon (execStat r st) :=
  IfNext.ite trivial (IfNext.ite (canon_statRootUpdate h) (canon_statAdderSend h))

/-! #### Streams at work (R168 to R179) -/

theorem canon_readF8 (h : Canon s) : IfOk (Canon ·.1) (readF8 s w c i) := by
  unfold readF8
  extract_lets
  split
  · exact trivial
  · rename_i s2 _ _ e1
    have h1 : Canon s2 := (canon_f8cElement h).of_eq e1
    split
    · exact trivial
    · split
      · exact h1
      · split <;> exact h1

theorem canon_readVisit {v : Visit} (h : Canon s) : IfOk (Canon ·.1) (readVisit s w c v) := by
  unfold readVisit
  split
  · exact canon_readF8 h
  · extract_lets
    split
    · exact trivial
    · rename_i s1 _ _ e1
      have h1 : Canon s1 := (canon_engReadNat h).of_eq e1
      exact IfOk.ite trivial (IfOk.ite h1 h1)

theorem canon_readVisits {xs : List Visit} {x : Got} (h : Canon x.s) : Canon (readVisits w c xs x).s := by
  induction xs generalizing x with
  | nil => exact h
  | cons v vs ih =>
    rw [readVisits]
    split
    · exact h
    · rename_i s1 _ _ e
      have h1 : Canon s1 := (canon_readVisit h).of_eq e
      exact ih h1

theorem canon_runJob {cur : Option (Nat × Option Nat)} {x : Job} (h : Canon s) : Canon (runJob s w c cur x).s := by
  unfold runJob
  split
  · exact canon_readVisits h
  · rename_i x _ _
    extract_lets go
    have hgo : ∀ (u : State), Canon u → ∀ (x : Option Nat), Canon (go u x).s := by
      refine fun _ h1 _ => ?_
      unfold go
      extract_lets g
      have hg : Canon g.s := by
        unfold g
        split
        · exact h1
        · exact canon_readVisits h1
      exact hg
    split
    · exact hgo _ h _
    · split
      · exact h
      · rename_i e1
        exact hgo _ ((canon_gatherIndex h).of_eq e1) _

theorem canon_runJobs {f8 : Bool} {xs : List Job} {x : Got} {xs1 : List (List W32 × Bool)} (h : Canon x.s) :
    Canon (runJobs w c f8 xs x xs1 n).1.s := by
  induction xs generalizing x xs1 n with
  | nil => exact h
  | cons j js ih =>
    have ran : Canon (runJob x.s w c x.index j).s := canon_runJob h
    rw [runJobs]
    split
    · exact ran
    · exact ih ran

theorem canon_chaseOn (h : Canon m.s) : Canon (chaseOn m c).s := by
  unfold chaseOn
  split
  · exact h
  · split
    · exact h
    · split <;> exact h

theorem canon_chaseBundle (h : Canon s) : Canon (chaseBundle s w t).s := by
  unfold chaseBundle
  extract_lets _ _ _ _ _ _ _ step
  have hStep : Canon step.s := by
    unfold step
    split
    · split
      · exact h
      · split
        · exact h
        · rename_i u _ _ e2
          have h1 : Canon u := (canon_engRead h).of_eq e2
          split
          · split
            · exact h
            · exact h1
          · exact h1
    · split
      · exact h
      · exact ((canon_runJobs h))
  exact canon_chaseOn hStep

theorem canon_rowBundle (h : Canon s) : IfSome (fun q => Canon q.s) (rowBundle s t) :=
  IfSome.ite trivial (IfSome.ite (IfSome.ite trivial h) h)

theorem canon_nextBundle (h : Canon s) : IfSome (fun q => Canon q.s) (nextBundle s t) := by
  unfold nextBundle
  extract_lets
  split
  · exact canon_rowBundle h
  · split
    · exact ((canon_runJobs h))
    · exact ((canon_runJobs h))
    · exact canon_chaseBundle h
    · exact trivial

theorem canon_endStream (h : Canon s) : Canon (endStream s t) := by
  unfold endStream
  extract_lets _ s2
  have hs2 : Canon s2 := by
    unfold s2
    split
    · exact h
    · extract_lets
      split <;> exact (canon_reportStream h)
  exact canon_leaveTable hs2

theorem canon_enterQueue (h : Canon s) : Canon (enterQueue s pl q ts) := Canon.foldl (fun _ _ h1 => canon_modChan h1) h

theorem canon_readTurn (h : Canon s) : IfSome (fun q => Canon q.s) (readTurn s t) := by
  unfold readTurn
  split
  · exact trivial
  · exact IfSome.ite trivial ((canon_nextBundle h).map fun x1 h1 => canon_enterQueue h1)

theorem canon_finishBundle (h : Canon m.s) : Canon (finishBundle m) := Canon.ite (canon_endStream h) h

theorem canon_firstTurn {turn : State → Stream → Option Made} {ok : Made → Bool} (h : Canon s)
    (hg : ∀ u, Canon u → ∀ y, IfSome (fun q => Canon q.s) (turn u y)) :
    IfSome (fun q => Canon q.s) (firstTurn s e turn ok) :=
  IfSome.findSome (fun _ => IfSome.ite (IfSome.filter (hg _ h _)) trivial)

theorem canon_execStreamBundleDelivery (h : Canon st) : IfNext Canon (execStreamBundleDelivery eng st) := by
  unfold execStreamBundleDelivery
  split
  · rename_i e
    exact canon_finishBundle ((canon_firstTurn h (fun _ h1 _ => canon_readTurn h1)).of_eq e)
  · exact h

theorem canon_takeExit (h : Canon s) : Canon (takeExit s q) := Canon.foldl (fun _ _ h1 => canon_modChan h1) h

theorem canon_writeElem {k v : Nat} (h : Canon s) : IfOk (Canon ·.1) (writeElem s w t k v) := by
  unfold writeElem
  extract_lets
  split
  · exact trivial
  · rename_i u e
    have h1 : Canon u := (canon_engWrite h).of_eq e
    exact h1

theorem canon_writeElems {xs : List (Nat × Option Nat)} {x : Made} (h : Canon x.s) : Canon (writeElems w xs x).s := by
  induction xs generalizing x with
  | nil => exact h
  | cons q es ih =>
    obtain ⟨k, v⟩ := q
    cases v with
    | none => exact ih h
    | some v =>
      rw [writeElems]
      split
      · exact h
      · rename_i s1 _ e
        have h1 : Canon s1 := (canon_writeElem h).of_eq e
        exact ih h1

theorem canon_flushSegments {x : Made} (h : Canon x.s) : Canon (flushSegments w geom n x).s := by
  induction n generalizing x with
  | zero => exact h
  | succ f ih =>
    rewrite [flushSegments]
    split
    · exact h
    · dsimp only
      split
      · exact h
      · rename_i s1 e1
        have h1 : Canon s1 := (canon_engWrite h).of_eq e1
        split
        · exact h
        · rename_i s2 e2
          have h2 : Canon s2 := (canon_engWrite h1).of_eq e2
          exact ih h2

theorem canon_f8cElems {xs : List (Nat × Option Nat)} {x : Made} (h : Canon x.s) : Canon (f8cElems xs x).s := by
  induction xs generalizing x with
  | nil => exact h
  | cons q es ih =>
    obtain ⟨k, v⟩ := q
    exact ih h

theorem canon_f8cFinish (h : Canon m.s) : Canon (f8cFinish w geom m).s := by
  unfold f8cFinish
  split
  · exact h
  · exact canon_flushSegments h

theorem canon_writeBundle (h : Canon s) : Canon (writeBundle s t ts).s := by
  unfold writeBundle
  extract_lets
  split
  · exact h
  · split
    · exact h
    · split
      · extract_lets m2
        have hm2 : Canon m2.s := by
          unfold m2
          split <;> exact h
        exact canon_flushSegments (canon_f8cElems hm2)
      · exact canon_writeElems h

theorem canon_writeEnd (h : Canon s) : Canon (writeEnd s t).s := by
  unfold writeEnd
  extract_lets _ m
  have hm : Canon m.s := by
    unfold m
    split
    · exact canon_f8cFinish h
    · exact h
  exact hm

theorem canon_writeTurn (h : Canon s) : IfSome (fun q => Canon q.s) (writeTurn s t) := by
  unfold writeTurn
  split
  · exact trivial
  · split
    · exact trivial
    · split
      · exact canon_writeEnd h
      · split
        · exact trivial
        · exact IfSome.ite trivial (canon_writeBundle (canon_noteMove (canon_takeExit h)))

theorem canon_execStreamWrite (h : Canon st) : IfNext Canon (execStreamWrite eng st) := by
  unfold execStreamWrite
  split
  · rename_i e
    exact canon_finishBundle ((canon_firstTurn h (fun _ h1 _ => canon_writeTurn h1)).of_eq e)
  · exact h

theorem canon_scoreBegin (h : Canon s) : Canon (scoreBegin s t).s := by
  unfold scoreBegin
  extract_lets
  split
  · exact h
  · rename_i s1 _ e
    have h1 : Canon s1 := (canon_kvRead h).of_eq e
    split
    · exact h1
    · exact h

theorem canon_scoreTurn (h : Canon s) : IfSome (fun q => Canon q.s) (scoreTurn s t) := by
  unfold scoreTurn
  split
  · exact trivial
  · split
    · exact trivial
    · split
      · exact canon_scoreBegin h
      · split
        · split
          · exact h
          · rename_i s1 _ e2
            have h1 : Canon s1 := (canon_scoreLane h).of_eq e2
            exact h1
        · exact IfSome.ite h (IfSome.map_any (fun _ => canon_noteMove (canon_takeExit h)))

theorem canon_execScoreAddLane (h : Canon st) : IfNext Canon (execScoreAddLane eng st) := by
  unfold execScoreAddLane
  split
  · rename_i e
    exact canon_finishBundle ((canon_firstTurn h (fun _ h1 _ => canon_scoreTurn h1)).of_eq e)
  · exact h

theorem canon_faultStream {f : Flt} {progress : Nat} (h : Canon m.s) : Canon (faultStream m f progress) :=
  canon_leaveTable (canon_stopStream h)

theorem canon_execStreamDeferredFault (h : Canon st) : IfNext Canon (execStreamDeferredFault eng st) := by
  unfold execStreamDeferredFault
  split
  · exact h
  · extract_lets turn
    have hTurn : ∀ (s : State), Canon s → ∀ (t : Stream), IfSome (fun q => Canon q.s) (turn s t) := fun _ h1 _ =>
        IfSome.orElse (IfSome.orElse (canon_readTurn h1) (fun _ => canon_writeTurn h1)) (fun _ => canon_scoreTurn h1)
    split
    · exact h
    · rename_i e
      split
      · exact canon_faultStream ((canon_firstTurn h hTurn).of_eq e)
      · exact h

/-! #### The copy engine (R539, R545) -/

theorem canon_runElems {size : Nat → Nat} {f : State → Nat → Nat → Except Flt State} {n2 : Nat}
    (h : ∀ u, Canon u → ∀ i k, IfOk Canon (f u i k)) (hs : Canon s) : Canon (runElems size f n n1 s n2).s := by
  induction n1 generalizing s n2 with
  | zero => exact hs
  | succ fuel ih =>
    rewrite [runElems]
    split
    · exact hs
    · dsimp only
      split
      · rename_i s1 e
        exact ih ((h s hs _ _).of_eq e)
      · split
        · rename_i s1 e
          exact ih ((h s hs _ _).of_eq e)
        · exact hs

theorem canon_xferStep {x : Xfer} {k : Nat} (h : Canon s) : IfOk Canon (xferStep x src dst s i k) := by
  unfold xferStep
  extract_lets
  split
  · exact trivial
  · rename_i e
    split
    · exact trivial
    · split
      · exact trivial
      · rename_i u1 e1
        have h2 : Canon u1 := (canon_engWrite ((canon_engRead h).of_eq e)).of_eq e1
        exact IfOk.ite trivial h2

theorem canon_xfer {x : Xfer} (h : Canon s) : Canon (xfer x src dst n s).s := canon_runElems (fun _ h1 _ _ => canon_xferStep h1) h

theorem canon_xferAll {x : Xfer} (h : Canon s) : IfOk Canon (xferAll x src dst n s) := by
  unfold xferAll
  extract_lets
  split
  · exact trivial
  · exact (canon_xfer h)

theorem canon_runFill (h : Canon s) : Canon (runFill s c d).s := canon_runElems (fun _ h1 _ _ => canon_engWrite h1) h

theorem canon_reduceRead {x : Option W32} {x1 : Bool} (h : Canon s) : IfOk (Canon ·.1) (reduceRead c w i xs s x x1) := by
  induction xs generalizing s x x1 with
  | nil => exact h
  | cons v vs ih =>
    rw [reduceRead]
    split
    · exact trivial
    · rename_i s1 _ _ e
      have h1 : Canon s1 := (canon_engReadNat h).of_eq e
      exact IfOk.ite trivial (ih h1)

theorem canon_reduceElemStep (h : Canon s) : IfOk Canon (reduceElemStep c d s i n) := by
  unfold reduceElemStep
  extract_lets
  split
  · exact trivial
  · rename_i e
    exact canon_engWrite ((canon_reduceRead h).of_eq e)

theorem canon_runReduce (h : Canon s) : Canon (runReduce s c d).s := canon_runElems (fun _ h1 _ _ => canon_reduceElemStep h1) h

theorem canon_poison {ps : List Nat} (h : Canon s) : Canon { s with poison := ps } := ⟨h.1, h.2⟩
theorem canon_logStep (h : Canon s) : IfOk Canon (logStep c d s i n) := by
  unfold logStep
  extract_lets a
  clear_value a
  split
  · exact trivial
  · rename_i s1 bs _ e
    have h1 : Canon s1 := (canon_engRead h).of_eq e
    split
    · exact trivial
    · have written : ∀ pa bs, Canon (homeWrite s1 d pa bs) := fun _ _ => canon_homeWrite h1
      exact canon_modDie (canon_poison (written _ _))

theorem canon_runLogAppend (h : Canon s) : Canon (runLogAppend s c d).s := by
  unfold runLogAppend
  extract_lets
  split
  · exact h
  · exact (canon_runElems (fun _ h1 _ _ => canon_logStep h1) h)

theorem canon_runLogTrim (h : Canon s) : Canon (runLogTrim s c d).s := by
  unfold runLogTrim
  split <;> exact h

/-! #### The gallery engine (R331 to R342) -/

theorem canon_hotEntry {t : TableRec} {k : Nat} (h : Canon s) : IfOk (Canon ·.1) (hotEntry s w strict t k) := by
  unfold hotEntry
  extract_lets
  split
  · exact trivial
  · rename_i s1 _ _ e
    have h1 : Canon s1 := (canon_engReadNat h).of_eq e
    exact IfOk.ite trivial h1

theorem canon_hotProbe {t : TableRec} (h : Canon s) : IfOk (Canon ·.1) (hotProbe w strict t i n s n1) := by
  induction n generalizing s n1 with
  | zero => exact h
  | succ f ih =>
    rw [hotProbe]
    split
    · exact trivial
    · rename_i s1 _ e
      have h1 : Canon s1 := (canon_hotEntry h).of_eq e
      exact h1
    · rename_i s1 _ _ e
      have h1 : Canon s1 := (canon_hotEntry h).of_eq e
      exact IfOk.ite h1 (ih h1)

theorem canon_hotFind {t : TableRec} (h : Canon s) : IfOk (Canon ·.1) (hotFind s w strict t i) := IfOk.ite h (canon_hotProbe h)

theorem canon_rowVa {t : TableRec} (h : Canon s) : IfOk (Canon ·.1) (rowVa s w strict t i) := by
  unfold rowVa
  split
  · exact trivial
  · rename_i s1 _ _ e
    have h1 : Canon s1 := (canon_hotFind h).of_eq e
    exact h1
  · rename_i s1 _ _ e
    have h1 : Canon s1 := (canon_hotFind h).of_eq e
    exact h1

theorem canon_putCmd (h : Canon s) : Canon (putCmd s e c) := h

theorem canon_readIndex (h : Canon s) : IfOk (Canon ·.1) (readIndex s w c n) := (canon_engReadNat h).map fun ⟨_, _, _⟩ h1 => h1

theorem canon_withDrops {es : List (Option Nat)} (h : Canon s) : Canon (withDrops s c es counts) := h

theorem canon_rowElems {e : Nat} (h : Canon s) : IfOk (Canon ·.1) (rowElems s w c r va e n) := by
  unfold rowElems
  split
  · exact trivial
  · rename_i u _ _ e1
    have h1 : Canon u := (canon_engRead h).of_eq e1
    exact IfOk.ite trivial h1

theorem canon_performPort (h : Canon s) : IfOk Canon (performPort s w c va) := by
  unfold performPort
  extract_lets
  split
  · exact trivial
  · rename_i e
    exact IfOk.ite trivial (canon_withDrops ((canon_engRead h).of_eq e))

theorem canon_performMem (h : Canon s) : IfOk Canon (performMem s w c va n) := IfOk.ite (canon_engWrite h) (canon_xferAll h)

theorem canon_writeWeights {ws : List W32} (h : Canon s) : IfOk Canon (writeWeights s w c va ws) := (canon_engWrite h).map fun _ h1 => h1

theorem canon_laneElems {e : Nat} (h : Canon s) : IfOk (Canon ·.1) (laneElems s w c r va e n) := by
  unfold laneElems
  split
  · exact trivial
  · rename_i u _ _ e1
    have h1 : Canon u := (canon_engRead h).of_eq e1
    exact IfOk.ite trivial h1

theorem canon_rowOperands (h : Canon s) : IfOk (Canon ·.1) (rowOperands s w c va n) := by
  unfold rowOperands
  extract_lets
  split
  · exact trivial
  · split
    · exact trivial
    · rename_i e
      split
      · exact trivial
      · rename_i s21 _ e1
        have h2 : Canon s21 := (canon_laneElems ((canon_laneElems h).of_eq e)).of_eq e1
        exact h2

theorem canon_writeLanes {ws : List (Option W32)} (h : Canon s) : IfOk Canon (writeLanes s w c va ws) := by
  unfold writeLanes
  refine IfOk.foldl (fun _ _ h1 => ?_) h
  split
  · exact canon_writeWeights h1
  · exact h1

theorem canon_performAdd (h : Canon s) : IfOk Canon (performAdd s w c va n) := by
  unfold performAdd
  split
  · exact trivial
  · rename_i s1 _ e
    have h1 : Canon s1 := (canon_rowOperands h).of_eq e
    exact IfOk.ite (canon_writeWeights h1) (canon_writeLanes h1)

theorem canon_performUpdate (h : Canon s) : IfOk Canon (performUpdate s w c va n) := by
  unfold performUpdate
  extract_lets
  split
  · exact trivial
  · rename_i s1 _ e
    have h1 : Canon s1 := (canon_rowOperands h).of_eq e
    split
    · exact h1
    · extract_lets
      split
      · exact trivial
      · rename_i s2 _ _ e1
        have h2 : Canon s2 := (canon_rowElems h1).of_eq e1
        split
        · exact h2
        · extract_lets
          split
          · exact trivial
          · rename_i e2
            exact canon_engWrite ((canon_writeWeights h2).of_eq e2)

theorem canon_boundPa {a : Acc} (h : Canon s) : IfOk (Canon ·.1) (boundPa s w c a va) := by
  unfold boundPa
  split
  · exact trivial
  · rename_i s1 _ e
    have h1 : Canon s1 := (canon_checkAccess h).of_eq e
    exact h1

theorem canon_flipMap {slot dest : Nat} (h : Canon s) : IfOk Canon (flipMap s w c slot dest) := by
  unfold flipMap
  extract_lets
  split
  · exact trivial
  · exact trivial
  · rename_i s1 _ e
    have h1 : Canon s1 := (canon_engAtomic h).of_eq e
    exact h1

theorem canon_performMigrate {home : EngineId} {op : RowOp} (h : Canon s) : IfOk (Canon ·.1) (performMigrate s w home op) := by
  unfold performMigrate
  extract_lets
  split
  · exact h
  · split
    · exact trivial
    · rename_i s1 e
      have h1 : Canon s1 := (canon_hotFind h).of_eq e
      exact h1
    · rename_i s1 _ _ e
      have h1 : Canon s1 := (canon_hotFind h).of_eq e
      split
      · exact trivial
      · rename_i e1
        split
        · exact trivial
        · rename_i e2
          split
          · exact trivial
          · rename_i u1 e3
            have h4 : Canon u1 := (canon_flipMap ((canon_xferAll ((canon_boundPa h1).of_eq e1)).of_eq e2)).of_eq e3
            exact h4

theorem canon_clearAllMarkers (h : Canon s) : Canon (clearAllMarkers s) := h

theorem canon_rowDone {op : RowOp} {f : Option Flt} {full : Bool} (h : Canon s) : Canon (rowDone s op f full) := by
  unfold rowDone
  extract_lets s1
  have hs1 : Canon s1 := by
    unfold s1
    split <;> exact h
  exact hs1

theorem canon_performRow {home : EngineId} {op : RowOp} (h : Canon s) : Canon (performRow s home op) := by
  unfold performRow
  extract_lets _ _ _ end_
  have hEnd_ : ∀ (r : Except Flt State), IfOk Canon r → Canon (end_ r) := by
    refine fun _ h1 => ?_
    unfold end_
    split
    · exact canon_rowDone h1
    · exact canon_rowDone h
  split
  · exact hEnd_ _ (canon_performPort h)
  · exact hEnd_ _ (canon_performMem h)
  · exact hEnd_ _ (canon_xferAll h)
  · exact hEnd_ _ (canon_performAdd h)
  · exact hEnd_ _ (canon_performUpdate h)
  · split
    · rename_i e
      exact canon_rowDone ((canon_performMigrate h).of_eq e)
    · exact canon_rowDone h

theorem canon_resolveLater {o : RowOp} (h : Canon s) : Canon (resolveLater s o) := by
  unfold resolveLater
  refine canon_clearAllMarkers ?_
  split <;> exact h

theorem canon_execRowLockGrant (h : Canon st) : IfNext Canon (execRowLockGrant eng st) := by
  unfold execRowLockGrant
  extract_lets
  split
  · exact h
  · exact IfNext.ite h (IfNext.ite (canon_performRow h) (IfNext.ite h (IfNext.ite (canon_resolveLater h) h)))

theorem canon_execMigrationForward (h : Canon st) : IfNext Canon (execMigrationForward eng st) := by
  unfold execMigrationForward
  extract_lets
  split
  · exact h
  · split <;> exact h

theorem canon_performLocked (h : Canon s) : IfSome Canon (performLocked s eng) := by
  unfold performLocked
  split
  · exact trivial
  · exact IfSome.ite trivial (Canon.ite (canon_resolveLater h) (canon_performRow h))

theorem canon_dropIndex {missing poison : Bool} (h : Canon s) : Canon (dropIndex s e w c missing poison) := by
  unfold dropIndex
  extract_lets
  split
  · exact canon_putCmd (canon_withDrops h)
  · split
    · rename_i s1 e2
      have h1 : Canon s1 := (canon_engWrite h).of_eq e2
      exact h1
    · exact h
  · exact h

theorem canon_resolveRow (h : Canon s) : IfSome Canon (resolveRow s e w c i) := by
  unfold resolveRow
  extract_lets fail
  have hFail : ∀ (f : Flt), IfSome Canon (fail f) := fun _ => h
  split
  · exact trivial
  · split
    · exact hFail _
    · rename_i e1
      extract_lets
      split
      · exact hFail _
      · rename_i s21 _ e2
        have h2 : Canon s21 := (canon_boundPa ((canon_rowVa h).of_eq e1)).of_eq e2
        exact h2

theorem canon_nextIndex (h : Canon s) : IfSome Canon (nextIndex s e c) := by
  unfold nextIndex
  extract_lets
  split
  · exact trivial
  · split
    · exact canon_resolveRow h
    · split
      · exact h
      · rename_i s1 _ _ _ e1
        have h1 : Canon s1 := (canon_readIndex h).of_eq e1
        exact IfSome.ite h (IfSome.ite (canon_dropIndex h1) (IfSome.ite (canon_dropIndex h1) (IfSome.ite (canon_dropIndex h1)
            (canon_resolveRow h1))))

theorem canon_addDrops (h : Canon s) : Canon (addDrops s w c) := by
  unfold addDrops
  extract_lets add
  have hAdd : ∀ (u : State), Canon u → ∀ (o n : Nat), Canon (add u o n) := by
    refine fun _ h1 _ _ => ?_
    unfold add
    split
    · exact h1
    · split
      · rename_i e
        exact (canon_engAtomic h1).of_eq e
      · exact h1
  exact Canon.ite h (hAdd _ (hAdd _ h _ _) _ _)

/-! #### The KV engine (R309 to R328) -/

theorem canon_kvJobDesc (h : Canon s) : IfOk (Canon ·.1) (k.desc s va) := (canon_kvRead h).bind fun ⟨_, _⟩ h1 => h1

theorem canon_kvJobPage (h : Canon s) : IfOk (Canon ·.1) (k.page s va) := (canon_kvRead h).bind fun ⟨_, _⟩ h1 => h1

theorem canon_kvJobPut {f : KvField} {v : Nat} (h : Canon s) : IfOk Canon (k.put s va f v) :=
  (canon_kvRead h).bind fun ⟨_, _⟩ h1 => canon_engWrite h1

theorem canon_kvJobPush {page : Nat} (h : Canon s) : IfOk Canon (k.push s dva page) :=
  (canon_kvJobDesc h).bind fun ⟨_, _⟩ h1 => (canon_kvJobPut h1).bind fun _ h2 => canon_kvJobPut h2

theorem canon_kvJobPushAll (h : Canon s) : IfOk Canon (k.pushAll dva n s n1) := by
  induction n generalizing s n1 with
  | zero => exact h
  | succ f ih =>
    rw [KvJob.pushAll]
    exact IfOk.ite h ((canon_kvJobPage h).bind fun _ h1 => (canon_kvJobPush h1).bind fun _ h2 => ih h2)

theorem canon_kvJobChain (h : Canon s) : IfOk (Canon ·.1) (k.chain n s n1) := by
  induction n generalizing s n1 with
  | zero => exact h
  | succ f ih =>
    rw [KvJob.chain]
    exact IfOk.ite h ((canon_kvJobPage h).bind fun _ h1 => (ih h1).bind fun _ h2 => h2)

theorem canon_kvJobSlide (h : Canon s) : IfOk Canon (k.slide dva n s) := by
  induction n generalizing s with
  | zero => exact h
  | succ f ih =>
    rw [KvJob.slide]
    exact (canon_kvJobDesc h).bind fun _ h1 => IfOk.ite h1 ((canon_kvJobPage h1).bind fun _ h2 =>
      IfOk.ite ((canon_kvJobPut h2).bind fun _ h3 => (canon_kvJobPush h3).bind fun _ h4 => ih h4) h2)

theorem canon_kvJobTail {d : KvDesc} (h : Canon s) : IfOk (Canon ·.1) (k.tail s dva d) :=
  (canon_kvJobPage h).bind fun ⟨_, _⟩ h1 => IfOk.ite (IfOk.ite h1 h) (IfOk.ite h (IfOk.ite h
      ((canon_kvJobPage h1).bind fun ⟨_, _⟩ h2 => (canon_kvJobPut h2).bind fun _ h3 => (canon_kvJobPut h3).bind fun _ h4 =>
      (canon_kvJobPut h4).bind fun _ h5 => (canon_kvJobPut h5).bind fun _ h6 => (canon_kvJobPut h6).bind fun _ h7 =>
      (canon_kvJobPut h7).bind fun _ h8 => (canon_kvJobPut h8).bind fun _ h9 => h9)))

theorem canon_kvJobAppend (h : Canon s) : IfOk (Canon ·.1) (k.append s dva src) := by
  unfold KvJob.append
  refine (canon_kvJobDesc h).bind fun _ h1 => (canon_kvJobTail h1).bind fun _ h2 => ?_
  dsimp only
  split
  · exact h
  · exact (canon_xferAll h2).bind fun _ h3 => (canon_xferAll h3).bind fun _ h4 => (canon_kvJobPage h4).bind fun _ h5 =>
      (canon_kvJobPut h5).bind fun _ h6 => (canon_kvJobPut h6).bind fun _ h7 => (canon_kvJobPut h7).bind fun _ h8 =>
        IfOk.ite h8 ((canon_kvJobSlide h8).bind fun _ h9 => h9)

theorem canon_kvJobAppends {e n2 : Nat} (h : Canon s) : Canon (k.appends dva src e n n1 s n2).s := by
  induction n1 generalizing s n2 with
  | zero => exact h
  | succ f ih =>
    rw [KvJob.appends]
    split
    · exact h
    · split
      · exact h
      · rename_i s1 e1
        have h1 : Canon s1 := (canon_kvJobAppend h).of_eq e1
        exact ih h1
      · exact h

theorem canon_kvStart {go : KvJob → State → KvDesc → Run} (h : Canon s) (hgo : ∀ j u, Canon u → ∀ k, Canon (go j u k).s) :
    Canon (kvStart s c d go).s := by
  unfold kvStart
  extract_lets
  split
  · exact h
  · rename_i e
    split
    · exact hgo _ _ ((canon_kvRead h).of_eq e) _
    · exact h

theorem canon_runAppend (h : Canon s) : Canon (runAppend s c d).s := by
  unfold runAppend
  refine canon_kvStart h (fun _ _ h1 _ => ?_)
  extract_lets _ r
  have hr : Canon r.s := canon_kvJobAppends h1
  split <;> exact hr

theorem canon_asOne {r : Except Flt (State × Nat)} (h : Canon s) (hr : IfOk (Canon ·.1) r) : Canon (asOne s r).s := by
  unfold asOne
  split
  · exact h
  · exact hr

theorem canon_kvJobListed (h : Canon s) : IfOk (Canon ·.1) (k.listed va n s n1) := by
  induction n generalizing s n1 with
  | zero => exact h
  | succ f ih =>
    rw [KvJob.listed]
    exact (canon_kvRead h).bind fun _ h1 => (ih h1).bind fun _ h2 => h2

theorem canon_kvJobSweep {tail : Nat} {goes : Nat → Bool} {xs : List (Nat × KvPage)} (h : Canon s) :
    IfOk Canon (k.sweep dva tail goes s n xs) := by
  induction xs generalizing s n with
  | nil => exact h
  | cons q t ih =>
    rw [KvJob.sweep]
    generalize keepValid _ _ = v
    refine IfOk.ite (IfOk.bind (P := Canon) h fun _ h1 => ?_) (IfOk.bind (canon_kvJobPut h) fun _ h1 => ?_)
    all_goals exact IfOk.ite ((canon_kvJobPut h1).bind fun _ h2 => (canon_kvJobPush h2).bind fun _ h3 => ih h3) (ih h1)

theorem canon_runEvict (h : Canon s) : Canon (runEvict s c d).s :=
  canon_kvStart h (fun _ _ h1 _ => canon_asOne h ((canon_kvRead h1).bind fun ⟨_, _⟩ h2 => (canon_kvJobListed h2).bind fun ⟨_, _⟩ h3 =>
      (canon_kvJobChain h3).bind fun ⟨_, _⟩ h4 => (canon_kvJobSweep h4).bind fun _ h5 => h5))

theorem canon_runFree (h : Canon s) : Canon (runFree s c d).s :=
  canon_kvStart h (fun _ _ h1 _ => canon_asOne h ((canon_kvJobPage h1).bind fun ⟨_, _⟩ h2 => (canon_kvJobPushAll h2).bind fun _ h3 =>
      (canon_kvJobPut h3).bind fun _ h4 => (canon_kvJobPut h4).bind fun _ h5 => (canon_kvJobPut h5).bind fun _ h6 =>
      (canon_kvJobPut h6).bind fun _ h7 => (canon_kvJobPut h7).bind fun _ h8 => (canon_kvJobPut h8).bind fun _ h9 => h9))

theorem canon_kvJobAtomic {f : KvField} {v : Nat} (h : Canon s) : IfOk Canon (k.atomic s va f v) :=
  (canon_engAtomic h).bind fun ⟨_, _, _⟩ h1 => IfOk.ite trivial h1

theorem canon_kvJobPop {rva : Nat} (h : Canon s) : IfOk (Canon ·.1) (k.pop s rva) :=
  (canon_kvJobDesc h).bind fun ⟨_, _⟩ h1 => IfOk.ite h1 ((canon_kvJobPage h1).bind fun ⟨_, _⟩ h2 =>
      (canon_kvJobAtomic h2).bind fun _ h3 => h3)

theorem canon_kvJobSend {rva e : Nat} {xs : List (Nat × KvPage)} {xs1 : List Nat} (h : Canon s) :
    IfOk (Canon ·.1) (k.send rva e xs s xs1) := by
  induction xs generalizing s xs1 with
  | nil => exact h
  | cons q t ih =>
    rw [KvJob.send]
    refine (canon_kvJobPop h).bind fun p h1 => ?_
    obtain ⟨s1, got⟩ := p
    dsimp only
    split
    · exact h1
    · refine (canon_xferAll h1).bind fun _ h2 => (canon_xferAll h2).bind fun _ h3 => (canon_kvJobPut h3).bind fun _ h4 =>
        (canon_kvJobPut h4).bind fun _ h5 => (canon_kvJobPut h5).bind fun _ h6 => (canon_kvJobPut h6).bind fun s7 h7 => ?_
      split
      · exact (canon_kvJobPut h7).bind fun _ h8 => ih h8
      · exact IfOk.bind (P := Canon) h7 fun _ h8 => ih h8

theorem canon_kvJobGiveBack {rva : Nat} (h : Canon s) : IfOk Canon (k.giveBack rva xs s) := by
  induction xs generalizing s with
  | nil => exact h
  | cons p t ih =>
    rw [KvJob.giveBack]
    exact (canon_kvJobPush h).bind fun _ h1 => ih h1

theorem canon_runSend (h : Canon s) : Canon (runSend s c d).s := by
  unfold runSend
  refine canon_kvStart h (fun _ _ h1 _ => canon_asOne h ?_)
  refine (canon_kvRead h1).bind fun _ h2 => IfOk.ite trivial ((canon_kvJobPage h2).bind fun _ h3 => IfOk.ite h3
    ((canon_kvJobChain h3).bind fun _ h4 => (canon_kvJobSend h4).bind fun p h5 => ?_))
  obtain ⟨s5, taken, all⟩ := p
  dsimp only
  split
  · exact (canon_kvJobGiveBack h5).bind fun _ h6 => h6
  · split
    · exact (canon_kvJobAtomic h5).bind fun _ h6 => (canon_kvJobAtomic h6).bind fun _ h7 => (canon_kvJobAtomic h7).bind fun _ h8 => h8
    · exact h5

theorem canon_kvJobMoveScore {p q : KvPage} {j : Nat} (h : Canon s) : IfOk Canon (k.moveScore s p q j i) :=
  IfOk.ite h (IfOk.ite (canon_engWrite h) (canon_xferAll h))

theorem canon_kvJobMovePos {ps : List (Nat × KvPage)} {e : Nat} (h : Canon s) : IfOk Canon (k.movePos ps e s src dst) := by
  unfold KvJob.movePos
  split
  · exact (canon_xferAll h).bind fun u h1 => (canon_xferAll h1).bind fun u1 h2 => canon_kvJobMoveScore h2
  · exact h

theorem canon_kvJobMovePath {ps : List (Nat × KvPage)} {e base : Nat} (h : Canon s) : IfOk Canon (k.movePath ps e base xs n s) := by
  induction xs generalizing s n with
  | nil => exact h
  | cons j t ih =>
    rw [KvJob.movePath]
    exact IfOk.ite (ih h) ((canon_kvJobMovePos h).bind fun _ h1 => ih h1)

theorem canon_kvJobClearFrom {lo hi : Nat} {xs : List (Nat × KvPage)} (h : Canon s) : IfOk Canon (k.clearFrom lo hi xs s) := by
  induction xs generalizing s with
  | nil => exact h
  | cons q t ih =>
    rw [KvJob.clearFrom]
    generalize keepValid _ _ = v
    exact IfOk.ite (ih h) ((canon_kvJobPut h).bind fun _ h1 => ih h1)

theorem canon_kvJobPrune {base : Nat} {x : KvDesc} {path : List Nat} {ps : List (Nat × KvPage)} (h : Canon s) :
    IfOk Canon (k.prune dva base x path ps s) := by
  unfold KvJob.prune
  refine (canon_kvJobMovePath h).bind fun _ h1 => (canon_kvJobClearFrom h1).bind fun _ h2 => (canon_kvJobPut h2).bind fun _ h3 => ?_
  split
  · exact h3
  · exact (canon_kvJobPut h3).bind fun _ h4 => (canon_kvJobPut h4).bind fun _ h5 => (canon_kvJobPut h5).bind fun _ h6 =>
      canon_kvJobPushAll h6

theorem canon_pruneAt {d : Reg} {t : BitVec 2} (h : Canon st) (hs1 : Canon s1) : IfNext Canon (pruneAt st s1 k bs d dva n t) := by
  unfold pruneAt
  extract_lets
  split
  · exact h
  · split
    · exact h
    · split
      · exact h
      · rename_i e
        split
        · exact h
        · split
          · exact h
          · rename_i u e2
            have h2 : Canon u := (canon_kvJobPrune ((canon_kvJobChain hs1).of_eq e)).of_eq e2
            exact h2

theorem canon_execTtprune {d : Reg} {t : BitVec 2} (h : Canon st) : IfNext Canon (execTtprune d a b t st) := by
  unfold execTtprune
  extract_lets
  split
  · exact h
  · split
    · exact h
    · split
      · exact h
      · split
        · exact h
        · split
          · exact h
          · exact h
          · extract_lets
            split
            · exact h
            · split
              · exact h
              · rename_i e2
                exact canon_pruneAt h ((canon_kvRead h).of_eq e2)

/-! #### Engine commands and their end (R537, R538) -/

theorem canon_runCmd (h : Canon s) : Canon (runCmd s c d).s := by
  unfold runCmd
  split
  · exact canon_xfer h
  · exact canon_runFill h
  · exact canon_runAppend h
  · exact canon_runEvict h
  · exact canon_runFree h
  · exact canon_runSend h
  · exact canon_runLogAppend h
  · exact canon_runLogTrim h
  · exact h
  · exact canon_runReduce h
  · exact canon_runReduce h
  · exact canon_runReduce h
  · exact canon_runReduce h
  · exact h

theorem canon_faultCmd {f : Flt} (h : Canon s) : Canon (faultCmd s e c n f) := canon_modSlice (canon_postRecord h)

theorem canon_finishCmd {r : Run} (h : Canon r.s) : Canon (finishCmd e c r) := by
  unfold finishCmd
  extract_lets _ s2
  have hs2 : Canon s2 := by
    unfold s2
    split
    · exact h
    · exact canon_faultCmd h
  exact Canon.ite (canon_leaveTable hs2) hs2

theorem canon_faultGather {r : DeferRec} (h : Canon s) : Canon (faultGather s c r) := by
  unfold faultGather
  split
  · exact h
  · extract_lets
    split
    · exact canon_reportStream h
    · exact h

theorem canon_galleryEnd (h : Canon s) : IfSome Canon (galleryEnd s e c) := by
  unfold galleryEnd
  extract_lets _ fin
  have hFin : ∀ (u : State), Canon u → Canon (fin u) := fun _ h1 => canon_finishCmd (canon_addDrops h1)
  split
  · exact IfSome.ite trivial (hFin _ (canon_faultGather h))
  · exact hFin _ h
  · exact IfSome.ite trivial h
  · exact hFin _ h

theorem canon_galleryStep (h : Canon s) : IfSome Canon (galleryStep s e c) :=
  IfSome.ite trivial (IfSome.ite (canon_galleryEnd h) (canon_nextIndex h))

theorem canon_galleryTurn (h : Canon s) : IfSome Canon (galleryTurn s e) :=
  IfSome.orElse (canon_performLocked h) (fun _ => IfSome.findSome (fun _ => canon_galleryStep h))

theorem canon_wholeTurn (h : Canon s) : IfSome Canon (wholeTurn s e) := by
  unfold wholeTurn
  split
  · exact trivial
  · exact IfSome.ite trivial (canon_finishCmd (canon_runCmd h))

theorem canon_engineTurn (h : Canon s) : IfSome Canon (engineTurn s e) :=
  IfSome.ite trivial (IfSome.ite (canon_galleryTurn h) (canon_wholeTurn h))

theorem canon_writeCompletion {status : BitVec 8} {result : Nat} (h : Canon s) : Canon (writeCompletion s e c status result) := by
  unfold writeCompletion
  extract_lets _ fail
  have hFail : ∀ (f : Flt), Canon (fail f) := fun _ => Canon.ite h (canon_faultCmd h)
  split
  · exact hFail _
  · exact hFail _
  · rename_i e1
    exact (canon_engAtomic h).of_eq e1

theorem canon_execCompletionWord (h : Canon st) : IfNext Canon (execCompletionWord eng st) := by
  unfold execCompletionWord
  extract_lets
  split
  · exact h
  · exact IfNext.ite h (canon_leaveTable (canon_writeCompletion h))

theorem canon_execSyncArrival (h : Canon st) : IfNext Canon (execSyncArrival st) := by
  unfold execSyncArrival
  split
  · exact h
  · exact Canon.ite h (canon_wakeSync (canon_syncArrive h))

theorem canon_residentRange (h : Canon s) : IfOk Canon (residentRange s w va n) := by
  unfold residentRange
  refine IfOk.foldl (fun _ _ h1 => ?_) h
  split
  · exact h1
  · split
    · exact trivial
    · rename_i e
      exact canon_dieFill ((canon_checkAccess h1).of_eq e)

theorem canon_writeRing {m : Nat} (h : Canon s) : IfOk Canon (writeRing s w c m bs) := IfOk.ite h (canon_engWrite h)

theorem canon_endPrefetch {p : Prefetch} {f : Option Flt} (h : Canon s) : Canon (endPrefetch s p f) := by
  unfold endPrefetch
  extract_lets
  refine canon_leaveTable ?_
  split
  · exact canon_postRecord h
  · exact h

theorem canon_prefetchPage {p : Prefetch} (h : Canon s) : Canon (prefetchPage s p) := by
  unfold prefetchPage
  extract_lets
  split
  · exact canon_endPrefetch h
  · rename_i u _ _ e
    have h1 : Canon u := (canon_engRead h).of_eq e
    split
    · exact canon_endPrefetch h1
    · split
      · exact canon_endPrefetch h
      · rename_i e1
        split
        · exact canon_endPrefetch h
        · rename_i u2 e2
          have h3 : Canon u2 := (canon_writeRing ((canon_residentRange h1).of_eq e1)).of_eq e2
          exact h3

theorem canon_execXprefPage (h : Canon st) : IfNext Canon (execXprefPage eng st) := by
  unfold execXprefPage
  split
  · exact h
  · split
    · exact h
    · exact IfNext.ite (canon_endPrefetch h) (canon_prefetchPage h)

/-! #### Publication (R229, R230) -/

theorem canon_flipLeaf {q : Leaf × Nat} (h : Canon s) : Canon (flipLeaf s d q) := Canon.foldl (fun _ _ h1 => canon_homeAtomic h1) h

theorem canon_dropEverywhere (h : Canon s) : Canon (dropEverywhere s pa n) := (Canon.foldl (fun _ _ h1 => canon_recallLine h1) h)

theorem canon_publishLeaf {asid : BitVec 16} {q : Leaf × Nat} (h : Canon s) : Canon (publishLeaf s d asid q) :=
  canon_dropEverywhere (canon_dropPage (canon_flipLeaf h))

theorem canon_publFrom {d : Reg} {ls : List (Leaf × Nat)} (h : Canon st) : IfNext Canon (publFrom d va n ls st) :=
  IfNext.ite h (IfNext.ite h (IfNext.ite h (canon_advance (canon_writeReg (Canon.foldl (fun _ _ h1 => canon_publishLeaf h1) h)))))

theorem canon_execPubl {d : Reg} (h : Canon st) : IfNext Canon (execPubl d a b st) := by
  unfold execPubl
  extract_lets
  split
  · exact h
  · split
    · exact h
    · split
      · exact canon_publFrom h
      · split
        · exact h
        · exact canon_publFrom h

/-! #### Memory system, links and loss of a die (R180 to R193, R283 to R288) -/

theorem canon_execPcPowerDown {pc : BitVec 7} (h : Canon st) : IfNext Canon (execPcPowerDown die pc st) := Canon.ite h h

theorem canon_execPcSelfRefresh {pc : BitVec 7} (h : Canon st) : IfNext Canon (execPcSelfRefresh die pc st) := Canon.ite h h

theorem canon_execPcWake {pc : BitVec 7} (h : Canon st) : IfNext Canon (execPcWake die pc st) := Canon.ite h h

theorem canon_doWalk {w : Walk} (h : Canon s) : Canon (doWalk s d w) := by
  unfold doWalk
  extract_lets s1
  have h1 : Canon s1 := h
  clear_value s1
  split
  · exact h
  · split
    · exact h1
    · rename_i s2 _ e
      have h2 : Canon s2 := (canon_checkAccess h1).of_eq e
      exact h2

theorem canon_execPageWalk {va : BitVec 64} (h : Canon st) : IfNext Canon (execPageWalk core va write st) := by
  unfold execPageWalk
  extract_lets w listed
  generalize listed = found
  cases found with
  | none => exact IfNext.ite h h
  | some q => exact Canon.ite (canon_doWalk h) h

theorem canon_execDiagonalForward (h : Canon st) : IfNext Canon (execDiagonalForward die st) := by
  unfold execDiagonalForward
  split
  · exact h
  · exact canon_storeLine h

theorem canon_execDirtyLineWriteBack {pa : BitVec 52} {evict : Bool} (h : Canon st) :
    IfNext Canon (execDirtyLineWriteBack core pa evict st) :=
  Canon.ite (canon_l1Drop h) (canon_l1Clean h)

theorem canon_dropShared {l : Nat} (h : Canon s) : Canon (dropShared s l) := Canon.foldl (fun _ _ h1 => canon_l1Drop h1) h

theorem canon_hostOwn {a : Nat} (h : Canon s) : Canon (hostOwn s a write value) := by
  unfold hostOwn
  split
  · have dropped : Canon (dropShared s (lineOf a)) := canon_dropShared h
    exact ⟨memWrite_wf dropped.1 _ _, dropped.2⟩
  · exact ⟨h.1, h.2⟩

theorem canon_execHostAccess {pa : BitVec 52} (h : Canon st) : IfNext Canon (execHostAccess pa write value st) := by
  unfold execHostAccess
  extract_lets
  split
  · exact Canon.ite (canon_hostOwn h) h
  · split
    · exact h
    · extract_lets s1
      have hs1 : Canon s1 := canon_atHome h
      split
      · exact canon_homeWrite hs1
      · split
        · exact hs1
        · split
          · rename_i s2 _ e1
            have h1 : Canon s2 := (canon_homeRead hs1).fst_of_eq e1
            exact h1

theorem canon_execPeerAtomic {pa : BitVec 52} {narrow : Bool} {op : BitVec 3} (h : Canon st) :
    IfNext Canon (execPeerAtomic pa narrow op value st) := by
  unfold execPeerAtomic
  extract_lets
  split
  · exact h
  · extract_lets s1
    have hs1 : Canon s1 := canon_atHome h
    exact IfNext.ite hs1 ⟨memWrite_wf (canon_atHome hs1).1 _ _, (canon_atHome hs1).2⟩

theorem canon_loseToken {key : Nat} (h : Canon s) : Canon (loseToken s key i) := by
  unfold loseToken
  extract_lets
  split
  · exact canon_countAt h
  · split
    · exact h
    · exact Canon.ite (canon_countAt (canon_modChan h)) h

theorem canon_execEccError {place : ErrorPlace} {uncorrectable : Bool} (h : Canon st) :
    IfNext Canon (execEccError place uncorrectable st) := by
  unfold execEccError
  split
  · exact Canon.ite h (Canon.ite (canon_loseToken h) h)
  · split
    · exact h
    · exact Canon.ite h h

theorem canon_execDrowsy (h : Canon st) : IfNext Canon (execDrowsy site st) := IfNext.ite h h

theorem canon_execSiteGating (h : Canon st) : IfNext Canon (execSiteGating site st) := Canon.ite h h

theorem canon_execLinkResend {dst : DieId} (h : Canon st) : IfNext Canon (execLinkResend die dst st) := by
  unfold execLinkResend
  extract_lets
  split
  · exact h
  · exact IfNext.ite h h

theorem canon_execLinkWakeRetry {dst : DieId} (h : Canon st) : IfNext Canon (execLinkWakeRetry die dst st) :=
  IfNext.ite h (IfNext.ite h (IfNext.ite h (Canon.ite (Canon.foldl (fun _ _ h1 => h1) h) h)))

theorem canon_loseCore {k : CoreId} (h : Canon s) : Canon (loseCore s d k) := h

theorem canon_loseRegion (h : Canon s) : Canon (loseRegion d s pl) := Canon.ite h (Canon.ite (canon_freezeLost h) h)

theorem canon_execDieLost (h : Canon st) : IfNext Canon (execDieLost die st) := by
  unfold execDieLost
  split
  · exact h
  · extract_lets _ s2
    have hs2 : Canon s2 := Canon.foldl (fun _ _ h1 => canon_loseCore h1) h
    exact Canon.foldl (fun _ _ h1 => h1) (Canon.foldl (fun _ _ h1 => canon_loseRegion h1) hs2)

/-! #### The words of a site (R32, R33) -/

theorem canon_intStage {d : BitVec 2} {a b : Src} {sat uns : Bool} {f : ℤ → ℤ → ℤ} (h : Canon st) :
    IfNext Canon (intStage st d a b sat uns f) := canon_laneStage h
theorem canon_wordStage {d : BitVec 2} {a b : Src} {f : W32 → W32 → W32} (h : Canon st) :
    IfNext Canon (wordStage st d a b f) := canon_laneStage h
theorem canon_floatStage {d : BitVec 2} {a b : Src} {flush : Bool} {f : Num → Num → W32} (h : Canon st) :
    IfNext Canon (floatStage st d a b flush f) := by
  unfold floatStage
  exact canon_wordStage h
theorem canon_fireWord {i : Instr} (h : Canon st) : IfNext Canon (fireWord i st) := by
  unfold fireWord
  cases i with
  | viadd | visub | vimul | vimulh | vimin | vimax => exact canon_intStage h
  | vand | vor | vxor | vshl | vshr | vsha | vicmp | vhash | vfmin | vfmax | vfcmp | vfsign => exact canon_wordStage h
  | vfadd | vfsub | vfmul => exact canon_floatStage h
  | vimad | vsel | vclz | vpopc | vbfx | vfma | vfrcpe | vfrsqe | vfexp2 | vanc => exact canon_laneStage h
  | vaddc | vsubc | vmulc => exact canon_carryStage h
  | vfcvt | vpqz | vpmul => exact canon_convStage h
  | fork | filt | steer | cntl => exact canon_headStage h
  | spld | spst | spamo | spsync => exact canon_meAccept h
  | ltake | lgive => exact canon_lockNode h
  | vnop => exact canon_execVnop h
  | vred => exact canon_execVred h
  | merge => exact canon_execMerge h
  | pack => exact canon_execPack h
  | perm => exact canon_execPerm h
  | splat => exact canon_execSplat h
  | tagseq => exact canon_execTagseq h
  | ordr => exact canon_execOrdr h
  | gen => exact canon_execGen h
  | stat => exact canon_execStat h
  | topk => exact canon_execTopk h
  | spfifo => exact canon_execSpfifo h
  | mload => exact canon_execMload h
  | mswap => exact canon_execMswap h
  | mrow => exact canon_execMrow h
  | mdrain => exact canon_execMdrain h
  | mclr => exact canon_execMclr h
  | ecount => exact canon_execEcount h
  | barn => exact canon_execBarn h
  | _ => exact h

theorem canon_fireAt {k : Nat} {role : Bool} (h : Canon st) : IfNext Canon (fireAt st x k role) := by
  unfold fireAt
  split
  · exact h
  · split
    · exact h
    · exact canon_fireWord h

theorem canon_fireRoles (h : Canon st) : IfNext Canon (fireRoles st x xs) := by
  induction xs with
  | nil => exact h
  | cons r rs ih =>
    rw [fireRoles]
    split
    · rename_i s1 e
      have h1 : Canon s1 := (canon_fireAt h).of_eq e
      exact IfNext.ite ih h1
    · exact canon_fireAt h

theorem canon_execFirstStageFiring (h : Canon st) : IfNext Canon (execFirstStageFiring site st) :=
  IfNext.ite h (IfNext.ite (canon_fireRoles h) (canon_fireAt h))

theorem canon_execStageFiring {stage : BitVec 3} (h : Canon st) : IfNext Canon (execStageFiring site stage st) :=
  IfNext.ite h (canon_fireAt h)

theorem canon_tileMarker (h : Canon st) : Canon (tileMarker st x cx) :=
  Canon.ite h (canon_noteMove (canon_emitAll (Canon.foldl (fun _ _ h1 => canon_consumeTok h1) h)))

theorem canon_execDrainMarkerPass (h : Canon st) : IfNext Canon (execDrainMarkerPass site st) := by
  unfold execDrainMarkerPass
  split
  · exact h
  · exact IfNext.ite h (IfNext.ite (canon_tileMarker h) (canon_fireAt h))

/-! #### Loads and stores (R452, R504) -/

theorem canon_loadAt {d : Reg} {va : Word} {zero : Bool} (h : Canon st) : IfNext Canon (loadAt d va n zero st) := by
  unfold loadAt
  split <;> exact IfNext.ite h (canon_seqLoad h (fun _ h1 _ => h1))

theorem canon_storeAt {va : Word} (h : Canon st) : IfNext Canon (storeAt va n v st) := by
  unfold storeAt
  split
  · extract_lets
    split
    exact IfNext.ite h (canon_seqStore h (fun _ h1 => h1))
  · exact IfNext.ite h (canon_seqStore h (fun _ h1 => h1))

theorem canon_prefetchTarget {va : Word} (h : Canon st) : IfSome (Canon ·.1) (prefetchTarget st va) := by
  unfold prefetchTarget
  split
  · exact trivial
  · split
    · rename_i s1 _ e
      have h1 : Canon s1 := (canon_checkAccess h).of_eq e
      exact IfSome.ite trivial h1
    · exact trivial

theorem canon_execPref {o : BitVec 8} {z : BitVec 2} (h : Canon st) : IfNext Canon (execPref a o z st) := by
  unfold execPref
  split
  · exact h
  · rename_i e
    exact IfNext.ite (canon_holdRequest h) (canon_advance (canon_l1Fill ((canon_prefetchTarget h).of_eq e)))

/-! #### Power, reset and boot (R289, R353 to R363) -/

theorem canon_execUnmet (h : Canon st) : IfNext Canon (execUnmet st) := by
  unfold execUnmet
  split
  · exact h
  · exact Canon.ite h h

theorem canon_parkDie (h : Canon s) : Canon (parkDie s d) := ⟨filter_wf _ h.1, h.2⟩

theorem canon_takeHeld (h : Canon s) : Canon (takeHeld s d) := by
  unfold takeHeld
  extract_lets
  split
  · exact h
  · exact canon_targetPut h

theorem canon_endTransition (h : Canon s) : Canon (endTransition s d) := canon_takeHeld (Canon.ite (canon_parkDie h) h)

theorem canon_execPsTransitionDone (h : Canon st) : IfNext Canon (execPsTransitionDone die st) := Canon.ite (canon_endTransition h) h

theorem canon_execPark (h : Canon st) : IfNext Canon (execPark die st) :=
  Canon.ite (Canon.ite (canon_endTransition h) h) (canon_targetPut h)

theorem canon_execUnpark (h : Canon st) : IfNext Canon (execUnpark die st) := IfNext.ite h (Canon.ite (canon_takeHeld h) h)

theorem canon_putImage {img : List Byte} (h : Canon s) : Canon (putImage s img d) := ⟨memWrite_wf h.1 _ _, h.2⟩

theorem canon_startDie {img : List Byte} (h : Canon s) : Canon (startDie s img d) := Canon.foldl (fun _ _ h1 => h1) h

theorem canon_modBoot {f : Boot → Boot} (h : Canon s) : Canon (modBoot s f) := h

theorem canon_bootLoad (h : Canon s) : Canon (bootLoad s) := by
  unfold bootLoad
  extract_lets _ _ _ _ s1
  have hs1 : Canon s1 := canon_modBoot (canon_putImage h)
  exact Canon.ite h (Canon.ite (canon_startDie hs1) hs1)

theorem canon_execFollowerVerify (h : Canon st) : IfNext Canon (execFollowerVerify die st) :=
  IfNext.ite h (IfNext.ite (Canon.ite (canon_startDie h) h) (IfNext.ite (canon_startDie (canon_putImage h)) h))

theorem canon_flushAll (h : Canon s) : Canon (flushAll s) := Canon.foldl (fun _ _ h1 => canon_storeLine h1) h

theorem canon_clearWarm (h : Canon s0) : Canon (clearWarm s0) := ⟨(canon_flushAll h).1, rfl⟩

theorem canon_warmStart (h : Canon s) : Canon (warmStart s) := Canon.ite (canon_startDie h) h

theorem canon_warmReset (h : Canon s) : Canon (warmReset s) := canon_warmStart (canon_clearWarm h)

theorem canon_coldReset (h : Canon s) : Canon (coldReset s) := ⟨filter_wf _ h.1, rfl⟩

theorem canon_bootCmd {c : BitVec 2} (h : Canon s) : Canon (bootCmd s c) :=
  Canon.ite (Canon.ite h (canon_bootLoad h)) (Canon.ite (canon_warmReset h) (Canon.ite (canon_coldReset h) h))

theorem canon_mailPut {o : Nat} {mask : Word} (h : Canon s) : Canon (mailPut s o v mask) :=
  Canon.ite h (Canon.ite h (Canon.ite (canon_bootCmd h) h))

theorem canon_execSpdmRequest {ask : SpdmAsk} (h : Canon st) : IfNext Canon (execSpdmRequest die ask st) := by
  unfold execSpdmRequest
  split
  · exact h
  · split
    · exact h
    · split
      · exact h
      · exact h

theorem canon_barWrite {a v : Nat} (h : Canon s) : Canon (barWrite s d a n v) :=
  Canon.ite (canon_mailPut h) (Canon.ite (canon_devWrite h) h)

theorem canon_execRegisterWrite {access : RegisterAccess} (h : Canon st) : IfNext Canon (execRegisterWrite access value st) := by
  unfold execRegisterWrite
  extract_lets
  split
  · exact IfNext.ite h (IfNext.ite (canon_devWrite h) h)
  · exact IfNext.ite h (IfNext.ite (canon_barWrite h) h)

/-! #### What a turn does before its word (R79, R85) -/

theorem canon_chargeTurn (h : Canon s) : Canon (chargeTurn s) := canon_charge h

theorem canon_nextWord (h : Canon s) : IfOk (Canon ·.1) (nextWord s) := by
  unfold nextWord
  split
  · exact canon_fetchWord h
  · split
    · exact h
    · exact (canon_fetchWord h).map fun ⟨u, _⟩ h1 => h1

theorem canon_idleTurn (h : Canon s) : Canon (idleTurn s) := Canon.ite h h

end Keep/-! ### Instructions -/

section Exec
variable {s : State}

/-- Every instruction, and every step of the hardware, keeps the state canonical. -/
theorem canon_exec {i : Instr} (h : Canon s) : IfNext Canon (exec i s) := by
  by_cases word : fireWord i s = exec i s
  · exact word ▸ canon_fireWord h
  · cases i with
    | vnop | viadd | visub | vimul | vimulh | vimad | vand | vor | vxor | vshl | vshr | vsha | vimin | vimax | vicmp | vsel
    | vaddc | vsubc | vmulc | vhash | vclz | vpopc | vbfx | vfadd | vfsub | vfmul | vfma | vfmin | vfmax | vfcmp | vfsign
    | vfcvt | vfrcpe | vfrsqe | vfexp2 | vpqz | vpmul | vred | fork | filt | steer | merge | pack | perm | splat | tagseq
    | ordr | gen | cntl | stat | topk | spld | spst | spamo | spfifo | ltake | lgive | spsync | mload | mswap | mrow
    | mdrain | mclr | vanc | ecount | barn => exact absurd rfl word
    | nop | add | sub | mul | mulh | div | rem | and | or | xor | shl | shr | sha | min | max | slt | seq | sel | clz | popc
    | ext | bfx | bfi | lea | hash | widx | addi | andi | ori | xori | shli | shri | shai | slti | lil | lis | br | call
    | fadd | fsub | fmul | fma | fmin | fmax | fcmp | fcvt | ttmask | ttpos | trap | brk | trapEntry | backInvalidate
    | overrunClear | markerClear | drowsyWake | errorCounterClear | stretchInterval | unmetClear | refusedClear
    | linkWakeComplete => exact h
    | ld | ldn | ldx => exact canon_loadAt h
    | st | stx => exact canon_storeAt h
    | amo | amow => exact canon_amoAt h
    | cas | casw => exact canon_casAt h
    | beq | bne | blt | bge | bltn | bgen | loop => exact canon_branchIf h
    | popq => exact canon_popEntry h
    | xcopyCopy | xcopyFill => exact canon_copyWord h
    | xgatherPort | xgatherMem => exact canon_gatherWord h
    | xscatterWrite | xscatterAdd | xrowupd => exact canon_rowWord h
    | xlogAppend | xlogTrim | xlogStatus => exact canon_logWord h
    | xreduceSum | xreduceMax | xreduceMin | xreduceGather => exact canon_reduceWord h
    | xprefBound | xprefUnbound => exact canon_prefWord h
    | swp | swm | swb => exact canon_switchWord h
    | slotFreed => exact canon_modChan h
    | slotMapUpdate => exact canon_loadSlotMap h
    | ownershipRecall => exact canon_recallLine h
    | statAdderSend => exact canon_statAdderSend h
    | statRootUpdate => exact canon_statRootUpdate h
    | warmReset => exact canon_warmReset h
    | coldReset => exact canon_coldReset h
    | pwrCeilWrite => exact canon_ceilPut h
    | psTargetWrite => exact canon_targetPut h
    | bootLoad | bootWarmResetCmd | bootColdResetCmd => exact canon_bootCmd h
    | engineCommandComplete => exact (canon_engineTurn h).getD h
    | pref => exact canon_execPref h
    | swait => exact canon_execSwait h
    | sarm => exact canon_execSarm h
    | fence => exact canon_execFence h
    | barr => exact canon_execBarr h
    | publ => exact canon_execPubl h
    | rcsnap => exact canon_execRcsnap h
    | jr => exact canon_execJr h
    | rep => exact canon_execRep h
    | endFiring => exact canon_execEndFiring h
    | endDone => exact canon_execEndDone h
    | endKill => exact canon_execEndKill h
    | yield => exact canon_execYield h
    | spawn => exact canon_execSpawn h
    | pushq => exact canon_execPushq h
    | notify => exact canon_execNotify h
    | cfld => exact canon_execCfld h
    | cfsw => exact canon_execCfsw h
    | cfwv => exact canon_execCfwv h
    | drain => exact canon_execDrain h
    | qwait => exact canon_execQwait h
    | inj => exact canon_execInj h
    | draw => exact canon_execDraw h
    | selvAssign => exact canon_execSelvAssign h
    | selvOpen => exact canon_execSelvOpen h
    | selvClose => exact canon_execSelvClose h
    | curd => exact canon_execCurd h
    | xmigrate => exact canon_execXmigrate h
    | xstream => exact canon_execXstream h
    | xkvappAppend => exact canon_execXkvappAppend h
    | xkvappEvict => exact canon_execXkvappEvict h
    | xkvappFree => exact canon_execXkvappFree h
    | xkvsend => exact canon_execXkvsend h
    | ttpar => exact canon_execTtpar h
    | ttclr => exact canon_execTtclr h
    | ttprune => exact canon_execTtprune h
    | eret => exact canon_execEret h
    | gets => exact canon_execGets h
    | puts => exact canon_execPuts h
    | tlbiAll => exact canon_execTlbiAll h
    | tlbiAsid => exact canon_execTlbiAsid h
    | tlbiPage => exact canon_execTlbiPage h
    | idle => exact canon_execIdle h
    | swg => exact canon_execSwg h
    | firstStageFiring => exact canon_execFirstStageFiring h
    | stageFiring => exact canon_execStageFiring h
    | tokenTransfer => exact canon_execTokenTransfer h
    | creditTaken => exact canon_execCreditTaken h
    | ordrInternalFiring => exact canon_execOrdrInternalFiring h
    | packTimeout => exact canon_execPackTimeout h
    | topkEmit => exact canon_execTopkEmit h
    | quietReport => exact canon_execQuietReport h
    | entryPortClose => exact canon_execEntryPortClose h
    | regionCompletion => exact canon_execRegionCompletion h
    | deadlockDetected => exact canon_execDeadlockDetected h
    | contextSwitch => exact canon_execContextSwitch h
    | blockSchedulerChoice => exact canon_execBlockSchedulerChoice h
    | quantumExpiry => exact canon_execQuantumExpiry h
    | wavefrontInject => exact canon_execWavefrontInject h
    | wavefrontSiteSwitch => exact canon_execWavefrontSiteSwitch h
    | selvageDrop => exact canon_execSelvageDrop h
    | slotMapTakeEffect => exact canon_execSlotMapTakeEffect h
    | boundaryTrackTransfer => exact canon_execBoundaryTrackTransfer h
    | nodeFault => exact canon_execNodeFault h
    | nodeRaise => exact canon_execNodeRaise h
    | asyncCauseTaken => exact canon_execAsyncCauseTaken h
    | budgetExpiry => exact canon_execBudgetExpiry h
    | sliceSchedulerChoice => exact canon_execSliceSchedulerChoice h
    | slicePlacement => exact canon_execSlicePlacement h
    | sliceAdmission => exact canon_execSliceAdmission h
    | release => exact canon_execRelease h
    | pendingRetry => exact canon_execPendingRetry h
    | sliceRetirement => exact canon_execSliceRetirement h
    | forwardNotice => exact canon_execForwardNotice h
    | supervisorTrapDelivery => exact canon_execSupervisorTrapDelivery h
    | deferredRecord => exact canon_execDeferredRecord h
    | meTokenAccept => exact canon_execMeTokenAccept h
    | bankGrant => exact canon_execBankGrant h
    | meResponse => exact canon_execMeResponse h
    | lockTimeout => exact canon_execLockTimeout h
    | syncArrival => exact canon_execSyncArrival h
    | streamBundleDelivery => exact canon_execStreamBundleDelivery h
    | streamWrite => exact canon_execStreamWrite h
    | scoreAddLane => exact canon_execScoreAddLane h
    | streamDeferredFault => exact canon_execStreamDeferredFault h
    | pcPowerDown => exact canon_execPcPowerDown h
    | pcSelfRefresh => exact canon_execPcSelfRefresh h
    | pcWake => exact canon_execPcWake h
    | pageWalk => exact canon_execPageWalk h
    | hostAccess => exact canon_execHostAccess h
    | peerAtomic => exact canon_execPeerAtomic h
    | diagonalForward => exact canon_execDiagonalForward h
    | docentPush => exact canon_execDocentPush h
    | cohortSwapOut => exact canon_execCohortSwapOut h
    | cohortSwapIn => exact canon_execCohortSwapIn h
    | doorbell => exact canon_execDoorbell h
    | preemptMark => exact canon_execPreemptMark h
    | layerBoundaryDrain => exact canon_execLayerBoundaryDrain h
    | drainMarkerPass => exact canon_execDrainMarkerPass h
    | drainSave => exact canon_execDrainSave h
    | freezeSave => exact canon_execFreezeSave h
    | regionRestore => exact canon_execRegionRestore h
    | planeReady => exact canon_execPlaneReady h
    | mloadColumnFault => exact canon_execMloadColumnFault h
    | autoDrain => exact canon_execAutoDrain h
    | accumulatorRefresh => exact canon_execAccumulatorRefresh h
    | statTokenSend => exact canon_execStatTokenSend h
    | xprefPage => exact canon_execXprefPage h
    | rowLockGrant => exact canon_execRowLockGrant h
    | migrationForward => exact canon_execMigrationForward h
    | completionWord => exact canon_execCompletionWord h
    | engineReply => exact canon_execEngineReply h
    | drowsy => exact canon_execDrowsy h
    | eccError => exact canon_execEccError h
    | linkResend => exact canon_execLinkResend h
    | linkWakeRetry => exact canon_execLinkWakeRetry h
    | dieLost => exact canon_execDieLost h
    | unmet => exact canon_execUnmet h
    | psTransitionDone => exact canon_execPsTransitionDone h
    | park => exact canon_execPark h
    | unpark => exact canon_execUnpark h
    | followerVerify => exact canon_execFollowerVerify h
    | spdmRequest => exact canon_execSpdmRequest h
    | registerWrite => exact canon_execRegisterWrite h
    | drainStep => exact canon_execDrainStep h
    | siteGating => exact canon_execSiteGating h
    | dirtyLineWriteBack => exact canon_execDirtyLineWriteBack h
end Exec/-! ### Turns -/

section Turns
variable {s : State}

theorem canon_runWord (h : Canon s) : IfNext Canon (runWord s) := by
  unfold runWord
  dsimp only
  refine .ite (canon_joinWalk h) ?_
  split
  · exact h
  next s1 w he =>
    have next : Canon s1 := (canon_nextWord h).of_eq he
    split
    · exact next
    · exact canon_exec next

theorem canon_runTurn (h : Canon s) : IfNext Canon (runTurn s) := by
  unfold runTurn
  have charged : Canon (charge s 0) := canon_charge h
  revert charged
  generalize charge s 0 = u
  intro charged
  dsimp only
  refine .ite (canon_chargeTurn charged) ?_
  split
  · exact canon_takeMember charged
  · split
    next s1 he => exact (canon_boundaryTrap charged).of_eq he
    · exact .ite (canon_idleTurn (canon_chargeTurn charged)) (canon_runWord (canon_chargeTurn charged))

theorem canon_seqTurn {k : CoreId} (h : Canon s) : IfNext Canon (seqTurn k s) :=
  IfNext.ite h (IfNext.ite (canon_runTurn h) (canon_execSliceSchedulerChoice (show Canon (onCore s k) from h)))

theorem canon_stageTurn {x : SiteId} {k : BitVec 3} (h : Canon s) : IfNext Canon (stageTurn x k s) := by
  unfold stageTurn
  split
  · exact h
  next i _ => exact canon_exec (i := i) ⟨h.1, h.2⟩

theorem canon_switchTurn {x : SiteId} {slot : BitVec 5} (h : Canon s) : IfNext Canon (switchTurn x slot s) := by
  unfold switchTurn
  split
  · exact h
  next i _ => exact canon_exec (i := i) ⟨h.1, h.2⟩

theorem canon_perform {m : Turn} (h : Canon s) : IfNext Canon (perform m s) := by
  cases m with
  | seq k => exact canon_seqTurn h
  | stage x k => exact canon_stageTurn h
  | switch x slot => exact canon_switchTurn h
  | event i => exact canon_exec h

end Turns
/-! ### The turns the free choice may pick -/

/-- The move keeps the state canonical. -/
def Keeps (m : Move) : Prop := ∀ u, Canon u → IfNext Canon (m u)

/-- Every move of the list keeps the state canonical. -/
def AllKeep (ms : List Move) : Prop := ∀ m ∈ ms, Keeps m

namespace AllKeep
variable {m : Move} {ms ns : List Move} {α : Type}

theorem nil : AllKeep [] := List.forall_mem_nil _

theorem one (h : Keeps m) : AllKeep [m] := List.forall_mem_singleton.2 h

theorem append (h : AllKeep ms) (g : AllKeep ns) : AllKeep (ms ++ ns) := List.forall_mem_append.2 ⟨h, g⟩

theorem ite {p : Prop} [Decidable p] (h : AllKeep ms) (g : AllKeep ns) : AllKeep (if p then ms else ns) := by
  split
  · exact h
  · exact g

theorem map {f : α → Move} (l : List α) (h : ∀ a, Keeps (f a)) : AllKeep (l.map f) := by
  intro m hm
  obtain ⟨a, _, rfl⟩ := List.mem_map.1 hm
  exact h a

theorem filterMap {f : α → Option Move} (l : List α) (h : ∀ a, IfSome Keeps (f a)) : AllKeep (l.filterMap f) := by
  intro m hm
  obtain ⟨a, _, found⟩ := List.mem_filterMap.1 hm
  exact (h a).of_eq found

theorem flatMap {f : α → List Move} (l : List α) (h : ∀ a, AllKeep (f a)) : AllKeep (l.flatMap f) := by
  intro m hm
  obtain ⟨a, _, found⟩ := List.mem_flatMap.1 hm
  exact h a m found

/-- Moves that are steps of the hardware, each as exec makes it. -/
theorem exec (is : List Instr) : AllKeep (is.map exec) := .map is fun _ _ h => canon_exec h

end AllKeep

section Turns
variable {s : State} {x : SiteId} {d : DieId} {pl : Placement}

theorem keeps_seqTurn {k : CoreId} : Keeps (seqTurn k) := fun _ h => canon_seqTurn h

theorem keeps_switchTurn {slot : BitVec 5} : Keeps (switchTurn x slot) := fun _ h => canon_switchTurn h

theorem keeps_tokenTransfer {p : BitVec 4} {t : BitVec 3} : Keeps (execTokenTransfer x p t) := fun _ h => canon_execTokenTransfer h

theorem allKeep_coreTurns : AllKeep (coreTurns s) :=
  .flatMap _ fun k => .append (.ite (.one keeps_seqTurn) .nil) (.ite (.exec [.engineReply k]) .nil)

theorem allKeep_peSteps : AllKeep (peSteps x) :=
  .exec [.stageFiring x 2, .stageFiring x 3, .stageFiring x 4, .stageFiring x 5, .stageFiring x 6, .creditTaken x, .ordrInternalFiring x,
    .packTimeout x, .topkEmit x, .statTokenSend x, .statAdderSend x, .statRootUpdate x]

theorem allKeep_meSteps : AllKeep (meSteps x) := by
  have banks : AllKeep ((List.range 16).map fun b => execBankGrant x (BitVec.ofNat 4 b)) := .map _ fun _ _ h => canon_execBankGrant h
  apply (AllKeep.exec [.meTokenAccept x, .meResponse x, .lockTimeout x, .statTokenSend x]).append banks

theorem allKeep_tileSteps : AllKeep (tileSteps x) :=
  .exec [.planeReady x, .mloadColumnFault x, .autoDrain x, .drainStep x, .accumulatorRefresh x, .statTokenSend x]

theorem allKeep_siteTurns : AllKeep (siteTurns x) := by
  refine .append (.append (.exec [.firstStageFiring x, .drainMarkerPass x, .wavefrontSiteSwitch x, .drowsy x, .siteGating x]) ?_)
    (.map _ fun _ => keeps_switchTurn)
  split
  · exact allKeep_peSteps
  · exact allKeep_meSteps
  · exact allKeep_tileSteps

theorem allKeep_fabricTurns : AllKeep (fabricTurns s) := .flatMap _ fun _ => .ite allKeep_siteTurns .nil

theorem allKeep_chanTurns : AllKeep (chanTurns s) := by
  refine .flatMap _ fun e => .append (.ite .nil (.exec [.slotFreed _ _ _])) ?_
  split
  · exact .nil
  · exact .exec [.tokenTransfer _ _ _, .boundaryTrackTransfer _ _ _, .selvageDrop _ _ _]

theorem allKeep_placementSteps : AllKeep (placementSteps s pl) :=
  .append (.append (.append
    (.exec [.quietReport pl.origin, .regionCompletion pl.origin, .deadlockDetected pl.origin, .contextSwitch pl.origin pl.ctx,
      .blockSchedulerChoice pl.origin, .quantumExpiry pl.origin, .layerBoundaryDrain pl.origin, .drainSave pl.origin,
      .freezeSave pl.origin, .nodeRaise pl.origin])
    (.flatMap _ fun i => .exec [.entryPortClose pl.origin i, .wavefrontInject pl.origin i]))
    (.map _ fun _ _ h => canon_execPreemptMark h))
    (.filterMap _ fun q => by
      cases (portTracks q).head? with
      | none => exact trivial
      | some xt => exact keeps_tokenTransfer)

theorem allKeep_regionTurns : AllKeep (regionTurns s) := .flatMap _ fun _ => allKeep_placementSteps

theorem allKeep_sliceTurns : AllKeep (sliceTurns s) := by
  refine .flatMap _ fun l => ?_
  cases l.state with
  | created => exact .exec [.slicePlacement l.id]
  | resident => exact .exec [.forwardNotice l.id, .regionRestore l.id]
  | retiring => exact .exec [.sliceRetirement l.id]
  | _ => exact .nil

theorem allKeep_docentSteps : AllKeep (docentSteps s d) :=
  .append (.ite .nil (.exec [.pendingRetry d])) (.ite (.exec [.cohortSwapOut d, .cohortSwapIn d]) .nil)

theorem allKeep_dieSteps : AllKeep (dieSteps s d) :=
  .append (.append (.append (.exec [.sliceAdmission d]) (.ite (.exec [.slotMapTakeEffect d]) .nil))
    (.filterMap _ fun e => by
      cases e.2.todo.head? with
      | none => exact trivial
      | some v => exact fun _ h => canon_execDoorbell h))
    (.map _ fun _ _ h => canon_execPageWalk h)

theorem allKeep_channelSteps {p : Nat} : AllKeep (channelSteps s d p) :=
  .append (.ite (.ite (.exec [.pcPowerDown d _]) .nil) (.exec [.pcWake d _])) (.ite (.exec [.pcSelfRefresh d _]) .nil)

theorem allKeep_edgeSteps : AllKeep (edgeSteps s d) := by
  refine .ite .nil (.append (.append (.append (.append (.append ?_ ?_) ?_) ?_) ?_) ?_)
  · exact .ite .nil (.exec [.docentPush d])
  · exact .ite .nil (.exec [.diagonalForward d])
  · exact .ite (.exec [.followerVerify d]) .nil
  · exact .flatMap _ fun e => .append (.ite (.exec [.linkWakeRetry d _, .linkWakeComplete d _]) .nil) (.ite (.exec [.linkResend d _]) .nil)
  · exact .flatMap _ fun _ => allKeep_channelSteps
  · exact .ite (.exec [.dieLost d]) .nil

theorem allKeep_powerSteps : AllKeep (powerSteps s d) :=
  .ite (.append (.exec [.psTransitionDone d, .unpark d]) (.ite (.exec [.park d]) .nil)) .nil

theorem allKeep_engineSteps {e : EngineId} : AllKeep (engineSteps e) :=
  .exec [.streamBundleDelivery e, .streamWrite e, .scoreAddLane e, .streamDeferredFault e, .engineCommandComplete e, .completionWord e,
    .rowLockGrant e, .migrationForward e, .markerClear e, .deferredRecord e, .xprefPage e]

theorem allKeep_cacheTurns : AllKeep (cacheTurns s) :=
  .flatMap _ fun _ => .map _ fun _ _ h => canon_execDirtyLineWriteBack h

theorem allKeep_turns : AllKeep (turns s) := by
  have units : AllKeep (coreTurns s ++ fabricTurns s ++ chanTurns s ++ regionTurns s ++ sliceTurns s) :=
    (((allKeep_coreTurns.append allKeep_fabricTurns).append allKeep_chanTurns).append allKeep_regionTurns).append allKeep_sliceTurns
  refine .append (.append (.append (.append (.append (.append (.append (.append units ?_) ?_) ?_) ?_) ?_) ?_) ?_) ?_
  · exact .flatMap _ fun _ => allKeep_dieSteps
  · exact .flatMap _ fun _ => allKeep_docentSteps
  · exact .flatMap _ fun _ => allKeep_edgeSteps
  · exact .flatMap _ fun _ => allKeep_powerSteps
  · exact .flatMap _ fun _ => .ite .nil allKeep_engineSteps
  · exact .ite .nil (.exec [.syncArrival])
  · exact .ite (.exec [.unmet]) .nil
  · exact allKeep_cacheTurns

theorem keeps_chosenTurn : IfSome Keeps (chosenTurn s) := by
  unfold chosenTurn
  have all := allKeep_turns (s := s)
  revert all
  generalize turns s = ms
  intro all
  cases ms with
  | nil => exact trivial
  | cons m rest =>
    refine IfSome.getD (P := Keeps) ?_ (all m (List.mem_cons_self ..))
    cases found : (m :: rest)[Config.pick s.draws % (m :: rest).length]? with
    | none => exact trivial
    | some m' => exact all m' (List.mem_of_getElem? found)

end Turns

/-! ### A step -/

section Step
variable {s : State} {o : Out}

/-- No access of the turn must wait, and the state is canonical. -/
def Settled (s : State) : Prop := Canon s ∧ s.stall = false

theorem Settled.invariant (h : Settled s) : Invariant s := ⟨h.1.1, h.1.2, h.2⟩

theorem settled_of_invariant (h : Invariant s) : Settled s := ⟨⟨h.mem, h.chans⟩, h.whole⟩

theorem putAsk_stall {q : Ask} : (putAsk s q).stall = s.stall := by
  cases q with
  | walk d w => rfl
  | link a b c dst => rfl

theorem putAsks_stall {l : List Ask} : (putAsks s l).stall = s.stall := by
  unfold putAsks
  induction l generalizing s with
  | nil => rfl
  | cons q l ih => rw [List.foldl_cons, ih, putAsk_stall]

theorem settled_putAsks {l : List Ask} (h : Settled s) : Settled (putAsks s l) := ⟨canon_putAsks h.1, putAsks_stall.trans h.2⟩

/-- The next state the turn gives is settled. -/
def Settles (o : Out) : Prop := ∀ t, o = .next t → Settled t

/-- A turn whose access must wait leaves the state before it, which was whole. -/
theorem settles_orWait {wait : State → Out} (h : IfNext Canon o) (before : Settled s) (hw : ∀ u, Settled u → Settles (wait u)) :
    Settles (orWait o s wait) := by
  intro t he
  cases o with
  | next u =>
    rw [orWait] at he
    split at he
    · exact hw _ (settled_putAsks before) t he
    next whole =>
      obtain rfl := Host.Outcome.next.inj he
      exact ⟨h, by simpa using whole⟩
  | fault r => nomatch he
  | refused r => nomatch he

theorem settles_next (h : Settled s) : Settles (.next s) := fun _ he => Host.Outcome.next.inj he ▸ h

theorem settles_freeTurn (h : Settled s) : Settles (freeTurn s) := by
  have drawn : Settled { s with draws := s.draws + 1 } := ⟨⟨h.1.1, h.1.2⟩, h.2⟩
  unfold freeTurn
  dsimp only
  split
  · exact settles_next drawn
  next m chosen => exact settles_orWait (keeps_chosenTurn.of_eq chosen _ drawn.1) drawn fun _ => settles_next

theorem settled_cyclesPass {d : DieId} (h : Settled s) : Settled (cyclesPass s d) := by
  rw [cyclesPass]
  split <;> exact h

theorem settled_heartBeat {d : DieId} (h : Settled s) : Settled (heartBeat s d) := by
  rw [heartBeat]
  split <;> exact h

/-- The docents bring nothing to an image whose lines must wait. -/
theorem settled_docentWakes (h : Settled s) : Settled (docentWakes s) := by
  unfold docentWakes
  refine List.foldlRecOn _ _ h fun u g l _ => ?_
  split
  · exact g
  next whole => exact ⟨canon_wakeImage g.1, by simpa using whole⟩

theorem settled_cycles {ds : List DieId} (h : Settled s) : Settled (ds.foldl cyclesPass s) :=
  List.foldlRecOn _ _ h fun _ g _ _ => settled_cyclesPass g

theorem settled_beats {ds : List DieId} (h : Settled s) : Settled (ds.foldl heartBeat s) :=
  List.foldlRecOn _ _ h fun _ g _ _ => settled_heartBeat g

theorem settled_passTime (h : Settled s) : Settled (passTime s) := ⟨canon_passTime h.1, h.2⟩

theorem settled_countsPass (h : Settled s) : Settled (countsPass s) := ⟨canon_countsPass h.1, h.2⟩

theorem settled_timePasses (h : Settled s) : Settled (timePasses s) :=
  settled_docentWakes (settled_countsPass (settled_beats (settled_passTime (settled_cycles h))))

theorem settles_thenNext {f : State → State} (h : Settles o) (hf : ∀ u, Settled u → Settled (f u)) :
    Settles (Outcome.thenNext o f) := by
  intro t he
  cases o with
  | next u =>
    obtain rfl := Host.Outcome.next.inj he
    exact hf u (h u rfl)
  | fault r => nomatch he
  | refused r => nomatch he

theorem settles_step (h : Settled s) : Settles (step s) := by
  unfold step
  refine settles_thenNext ?_ fun _ => settled_timePasses
  split
  next m rest _ => exact settles_orWait (canon_perform ⟨h.1.1, h.1.2⟩) h fun _ => settles_freeTurn
  · exact settles_freeTurn h

end Step

/-- Settles O59: every turn keeps memory and tracks canonical, one that must wait is given up for the state before it, and the time
that passes makes no access that waits. -/
theorem everyStepKeepsTheInvariant : Obligations.EveryStepKeepsTheInvariant :=
  fun _ t before stepped => (settles_step (settled_of_invariant before) t stepped).invariant

end Sys2Proof.Machine
